-- ==== Sys2Proof/Word.lean ====
section
/-! DEFINITION. The words of the device: bytes, 32-bit register words, 128-bit step-program instructions
(04 R61, 06 "Encodings"). -/

namespace Sys2Proof

/-- One byte of any memory of the device. -/
abbrev Byte := BitVec 8

/-- A control-space register, a bank word, a vector lane or a scalar register (01 R15, 04 R61, 06 R98). -/
abbrev Word := BitVec 32

/-- A step-program instruction: 128 bits, bits [7:0] the opcode (06 "Encodings"). -/
abbrev IWord := BitVec 128

end Sys2Proof
end

