-- ==== Sys2Proof/Syntax.lean ====
section
/-! DEFINITION. The commands of the block: one constructor per row of spec/opcode_table.json.
A row for a descriptor command names an operation in flight by the number DESCRIPTOR_FETCH gave it (02 R36; log entry 16).
A row for a step-program instruction names the logical spindle and the 128-bit word (06 "Encodings").
A row for an event carries what the event brings from outside the device. -/

namespace Sys2Proof

/-- Who reads or writes the control space (20 R395). -/
inductive Requester where
  | port (p : Fin 4)
  | core (c : Fin 6)
  | sideband
  deriving DecidableEq, Repr

/-- The two treadle references and their epochs (09 "Inputs"). -/
inductive TreadleInput where
  | A
  | B
  deriving DecidableEq, Repr

/-- How a partner answers a recall or an invalidation of a window line (02 "Coherence", R21). -/
inductive RecallAnswer where
  | writeBack (data : List Byte)   -- an M line: written back, kept in S
  | keepS                          -- a clean line kept in S
  | drop                           -- the copy is dropped
  deriving DecidableEq, Repr

/-- A beat marker with its TXSTAMP (09 R167, 11 R207). -/
structure Marker where
  beat : Nat
  anchor : Nat
  sender : Nat
  hops : Nat
  txSub : Nat
  txPhase : Nat
  deriving DecidableEq, Repr

/-- A vote record (10 "Votes and holds"). -/
structure Vote where
  step : Nat
  decide : Nat
  member : Nat
  cause : Nat
  isEnd : Bool
  notice : Bool
  status : Nat
  shape : Nat
  sslot : Nat
  noticeAt : Nat
  deriving DecidableEq, Repr

/-- The slot header of a scheduled transfer (11 "Scheduled transfers on the wire"). -/
structure SlotHeader where
  step : Nat
  ord : Nat
  kind : Nat
  rgroup : Nat
  bytes : Nat
  deriving DecidableEq, Repr

/-- A 256-byte flit: the link header word, the 240 payload bytes, the CRC word (11 "Flits"). -/
structure Flit where
  hdr : BitVec 64
  payload : List Byte
  crc : BitVec 64
  deriving DecidableEq, Repr

/-- A packet: the fields of the 32-byte packet header and the data bytes (11 "Packets"). `len` is LEN: the data bytes, and in a read request the bytes
asked for (log entry 22). -/
structure Packet where
  dst : Nat
  src : Nat
  sslice : Nat
  op : Nat
  route : Nat
  epoch : Nat
  sync : Bool
  last : Bool
  fseq : Nat
  ep : Nat
  key : Nat
  rop : Nat
  status : Nat
  offset : Nat
  len : Nat
  data : List Byte
  deriving DecidableEq, Repr

/-- What training learns of the far end (11 R202, STR_PEER, STR_DELAY). -/
structure FarEnd where
  node : Nat
  logical : Nat
  fecLL : Bool
  bond : Nat
  delay : Nat
  deriving DecidableEq, Repr

/-- A lane that has retrained, and what its retrain learnt of the far end (11 R209; 09 R168). -/
structure Retrained where
  lane : Fin 104
  far : FarEnd
  deriving DecidableEq, Repr

/-- What the digest exchange and the timing path of PLY_REFORM found (10 R197, R185). -/
inductive PlyExchange where
  | formed (d hops beat : Nat)
  | digestDiffers
  | unreachable
  | tooFar
  deriving DecidableEq, Repr

/-- What a self-test found (14 R303, the result record). -/
structure TestFindings where
  fails : Nat
  pages : Nat
  refresh : Nat
  uncorr : Nat
  first : Nat
  deriving DecidableEq, Repr

/-- Where and of what kind a compute fault is (18 COMPUTE_HALT; 04 SPN_ACC_FLT). -/
structure FaultSite where
  phys : Option (Fin 52)
  kind : Fin 6
  row : Nat
  column : Nat
  deriving DecidableEq, Repr

/-- A distaff command: from the companion through the DST block (the value written), or from a control core through the
array (16 R334, R336): the target address, the words, and the bank the core fetches from (none: flash routine SRAM). -/
inductive DistaffPath where
  | dst (who : Requester) (v : Word)
  | core (c : Fin 6) (addr : Nat) (data : List Byte) (execBank : Option (Fin 2))
  deriving DecidableEq, Repr

/-- What the device meets at a cold boot (19 R390): the ports whose links train, and the SLOT_ID strap. -/
structure BootEnv where
  ports : List (Fin 4)
  slotId : BitVec 6
  deriving DecidableEq, Repr

/-- What a vendor debug instruction reads at level 0 (17 R342): scratch of a spindle, a slice's pool, or the commons. -/
inductive DebugTarget where
  | scratch (phys : Fin 52) (addr : Nat)
  | pool (slice : Fin 64) (addr : Nat)
  | commons (slice : Fin 64) (addr : Nat)
  | distaff (addr : Nat)
  deriving DecidableEq, Repr

/-- The commands of the block, one per row of spec/opcode_table.json, in its order. -/
inductive Instr where
  -- 01, 02, 20: control space, host link, rings
  | registerWrite (who : Requester) (off : Nat) (width : Nat) (v : Word)
  | loRegisterRead (who : Requester) (off : Nat) (width : Nat)
  | glbLockWrite (who : Requester) (v : Word)
  | adminRingsEnable (who : Requester) (p : Fin 4) (v : Word)
  | adminRingsDisable (who : Requester) (p : Fin 4) (v : Word)
  | portReady (p : Fin 4)
  | doorbellInvalidate (p : Fin 4) (line : Nat) (stores : List (Nat × Byte))
  | doorbellPoll (p : Fin 4) (stores : List (Nat × Byte))
  | descriptorFetch (p : Fin 4) (sq : Fin 256)
  | heldEntryPost (p : Fin 4)
  | interruptCoalesceTimeout (p : Fin 4) (cq : Fin 256)
  | coherentRead (p : Fin 4) (addr : Nat)
  | readForOwnership (p : Fin 4) (addr : Nat)
  | nonAllocatingWrite (p : Fin 4) (addr : Nat) (data : List Byte)
  | recallTimeout (p : Fin 4)
  | ahlLinkLost (p : Fin 4)
  | ahlLinkRestored (p : Fin 4)
  | holdBeatsExpiry (p : Fin 4)
  | partnerLinkReset (p : Fin 4)
  | teardownComplete (p : Fin 4)
  | ahlLaneFailure (p : Fin 4) (lane : Fin 9)
  | cqCreate (op : Nat)
  | sqCreate (op : Nat)
  | ringDelete (op : Nat)
  | ringDeleteComplete (op : Nat)
  | windowMap (op : Nat)
  | windowUnmap (op : Nat)
  -- 03-06: step-program instructions and the sequencer
  | matmul (sp : Fin 48) (w : IWord)
  | conv (sp : Fin 48) (w : IWord)
  | bandRecv (sp : Fin 48) (w : IWord)
  | broadcastStart (sp : Fin 48)
  | load (sp : Fin 48) (w : IWord)
  | store (sp : Fin 48) (w : IWord)
  | drain (sp : Fin 48) (w : IWord)
  | requant (sp : Fin 48) (w : IWord)
  | vld (sp : Fin 48) (w : IWord)
  | vst (sp : Fin 48) (w : IWord)
  | add (sp : Fin 48) (w : IWord)
  | sub (sp : Fin 48) (w : IWord)
  | mul (sp : Fin 48) (w : IWord)
  | fma (sp : Fin 48) (w : IWord)
  | max (sp : Fin 48) (w : IWord)
  | min (sp : Fin 48) (w : IWord)
  | abs (sp : Fin 48) (w : IWord)
  | neg (sp : Fin 48) (w : IWord)
  | relu (sp : Fin 48) (w : IWord)
  | clamp (sp : Fin 48) (w : IWord)
  | select (sp : Fin 48) (w : IWord)
  | cvt (sp : Fin 48) (w : IWord)
  | qcvt (sp : Fin 48) (w : IWord)
  | deq (sp : Fin 48) (w : IWord)
  | recip (sp : Fin 48) (w : IWord)
  | sqrt (sp : Fin 48) (w : IWord)
  | rsqrt (sp : Fin 48) (w : IWord)
  | exp2 (sp : Fin 48) (w : IWord)
  | log2 (sp : Fin 48) (w : IWord)
  | exp (sp : Fin 48) (w : IWord)
  | sigmoid (sp : Fin 48) (w : IWord)
  | tanh (sp : Fin 48) (w : IWord)
  | silu (sp : Fin 48) (w : IWord)
  | gelu (sp : Fin 48) (w : IWord)
  | redsum (sp : Fin 48) (w : IWord)
  | redmax (sp : Fin 48) (w : IWord)
  | softmax (sp : Fin 48) (w : IWord)
  | rmsnorm (sp : Fin 48) (w : IWord)
  | layernorm (sp : Fin 48) (w : IWord)
  | frowRedsum (sp : Fin 48) (w : IWord)
  | frowRedmax (sp : Fin 48) (w : IWord)
  | l2sq (sp : Fin 48) (w : IWord)
  | ip (sp : Fin 48) (w : IWord)
  | cos (sp : Fin 48) (w : IWord)
  | signal (sp : Fin 48) (w : IWord)
  | signalEffect (sp : Fin 48)
  | wait (sp : Fin 48) (w : IWord)
  | rankResume (job : Nat) (rank : Fin 48)
  | workLocal (sp : Fin 48) (w : IWord)
  | workCounter (sp : Fin 48) (w : IWord)
  | workInit (sp : Fin 48) (w : IWord)
  | shape (sp : Fin 48) (w : IWord)
  | fence (sp : Fin 48) (w : IWord)
  | stepEnd (job : Nat)
  -- 15, 07: jobs
  | jobSubmit (op : Nat)
  | jobIssue (op : Nat)
  | jobDispatch (job : Nat)
  | jobStepTimeLimit (job : Nat)
  | jobAbort (op : Nat)
  -- 08: pool, skeins, hanks
  | poolMap (op : Nat)
  | skeinLoad (op : Nat)
  | skeinRelease (op : Nat)
  | skeinPin (op : Nat)
  | skeinUnpin (op : Nat)
  | hankPark (op : Nat)
  | hankRestore (op : Nat)
  | demandRestore (slice : Fin 64) (page : Nat)
  | prefetchDirectiveIssue (job : Nat) (idx : Nat)
  | lateLimitExpiry (job : Nat)
  -- 09: treadle
  | beat
  | referenceQualified (i : TreadleInput)
  | referenceLost (i : TreadleInput)
  | pllLock
  | epochPulse (i : TreadleInput) (offset : Int)
  | epochMissing (i : TreadleInput)
  | refSelWrite (who : Requester) (v : Word)
  | beatMarker (n : Fin 104) (m : Marker) (offset : Int)
  | skewLost
  -- 10: drafts and plies
  | draftLoad (op : Nat)
  | draftRelease (op : Nat)
  | draftStart (op : Nat)
  | stepStart (job : Nat)
  | voteSend (job : Nat)
  | voteRecord (n : Fin 104) (slice : Fin 64) (v : Vote)
  | voteDecide (job : Nat)
  | slotOpen (job : Nat) (idx : Nat)
  | scheduledTransfer (job : Nat) (link : Fin 96) (hdr : SlotHeader) (data : List Byte)
  | markerTimeout (slice : Fin 64) (n : Fin 104)
  | freezeStopTimeout (job : Nat)
  | plyReformForm (op : Nat) (found : PlyExchange)
  | plyReformResume (op : Nat) (found : PlyExchange)
  | plyReformDissolve (op : Nat)
  -- 11: strand fabric
  | laneTrainingComplete (n : Fin 104) (far : FarEnd)
  | dataFlit (n : Fin 104) (f : Flit)
  | markerFlit (n : Fin 104) (f : Flit)
  | voteFlit (n : Fin 104) (f : Flit)
  | nakFlit (n : Fin 104) (f : Flit)
  | ackFlit (n : Fin 104) (f : Flit)
  | trainFlit (n : Fin 104) (f : Flit)
  | idleFlit (n : Fin 104) (f : Flit)
  | ackTimer (n : Fin 104)
  | ackseqTimeout (n : Fin 104)
  | retrainComplete (r : Retrained)
  | retrainFail (n : Fin 104)
  | packetRoute (n : Fin 104) (onVc1 : Bool) (arrivedDim : Option (Fin 6)) (k : Packet)
  | writePacket (n : Fin 104) (k : Packet)
  | readRequestPacket (n : Fin 104) (k : Packet)
  | readResponsePacket (n : Fin 104) (k : Packet)
  | messagePacket (n : Fin 104) (k : Packet)
  | reducePacket (n : Fin 104) (k : Packet)
  | acknowledgementPacket (n : Fin 104) (k : Packet)
  | managementPacket (n : Fin 104) (k : Packet)
  | fabricSet (op : Nat)
  | strOpen (op : Nat)
  | strClose (op : Nat)
  | strWrite (op : Nat)
  | strRead (op : Nat)
  | strMsg (op : Nat)
  | strReduce (op : Nat)
  | strGather (op : Nat)
  | transactionTimeout (op : Nat)
  | laneDisable (who : Requester) (n : Fin 104) (v : Word)
  | laneEnable (who : Requester) (n : Fin 104) (v : Word)
  -- 12: card engine
  | filterScan (op : Nat)
  | cardCreate (op : Nat)
  | cardDrop (op : Nat)
  | cardInsert (op : Nat)
  | cardDelete (op : Nat)
  | cardPublish (op : Nat)
  | cardQuery (op : Nat)
  | cardPass (b : Fin 16)
  | rerankUnit (op : Nat)
  | shardRequest (n : Fin 104) (k : Packet)
  | shardReply (n : Fin 104) (k : Packet)
  | queryDeadline (op : Nat)
  -- 13: flash
  | programRefused (b : Fin 16) (block : Nat) (page : Nat)
  | nandProgramFailure (b : Fin 16) (block : Nat) (atClose : Bool)
  | nandEraseFailure (b : Fin 16) (block : Nat)
  | gcMove (b : Fin 16) (block : Nat)
  | landingFold (b : Fin 16) (block : Nat)
  | gcRegimeChange (b : Fin 16)
  | readSuspend (b : Fin 16) (die : Fin 9)
  | journalPageProgram
  | journalTimer
  | mapCheckpoint
  | lifeProjection
  | flashReport (op : Nat)
  | migrateDone (b : Fin 16)
  -- 14: stores
  | read (op : Nat)
  | write (op : Nat)
  | trim (op : Nat)
  | flush (op : Nat)
  | storageFence (op : Nat)
  | storeCreate (op : Nat)
  | storeDelete (op : Nat)
  | selfTestShort (op : Nat)
  | selfTestExtended (op : Nat)
  | selfTestAbort (op : Nat)
  | selfTestDone (found : TestFindings)
  | holdupOkFall
  | holdupOkRise
  -- 15: slices, rotation, meters
  | sliceCreate (op : Nat)
  | storeShareGrant (op : Nat)
  | storeShareRevoke (op : Nat)
  | sliceDelete (op : Nat)
  | schedSet (op : Nat)
  | sliceBoundary
  | sliceSwitch (sp : Fin 48)
  | meterRecordCut
  | meterSet (op : Nat)
  | meterRecordWrite
  -- 16: distaff
  | dstUnlock (who : Requester) (v : Word)
  | distaffRead (who : Requester) (addr : Word)
  | distaffProgram (path : DistaffPath)
  | distaffErase (path : DistaffPath)
  | distaffSuspend (path : DistaffPath)
  | distaffResume (path : DistaffPath)
  | erasePulse (verified : Bool)
  | distaffOpEnd
  | dstStatWrite (who : Requester) (v : Word)
  | watchdogExpiry
  | logCopy
  -- 17: security
  | levelSetDevice (op : Nat)
  | levelSetStore (op : Nat)
  | sanitise (op : Nat)
  | sanitiseErase
  | keyImport (op : Nat)
  | fwStage (op : Nat)
  | fwCommit (op : Nat)
  | attest (op : Nat)
  -- 18: faults and repair
  | computeFault (c : FaultSite)
  | resumeCompute (op : Nat) (testFails : List (Fin 52))
  | controlCoreFault (core : Fin 6) (kind : Fin 3)
  | correctedError (source : Fin 11) (index : Nat) (bank : Bool) (addr : Nat)
  | repairSpindleSpare (op : Nat)
  | repairSpindleReinstate (op : Nat)
  | repairSpindleWithdraw (op : Nat)
  | repairCore (op : Nat)
  | repairStrandLane (op : Nat)
  | repairAhlLane (op : Nat)
  | repairPseudoChannel (op : Nat)
  | repairDramRow (op : Nat)
  | repairNandDie (op : Nat)
  | repairRegPhase (op : Nat)
  | repairCopyDone (stack : Fin 4) (bad : List Nat)
  | regPhaseFailure (rail : Fin 16) (phase : Fin 16)
  -- 19, 21: power, reset, heat
  | setPowerEnter (op : Nat)
  | setPowerLimit (op : Nat)
  | pwrLimitWrite (who : Requester) (v : Word)
  | idleTimerExpiry (n : Fin 5)
  | psExitDone (beatsTaken : Nat)
  | powerLoss
  | coldResetAssert
  | coldBoot (env : BootEnv)
  | warmReset (op : Nat)
  | thermalThrottle (hottest : Int)
  | thermNAlert (hottest : Int)
  -- 21: sideband and JTAG
  | entdaa (addr : BitVec 7)
  | setdasa (static addr : BitVec 7)
  | rstdaa
  | getpid
  | getbcr
  | getdcr
  | getstatus
  | enec
  | disec
  | sidebandReadRequest (bytes : List Byte)
  | sidebandReadData
  | sidebandWrite (bytes : List Byte)
  | bypass
  | idcode
  | samplePreload (cells : List Bool)
  | extest (cells : List Bool)
  | extestPulse (cells : List Bool)
  | extestTrain (cells : List Bool)
  | highz
  | jtagClamp
  | vendorDebugInstruction (target : DebugTarget)
  -- rows placed last in the table
  | recallResponse (p : Fin 4) (addr : Nat) (answer : RecallAnswer)
  | powerStateEntered
  | dieStopsAnswering (b : Fin 16) (die : Fin 9)
  deriving DecidableEq, Repr

end Sys2Proof
end

