-- ==== Sys2Proof/Config.lean ====
section
/-! DEFINITION. What an implementation fixes and the spec leaves open. Its constants are opaque: nothing can
evaluate it, so a statement about it holds for every value. -/

namespace Sys2Proof.Config

/-- FREE VALUE. The n-th value the device takes where the spec states none; `State.free` counts the draws
(log entry 5). -/
opaque freeNat : Nat → Nat

/-- FREE VALUE. Word x of the n-th open range of bytes (a stopped write, an interrupted distaff word): the spec lets each
byte be old or new, or anything (10 R224, 16 R339; log entry 5). -/
opaque freeByte : Nat → Nat → Byte

/-- Whether the CRC-64 takes each byte least significant bit first: the spec states no bit order (log entry 11). -/
opaque crcReflected : Bool

/-- One bit of the CRC-64 register with the ECMA-182 polynomial, in either bit order. -/
def crcStep (reflected : Bool) (c : BitVec 64) : BitVec 64 :=
  if reflected then (if c.getLsbD 0 then (c >>> 1) ^^^ 0xC96C5795D7870F42 else c >>> 1)
  else if c.getMsbD 0 then (c <<< 1) ^^^ 0x42F0E1EBA9EA3693
  else c <<< 1

/-- A byte enters the register. -/
def crcByte (reflected : Bool) (c : BitVec 64) (b : Byte) : BitVec 64 :=
  (List.range 8).foldl (fun c _ => crcStep reflected c) (c ^^^ (if reflected then b.setWidth 64 else b.setWidth 64 <<< 56))

/-- CRC-64 with the ECMA-182 polynomial, initial value all ones, result inverted (11 "Flits"; 13 R255). -/
def crc64 (bytes : List Byte) : BitVec 64 := ~~~(bytes.foldl (crcByte crcReflected) (BitVec.allOnes 64))

/-- CRC-32C of a key or commit record (17 R352, R357); uninterpreted for the same reason (log entry 11). -/
opaque crc32c : List Byte → BitVec 32

/-- FN-DSA-1024 signature of a message by the device identity key (17 R356); uninterpreted (log entry 10). -/
opaque sign : List Byte → List Byte

/-- FN-DSA-1024 verification: public key, message, signature (17 R357); uninterpreted (log entry 10). -/
opaque verify : List Byte → List Byte → List Byte → Bool

/-- ML-KEM-1024 encapsulation key of a seed (17 R351, FIPS 203); uninterpreted (log entry 10). -/
opaque kemKey : List Byte → List Byte

/-- ML-KEM-1024 decapsulation: seed, ciphertext to the shared secret (17 R353); uninterpreted (log entry 10). -/
opaque kemDecap : List Byte → List Byte → List Byte

/-- AES-256-KW unwrap: key, wrapped to the secret, or none when the integrity check fails (17 R352, R353);
uninterpreted (log entry 10). -/
opaque kwUnwrap : List Byte → List Byte → Option (List Byte)

/-- AES-256-KW wrap of a secret under a key (17 R352); uninterpreted (log entry 10). -/
opaque kwWrap : List Byte → List Byte → List Byte

/-- What a block is as shipped, by bobbin and block id: 0 a data block, 1 a factory spare, 2 reserved for the parity and journal flush, others factory-bad
(13 R252, R267, R271; log entry 19). -/
opaque factoryUse : Nat → Nat → Nat

/-- Data blocks of a bobbin reserved for the parity and journal flush (13 R267, R271); the spec gives no number (log entry 19). -/
opaque flushBlocks : Fin 1024

/-- XTS-AES-256: key handle, map unit and plaintext to ciphertext (14 R288); uninterpreted (log entry 40). -/
opaque xts : Nat → Nat → List Byte → List Byte

/-- FREE VALUE. What a page decrypts to under a key it was not encrypted under: that key, the page's key, its WSEQ, the offset (log entry 40). -/
opaque wrongKey : Nat → Nat → Nat → Nat → Byte

/-- The device identity public key, 1,793 bytes, made at manufacture (17 R351, R355; log entry 10). -/
opaque identityKey : List Byte

/-- The boot ROM's digest of signing key KEYIDX, 32 bytes (17 R357; log entry 10). -/
opaque romDigest : Nat → List Byte

/-- The distaff as shipped, by code word (16 R328): firmware slot A, identity, commits, key store (log entry 24). -/
opaque shippedWord : Nat → BitVec 256
/-- Whether the written flag of a shipped word is set (log entry 24). -/
opaque shippedWritten : Nat → Bool

/-- N: the phases a rail needs at PS0 maximum (18 RAS_MAP_REG, "design"; log entry 4). -/
opaque railPhases : Nat → Nat

/-- How ADDR of a RAS log entry holds the kind of check, the bank row and the column of a compute fault (04 R79; 18 R379 gives no layout; log entry 5). -/
opaque bankAddr : Nat → Nat → Nat → Nat

/-- SOURCE and TYPE of the RAS entry of a late exit from a power state: 19 R384 logs it and names neither (log entry 5). -/
opaque exitLateSource : Nat
/-- See `exitLateSource`. -/
opaque exitLateType : Nat

/-- PID, BCR and DCR of the I3C target: the spec names the CCCs and not the values (21 R407; log entry 25). -/
opaque i3cPid : Nat
/-- See `i3cPid`. -/
opaque i3cBcr : Nat
/-- See `i3cPid`. -/
opaque i3cDcr : Nat

end Sys2Proof.Config
end

