-- ==== Sys2Proof/Machine/State.lean ====
section
/-! DEFINITION. The state of the block: every register, ring, buffer, memory and unit the spec gives it, as plain data,
and the queue of waiting commands. `State.reset` is the state right after a cold reset, before the boot stages of
19 R390 run. INVENTORY.md lists each field with its rule and its reset value. -/

namespace Sys2Proof.Machine

/-- A sparse table: keys strictly rising, no entry equal to what an unlisted key reads as. -/
abbrev Tbl (α : Type) := List (Nat × α)

/-- A byte memory: a table whose unlisted addresses read zero (log entry 9). -/
abbrev Mem := List Host.Cell

/-! ### Rings and ports (02) -/

/-- A doorbell word: the line's address in partner memory and the word in it (R26, R33). -/
structure Doorbell where
  line : Nat
  word : Nat
  deriving DecidableEq, Repr

/-- A submission ring (R22-R28, R34, R37). `fetched` counts descriptors since creation; `credit` is the round-robin
credit (log entry 15). -/
structure SubRing where
  base : Nat
  size : Nat
  db : Doorbell
  tail : Nat
  fetch : Nat
  fetched : Nat
  fault : Bool
  slice : Nat
  cq : Nat
  prio : Nat
  credit : Nat
  deleting : Bool
  deriving DecidableEq, Repr

/-- A completion ring, the event ring or the meter ring (R24, R30, R31, R34; 15 R327). -/
structure CompRing where
  base : Nat
  size : Nat
  db : Doorbell
  slot : Nat
  phase : Bool
  head : Nat
  fault : Bool
  ivec : Option Nat
  coalCount : Nat
  coalBeats : Nat
  unsig : Nat
  unsigAt : Nat
  deriving DecidableEq, Repr

/-- An event (R35, the event entry). -/
structure Event where
  code : Nat
  slice : Nat
  detail : Nat
  beat : Nat
  deriving DecidableEq, Repr

/-- An entry the device has still to post on a port: a completion or an event held while the link is lost (R34, R39). -/
inductive Held where
  | comp (op : Nat)
  | event (e : Event)
  deriving DecidableEq, Repr

/-- The shared window of a port (R22). -/
structure Window where
  caddr : Nat
  pages : Nat
  slice : Nat
  first : Nat
  deriving DecidableEq, Repr

/-- How the partner may hold a window line, as the home knows it: S, or E (which the partner may have made M, and only its
answer to a recall tells). An unlisted line is I (02 "Coherence"). -/
inductive LineState where
  | shared
  | exclusive
  deriving DecidableEq, Repr

/-- A recall or invalidation the partner has not answered (R21); `forWrite` asks for every copy. -/
structure Recall where
  line : Nat
  forWrite : Bool
  at_ : Nat
  deriving DecidableEq, Repr

/-- The admin register set of a port (02 "Admin set-up through GLB"). -/
structure PortRegs where
  asq : BitVec 64
  acq : BitVec 64
  evt : BitVec 64
  adb : BitVec 64
  asize : BitVec 12
  en : Bool
  poll : Bool
  admIvec : BitVec 8
  evtIvec : BitVec 8
  rdy : Bool
  run : Bool
  cfgErr : Bool
  teardown : Bool
  deriving DecidableEq, Repr

/-- The link of a port (R17, R18, R39, AHL_LINK). `lostAt` is the clock at which a link that was up was lost. -/
structure Link where
  up : Bool
  lowRate : Bool
  lanesOk : BitVec 9
  spareFor : BitVec 4
  holdBeats : BitVec 24
  lostAt : Option Nat
  failed : BitVec 9
  deriving DecidableEq, Repr

/-- One AHL port: registers, link, rings, held entries, interrupts sent, window, and the partner's memory (log entry 3).
`homeErr` lists the ranges for which the partner's home answers with an error (15 R319). -/
structure Port where
  regs : PortRegs
  link : Link
  sqs : Tbl SubRing
  cqs : Tbl CompRing
  evtRing : Option CompRing
  held : List Held
  dropped : Nat
  evtLost : Nat
  irqs : List Nat
  window : Option Window
  winLost : Nat
  lines : Tbl LineState
  recalls : List Recall
  served : List Byte
  mem : Mem
  homeErr : List (Nat × Nat)
  deriving DecidableEq, Repr

/-- Where an operation in flight stands (R36-R38): fetched and not started, started, or ended with its completion held. -/
inductive OpPhase where
  | fetched
  | started
  | done (status detail result : Nat)
  deriving DecidableEq, Repr

/-- An operation in flight. `seq` is its submission number within its ring; `silent`: its port was reset, no completion is
posted (R39); `lowHoldup`: fetched while HOLDUP_OK was low (14 R299). `left` lists what a command that handles pages one by one has still to handle (none: not
begun), `sofar` the RESULT it has gathered (08 R146); it is empty in a PLY_REFORM that has formed its ply and waits for the load of the beat counter (09 R168). -/
structure Op where
  port : Nat
  sq : Nat
  cq : Nat
  seq : Nat
  opcode : Nat
  flags : Nat
  slice : Nat
  tag : Nat
  bytes : List Byte
  phase : OpPhase
  fetchedAt : Nat
  lowHoldup : Bool
  silent : Bool
  left : Option (List Nat)
  sofar : Nat
  deriving DecidableEq, Repr

/-! ### The global, power and treadle blocks (20, 19, 09) -/

/-- GLB: the identity, boot, sideband and lock fields that are not constants (20). `cz1200` is the ordering code of R1, `slotId`
the strap sampled at the rise of COLD_RST_N, `subject` the 32 SUBJECT bytes of the device certificate. -/
structure Glb where
  cz1200 : Bool
  slotId : BitVec 6
  fwver : Word
  stage : Nat
  held : Bool
  subject : List Byte
  i3cSa : BitVec 7
  i2cEn : Bool
  sbWrite : Bool
  scratch : Tbl Word
  lock : Bool
  deriving DecidableEq, Repr

/-- PWR and the supply pins (19, 21). `pendLimit` and `pendIdle` are the writes that take effect at the next beat (R393);
`entering` is the SET_POWER that waits for its state; `idleSince` is when the condition of each PSn began to hold. -/
structure Pwr where
  state : Nat
  target : Nat
  flushOk : Bool
  lastReset : Nat
  limit : Nat
  idle1 : Nat
  idle2 : Nat
  idle3 : Nat
  idle4 : Nat
  exitLate : Nat
  flushUs : Word
  flushMj : Word
  pendLimit : Option Nat
  pendIdle : Tbl Nat
  heldPs0 : Bool
  entering : Option Nat
  idleSince : Tbl Nat
  deriving DecidableEq, Repr

/-- The supply and alarm pins (21 R401, R405, R406, R410). -/
structure Pins where
  pwrGood : Bool
  coldRstN : Bool
  holdupOk : Bool
  thermN : Bool
  throttle : Bool
  deriving DecidableEq, Repr

/-- The treadle (09). `refSel` true selects input B. `lastEpochA` and `lastEpochB` belong to R166; `holdoverAt` and `lockTo` (the input qualified first)
to R172, R173; `skewBeats` counts the beats of R171; `load` is the number and the HOPS that the next beat
loads (R168). -/
structure Trd where
  beat : Nat
  subbeat : Nat
  refSel : Bool
  locked : Bool
  holdover : Bool
  refA : Bool
  refB : Bool
  epochA : Bool
  epochB : Bool
  numbered : Bool
  plied : Bool
  skewOk : Bool
  skew : BitVec 16
  hops : Nat
  switchCnt : Nat
  epochSlip : Nat
  suspend : Nat
  lastEpochA : Option Nat
  lastEpochB : Option Nat
  holdoverAt : Option Nat
  lockTo : Option Bool
  skewBeats : Nat
  load : Option (Nat × Nat)
  deriving DecidableEq, Repr

/-! ### Slices, pool space, meters (08, 15) -/

/-- The states of a hank (08 R145). -/
inductive HankState where
  | new | clean | dirty | parking | parked | restoring
  deriving DecidableEq, Repr

/-- What a mapped page of a slice's pool space is (08 "A slice's pool space"). -/
inductive PageKind where
  | work
  | window (port : Nat)
  | hank (st : HankState)
  deriving DecidableEq, Repr

/-- A mapped page: its kind, its last-use beat (R151) and, for a hank, the map entries of the 128 units of its parked copy, those that are not unmapped
(R145, R148; 13 R260, R264). -/
structure Page where
  kind : PageKind
  lastUse : Nat
  parked : Tbl Nat
  deriving DecidableEq, Repr

/-- A skein page of 2 MiB copied into the pool: cached, or pinned (08 R134, R143, R144), with its bytes. -/
structure SkeinPage where
  handle : Nat
  page : Nat
  pinned : Bool
  lastUse : Nat
  data : Mem
  deriving DecidableEq, Repr

/-- A skein range pinned in the commons share (R144). -/
structure CommonsPin where
  handle : Nat
  offset : Nat
  length : Nat
  caddr : Nat
  deriving DecidableEq, Repr

/-- The quantities of the meter record in progress (15 R326). SPINDLE_US and SWITCH_US are kept in cycles, 2,000 to the
microsecond. -/
structure Meter where
  seq : Nat
  begin_ : Nat
  short : Bool
  holdover : Bool
  restart : Bool
  spindle : Nat
  switch_ : Nat
  band : Nat
  flashRead : Nat
  flashWrite : Nat
  flashMove : Nat
  strandTx : Nat
  strandRx : Nat
  cardCmp : Nat
  pageBeats : Nat
  overrun : Nat
  deducted : Nat
  jobsDone : Nat
  holds : Nat
  deriving DecidableEq, Repr

/-- The operands of SLICE_CREATE (15). -/
structure SliceConf where
  shared : Bool
  sems : Nat
  counters : Nat
  spindles : Nat
  commons : Nat
  floor : Nat
  ceiling : Nat
  park : Nat
  fast : Nat
  bulk : Nat
  strand : Nat
  jobs : Nat
  operands : List Byte
  deriving DecidableEq, Repr

/-- A slice: configuration, semaphores, work counters (VALUE and LIMIT), commons share, pool space and its copies, meters. `timeSlice` holds the effective and
the scheduled end of its current time slice, `owed` the overrun not yet deducted, `overAt` the boundary beat whose overrun is being counted and what is
charged of it (R316). -/
structure Slice where
  conf : SliceConf
  sems : Tbl Nat
  ctrValue : Tbl Nat
  ctrLimit : Tbl Nat
  commons : Mem
  pages : Tbl Page
  pool : Mem
  skeinPages : List SkeinPage
  pins : List CommonsPin
  meter : Meter
  timeSlice : Option (Nat × Nat)
  owed : Nat
  overAt : Option (Nat × Nat)
  deriving DecidableEq, Repr

/-- An entry of the rotation table (15 "Time slices"). -/
structure RotEntry where
  start : Nat
  length : Nat
  slice : Nat
  deriving DecidableEq, Repr

/-- The rotation (R314): the table, its period and the beat it takes effect. -/
structure Rotation where
  entries : List RotEntry
  period : Nat
  effect : Nat
  deriving DecidableEq, Repr

/-! ### Spindles (03-06) -/

/-- A weight block in the layout of 03 R43: the format and the bytes of the weights and the side field. -/
structure Block where
  wfmt : Nat
  data : List Byte
  deriving DecidableEq, Repr

/-- A BAND_RECV issued and not wholly received (06 R104): `at_` is its instruction index, `first` the value of X[XI], `got` the blocks received so far,
`since` the clock of its issue, `stamp` its place in the order in which the BAND_RECVs of the device were issued. -/
structure BandReq where
  at_ : Nat
  band : Nat
  wfmt : Nat
  set : Nat
  tier : Nat
  src : Nat
  nb : Nat
  first : Nat
  got : Nat
  serial : Nat
  since : Nat
  stamp : Nat
  deriving DecidableEq, Repr

/-- An instruction issued and not complete, with the scalar registers as they read at issue (06 R97, R98). -/
structure Issued where
  at_ : Nat
  w : IWord
  x : Tbl Word
  serial : Nat
  deriving DecidableEq, Repr

/-- A SIGNAL issued and pending (R114). -/
structure PendSig where
  at_ : Nat
  sem : Nat
  n : Nat
  hold : Bool
  rel : Nat
  serial : Nat
  deriving DecidableEq, Repr

/-- A WORK loop in progress (R118): its instruction index and, for LOCAL, the next tile index. -/
structure Loop where
  at_ : Nat
  body : Nat
  t : Nat
  deriving DecidableEq, Repr

/-- A rank context (15 R317): what a spindle holds for its rank. `bank` is keyed by row × 128 + column, `vreg` by
register × 256 + lane. `masked` marks the rows that R124 (07) leaves out of DRAIN and REQUANT: bank row r as r, half h of finisher register v as 8,192 + 2v + h.
`blocks` are the blocks received and not consumed, in order (03 R44, R45), each with the index of the BAND_RECV that requested it. -/
structure Ctx where
  scratch : Mem
  bank : Tbl Word
  vreg : Tbl Word
  masked : List Nat
  x : Tbl Word
  blocks : List (Nat × Block)
  bandq : List BandReq
  issued : List Issued
  sigs : List PendSig
  pos : Nat
  loop : Option Loop
  serial : Nat
  deriving DecidableEq, Repr

/-- The counters of a spindle block (03 R51, 04, 05). -/
structure SpnCounters where
  busy : Nat
  frz : Nat
  feed : Nat
  drain : Nat
  weight : Nat
  mac : Nat
  blocks : Nat
  wrap : Nat
  ce : Nat
  sat : Nat
  req : Nat
  qnan : Nat
  finBusy : Nat
  deriving DecidableEq, Repr

/-- SPN_ACC_FLT (04). -/
structure AccFault where
  kind : Nat
  row : Nat
  column : Nat
  deriving DecidableEq, Repr

/-- A physical spindle. `rank` is the job and rank it holds; `affinity` the skein handles of its last job (15 R320). -/
structure Spindle where
  failed : Bool
  band : Nat
  ctr : SpnCounters
  accFlt : Option AccFault
  ctx : Ctx
  rank : Option (Nat × Nat)
  affinity : List Nat
  deriving DecidableEq, Repr

/-! ### Skeins, drafts, jobs, plies (08, 10, 15) -/

/-- A skein handle (08 R140, R141). -/
structure Skein where
  slice : Nat
  store : Nat
  sector : Nat
  sectors : Nat
  size : Nat
  nlayers : Nat
  digest : List Byte
  releasing : Bool
  deriving DecidableEq, Repr

/-- A prefetch directive (08 R155), with the step it targets and the time it is issued relative to it. -/
structure Directive where
  target : Nat
  kind : Nat
  required : Bool
  lead : Nat
  slot : Nat
  ahead : Nat
  count : Nat
  first : Nat
  deriving DecidableEq, Repr

/-- Where a directive of a job stands: not issued, issued as the device's n-th with that many of its pages brought up, or complete. -/
inductive DirState where
  | waiting | issued (pages n : Nat) | complete
  deriving DecidableEq, Repr

/-- A slot entry of a step (10 R179). -/
structure SlotEnt where
  kind : Nat
  link : Nat
  peer : Nat
  beat : Nat
  rgroup : Nat
  sub : Nat
  flits : Nat
  sem : Nat
  tier : Nat
  addr : Nat
  bytes : Nat
  deriving DecidableEq, Repr

/-- A reduction entry of a step (10 R190). -/
structure RedEnt where
  op : Nat
  all : Bool
  round : Bool
  rgroup : Nat
  prev : Nat
  next : Nat
  e : Nat
  nseg : Nat
  tier : Nat
  base : Nat
  seg0 : Nat
  sem : Nat
  estride : Nat
  deriving DecidableEq, Repr

/-- A step record (10 R178). -/
structure StepRec where
  start : Nat
  length : Nat
  progs : List Nat
  dirs : List Directive
  slots : List SlotEnt
  reds : List RedEnt
  deriving DecidableEq, Repr

/-- A loaded draft (10 R176-R180): the header fields used later, the member's steps and programs, and the held pages it takes. -/
structure Draft where
  slice : Nat
  store : Nat
  sector : Nat
  sectors : Nat
  member : Nat
  members : Nat
  nsteps : Nat
  ranks : Nat
  canon : Bool
  loop : Bool
  maxps : Nat
  iterSlot : Nat
  period : Nat
  vmax : Nat
  digest : List Byte
  skeinDigests : List (List Byte)
  mship : List Byte
  steps : List StepRec
  progs : Tbl (List IWord)
  pages : Nat
  releasing : Bool
  deriving DecidableEq, Repr

/-- Where a slot of the running step stands: waiting, or carried (10 R184). -/
inductive SlotState where
  | waiting | sent | received
  deriving DecidableEq, Repr

/-- Where a reduction chain of the running step stands: the running values combined here, and whether the result is here
(10 R191). -/
structure RedState where
  acc : Option (List Byte)
  forwarded : Bool
  written : Bool
  deriving DecidableEq, Repr

/-- A ply-lost notice (10 R195). -/
structure Notice where
  beat : Nat
  member : Nat
  cause : Nat
  deriving DecidableEq, Repr

/-- A running draft (10 R181-R189): `start` is the start beat of the running step, or of the next one before the holds `holdsNow` counts;
`decision`, `decStatus`, `decSlot` and `decResult` are this member's decision of 07 R126; `ran` counts the steps it has run; `voted` its vote for the next step is sent, `go` that
step has been decided to start; `lastEnded` the last step ended, `lastStep` the latest step started and its beat; `slots` and `reds` the entries of the running
step; `total` the steps of all iterations. -/
structure DraftRun where
  handle : Nat
  late : Nat
  ply : Nat
  sblock : Nat
  total : Nat
  start : Nat
  first : Bool
  decision : Nat
  decStatus : Nat
  decSlot : Nat
  decResult : Nat
  ran : Nat
  hLateW : Nat
  hLateI : Nat
  hThermal : Nat
  hSlice : Nat
  hRepair : Nat
  reforms : Nat
  holdsNow : Nat
  lateNow : Nat
  firstCause : Nat
  firstMember : Nat
  frozen : Option Nat
  stopped : Bool
  lastEnded : Option Nat
  lastStep : Option (Nat × Nat)
  slots : List SlotState
  reds : List RedState
  voted : Bool
  go : Bool
  deriving DecidableEq, Repr

/-- Where a job stands (15 R319-R322): waiting for a place, waiting for dispatch, a step running since a clock, frozen (drafts
only), or ended with a completion that waits for its last instructions. -/
inductive JobPhase where
  | submitted | ready | running (since : Nat) | frozen
  deriving DecidableEq, Repr

/-- Where a rank of a running step stands: running, waiting at a WAIT with its context kept, or ended. -/
inductive RankState where
  | running | yielded | ended
  deriving DecidableEq, Repr

/-- A resident or waiting job (15). `place` is its resident place; `step` is the index of the next or running step; `spindles` are the logical spindles of
its ranks; `saved` the contexts kept in pool pages; `holds` counts holds per semaphore; `records` the scale records used in
the step (rank, tier and offset), `owned` those the job holds (tier and offset, 05 R89); `touched` what the step has touched: the rank, the skein handle (none: a page
of the slice's space) and the page (08 R150); `abortAtEnd` an end at the next step boundary with that status (none: no completion); `failing` the status and DETAIL of a
program error whose issued instructions have still to complete (06 R121). -/
structure Job where
  slice : Nat
  port : Nat
  sq : Nat
  tag : Nat
  place : Option Nat
  ranks : Nat
  prio : Nat
  late : Nat
  nsteps : Nat
  jaddr : Nat
  shapesAddr : Nat
  prog : List IWord
  dirs : List Directive
  dirStates : List DirState
  skeins : List Nat
  shapes : List Nat
  issuedAt : Nat
  step : Nat
  phase : JobPhase
  spindles : List Nat
  rankStates : List RankState
  saved : Tbl Ctx
  switchSaved : List Nat
  holds : Tbl Nat
  records : List (Nat × Nat × Nat)
  owned : List (Nat × Nat)
  touched : List (Nat × Option Nat × Nat)
  waitSince : Nat
  abortAtEnd : Option (Nat × Nat)
  failing : Option (Nat × Nat)
  draft : Option DraftRun
  deriving DecidableEq, Repr

/-- A formed ply of a slice (10 R185, R195-R199). `quiet` counts the beats without a marker per ply link; `silent` this member has lost its
time base and sends no markers (09 R173); `ended` the job whose draft has ended here, and the END it sends (R200). -/
structure Ply where
  id : Nat
  nodes : List Nat
  anchor : Nat
  self : Nat
  v : Nat
  d : Nat
  hops : Nat
  digest : List Byte
  timing : Option Nat
  links : List Nat
  quiet : Tbl Nat
  notice : Option Notice
  votes : List Vote
  silent : Bool
  ended : Option (Nat × Vote)
  deriving DecidableEq, Repr

/-! ### Flash (13) -/

/-- The use of a physical block (13 R253, R271, the block table). -/
inductive BlockState where
  | free | opened | closed | retired
  deriving DecidableEq, Repr

/-- A physical block: use, mode (0 none, 1 fast, 2 bulk), wear units, wear gained per treadle day (13 R279). -/
structure FBlock where
  st : BlockState
  mode : Nat
  wear : Nat
  gained : Tbl Nat
  deriving DecidableEq, Repr

/-- A written page (13 R255): its metadata, what its ciphertext decrypts to under the key it is under, keyed by offset (14 R288; log entry 40), and whether a read
of it is uncorrectable. -/
structure FPage where
  owner : Nat
  unit : Nat
  wseq : Nat
  jseq : Nat
  crc : BitVec 64
  key : Nat
  data : Mem
  uncorr : Bool
  deriving DecidableEq, Repr

/-- A group of 8 blocks (13 R266): bulk or fast, maintenance or host stream, its plane, each block with the pages programmed in it, and of a fast-mode group the
parity page of each row. A fast-mode group stays here, closed, until its blocks are verified (R267). -/
structure Group where
  bulk : Bool
  maint : Bool
  plane : Nat
  blocks : List (Nat × Nat)
  parity : Tbl Mem
  deriving DecidableEq, Repr

/-- The erase, or M or U program, that a die carries out, and since when (13 R257, R270). -/
structure DieOp where
  erase : Bool
  block : Nat
  page : Nat
  since : Nat
  deriving DecidableEq, Repr

/-- A unit copied off a block whose movement is not committed yet (13 R259, R273): its owner and number, the map entry of its source and that of the copy. -/
structure BlockMove where
  owner : Nat
  unit : Nat
  old : Nat
  new : Nat
  deriving DecidableEq, Repr

/-- A NAND die (BOB_DIE_STAT; 13 R277): state, role (0xF none), factory-bad and retired blocks, retirements in the treadle day `day`,
the operation it is busy with and its suspensions (R270). -/
structure Die where
  st : Nat
  role : Nat
  bad : Nat
  today : Nat
  day : Nat
  answering : Bool
  posted : Bool
  busy : Option DieOp
  suspends : Nat
  deriving DecidableEq, Repr

/-- A pass waiting at a card unit, by the operation or shard request it serves (12 R228). -/
structure CardPass where
  op : Nat
  deriving DecidableEq, Repr

/-- The counters of a BOB block (13, 12). -/
structure BobCounters where
  read : Nat
  prog : Nat
  move : Nat
  retired : Nat
  pfail : Nat
  efail : Nat
  uncorr : Nat
  refresh : Nat
  migrate : Nat
  throttle : Nat
  wearMax : Nat
  life : Nat
  lost : Nat
  cardBytes : Nat
  cardCmp : Nat
  cardPass : Nat
  deriving DecidableEq, Repr

/-- A bobbin. `migrating` is the die moved off (13 R282) with the units it has lost; `since` the clock at which foreground began;
`progDays` the host-stream bytes per treadle day (R279); `spares` the factory spare blocks that replace retired ones (R276); `moves` the copies whose movement waits for
their destination (R259, R273); `refused`: a program was refused and its data looks for another page (R256). -/
structure Bobbin where
  ctr : BobCounters
  foreground : Bool
  readOnly : Bool
  migrating : Option (Nat × Nat)
  dies : Tbl Die
  blocks : Tbl FBlock
  pages : Tbl FPage
  groups : List Group
  refreshQ : List Nat
  lifeLow : Bool
  since : Nat
  progDays : Tbl Nat
  spares : List Nat
  moves : List BlockMove
  refused : Bool
  passes : List CardPass
  deriving DecidableEq, Repr

/-- One entry of a journal record: the owner (a store, or 1,024 + the slice of a park area), map unit, the new map entry and the one it replaces (13 R264,
R265). -/
structure MapChange where
  store : Nat
  unit : Nat
  new : Nat
  old : Nat
  deriving DecidableEq, Repr

/-- A journal record not yet in a verified journal page, when it was made, the operations that wait for it; `committed` as R264. -/
structure JRecord where
  jseq : Nat
  changes : List MapChange
  committed : Bool
  made : Nat
  ops : List Nat
  deriving DecidableEq, Repr

/-- A page of a device structure, OWNER 0xFFFF (13 R255): its number, WSEQ, and the JSEQ of the last record it holds. -/
structure DevPage where
  unit : Nat
  wseq : Nat
  jseq : Nat
  deriving DecidableEq, Repr

/-- The journal buffer, the device's sequence numbers, the journal pages programmed since the last checkpoint, the JSEQ that checkpoint covers and its clock
(13 R255, R264). -/
structure Journal where
  records : List JRecord
  jseq : Nat
  wseq : Nat
  pages : List DevPage
  checkpoint : Nat
  checkpointAt : Nat
  deriving DecidableEq, Repr

/-- A storage region's owner and translation (13 R261, 14 R285-R287, 15 R312, 17 R349). -/
structure Store where
  slice : Nat
  bulk : Bool
  sectors : Nat
  key : Nat
  level : Nat
  grants : List Nat
  index : Option Nat
  deleting : Bool
  map : Tbl Nat
  deriving DecidableEq, Repr

/-! ### Faults, spares, stacks (18, 20) -/

/-- A RAS log entry (18 R379); `copied` once firmware has it in the distaff log. -/
structure LogEntry where
  seq : Nat
  beat : Nat
  source : Nat
  type : Nat
  index : Nat
  count : Nat
  store : Nat
  addr : Nat
  copied : Bool
  deriving DecidableEq, Repr

/-- A spare-map entry of a logical spindle, core or link (18 RAS_MAP_SPN, CORE, STR); 0x7F is none. -/
structure MapEntry where
  phys : Nat
  st : Nat
  pend : Nat
  deriving DecidableEq, Repr

/-- A DRAM stack (20 MEM_STK_STAT, 18 RAS_MAP_MEM); `copying` is a pseudo-channel or row copy in progress: the operation and
what it copies. -/
structure Stack where
  trained : Bool
  sref : Bool
  temp : Nat
  hot : Bool
  ce : Nat
  ue : Nat
  spare32 : Option Nat
  spare33 : Option Nat
  rowsLeft : Nat
  uncorr : List Nat
  copying : Option (Nat × Nat × Option Nat)
  deriving DecidableEq, Repr

/-- A regulator rail (18 RAS_MAP_REG, R380). -/
structure Rail where
  out : BitVec 16
  failed : List Nat
  deriving DecidableEq, Repr

/-- The RAS block, the spare maps, control cores and repairs in progress (18). `ceMinute` counts corrected errors of an element
(source × 1,024 + index) in this treadle minute, `cePosted` lists those posted; `choices` are the spindle choices for RESUME_COMPUTE:
the physical spindle to bind, or none to reinstate; `coreFault` is the fault to report after the warm reset. -/
structure Ras where
  halted : Bool
  resuming : Bool
  faultSpn : Nat
  faultKind : Nat
  badAcc : Nat
  logSeq : Nat
  ceThresh : Nat
  log : List LogEntry
  mapSpn : List MapEntry
  mapCore : List MapEntry
  mapStr : List MapEntry
  rails : List Rail
  ceMinute : Tbl Nat
  cePosted : List Nat
  minute : Nat
  faultyCores : List Nat
  choices : Tbl (Option Nat)
  pendingRepairs : Tbl (Nat × Nat)
  coreFault : Option (Nat × Nat)
  deriving DecidableEq, Repr

/-- The counters of the MEM block (08). -/
structure MemCounters where
  evict : Nat
  park : Nat
  restore : Nat
  pfSkip : Nat
  demand : Nat
  deriving DecidableEq, Repr

/-- A self-test in progress (14 R303-R305). -/
structure SelfTest where
  op : Nat
  extended : Bool
  bobbins : List Nat
  raddr : Nat
  port : Nat
  begin_ : Nat
  active : Nat
  deriving DecidableEq, Repr

/-- A storage FENCE in flight (14 R294): the operations it waits for, and the tails it read, per scope ring of a port
(port × 256 + ring), as submission numbers. -/
structure StorageFence where
  op : Nat
  slice : Nat
  tails : Tbl Nat
  deriving DecidableEq, Repr

/-- The slice running on a logical spindle and the rotation's progress (15 R315, R316). `boundary` is a scheduled boundary that has
come and not yet been carried out on the spindle: its beat and the incoming slice. -/
structure SpindleSched where
  running : Option Nat
  boundary : Option (Nat × Option Nat)
  deriving DecidableEq, Repr

/-- The meter ring (15 R327): its port and ring. -/
structure MeterRing where
  port : Nat
  ring : CompRing
  deriving DecidableEq, Repr

/-! ### The distaff (16) -/

/-- The state of a written code word (16 R330, R339): its 32 bytes good, a corrected single-bit error, a double-bit error, or
indeterminate after an interrupted operation. -/
inductive WordState where
  | good | single | double | indeterminate
  deriving DecidableEq, Repr

/-- A code word of the array that is not in the erased state: data, written flag, error state (16 R330, R331). -/
structure CodeWord where
  data : BitVec 256
  written : Bool
  st : WordState
  deriving DecidableEq, Repr

/-- A distaff operation in progress (16 R332, R333): an erase or a program, from the DST block or a core, the word it targets (of an erase, any word of the
sector), the data of a program, and of an erase whether it is suspended and whether its sector has verified. -/
structure DistaffOp where
  erase : Bool
  byDst : Bool
  target : Nat
  data : BitVec 256
  suspended : Bool
  verified : Bool
  deriving DecidableEq, Repr

/-- The status of one path: DST_STAT or DST_FSTAT (16). -/
structure PathStat where
  done : Bool
  op : Nat
  err : Nat
  deriving DecidableEq, Repr

/-- Where the DST command sequence stands (16 R336): nothing, first key given, unlocked, command given, PROGRAM address given with
the number of data words written. -/
inductive DstSeq where
  | idle | halfKey | unlocked | cmd (c : Nat) | data (n : Nat)
  deriving DecidableEq, Repr

/-- The distaff: the array by code word, the operation in progress, and the DST registers (16). `wdogPending` is set when the
watchdog has fired and its reset waits for the operation (R340), with the clock at which it fired. `changed` lists the sectors erased since manufacture: in another one an unlisted word reads as shipped. `logA` and
`logB` count the entries written to the log regions. -/
structure Distaff where
  array : Tbl CodeWord
  current : Option DistaffOp
  addr : Nat
  data : BitVec 256
  stat : PathStat
  fstat : PathStat
  seq : DstSeq
  keyFails : Nat
  keyLocked : Bool
  pulses : Nat
  suspends : Nat
  ce : Nat
  wdogKind : Nat
  wdogDefer : Nat
  wdogSector : Nat
  wdogPending : Option Nat
  changed : List Nat
  logA : Nat
  logB : Nat
  deriving DecidableEq, Repr

/-! ### Keys, records, firmware (17) -/

/-- A live key record (17 R352): KIND, SLICE, STORE, HANDLE, GEN and the 64-byte secret, which only the key unit sees. -/
structure KeyRec where
  kind : Nat
  slice : Nat
  store : Nat
  handle : Nat
  gen : Nat
  secret : List Byte
  deriving DecidableEq, Repr

/-- A record of the commit regions (17 R357-R359): its place in the ring of 16 × 1,024 and whether it is valid in Commit A and in Commit B. -/
structure CommitRec where
  seq : Nat
  kind : Nat
  arg : Nat
  svn : Nat
  data : List Byte
  pos : Nat
  inA : Bool
  inB : Bool
  deriving DecidableEq, Repr

/-- The staging in progress (17 R360): bytes staged into the slot that is not running. -/
structure Staging where
  bytes : Nat
  deriving DecidableEq, Repr

/-- A full erase in progress (17 R345-R347): its command if it still waits for it, lowering or SANITISE, the step (0: preparing, no
marker yet), dies done, resumed after a reset. -/
structure Erase where
  op : Option Nat
  lowering : Bool
  step : Nat
  dies : Nat
  resumed : Bool
  deriving DecidableEq, Repr

/-- Levels, keys, firmware (17). `levelRec` is the level held in records, `fused2` the fuse, `counter` the anti-rollback counter;
`commitAt` is the next place of the commit rings; `slot`, `svn`, `fwDigest` describe the running image; `sanStep` is SEC_SAN.STEP when no erase is in progress (0 or 7). -/
structure Sec where
  loaded : Bool
  levelRec : Nat
  fused2 : Bool
  counter : Nat
  slot : Nat
  svn : Nat
  fwDigest : List Byte
  upd : Nat
  commits : List CommitRec
  commitAt : Nat
  staging : Option Staging
  erase : Option Erase
  sanStep : Nat
  sanKind : Bool
  sanResumed : Bool
  sanDies : Nat
  keys : List KeyRec
  srkGen : Nat
  nextHandle : Nat
  poolKeys : List Nat
  jtagSession : Bool
  deriving DecidableEq, Repr

/-! ### The strand fabric (11) -/

/-- The counters of a STR block (11). -/
structure LaneCounters where
  tx : Nat
  rx : Nat
  fecCorr : Nat
  fecUncorr : Nat
  crcErr : Nat
  replay : Nat
  retrain : Nat
  schedStall : Nat
  drop : Nat
  lateAck : Nat
  deriving DecidableEq, Repr

/-- A flit that waits to be sent: the buffer it holds meanwhile, as the logical link it came in on and the channel (0 VC0, 1 VC1, 2 management, 3 scheduled), none when this
node originates it; and, of the first flit of a packet of this node's flows, the destination and FSEQ of the packet. -/
structure QFlit where
  flit : Flit
  source : Option (Nat × Nat)
  pkt : Option (Nat × Nat)
  deriving DecidableEq, Repr

/-- The link state (11 R206-R213), kept at the lane of the lowest logical link: next SEQ to send, next SEQ expected, next SEQ not seen yet, flits not
acknowledged (oldest first), the SEQ NAKs name and how many in a row, waiting for a replay, STALL received and sent, credits held and to return (VC0, VC1,
management), scheduled flits buffered, flits received since the last acknowledgement, the clock at which ACKSEQ last advanced, the channel whose turn it is, and the
flits waiting to be sent in the order of R206 (0 MARKER, 1 NAK, 2 VOTE, 3 scheduled, 4 management, 5 and 6 VC0 and VC1); `turn` counts the flits striped (R204), `ahead` are
the flits that came ahead of their SEQ on another member, `held0`, `held1` and `heldM` the unscheduled and management flits in the buffers. -/
structure LinkState where
  nextSeq : Nat
  expect : Nat
  seen : Nat
  replayBuf : List Flit
  nakSeq : Nat
  nakRun : Nat
  waiting : Bool
  stallRx : Bool
  stallTx : Bool
  cr0 : Nat
  cr1 : Nat
  crM : Nat
  ret0 : Nat
  ret1 : Nat
  retM : Nat
  sched : Nat
  unacked : Nat
  ackAt : Nat
  turn1 : Bool
  queue : Tbl (List QFlit)
  turn : Nat
  ahead : List Flit
  held0 : Nat
  held1 : Nat
  heldM : Nat
  deriving DecidableEq, Repr

/-- A strand lane (11 STR registers): STR_CTRL, the FEC mode, bond and loop in use, STR_STAT fields that are state, what training learned, its link and
counters, the payloads of packets and transfers in arrival per class and channel, and the flits sent; `trained` since it was last taken down, `downSaid` LINK_DOWN has
been posted and LINK_UP not yet, `beatTx` the flits sent when the beat began. -/
structure Lane where
  en : Bool
  ctrlFec : Bool
  ctrlBond : Nat
  ctrlLoop : Bool
  bond : Nat
  loop : Bool
  up : Bool
  retraining : Bool
  fecLL : Bool
  cfgErr : Bool
  long : Bool
  trainFails : Nat
  peer : Nat
  farLogical : Nat
  valid : Bool
  delay : Nat
  link : LinkState
  ctr : LaneCounters
  rxbuf : Tbl (List Byte)
  sent : List Flit
  trained : Bool
  downSaid : Bool
  beatTx : Nat
  deriving DecidableEq, Repr

/-- The flow from this node to a destination (11 R216, R220, R225): EPOCH, next FSEQ, SYNC due on the next packet, a transaction of this round
timed out, and the ROUTE of the packets in flight. -/
structure SrcFlow where
  epoch : Nat
  fseq : Nat
  syncDue : Bool
  timedOut : Bool
  route : Nat
  deriving DecidableEq, Repr

/-- The flow from a source to this node (11 R220): expected EPOCH and FSEQ. -/
structure DstFlow where
  epoch : Nat
  fseq : Nat
  deriving DecidableEq, Repr

/-- One packet of an outstanding transaction: its FSEQ once sent, its offset in the transfer, the bytes it carries or asks for, the data, whether it is
acknowledged and with what status, and, of a read request, whether its response has come. -/
structure TxPkt where
  fseq : Option Nat
  offset : Nat
  bytes : Nat
  data : List Byte
  acked : Bool
  got : Bool
  status : Nat
  deriving DecidableEq, Repr

/-- What a strand transaction serves: a strand descriptor, an entry of a gather, a card shard request, or an answer this device owes another
(11 R222-R225, 12 R246, R247). -/
inductive TxnKind where
  | single | gather | shard | answer
  deriving DecidableEq, Repr

/-- A strand transaction outstanding, or ended and waiting for its flow's order (11 R222-R225). `op` is its operation, `entry` the gather entry or shard;
`opc` the OP of its packets; `leftAt` the clock at which its first packet left; `ended` the status and DETAIL once known. -/
structure Txn where
  kind : TxnKind
  op : Nat
  entry : Nat
  slice : Nat
  node : Nat
  opc : Nat
  ep : Nat
  key : Nat
  rop : Nat
  roff : Nat
  pkts : List TxPkt
  port : Nat
  ltier : Nat
  laddr : Nat
  leftAt : Option Nat
  timeout : Nat
  ended : Option (Nat × Nat)
  deriving DecidableEq, Repr

/-- An endpoint (11 R218); `card` is the index of a card endpoint (12 R234). -/
structure Endpoint where
  slice : Nat
  tier : Nat
  perm : Nat
  key : Nat
  base : Nat
  size : Nat
  peer : Nat
  sem : Option Nat
  ivec : Option Nat
  port : Nat
  card : Option Nat
  closing : Bool
  deriving DecidableEq, Repr

/-- The strand fabric (11): lanes by physical index, node number and routing, flows (management flows at node + 2^18), transactions in order of issue,
endpoints, packets of this node to itself, and management packets received (log entry 22); `waiting` the packets accepted and not yet served, each with the status of its
admission (R218, R220); `vtime` and `finish` the arbiter's time and each slice's share of it (15 R311). -/
structure Strand where
  lanes : Tbl Lane
  node : Nat
  table : Bool
  sides : List Nat
  routes : Tbl Nat
  src : Tbl SrcFlow
  dst : Tbl DstFlow
  txns : List Txn
  eps : Tbl Endpoint
  here : List Packet
  mgmt : List Packet
  waiting : List (Packet × Nat)
  vtime : Nat
  finish : Tbl Nat
  deriving DecidableEq, Repr

/-! ### The card engine (12) -/

/-- An item of an index (12 R235). -/
structure Item where
  id : Nat
  cluster : Nat
  sketch : List Byte
  vector : List Byte
  attr : List Byte
  deriving DecidableEq, Repr

/-- An index (12 R234-R240): `current` is the epoch queries read, `pending` the one that receives changes; `dropping` the CARD_DROP that has started (R250). -/
structure Index where
  slice : Nat
  store : Nat
  sbits : Nat
  vfmt : Nat
  d : Nat
  rb : Nat
  ncluster : Nat
  ep : Option Nat
  key : Nat
  peer : Nat
  centroids : List (List Byte)
  epoch : Nat
  current : List Item
  pending : List Item
  dropping : Option Nat
  deriving DecidableEq, Repr

/-- A candidate: the sketch distance or the distance key as FP32 bits, and the id. -/
structure Cand where
  dist : Nat
  id : Nat
  shard : Nat
  deriving DecidableEq, Repr

/-- A predicate term with its bitmap (12 R230). -/
structure Term where
  off : Nat
  width : Nat
  type : Nat
  op : Nat
  neg : Bool
  a : Nat
  b : Nat
  bitmap : List Byte
  deriving DecidableEq, Repr

/-- What a remote shard answered (12 R247): a status, its epoch, NaN count and the K entries per query. -/
structure ShardAnswer where
  shard : Nat
  status : Nat
  epoch : Nat
  nan : Nat
  results : List (List Cand)
  deriving DecidableEq, Repr

/-- One query of a batch: its sketch, its vector and the clusters it probes (12 R241). -/
structure QuerySpec where
  sketch : List Byte
  vector : List Byte
  probes : List Nat
  deriving DecidableEq, Repr

/-- What a FILTER_SCAN scans and has found: map units done and failed, matching rows with their bytes (12 R231-R233). -/
structure Scan where
  store : Nat
  omode : Nat
  rowBytes : Nat
  sector : Nat
  rows : Nat
  maxRows : Nat
  done : List Nat
  failed : List Nat
  hits : List (Nat × List Byte)
  deriving DecidableEq, Repr

/-- Where the answer of a shard request goes: node, endpoint, key, and the query and shard it names there (12 R246). -/
structure ShardFrom where
  node : Nat
  ep : Nat
  key : Nat
  query : Nat
  shard : Nat
  deriving DecidableEq, Repr

/-- A FILTER_SCAN, CARD_QUERY or admitted shard request in progress (12). `op` is its operation, for a shard request its place in flight; `slice` owns the
index or store. `items` is the epoch it sees; `waiting` lists bobbins whose pass is not done; `cands` per query, `todo` the candidates still to be
re-ranked, `ranked` what is found per query; `localStatus` and `localResult` once the local part has ended; `halted` counts beats of a compute halt. -/
structure Query where
  op : Nat
  slice : Nat
  index : Nat
  remote : Option ShardFrom
  scan : Option Scan
  metric : Nat
  vfmt : Nat
  k : Nat
  c : Nat
  itemBytes : Nat
  deadline : Nat
  epoch : Nat
  specs : List QuerySpec
  terms : List Term
  items : List Item
  waiting : List Nat
  cands : List (List Cand)
  todo : List (Nat × Cand)
  cmp : Nat
  nan : Nat
  ranked : List (List Cand)
  started : Bool
  expired : Bool
  localStatus : Option Nat
  localResult : Nat
  shards : List (Nat × Nat × Nat)
  answers : List ShardAnswer
  oaddr : Nat
  halted : Nat
  deriving DecidableEq, Repr

/-- What the fetch of a FILTER_SCAN or CARD_QUERY fixes (12 R230, R239, R244): the bytes of its term list and the terms, where the partner held no line of them;
the epoch and items of its index; and the beats of a compute halt since then. -/
structure CardSnap where
  list : Option (List Byte × List Term)
  seen : Option (Nat × List Item)
  halted : Nat
  deriving DecidableEq, Repr

/-- The card engine: indexes by handle, queries and scans in progress, shard messages in arrival by source node × 4,096 + endpoint, and what the fetch of
each open query and scan fixed, by operation. -/
structure Card where
  indexes : Tbl Index
  queries : List Query
  nextHandle : Nat
  arriving : Tbl (List Byte)
  snaps : Tbl CardSnap
  deriving DecidableEq, Repr

/-! ### Sideband and JTAG (21) -/

/-- The sideband target (21 R407, R408): dynamic address, in-band interrupts enabled, the offset of a read request, in-band interrupts
raised, the level of ALERT_N it last saw, and the last bytes it returned. -/
structure Sideband where
  dynAddr : Option (BitVec 7)
  ibiEnabled : Bool
  readOff : Option Nat
  ibis : Nat
  alertSeen : Bool
  answer : List Byte
  deriving DecidableEq, Repr

/-- The JTAG instruction selected (21 R409). -/
inductive JtagIr where
  | bypass | idcode | sample | extest | extestPulse | extestTrain | clamp | highz | debug
  deriving DecidableEq, Repr

/-- The JTAG port (21 R409): instruction, data register shifted out, boundary cells, what the lands do. -/
structure Jtag where
  ir : JtagIr
  dr : List Bool
  cells : List Bool
  drive : Nat
  debugOut : List Byte
  deriving DecidableEq, Repr

/-! ### The whole state -/

/-- The state of the block. `pending` is the queue of waiting commands, `free` counts free values drawn, `clock` the beats since
cold reset, `opSeq` the descriptors fetched; `latch` and `readData` belong to the requesters (20 R395). `meterQueue` holds the meter records
waiting to be written, unsigned, by slice; `meterGaps` the slices whose next record written carries GAP (15 R327). -/
structure State where
  pending : List Instr
  free : Nat
  clock : Nat
  opSeq : Nat
  latch : Tbl Word
  readData : Tbl Word
  glb : Glb
  ports : Tbl Port
  ops : Tbl Op
  pwr : Pwr
  pins : Pins
  trd : Trd
  sec : Sec
  dst : Distaff
  slices : Tbl Slice
  sched : Tbl SpindleSched
  rotation : Option Rotation
  nextRotation : Option Rotation
  meterRing : Option MeterRing
  meterQueue : List (Nat × List Byte)
  meterGaps : List Nat
  boot : Nat
  spindles : Tbl Spindle
  skeins : Tbl Skein
  drafts : Tbl Draft
  nextHandle : Nat
  jobs : Tbl Job
  plies : Tbl Ply
  bobbins : Tbl Bobbin
  journal : Journal
  stores : Tbl Store
  fences : List StorageFence
  selfTest : Option SelfTest
  strand : Strand
  card : Card
  ras : Ras
  memStacks : List Stack
  mem : MemCounters
  sideband : Sideband
  jtag : Jtag
  deriving DecidableEq, Repr

/-- Faults: a step that stops the machine. The spec gives every command of the table an effect or none, so no meaning of this model
raises one; the constructor names what would (safe: no run reaches it). -/
inductive Fault where
  | noSuchAddress   -- an access to an address the spec says does not exist; nothing raises it (safe)
  deriving DecidableEq, Repr

/-- Refusals: a command without a meaning. -/
inductive Refusal where
  | notModelled (mnemonic : String)   -- raised by an arm of Dispatch.lean that has no meaning yet; safe: the run stops
  deriving DecidableEq, Repr

/-! ### Reset values -/

/-- A port at cold reset (02 tables; log entry 9 for the rest). -/
def Port.zero : Port where
  regs := { asq := 0, acq := 0, evt := 0, adb := 0, asize := 0, en := false, poll := true, admIvec := 0, evtIvec := 0,
            rdy := false, run := false, cfgErr := false, teardown := false }
  link := { up := false, lowRate := false, lanesOk := 0, spareFor := 0xF, holdBeats := 100000, lostAt := none, failed := 0 }
  sqs := []
  cqs := []
  evtRing := none
  held := []
  dropped := 0
  evtLost := 0
  irqs := []
  window := none
  winLost := 0
  lines := []
  recalls := []
  served := []
  mem := []
  homeErr := []

/-- An empty rank context: the scrubbed state of 15 R317. -/
def Ctx.zero : Ctx where
  scratch := []
  bank := []
  vreg := []
  masked := []
  x := []
  blocks := []
  bandq := []
  issued := []
  sigs := []
  pos := 0
  loop := none
  serial := 0

/-- A spindle at cold reset (03 SPN_STAT). -/
def Spindle.zero : Spindle where
  failed := false
  band := 0
  ctr := { busy := 0, frz := 0, feed := 0, drain := 0, weight := 0, mac := 0, blocks := 0, wrap := 0, ce := 0, sat := 0,
           req := 0, qnan := 0, finBusy := 0 }
  accFlt := none
  ctx := Ctx.zero
  rank := none
  affinity := []

/-- A link that begins: sequence space and credits afresh (11 R210, R227). -/
def LinkState.zero : LinkState where
  nextSeq := 0
  expect := 0
  seen := 0
  replayBuf := []
  nakSeq := 0
  nakRun := 0
  waiting := false
  stallRx := false
  stallTx := false
  cr0 := 192
  cr1 := 192
  crM := 32
  ret0 := 0
  ret1 := 0
  retM := 0
  sched := 0
  unacked := 0
  ackAt := 0
  turn1 := false
  queue := []
  turn := 0
  ahead := []
  held0 := 0
  held1 := 0
  heldM := 0

/-- A lane at cold reset (11 STR_CTRL, STR_STAT, STR_PEER; R210 for the credits). -/
def Lane.zero : Lane where
  en := true
  ctrlFec := false
  ctrlBond := 0
  ctrlLoop := false
  bond := 0
  loop := false
  up := false
  retraining := false
  fecLL := false
  cfgErr := false
  long := false
  trainFails := 0
  peer := 0
  farLogical := 0x7F
  valid := false
  delay := 0
  link := LinkState.zero
  ctr := { tx := 0, rx := 0, fecCorr := 0, fecUncorr := 0, crcErr := 0, replay := 0, retrain := 0, schedStall := 0,
           drop := 0, lateAck := 0 }
  rxbuf := []
  sent := []
  trained := false
  downSaid := false
  beatTx := 0

/-- A physical block as shipped: free, never erased in service (log entry 18). -/
def FBlock.zero : FBlock where
  st := .free
  mode := 0
  wear := 0
  gained := []

/-- Die d of a bobbin before boot sets its role (13 BOB_DIE_STAT; log entry 9). -/
def Die.zero : Die where
  st := 0
  role := 0xF
  bad := 0
  today := 0
  day := 0
  answering := true
  posted := false
  busy := none
  suspends := 0

/-- A bobbin as shipped (13; log entries 9, 18). -/
def Bobbin.zero : Bobbin where
  ctr := { read := 0, prog := 0, move := 0, retired := 0, pfail := 0, efail := 0, uncorr := 0, refresh := 0, migrate := 0,
           throttle := 0, wearMax := 0, life := 0, lost := 0, cardBytes := 0, cardCmp := 0, cardPass := 0 }
  foreground := false
  readOnly := false
  migrating := none
  dies := []
  blocks := []
  pages := []
  groups := []
  refreshQ := []
  lifeLow := false
  since := 0
  progDays := []
  spares := []
  moves := []
  refused := false
  passes := []

/-- A meter record that begins at a beat (15 R326). -/
def Meter.zero (seq begin_ : Nat) : Meter where
  seq := seq
  begin_ := begin_
  short := false
  holdover := false
  restart := false
  spindle := 0
  switch_ := 0
  band := 0
  flashRead := 0
  flashWrite := 0
  flashMove := 0
  strandTx := 0
  strandRx := 0
  cardCmp := 0
  pageBeats := 0
  overrun := 0
  deducted := 0
  jobsDone := 0
  holds := 0

/-- The factory spindle map: logical spindles on the physical positions of 01 that are not factory spares (log entry 4). -/
def factorySpindles : List MapEntry :=
  ((List.range 52).filter (fun p => p ≠ 12 ∧ p ≠ 25 ∧ p ≠ 38 ∧ p ≠ 51)).map (fun p => { phys := p, st := 0, pend := 0x7F })

/-- The factory core map (01, log entry 4). -/
def factoryCores : List MapEntry := (List.range 4).map (fun c => { phys := c, st := 0, pend := 0x7F })

/-- The factory lane map: links 0-47 on strand die A, 48-95 on die B (01, 11; log entry 4). -/
def factoryLanes : List MapEntry :=
  (List.range 96).map (fun l => { phys := if l < 48 then l else l + 4, st := 0, pend := 0x7F })

/-- A stack at cold reset (20, 18; log entry 4 for the spares). -/
def Stack.zero : Stack where
  trained := false
  sref := false
  temp := 0
  hot := false
  ce := 0
  ue := 0
  spare32 := none
  spare33 := none
  rowsLeft := 255
  uncorr := []
  copying := none

/-- The state right after a cold reset: every register at the value its table gives, everything volatile empty, the device structures
and the distaff as shipped (log entries 4, 9, 24). -/
def State.reset : State where
  pending := []
  free := 0
  clock := 0
  opSeq := 0
  latch := []
  readData := []
  glb := { cz1200 := false, slotId := 0, fwver := 0, stage := 0, held := false, subject := [], i3cSa := 0x08, i2cEn := true,
           sbWrite := true, scratch := [], lock := false }
  ports := []
  ops := []
  pwr := { state := 0, target := 0, flushOk := false, lastReset := 0, limit := 2, idle1 := 100, idle2 := 2000,
           idle3 := 100000, idle4 := 0, exitLate := 0, flushUs := 0, flushMj := 0, pendLimit := none, pendIdle := [],
           heldPs0 := false, entering := none, idleSince := [] }
  pins := { pwrGood := true, coldRstN := true, holdupOk := false, thermN := true, throttle := false }
  trd := { beat := 0, subbeat := 0, refSel := false, locked := false, holdover := false, refA := false, refB := false,
           epochA := false, epochB := false, numbered := false, plied := false, skewOk := false, skew := 0, hops := 0,
           switchCnt := 0, epochSlip := 0, suspend := 0, lastEpochA := none, lastEpochB := none, holdoverAt := none, lockTo := none,
           skewBeats := 0, load := none }
  sec := { loaded := false, levelRec := 1, fused2 := false, counter := 0, slot := 0, svn := 0, fwDigest := [], upd := 0,
           commits := [{ seq := 0, kind := 3, arg := 1, svn := 0, data := List.replicate 16 0, pos := 0, inA := true, inB := true },
                    { seq := 1, kind := 1, arg := 0, svn := 0, data := List.replicate 16 0, pos := 1, inA := true, inB := true }],
           commitAt := 2,
           staging := none, erase := none, sanStep := 0, sanKind := false, sanResumed := false, sanDies := 0, keys := [],
           srkGen := 0, nextHandle := 1, poolKeys := [], jtagSession := false }
  dst := { array := [], current := none, addr := 0, data := 0, stat := { done := false, op := 0, err := 0 },
           fstat := { done := false, op := 0, err := 0 }, seq := .idle, keyFails := 0, keyLocked := false, pulses := 0,
           suspends := 0, ce := 0, wdogKind := 0, wdogDefer := 0, wdogSector := 0, wdogPending := none,
           changed := [], logA := 0, logB := 0 }
  slices := []
  sched := []
  rotation := none
  nextRotation := none
  meterRing := none
  meterQueue := []
  meterGaps := []
  boot := 0
  spindles := []
  skeins := []
  drafts := []
  nextHandle := 1
  jobs := []
  plies := []
  bobbins := []
  journal := { records := [], jseq := 0, wseq := 0, pages := [], checkpoint := 0, checkpointAt := 0 }
  stores := []
  fences := []
  selfTest := none
  strand := { lanes := [], node := 0, table := false, sides := [1, 1, 1, 1, 1, 1], routes := [], src := [], dst := [],
              txns := [], eps := [], here := [], mgmt := [], waiting := [], vtime := 0, finish := [] }
  card := { indexes := [], queries := [], nextHandle := 1, arriving := [], snaps := [] }
  ras := { halted := false, resuming := false, faultSpn := 0x3F, faultKind := 0, badAcc := 0, logSeq := 0, ceThresh := 1000,
           log := [], mapSpn := factorySpindles, mapCore := factoryCores, mapStr := factoryLanes,
           rails := List.replicate 16 { out := 0, failed := [] }, ceMinute := [], cePosted := [], minute := 0,
           faultyCores := [], choices := [], pendingRepairs := [], coreFault := none }
  memStacks := List.replicate 4 Stack.zero
  mem := { evict := 0, park := 0, restore := 0, pfSkip := 0, demand := 0 }
  sideband := { dynAddr := none, ibiEnabled := false, readOff := none, ibis := 0, alertSeen := false, answer := [] }
  jtag := { ir := .idcode, dr := [], cells := [], drive := 0, debugOut := [] }

end Sys2Proof.Machine
end

