-- ==== Sys2Proof/Machine/Table.lean ====
section
/-! DEFINITION. Sparse tables, byte memories and the byte-order helpers (00 R4: every field is little-endian). -/

namespace Sys2Proof.Machine

/-! ### Tables -/

/-- The entry of a key, if listed. -/
def lookup {α : Type} : Tbl α → Nat → Option α
  | [], _ => none
  | (k, v) :: t, n => if n = k then some v else lookup t n

/-- The table without a key. -/
def removeKey {α : Type} : Tbl α → Nat → Tbl α
  | [], _ => []
  | (k, v) :: t, n => if n = k then removeKey t n else (k, v) :: removeKey t n

/-- The table with a key set, in rising key order. -/
def insertKey {α : Type} : Tbl α → Nat → α → Tbl α
  | [], n, x => [(n, x)]
  | (k, v) :: t, n, x =>
    if n < k then (n, x) :: (k, v) :: t
    else if n = k then (n, x) :: t
    else (k, v) :: insertKey t n x

/-- What a key reads as: its entry, or the default of the table. -/
def readD {α : Type} (d : α) (t : Tbl α) (n : Nat) : α := (lookup t n).getD d

/-- The table with a key reading as a value; the default removes the entry. -/
def writeD {α : Type} [DecidableEq α] (d : α) (t : Tbl α) (n : Nat) (x : α) : Tbl α :=
  if x = d then removeKey t n else insertKey t n x

/-- Keys strictly rising. -/
def rising {α : Type} : Tbl α → Bool
  | [] => true
  | [_] => true
  | (k, _) :: (k', v') :: t => decide (k < k') && rising ((k', v') :: t)

/-- The canonical form of a table with a default: keys strictly rising, no entry equal to the default. -/
def Tbl.wf {α : Type} [DecidableEq α] (d : α) (t : Tbl α) : Bool := rising t && t.all (fun e => decide (e.2 ≠ d))

/-- The canonical form of a memory (MEMORY: unlisted bytes read zero). -/
def Memory.wf (m : Mem) : Bool := Tbl.wf (0#8) m

/-- The table with the entry of a listed key changed. -/
def adjust {α : Type} (t : Tbl α) (n : Nat) (f : α → α) : Tbl α := t.map (fun e => if e.1 = n then (e.1, f e.2) else e)

/-- The keys listed. -/
def keys {α : Type} (t : Tbl α) : List Nat := t.map Prod.fst

/-- The smallest key from `n` on that is not listed (fuel: the table's length). -/
def freshKey {α : Type} (t : Tbl α) : Nat → Nat → Nat
  | 0, n => n
  | k + 1, n => if (lookup t n).isSome then freshKey t k (n + 1) else n

/-! ### Bytes -/

/-- A byte of a memory. -/
def readByte (m : Mem) (a : Nat) : Byte := readD 0#8 m a

/-- A memory with one byte written. -/
def writeByte (m : Mem) (a : Nat) (b : Byte) : Mem := writeD 0#8 m a b

/-- `n` bytes from an address, in ascending address order. -/
def readBytes (m : Mem) (a n : Nat) : List Byte := (List.range n).map (fun i => readByte m (a + i))

/-- Bytes written from an address, in ascending address order. -/
def writeBytes (m : Mem) : Nat → List Byte → Mem
  | _, [] => m
  | a, b :: bs => writeBytes (writeByte m a b) (a + 1) bs

/-- A memory with a range of bytes zero. -/
def zeroRange (m : Mem) (a n : Nat) : Mem := m.filter (fun e => e.1 < a || a + n ≤ e.1)

/-- The bytes of a range of a memory, moved to start at zero. -/
def sliceRange (m : Mem) (a n : Nat) : Mem := (m.filter (fun e => a ≤ e.1 && e.1 < a + n)).map (fun e => (e.1 - a, e.2))

/-- A memory with a range replaced by another memory's bytes from zero on. -/
def pasteRange (m : Mem) (a n : Nat) (src : Mem) : Mem :=
  (zeroRange m a n).filter (fun e => e.1 < a) ++ (src.filter (fun e => e.1 < n)).map (fun e => (e.1 + a, e.2)) ++
    m.filter (fun e => a + n ≤ e.1)

/-- The number that bytes spell, least significant first. -/
def leNat : List Byte → Nat
  | [] => 0
  | b :: bs => b.toNat + 256 * leNat bs

/-- `n` bytes of a number, least significant first. -/
def leBytes : Nat → Nat → List Byte
  | 0, _ => []
  | n + 1, v => BitVec.ofNat 8 v :: leBytes n (v / 256)

/-- Bytes `off` to `off + n - 1` of a list; short where the list ends. -/
def cut (bs : List Byte) (off n : Nat) : List Byte := (bs.drop off).take n

/-- The field of `n` bytes at `off`, as a number. -/
def field (bs : List Byte) (off n : Nat) : Nat := leNat (cut bs off n)

/-- Bits `lo` to `lo + n - 1` of a number. -/
def bits (v lo n : Nat) : Nat := v / 2 ^ lo % 2 ^ n

/-- Bit `i` of a number. -/
def bit (v i : Nat) : Bool := v / 2 ^ i % 2 = 1

/-- A list with element `n` replaced. -/
def setAt {α : Type} (l : List α) (n : Nat) (x : α) : List α := l.set n x

/-- The little-endian number a memory holds. -/
def readNat (m : Mem) (a n : Nat) : Nat := leNat (readBytes m a n)

/-- A number written little-endian. -/
def writeNat (m : Mem) (a n v : Nat) : Mem := writeBytes m a (leBytes n v)

/-- A count that saturates at 2^32 − 1. -/
def sat32 (n : Nat) : Nat := min n 0xFFFFFFFF

/-- Rounded up division. -/
def ceilDiv (a b : Nat) : Nat := (a + b - 1) / b

/-- `a` rounded up to a multiple of `b`. -/
def roundUp (a b : Nat) : Nat := ceilDiv a b * b

/-- A Boolean as a bit. -/
def b2n (b : Bool) : Nat := if b then 1 else 0

/-- A 16-, 32- or 64-bit two's-complement number read as an integer. -/
def signed (w v : Nat) : Int := if v % 2 ^ w < 2 ^ (w - 1) then (v % 2 ^ w : Int) else (v % 2 ^ w : Int) - 2 ^ w

/-- An integer as its two's-complement number of `w` bits. -/
def unsigned (w : Nat) (i : Int) : Nat := (i % (2 ^ w : Int)).toNat

end Sys2Proof.Machine
end

