-- ==== Sys2Proof/Machine/Ops.lean ====
section
/-! DEFINITION. The named operations the meanings share: elements of the state, the RAS log, events and completions (02), starting
an operation, waking the device (19 R383). -/

namespace Sys2Proof.Machine

/-! ### Status codes (02 "The status codes") -/

def stOk : Nat := 0x00
def stEmpty : Nat := 0x01
def stPartial : Nat := 0x02
def stShapeOver : Nat := 0x10
def stBadDescriptor : Nat := 0x11
def stBounds : Nat := 0x12
def stSeedMissing : Nat := 0x13
def stStepLong : Nat := 0x14
def stLost : Nat := 0x20
def stAborted : Nat := 0x21
def stLate : Nat := 0x22
def stMedia : Nat := 0x30
def stWriteFault : Nat := 0x31
def stReprogram : Nat := 0x32
def stDenied : Nat := 0x40
def stLocked : Nat := 0x41
def stSplit : Nat := 0x50
def stFlowTimeout : Nat := 0x51
def stSlotIncomplete : Nat := 0x62

/-! ### Elements of the state -/

/-- The bobbins fitted (00 R2). -/
def nBobbins (s : State) : Nat := if s.glb.cz1200 then 8 else 16

/-- Port p. -/
def getPort (s : State) (p : Nat) : Port := readD Port.zero s.ports p
/-- Port p changed. -/
def modPort (s : State) (p : Nat) (f : Port → Port) : State :=
  { s with ports := writeD Port.zero s.ports p (f (getPort s p)) }

/-- Physical spindle n. -/
def getSpn (s : State) (n : Nat) : Spindle := readD Spindle.zero s.spindles n
/-- Physical spindle n changed. -/
def modSpn (s : State) (n : Nat) (f : Spindle → Spindle) : State :=
  { s with spindles := writeD Spindle.zero s.spindles n (f (getSpn s n)) }

/-- Bobbin b. -/
def getBob (s : State) (b : Nat) : Bobbin := readD Bobbin.zero s.bobbins b
/-- Bobbin b changed. -/
def modBob (s : State) (b : Nat) (f : Bobbin → Bobbin) : State :=
  { s with bobbins := writeD Bobbin.zero s.bobbins b (f (getBob s b)) }

/-- Strand lane n. -/
def getLane (s : State) (n : Nat) : Lane := readD Lane.zero s.strand.lanes n
/-- Strand lane n changed. -/
def modLane (s : State) (n : Nat) (f : Lane → Lane) : State :=
  { s with strand := { s.strand with lanes := writeD Lane.zero s.strand.lanes n (f (getLane s n)) } }

/-- Slice n changed, if it exists. -/
def modSlice (s : State) (n : Nat) (f : Slice → Slice) : State := { s with slices := adjust s.slices n f }

/-- Job j changed, if it is there. -/
def modJob (s : State) (j : Nat) (f : Job → Job) : State := { s with jobs := adjust s.jobs j f }

/-- Store n changed, if it exists. -/
def modStore (s : State) (n : Nat) (f : Store → Store) : State := { s with stores := adjust s.stores n f }

/-- The physical spindle behind a logical one (01 R8, RAS_MAP_SPN); none when none is bound. -/
def physOf (s : State) (l : Nat) : Option Nat :=
  match s.ras.mapSpn[l]? with
  | some e => if e.phys < 52 then some e.phys else none
  | none => none

/-- The logical spindle a physical one serves. -/
def logicalOf (s : State) (p : Nat) : Option Nat := s.ras.mapSpn.findIdx? (fun e => e.phys = p)

/-- A logical spindle is withdrawn (18 R374 OPT 2). -/
def withdrawn (s : State) (l : Nat) : Bool :=
  match s.ras.mapSpn[l]? with
  | some e => e.st = 2 || e.phys ≥ 52
  | none => true

/-- The physical lane behind a logical link; none when none is bound. -/
def laneOf (s : State) (l : Nat) : Option Nat :=
  match s.ras.mapStr[l]? with
  | some e => if e.phys < 104 then some e.phys else none
  | none => none

/-- The logical link of a physical lane, 0x7F if none (11 STR_STAT). -/
def linkOf (s : State) (n : Nat) : Nat := (s.ras.mapStr.findIdx? (fun e => e.phys = n)).getD 0x7F

/-- The logical cores running (18 RAS_STAT.CORES_RUN): those bound to a core that has not faulted, once firmware runs. -/
def coresRun (s : State) : Nat :=
  if s.glb.stage < 4 then 0
  else (s.ras.mapCore.filter (fun e => e.phys < 6 && e.st ≠ 2 && !(s.ras.faultyCores.contains e.phys))).length

/-- The device level (17 R342). -/
def level (s : State) : Nat := if s.sec.fused2 then 2 else s.sec.levelRec

/-- A full erase has passed its marker (17 R346, SEC_LEVEL.ERASING). -/
def erasing (s : State) : Bool :=
  match s.sec.erase with
  | some e => e.step ≠ 0
  | none => false

/-- A slice is in a ply (10 R197). -/
def anyPly (s : State) : Bool := !s.plies.isEmpty

/-- Draw the next free value (log entry 5). -/
def draw (s : State) : Nat × State := (Config.freeNat s.free, { s with free := s.free + 1 })

/-! ### ALERT_N (21 R406, R407) -/

/-- N of a rail (log entry 4). -/
def railN (r : Nat) : Nat := Config.railPhases r % 15

/-- Phases of a rail that work: N + 2 in all, less those failed and those mapped out. -/
def workingPhases (s : State) (r : Nat) : Nat :=
  match s.ras.rails[r]? with
  | some x => ((List.range (railN r + 2)).filter (fun k => !x.out.getLsbD k && !x.failed.contains k)).length
  | none => 0

/-- ALERT_N is driven low (21 R406). -/
def alert (s : State) : Bool :=
  s.ras.halted || coresRun s < 4 || s.pins.throttle || (List.range (nBobbins s)).any (fun b => (getBob s b).readOnly) || !s.pins.holdupOk ||
  (List.range 16).any (fun r => workingPhases s r < railN r)

/-- The level of ALERT_N is noted: at each assertion the sideband target raises an in-band interrupt while those are enabled (21 R407). -/
def noteAlert (s : State) : State :=
  let a := alert s
  { s with sideband := { s.sideband with alertSeen := a, ibis := if a && !s.sideband.alertSeen && s.sideband.ibiEnabled then s.sideband.ibis + 1 else s.sideband.ibis } }

/-! ### The RAS log (18 R379) -/

/-- Log an entry; an equal entry of the same beat is merged. -/
def logRas (s : State) (source type index store addr : Nat) : State :=
  let same : LogEntry → Bool := fun e =>
    e.beat = s.trd.beat && e.source = source && e.type = type && e.index = index && e.store = store && e.addr = addr
  if s.ras.log.any same then
    { s with ras := { s.ras with log := s.ras.log.map (fun e => if same e then { e with count := min (e.count + 1) 0xFFFF } else e) } }
  else
    let e : LogEntry := { seq := s.ras.logSeq + 1, beat := s.trd.beat, source := source, type := type, index := index,
                          count := 1, store := store, addr := addr, copied := false }
    { s with ras := { s.ras with logSeq := s.ras.logSeq + 1, log := (e :: s.ras.log).take 1024 } }

/-- A bad control-space access: ignored, counted and logged (01 R15). -/
def badAccess (s : State) (off : Nat) : State :=
  let s := { s with ras := { s.ras with badAcc := sat32 (s.ras.badAcc + 1) } }
  logRas s 9 3 0 0 off

/-! ### Completion and event rings (02 R30, R31, R34, R35) -/

/-- A ring may take an entry: out of fault, with fewer than size − 1 entries unread (R34). -/
def ringRoom (r : CompRing) : Bool := !r.fault && (r.slot + r.size - r.head) % r.size < r.size - 1

/-- The ring after an entry was written: the next slot, PHASE inverted on the wrap to slot 0 (R30). -/
def ringNext (r : CompRing) : CompRing :=
  if r.slot + 1 < r.size then { r with slot := r.slot + 1 } else { r with slot := 0, phase := !r.phase }

/-- Count a posted entry for the ring's interrupt; true when a message is sent now (R31). -/
def ringSignal (r : CompRing) (clock : Nat) : CompRing × Bool :=
  if r.ivec.isNone then (r, false)
  else if r.coalBeats = 0 || r.unsig + 1 ≥ r.coalCount then ({ r with unsig := 0 }, true)
  else ({ r with unsig := r.unsig + 1, unsigAt := if r.unsig = 0 then clock else r.unsigAt }, false)

/-- Send the interrupt message of a ring when asked (R31). -/
def sendIrq (x : Port) (r : CompRing) (send : Bool) : Port :=
  match r.ivec, send with
  | some v, true => { x with irqs := x.irqs ++ [v] }
  | _, _ => x

/-- The 16 bytes of an event entry (02 "The event entry"). -/
def eventBytes (e : Event) (phase : Bool) : List Byte :=
  leBytes 2 e.code ++ leBytes 1 e.slice ++ leBytes 1 (b2n phase) ++ leBytes 4 e.detail ++ leBytes 8 e.beat

/-- Write an event into a port's event ring and signal it. -/
def writeEvent (x : Port) (r : CompRing) (e : Event) (clock : Nat) : Port :=
  let mem := writeBytes x.mem (r.base + 16 * r.slot) (eventBytes e r.phase)
  let (r', send) := ringSignal (ringNext r) clock
  sendIrq { x with mem := mem, evtRing := some r' } r' send

/-- Post an event on a port whose link is up: into the ring, or dropped and counted (R35). -/
def deliverEvent (x : Port) (e : Event) (clock : Nat) : Port :=
  match x.evtRing with
  | some r =>
    if ringRoom r then writeEvent x r e clock
    else { x with dropped := x.dropped + 1, evtLost := sat32 (x.evtLost + 1) }
  | none => x

/-- An event meets one port: nothing if it does not run, held while its link is lost (R35, R39). -/
def eventOn (x : Port) (e : Event) (clock : Nat) : Port :=
  if !x.regs.run then x
  else if x.link.lostAt.isSome then { x with held := x.held ++ [.event e] }
  else deliverEvent x e clock

/-- An event meets every port but those in `skip`. -/
def spreadEvent (s : State) (skip : List Nat) (e : Event) : State :=
  [0, 1, 2, 3].foldl (fun s p => if skip.contains p then s else modPort s p (fun x => eventOn x e s.clock)) s

/-- EVENTS_LOST, with the number dropped on a port, once that port's event ring is out of fault and has room again; like every event it goes to every running
port (R35). -/
def reportDropped (s : State) (p : Nat) : State :=
  let x := getPort s p
  if x.regs.run && x.link.lostAt.isNone && x.dropped ≠ 0 && x.evtRing.any ringRoom then
    spreadEvent (modPort s p (fun x => { x with dropped := 0 })) [] { code := 0x13, slice := 0xFF, detail := sat32 x.dropped, beat := s.trd.beat }
  else s

/-- Post an event on every running port but those in `skip`, behind the EVENTS_LOST that are due (R35). -/
def postEventBut (s : State) (skip : List Nat) (code slice detail : Nat) : State :=
  spreadEvent ([0, 1, 2, 3].foldl reportDropped s) skip { code := code, slice := slice, detail := detail, beat := s.trd.beat }

/-- Post an event of the whole device. -/
def postEvent (s : State) (code detail : Nat) : State := postEventBut s [] code 0xFF detail

/-- Post an event of a slice. -/
def postSliceEvent (s : State) (code slice detail : Nat) : State := postEventBut s [] code slice detail

/-! ### Operations in flight (02 R36-R38) -/

/-- Some operation of the same ring with a smaller submission number is still in flight. -/
def earlierInFlight (s : State) (o : Op) : Bool :=
  s.ops.any (fun e => e.2.port = o.port && e.2.sq = o.sq && e.2.seq < o.seq)

/-- A LOST completion of the same ring with a smaller submission number waits (R38). -/
def earlierLost (s : State) (o : Op) : Bool :=
  s.ops.any (fun e => e.2.port = o.port && e.2.sq = o.sq && e.2.seq < o.seq &&
    match e.2.phase with
    | .done st _ _ => st = stLost
    | _ => false)

/-- The completion of an ended operation may be posted now (R34, R38, R39). -/
def mayPost (s : State) (o : Op) (status : Nat) : Bool :=
  let x := getPort s o.port
  x.regs.run && x.link.lostAt.isNone &&
  (match lookup x.cqs o.cq with
   | some r => ringRoom r
   | none => false) &&
  !(bit o.flags 0 && earlierInFlight s o) && !(status = stLost && earlierLost s o)

/-- The 16 bytes of a completion entry (02 "The completion entry"). -/
def compBytes (tag status : Nat) (phase : Bool) (detail result : Nat) : List Byte :=
  leBytes 2 tag ++ leBytes 1 status ++ leBytes 1 (b2n phase) ++ leBytes 4 detail ++ leBytes 8 result

/-- Write a completion into its ring and signal it (R30, R31). -/
def writeComp (x : Port) (cq : Nat) (r : CompRing) (tag status detail result clock : Nat) : Port :=
  let mem := writeBytes x.mem (r.base + 16 * r.slot) (compBytes tag status r.phase detail result)
  let (r', send) := ringSignal (ringNext r) clock
  sendIrq { x with mem := mem, cqs := insertKey x.cqs cq r' } r' send

/-- Post the completion of operation `id` and take it out of flight. -/
def postComp (s : State) (id : Nat) (o : Op) (status detail result : Nat) : State :=
  match lookup (getPort s o.port).cqs o.cq with
  | some r =>
    let s := modPort s o.port (fun x =>
      { writeComp x o.cq r o.tag status detail result s.clock with held := x.held.filter (fun h => h ≠ .comp id) })
    { s with ops := removeKey s.ops id }
  | none => s

/-- The first held entry of a port that can be posted is posted; none when none can. -/
def postOne (s : State) (p : Nat) : List Held → Option State
  | [] => none
  | .event e :: t =>
    if (getPort s p).regs.run && (getPort s p).link.lostAt.isNone then
      some (modPort s p (fun x => deliverEvent { x with held := x.held.erase (.event e) } e s.clock))
    else postOne s p t
  | .comp id :: t =>
    match lookup s.ops id with
    | some o =>
      match o.phase with
      | .done st d r => if mayPost s o st then some (postComp s id o st d r) else postOne s p t
      | _ => postOne s p t
    | none => postOne s p t

/-- Post held entries of a port, in the order they arose, until none can be posted (at most `n`). -/
def postHeld (s : State) (p : Nat) : Nat → State
  | 0 => s
  | n + 1 =>
    match postOne s p (getPort s p).held with
    | some s' => postHeld s' p n
    | none => s

/-- Post what a port holds and can post now, behind the EVENTS_LOST that is due. -/
def flushPort (s : State) (p : Nat) : State := postHeld (reportDropped s p) p (getPort (reportDropped s p) p).held.length

/-- Operation `id` ends: its completion is posted, at once or held for the rules of R34 and R38. On a port that was reset nothing is
posted (R39). -/
def finish (s : State) (id status detail result : Nat) : State :=
  match lookup s.ops id with
  | none => s
  | some o =>
    if o.silent then { s with ops := removeKey s.ops id }
    else
      let s := { s with ops := insertKey s.ops id { o with phase := .done status detail result } }
      let s := modPort s o.port (fun x => { x with held := x.held ++ [.comp id] })
      flushPort s o.port

/-- Operation `id` completes OK. -/
def finishOk (s : State) (id result : Nat) : State := finish s id stOk 0 result

/-- Operation `id` is started. -/
def startOp (s : State) (id : Nat) : State :=
  { s with ops := adjust s.ops id (fun o => if o.phase = .fetched then { o with phase := .started } else o) }

/-- FENCE_BEFORE lets the operation start: it has no earlier operation of its ring in flight, and no earlier fenced one has still to
start (R38). -/
def fenceAllows (s : State) (o : Op) : Bool :=
  !(bit o.flags 2 && earlierInFlight s o) &&
  !(s.ops.any (fun e => e.2.port = o.port && e.2.sq = o.sq && e.2.seq < o.seq && bit e.2.flags 2 && e.2.phase = .fetched))

/-- The operation has not ended. -/
def isOpen (o : Op) : Bool :=
  match o.phase with
  | .done _ _ _ => false
  | _ => true

/-! ### Storage fences (14 R294) -/

/-- A storage command or FILTER_SCAN (14 R294). -/
def isStorage (opcode : Nat) : Bool := opcode < 0x20 || opcode = 0x48

/-- A storage FENCE holds the operation (14 R294). -/
def fenceHolds (s : State) (id : Nat) (o : Op) : Bool :=
  s.fences.any (fun f => f.op ≠ id && (lookup f.tails (o.port * 256 + o.sq)).any (fun t => t ≤ o.seq))

/-! ### Waking (19 R383) -/

/-- Work that needs state PSn or shallower: an entry into a deeper state is abandoned, an exit to PSn begins, and the idle timers of deeper states start
afresh (19 R382); the work itself waits. Work that needs nothing gated (n = 4) changes nothing. -/
def wake (s : State) (n : Nat) : State :=
  if n ≥ 4 then s
  else
    let dest := if s.pwr.state > n then min s.pwr.target n else if s.pwr.target > n then s.pwr.state else s.pwr.target
    { s with pwr := { s.pwr with target := dest, entering := if dest = s.pwr.target then s.pwr.entering else none,
                                 idleSince := s.pwr.idleSince.filter (fun e => e.1 ≤ n) } }

/-- A SET_POWER with MODE 0 and STATE 1 to 4 is under way: no new step is dispatched (19 R385). -/
def powerPending (s : State) : Bool :=
  s.ops.any (fun e => e.2.opcode = 0x70 && e.2.phase = .started && field e.2.bytes 9 1 = 0 && field e.2.bytes 8 1 ≠ 0)

/-- The device serves work that needs PSn now. -/
def awake (s : State) (n : Nat) : Bool := s.pwr.state ≤ n

/-- Give an operation to the meaning of a row: it must be in flight with that opcode, not ended, and the row's by `sel`; FENCE_BEFORE must allow it, and the
device must be awake enough; otherwise nothing happens but the waking (log entries 2, 16). -/
def runRow (s : State) (id opcode need : Nat) (sel : Op → Bool) (body : Op → State → State) : State :=
  match lookup s.ops id with
  | none => s
  | some o =>
    if o.opcode = opcode && isOpen o && sel o && fenceAllows s o && !(isStorage opcode && fenceHolds s id o) then
      if awake s need then body o (startOp (wake s need) id) else wake s need
    else s

/-- The only row of an opcode. -/
def runOp (s : State) (id opcode need : Nat) (body : Op → State → State) : State := runRow s id opcode need (fun _ => true) body

/-! ### Operand fields of a descriptor -/

/-- A field of the 64 descriptor bytes. -/
def Op.f (o : Op) (off n : Nat) : Nat := field o.bytes off n

/-- A check fails: the operation completes with that status and DETAIL and has no other effect (R29). -/
def fail (s : State) (id status detail : Nat) : State := finish s id status detail 0

/-- The first failing check decides; none failing, the rest runs. -/
@[inline] def checks (s : State) (id : Nat) (cs : List (Bool × Nat × Nat)) (ok : State) : State :=
  match cs.find? (fun c => c.1) with
  | some (_, st, d) => fail s id st d
  | none => ok

/-- Signal an interrupt vector on a port, unless it is 0xFFFF. -/
def interrupt (s : State) (p : Nat) (v : Option Nat) : State :=
  match v with
  | some v => modPort s p (fun x => { x with irqs := x.irqs ++ [v] })
  | none => s

/-- An interrupt vector operand: 0xFFFF is none. -/
def vecOf (v : Nat) : Option Nat := if v = 0xFFFF then none else some v

/-! ### The meter of a slice (15 R326) -/

/-- Charge a slice's meter. -/
def charge (s : State) (slice : Nat) (f : Meter → Meter) : State := modSlice s slice (fun x => { x with meter := f x.meter })

end Sys2Proof.Machine
end

