-- ==== Sys2Proof/Machine/LinkOps.lean ====
section
/-! DEFINITION. The link layer of the strand fabric (11 R201-R213): the bytes of what flits carry, plied links, the order of sending, acknowledgement and replay. -/

namespace Sys2Proof.Machine

/-! ### What flits carry -/

/-- The 32 header bytes of a packet, and its data (11 "Packets"). -/
def packetBytes (k : Packet) : List Byte :=
  leBytes 3 k.dst ++ leBytes 3 k.src ++ leBytes 1 k.sslice ++ leBytes 1 k.op ++ leBytes 2 k.route ++ leBytes 1 k.epoch ++
  leBytes 1 (b2n k.sync + 2 * b2n k.last) ++ leBytes 2 k.fseq ++ leBytes 2 k.ep ++ leBytes 4 k.key ++ leBytes 2 k.len ++ leBytes 1 k.rop ++
  leBytes 1 k.status ++ leBytes 8 k.offset ++ k.data

/-- The 16 bytes of a slot header (11 "Scheduled transfers on the wire"). -/
def slotHeaderBytes (h : SlotHeader) : List Byte := leBytes 8 h.step ++ leBytes 2 h.ord ++ leBytes 1 h.kind ++ leBytes 1 h.rgroup ++ leBytes 4 h.bytes

/-- The 32 bytes of a vote record (10 "Votes and holds"). -/
def voteBytes (v : Vote) : List Byte :=
  leBytes 8 v.step ++ leBytes 8 v.decide ++ leBytes 2 v.member ++ leBytes 1 v.cause ++ leBytes 1 (b2n v.isEnd + 2 * b2n v.notice) ++
  leBytes 1 v.status ++ leBytes 1 v.shape ++ leBytes 1 v.sslot ++ leBytes 1 0 ++ leBytes 8 v.noticeAt

/-- The 16 bytes of a beat marker (09 R167) and its TXSTAMP (11 R207). -/
def markerBytes (m : Marker) : List Byte :=
  leBytes 8 m.beat ++ leBytes 3 m.anchor ++ leBytes 3 m.sender ++ leBytes 1 m.hops ++ leBytes 1 0 ++ leBytes 4 (m.txSub + 2048 * m.txPhase)

/-- A payload filled up with zeros to 240 bytes. -/
def fillPayload (b : List Byte) : List Byte := b.take 240 ++ List.replicate (240 - b.length) 0

/-- The payload of a VOTE flit with one record: COUNT at offset 239 (R207). -/
def votePayload (v : Vote) : List Byte := (fillPayload (voteBytes v)).take 239 ++ [1]

/-- A waiting flit: TYPE, CLASS, VC, FIRST and LAST; the rest of the link header and the CRC are put in as it is sent. -/
def newFlit (ty cls vc : Nat) (first last : Bool) (payload : List Byte) : Flit :=
  { hdr := BitVec.ofNat 64 (ty + 16 * cls + 64 * vc + 2 ^ 42 * b2n first + 2 ^ 43 * b2n last), payload := fillPayload payload, crc := 0 }

/-- A flit of this node's own that waits to be sent. -/
def ownFlit (f : Flit) : QFlit := { flit := f, source := none, pkt := none }

/-- Flits of a packet or a transfer of `n` bytes. -/
def flitsOf (n : Nat) : Nat := max 1 (ceilDiv n 240)

/-- The DATA flits of a packet or a transfer: 240 bytes each (R210, "Packets"). -/
def dataFlits (cls vc : Nat) (source pkt : Option (Nat × Nat)) (b : List Byte) : List QFlit :=
  let n := flitsOf b.length
  (List.range n).map (fun i =>
    { flit := newFlit 1 cls vc (decide (i = 0)) (decide (i + 1 = n)) (cut b (240 * i) 240), source := source, pkt := if i = 0 then pkt else none })

/-! ### Plied links (R204) -/

/-- The lowest logical link of the plied link that logical link l is in. -/
def groupBase (s : State) (l : Nat) : Nat :=
  match laneOf s l with
  | some n => l / 2 ^ (getLane s n).bond * 2 ^ (getLane s n).bond
  | none => l

/-- The logical links of the plied link of l. -/
def groupLinks (s : State) (l : Nat) : List Nat :=
  match laneOf s l with
  | some n => (List.range (2 ^ (getLane s n).bond)).map (fun i => groupBase s l + i)
  | none => [l]

/-- The physical lane that keeps the link state. -/
def headOf (s : State) (l : Nat) : Option Nat := laneOf s (groupBase s l)

/-- The up member lanes, in ascending order. -/
def upLanes (s : State) (l : Nat) : List Nat := ((groupLinks s l).filterMap (laneOf s)).filter (fun n => (getLane s n).up)

/-- The member lanes that retrain. -/
def retrainingLanes (s : State) (l : Nat) : List Nat := ((groupLinks s l).filterMap (laneOf s)).filter (fun n => (getLane s n).retraining)

/-- The link carries traffic. -/
def linkUp (s : State) (l : Nat) : Bool := !(upLanes s l).isEmpty

/-- The link state at lane h changed. -/
def modLink (s : State) (h : Nat) (f : LinkState → LinkState) : State := modLane s h (fun x => { x with link := f x.link })

/-- The lane that takes the next flit of a plied link whose state lane h keeps: its up lanes in turn; a MARKER goes on the lowest (R204). -/
def stripe (s : State) (l h : Nat) (marker : Bool) : Option Nat :=
  let ls := upLanes s l
  if marker then ls.head? else ls[(getLane s h).link.turn % ls.length]?

/-! ### Sending (R206, R208, R212, R213) -/

/-- A TYPE that is sequenced and replayed (R206). -/
def isSequenced (ty : Nat) : Bool := ty = 1 || ty = 3 || ty = 4

/-- The credits to return with the next flit: CRVC and CRCNT. -/
def creditsDue (k : LinkState) : Nat × Nat :=
  if k.ret0 ≠ 0 then (0, min k.ret0 255) else if k.ret1 ≠ 0 then (1, min k.ret1 255) else if k.retM ≠ 0 then (2, min k.retM 255) else (3, 0)

/-- The link state after credits were returned. -/
def creditsReturned (k : LinkState) : LinkState :=
  let (vc, n) := creditsDue k
  { k with ret0 := if vc = 0 then k.ret0 - n else k.ret0, ret1 := if vc = 1 then k.ret1 - n else k.ret1,
           retM := if vc = 2 then k.retM - n else k.retM }

/-- The flit as it leaves: SEQ, ACKSEQ (in a NAK the next SEQ expected), credits, STALL, CRC. -/
def stampFlit (k : LinkState) (f : Flit) : Flit :=
  let ty := f.hdr.toNat % 16
  let (vc, n) := creditsDue k
  let seq := if isSequenced ty then k.nextSeq else 0
  let ack := if ty = 4 then k.expect else (k.expect + 4095) % 4096
  let hdr : BitVec 64 := BitVec.ofNat 64 (f.hdr.toNat + 2 ^ 8 * seq + 2 ^ 20 * ack + 2 ^ 32 * vc + 2 ^ 34 * n + 2 ^ 44 * b2n k.stallTx)
  { f with hdr := hdr, crc := Config.crc64 (leBytes 8 hdr.toNat ++ f.payload) }

/-- The link state after a flit left. -/
def afterSend (k : LinkState) (f : Flit) (clock : Nat) : LinkState :=
  let seqd := isSequenced (f.hdr.toNat % 16)
  let k := creditsReturned k
  { k with nextSeq := if seqd then (k.nextSeq + 1) % 4096 else k.nextSeq, replayBuf := if seqd then k.replayBuf ++ [f] else k.replayBuf,
           ackAt := if seqd && k.replayBuf.isEmpty then clock else k.ackAt, unacked := 0 }

/-- A flit leaves on a lane. -/
def putOnLane (s : State) (n : Nat) (f : Flit) : State := modLane s n (fun x => { x with ctr := { x.ctr with tx := x.ctr.tx + 1 }, sent := x.sent ++ [f] })

/-- A flit leaves on the link l whose state lane h keeps; nothing leaves while no member lane is up. -/
def sendFlit (s : State) (l h : Nat) (f : Flit) : State :=
  let marker := f.hdr.toNat % 16 = 2
  match stripe s l h marker with
  | none => s
  | some n =>
    let k := (getLane s h).link
    let f := stampFlit k f
    putOnLane (modLink s h (fun k => { afterSend k f s.clock with turn := if marker then k.turn else k.turn + 1 })) n f

/-- One buffer of channel `ch` of link state k is free: its credit is returned; STALL is cleared once 16 scheduled ones are (R212, R213). -/
def freeOne (ch : Nat) (k : LinkState) : LinkState :=
  if ch = 3 then { k with sched := k.sched - 1, stallTx := k.stallTx && decide (k.sched - 1 > 112) }
  else if ch = 0 then (if k.held0 = 0 then k else { k with held0 := k.held0 - 1, ret0 := k.ret0 + 1 })
  else if ch = 1 then (if k.held1 = 0 then k else { k with held1 := k.held1 - 1, ret1 := k.ret1 + 1 })
  else if k.heldM = 0 then k
  else { k with heldM := k.heldM - 1, retM := k.retM + 1 }

/-- `n` buffers of a channel of incoming link l are free. -/
def freeBuffers (s : State) (l ch n : Nat) : State :=
  match headOf s l with
  | some h => modLink s h (fun k => (List.range n).foldl (fun k _ => freeOne ch k) k)
  | none => s

/-- The buffer that a waiting flit held is free once it has left, or is given up. -/
def freeSource (s : State) (f : QFlit) : State :=
  match f.source with
  | some (l, ch) => freeBuffers s l ch 1
  | none => s

/-- The packet with that destination and FSEQ has left the device: its transaction's timeout runs from the beat at which the first one did (R224). -/
def noteLeft (s : State) (pkt : Option (Nat × Nat)) : State :=
  match pkt with
  | some (node, fseq) =>
    { s with strand := { s.strand with txns := s.strand.txns.map (fun (t : Txn) =>
        if t.node = node && t.leftAt.isNone && t.pkts.any (fun p => p.fseq = some fseq && !p.acked) then { t with leftAt := some s.clock } else t) } }
  | none => s

/-- The queues in the order of R206; VC0 and VC1 in turn. -/
def sendOrder (k : LinkState) : List Nat := [0, 1, 2, 3, 4] ++ (if k.turn1 then [6, 5] else [5, 6])

/-- A flit of queue q may leave: room in the replay buffer, no STALL on scheduled flits, a credit on its channel (R208, R212, R213). -/
def queueReady (k : LinkState) (q : Nat) : Bool :=
  !(readD [] k.queue q).isEmpty &&
  (q = 0 || (k.replayBuf.length < 1024 &&
    (if q = 3 then !k.stallRx else if q = 4 then k.crM ≠ 0 else if q = 5 then k.cr0 ≠ 0 else if q = 6 then k.cr1 ≠ 0 else true)))

/-- The link state after the head of queue q was taken. -/
def takeQueue (k : LinkState) (q : Nat) : LinkState :=
  { k with queue := writeD [] k.queue q (readD [] k.queue q).tail,
           crM := if q = 4 then k.crM - 1 else k.crM, cr0 := if q = 5 then k.cr0 - 1 else k.cr0, cr1 := if q = 6 then k.cr1 - 1 else k.cr1,
           turn1 := if q = 5 then true else if q = 6 then false else k.turn1 }

/-- Send what waits and may leave, at most so many flits. -/
def pumpLink (s : State) (l h : Nat) : Nat → State
  | 0 => s
  | fuel + 1 =>
    let k := (getLane s h).link
    match (sendOrder k).find? (queueReady k), linkUp s l with
    | some q, true =>
      match readD [] k.queue q with
      | f :: _ => pumpLink (noteLeft (freeSource (sendFlit (modLink s h (fun k => takeQueue k q)) l h f.flit) f) f.pkt) l h fuel
      | [] => s
    | _, _ => s

/-- Send what waits on link l and may leave. -/
def pump (s : State) (l : Nat) : State :=
  match headOf s l with
  | some h => pumpLink s l h (((getLane s h).link.queue.map (fun q => q.2.length)).sum)
  | none => s

/-- Flits join queue q of link l. -/
def enqueue (s : State) (l q : Nat) (fs : List QFlit) : State :=
  match headOf s l with
  | some h => pump (modLink s h (fun k => { k with queue := writeD [] k.queue q (readD [] k.queue q ++ fs) })) l
  | none => s

/-- A scheduled transfer is sent on link l (R210, R211); one passed through holds the buffers of the link it came in on until its flits have left (R212). -/
def sendScheduled (s : State) (l : Nat) (came : Option Nat) (h : SlotHeader) (data : List Byte) : State :=
  enqueue s l 3 (dataFlits 0 0 (came.map (fun k => (k, 3))) none (slotHeaderBytes h ++ data))

/-- A vote record is sent on link l (R207). -/
def sendVoteFlit (s : State) (l : Nat) (v : Vote) : State := enqueue s l 2 [ownFlit (newFlit 3 0 0 false false (votePayload v))]

/-- A beat marker is sent on link l (R207); the sub-beat and phase it leaves at are free values. A link that is down or retrains carries none of that beat (R226). -/
def sendMarker (s : State) (l anchor hops : Nat) : State :=
  if !linkUp s l then s
  else
    let (a, s) := draw s
    let m : Marker := { beat := s.trd.beat, anchor := anchor, sender := s.strand.node, hops := hops, txSub := a % 2000, txPhase := a / 2000 % 64 }
    enqueue s l 0 [ownFlit (newFlit 2 0 0 false false (markerBytes m))]

/-- A packet is sent on link l: management packets on their own channel (R214). `source` is the link and channel it came in on, none for one of this node; `pkt` names one
of this node's flows. -/
def sendOnLink (s : State) (l vc : Nat) (source pkt : Option (Nat × Nat)) (k : Packet) : State :=
  if k.op = 7 then enqueue s l 4 (dataFlits 2 0 source pkt (packetBytes k)) else enqueue s l (5 + vc % 2) (dataFlits 1 (vc % 2) source pkt (packetBytes k))

/-- A flit that is not sequenced leaves at once: an ACK (R208). -/
def sendAck (s : State) (l : Nat) : State :=
  match headOf s l with
  | some h => sendFlit s l h (newFlit 5 0 0 false false [])
  | none => s

/-- ACK flits for what is to be returned: one, and one more per channel with credits still to return. -/
def sendAcks (s : State) (l : Nat) : Nat → State
  | 0 => s
  | n + 1 =>
    let s := sendAck s l
    match headOf s l with
    | some h => if (creditsDue (getLane s h).link).2 = 0 then s else sendAcks s l n
    | none => s

/-! ### IDLE (R206 item 7) -/

/-- Flit times of a beat: 195.3125 of them at full rate, a sixteenth of that at the low one (R201, R212). -/
def flitTimes (clock : Nat) (low : Bool) : Nat :=
  if low then (clock + 1) * 3125 / 256 - clock * 3125 / 256 else (clock + 1) * 3125 / 16 - clock * 3125 / 16

/-- The flit boundaries of the beat at which nothing waited on lane n carried IDLE flits: all count, and one stands for them among the flits sent, with the ACKSEQ, credits
and STALL of the link (R206, R208, R213; log entry 22). -/
def sendIdle (s : State) (n : Nat) : State :=
  let x := getLane s n
  let l := linkOf s n
  let due := x.beatTx + flitTimes s.clock (decide (s.pwr.state = 4))
  if !(x.up || (l = 0x7F && x.trained)) then modLane s n (fun x => { x with beatTx := x.ctr.tx })
  else
    let s := if x.ctr.tx ≥ due then s
      else
        match (if l = 0x7F then none else headOf s l) with
        | some h =>
          let f := stampFlit (getLane s h).link (newFlit 0 0 0 false false [])
          putOnLane (modLink s h (fun k => afterSend k f s.clock)) n f
        | none => putOnLane s n (stampFlit LinkState.zero (newFlit 0 0 0 false false []))
    modLane s n (fun x => { x with ctr := { x.ctr with tx := max x.ctr.tx due }, beatTx := max x.ctr.tx due })

/-- The IDLE flits of a beat on every lane. -/
def sendIdles (s : State) : State := (keys s.strand.lanes).foldl sendIdle s

/-! ### Replay and retraining (R205, R208, R209) -/

/-- The unacknowledged flits of link l are sent again. -/
def replay (s : State) (l : Nat) : State :=
  match headOf s l with
  | none => s
  | some h =>
    (getLane s h).link.replayBuf.foldl (fun s f =>
      match stripe s l h false with
      | some n =>
        let s := modLink s h (fun k => { k with turn := k.turn + 1 })
        modLane (putOnLane s n f) n (fun x => { x with ctr := { x.ctr with replay := sat32 (x.ctr.replay + 1) } })
      | none => s) s

/-- DETAIL of LINK_DOWN and LINK_UP (R209). -/
def linkDetail (s : State) (n : Nat) (retraining : Bool) : Nat := n + 256 * b2n retraining + 512 * linkOf s n

/-- A lane begins to retrain: LINK_DOWN with RETRAINING (R209). -/
def beginRetrain (s : State) (n : Nat) : State :=
  let s := modLane s n (fun x => { x with up := false, trained := false, retraining := true, downSaid := true, ctr := { x.ctr with retrain := sat32 (x.ctr.retrain + 1) } })
  postEvent s 0x40 (linkDetail s n true)

/-- A lane has left the link: what was in flight is replayed on the members still up (R205). -/
def afterLaneLoss (s : State) (l : Nat) : State := if linkUp s l then pump (replay s l) l else s

/-- Link l retrains on its lanes (R209). -/
def retrainLink (s : State) (l : Nat) : State := (upLanes s l).foldl beginRetrain s

/-- Credits as at the start: a retrain restores them on both ends; the flits that its buffers still hold are not returned once more (R213). -/
def fullCredits (k : LinkState) : LinkState := { k with cr0 := 192, cr1 := 192, crM := 32, ret0 := 0, ret1 := 0, retM := 0, held0 := 0, held1 := 0, heldM := 0 }

/-- A lane carries traffic (again): with no other member up, the sender replays every unacknowledged flit and the credits are full again (R209, R213). -/
def laneComesUp (s : State) (n : Nat) : State :=
  let l := linkOf s n
  let alone := !linkUp s l
  let s := modLane s n (fun x => { x with up := decide (l ≠ 0x7F), trained := true, retraining := false, trainFails := 0 })
  match headOf s l with
  | none => s
  | some h =>
    let s := modLink s h (fun k => { k with nakRun := 0, ackAt := s.clock })
    let s := if alone then modLink (replay s l) h fullCredits else s
    pump s l

/-- The link stays down for good: its replay buffer is discarded and all of its traffic goes with it (R205, R209). -/
def discardLink (s : State) (l : Nat) : State :=
  match headOf s l with
  | some h => ((getLane s h).link.queue.flatMap Prod.snd).foldl freeSource (modLink s h (fun k => { k with replayBuf := [], queue := [], ahead := [] }))
  | none => s

/-! ### Receiving (R206, R208, R212, R213) -/

/-- The flits that an ACKSEQ acknowledges leave the replay buffer. -/
def takeAck (k : LinkState) (ack clock : Nat) : LinkState :=
  let n := (ack + 1 + k.replayBuf.length + 4096 - k.nextSeq) % 4096
  if n ≤ k.replayBuf.length && n ≠ 0 then { k with replayBuf := k.replayBuf.drop n, ackAt := clock } else k

/-- Credits returned in CRVC and CRCNT. -/
def takeCredits (k : LinkState) (vc n : Nat) : LinkState :=
  { k with cr0 := if vc = 0 then min 192 (k.cr0 + n) else k.cr0, cr1 := if vc = 1 then min 192 (k.cr1 + n) else k.cr1,
           crM := if vc = 2 then min 32 (k.crM + n) else k.crM }

/-- A sequenced flit's SEQ lies before the next one not seen yet. -/
def seenBefore (k : LinkState) (f : Flit) : Bool := (k.seen + 4096 - bits f.hdr.toNat 8 12) % 4096 - 1 < 2048 && k.seen ≠ bits f.hdr.toNat 8 12

/-- The flit is a replayed one: sequenced, with a SEQ this end has seen before, or the one that its NAK has asked for (log entry 22). -/
def isReplayed (k : LinkState) (f : Flit) : Bool :=
  isSequenced (f.hdr.toNat % 16) && (seenBefore k f || (k.waiting && bits f.hdr.toNat 8 12 = k.expect))

/-- What every flit with a good CRC shows: STALL, unless it is a replayed flit, and how far the far end has come (R212). -/
def takeStall (k : LinkState) (f : Flit) : LinkState :=
  { k with stallRx := if isReplayed k f then k.stallRx else bit f.hdr.toNat 44,
           seen := if isSequenced (f.hdr.toNat % 16) && !seenBefore k f then (bits f.hdr.toNat 8 12 + 1) % 4096 else k.seen }

/-- What an accepted flit brings: ACKSEQ and credits; a discarded flit brings nothing, and its replay brings them (R208, R213). -/
def takeHeader (k : LinkState) (f : Flit) (clock : Nat) : LinkState :=
  let hd := f.hdr.toNat
  let ack := if hd % 16 = 4 then (bits hd 20 12 + 4095) % 4096 else bits hd 20 12
  takeCredits (takeAck k ack clock) (bits hd 32 2) (bits hd 34 8)

/-- The CRC of the flit is good. -/
def crcGood (f : Flit) : Bool := Config.crc64 (leBytes 8 f.hdr.toNat ++ f.payload) = f.crc

/-- A NAK naming the next expected SEQ; sequenced flits are ignored until it arrives (R208). -/
def sendNak (s : State) (l : Nat) : State :=
  match headOf s l with
  | some h => enqueue (modLink s h (fun k => { k with waiting := true })) l 1 [ownFlit (newFlit 4 0 0 false false [])]
  | none => s

/-- A sequenced flit taken in order; an acknowledgement at least every 64 (R208). -/
def takeSequenced (s : State) (l h : Nat) : State :=
  let s := modLink s h (fun k => { k with expect := (k.expect + 1) % 4096, waiting := false, unacked := k.unacked + 1 })
  if (getLane s h).link.unacked ≥ 64 then sendAck s l else s

/-- The payload of an accepted DATA flit joins its packet or transfer; the last one completes it (R206, log entry 22). -/
def gather (x : Lane) (f : Flit) : Lane :=
  let hd := f.hdr.toNat
  let key := 2 * bits hd 4 2 + bits hd 6 2 % 2
  let old := if bit hd 42 then [] else readD [] x.rxbuf key
  { x with rxbuf := writeD [] x.rxbuf key (if bit hd 43 then [] else old ++ f.payload) }

/-- The buffer an accepted DATA flit takes, until its packet or transfer is taken on or its own flit has left on another link; with the 128 scheduled ones full, STALL is
set (R210, R212, R213). -/
def bufferFlit (k : LinkState) (f : Flit) : LinkState :=
  let cls := bits f.hdr.toNat 4 2
  if cls = 0 then { k with sched := k.sched + 1, stallTx := k.stallTx || decide (k.sched + 1 ≥ 128) }
  else if cls = 1 then (if bits f.hdr.toNat 6 2 = 0 then { k with held0 := k.held0 + 1 } else { k with held1 := k.held1 + 1 })
  else if cls = 2 then { k with heldM := k.heldM + 1 }
  else k

/-- A NAK's effect: NAKs in a row for one SEQ are counted, the eighth retrains the link, otherwise the sender replays (R208, R209). -/
def takeNak (s : State) (l h seq : Nat) : State :=
  let s := modLink s h (fun k => { k with nakSeq := seq, nakRun := if k.nakRun ≠ 0 && k.nakSeq = seq then k.nakRun + 1 else 1 })
  if (getLane s h).link.nakRun ≥ 8 then retrainLink s l else replay s l

/-- A flit is accepted on link l, whose state lane h keeps: its header, its SEQ, and by its TYPE what it carries. A MARKER's marker is BEAT_MARKER's, and the records of a
VOTE flit are VOTE_RECORD's (R206-R208). -/
def acceptFlit (s : State) (l h : Nat) (f : Flit) : State :=
  let ty := f.hdr.toNat % 16
  let s := modLink s h (fun k => takeHeader k f s.clock)
  let s := if isSequenced ty then takeSequenced s l h else s
  if ty = 1 then modLane s h (fun x => { gather x f with link := bufferFlit x.link f })
  else if ty = 4 then takeNak s l h (bits f.hdr.toNat 20 12)
  else s

/-- The flits that came ahead are accepted as their SEQ comes up, at most so many (R204). -/
def takeAhead (l h : Nat) : Nat → State → State
  | 0, s => s
  | n + 1, s =>
    let k := (getLane s h).link
    match k.ahead.find? (fun f => bits f.hdr.toNat 8 12 = k.expect) with
    | some f => takeAhead l h n (acceptFlit (modLink s h (fun k => { k with ahead := k.ahead.filter (fun g => g ≠ f) })) l h f)
    | none => s

/-- A flit ahead of its SEQ may still be waiting for one on another member of its plied link: it is at most 8 flits a member ahead, the flits of 40 ns (R204). -/
def withinSkew (s : State) (l : Nat) (k : LinkState) (f : Flit) : Bool :=
  let members := (upLanes s l).length
  members > 1 && !k.waiting && (bits f.hdr.toNat 8 12 + 4096 - k.expect) % 4096 < 8 * members

/-- A flit of TYPE `ty` arrives on lane n: the CRC, STALL, and for a sequenced one its SEQ. A lane that is down, or a header of another TYPE, is no such arrival (log
entry 2). A spare lane only counts it. Whether a code word that could not be corrected spoilt the CRC is a free value (R202; log entry 38). -/
def receiveFlit (s : State) (n ty : Nat) (f : Flit) : State :=
  let l := linkOf s n
  if !(getLane s n).up && !(l = 0x7F && (getLane s n).trained) then s
  else if !crcGood f then
    let (a, s) := draw s
    sendNak (modLane s n (fun x =>
      { x with ctr := { x.ctr with crcErr := sat32 (x.ctr.crcErr + 1), fecUncorr := sat32 (x.ctr.fecUncorr + a % 2) } })) l
  else if f.hdr.toNat % 16 ≠ ty then s
  else
    let s := modLane s n (fun x => { x with ctr := { x.ctr with rx := x.ctr.rx + 1 } })
    match headOf s l with
    | none => s
    | some h =>
      let k := (getLane s h).link
      let s := modLink s h (fun k => takeStall k f)
      if isSequenced ty && bits f.hdr.toNat 8 12 ≠ k.expect then
        if withinSkew s l k f then modLink s h (fun k => { k with ahead := k.ahead ++ [f] })
        else if k.waiting then pump s l
        else pump (sendNak s l) l
      else
        let s := acceptFlit s l h f
        pump (takeAhead l h (getLane s h).link.ahead.length s) l


end Sys2Proof.Machine
end

