-- ==== Sys2Proof/Machine/Flows.lean ====
section
/-! DEFINITION. Routes, flows and the sending of packets, with the arbiter among slices (11 R214-R217, R220, R222; 15 R311). -/

namespace Sys2Proof.Machine

/-! ### Routing (R214-R217) -/

/-- Where a hop sends a packet: it is delivered here, dropped, or leaves on a logical link and channel. -/
inductive Hop where
  | here
  | drop
  | go (link vc : Nat)
  deriving DecidableEq, Repr

/-- The coordinate of a node in dimension d. -/
def coord (node d : Nat) : Nat := bits node (3 * d) 3

/-- The side of dimension d. -/
def sideOf (s : State) (d : Nat) : Nat := s.strand.sides[d]?.getD 1

/-- delta of R214. -/
def torusDelta (s : State) (dst d : Nat) : Nat := (coord dst d + sideOf s d * 8 - coord s.strand.node d) % sideOf s d

/-- The first dimension still to be crossed. -/
def torusDim (s : State) (dst : Nat) : Option Nat := (List.range 6).find? (fun d => torusDelta s dst d ≠ 0)

/-- The direction taken in dimension d: true is minus (R214). -/
def torusMinus (s : State) (dst d dirmask : Nat) : Bool :=
  let k := 2 * torusDelta s dst d
  if k < sideOf s d then false else if k > sideOf s d then true else bit dirmask d

/-- The first up link of a bundle from a position on, as its plied link's lowest logical link (R204, R214). -/
def firstUpLink (s : State) (bundle start : Nat) : Option Nat :=
  (((List.range 8).map (fun i => bundle * 8 + (start + i) % 8)).find? (fun l => l < 96 &&
    (match laneOf s l with | some n => (getLane s n).up | none => false))).map (groupBase s)

/-- The hop crosses the dateline of dimension d. -/
def crossesDateline (s : State) (d : Nat) (minus : Bool) : Bool :=
  if minus then coord s.strand.node d = 0 else coord s.strand.node d + 1 = sideOf s d

/-- The hop of a packet that arrived in a dimension (none: it starts here), on VC1 or not (R214, R215, R217). -/
def routeOf (s : State) (k : Packet) (dim : Option Nat) (onVc1 : Bool) : Hop :=
  let sel := bits k.route 0 3
  if k.dst = s.strand.node then .here
  else if s.strand.table then
    let e := readD 0 s.strand.routes k.dst
    match firstUpLink s (e % 16) sel with
    | some l => .go l (if bit e 4 || (dim.isSome && onVc1) then 1 else 0)
    | none => .drop
  else
    match torusDim s k.dst with
    | none => .here
    | some d =>
      let minus := torusMinus s k.dst d (bits k.route 3 6)
      match firstUpLink s (2 * d + b2n minus) sel with
      | some l => .go l (if crossesDateline s d minus || (dim = some d && onVc1) then 1 else 0)
      | none => .drop

/-- A packet dropped is counted at the lane it came in on (R214, R220). -/
def countDrop (s : State) (n : Nat) : State := modLane s n (fun x => { x with ctr := { x.ctr with drop := sat32 (x.ctr.drop + 1) } })

/-- A packet of this node sets out; `pkt` names one of its flows. One for this node waits to be taken by its own row (R217), and one that finds no link is lost (R226): both
have left (R224). -/
def sendPacket (s : State) (pkt : Option (Nat × Nat)) (k : Packet) : State :=
  match routeOf s k none false with
  | .here => noteLeft { s with strand := { s.strand with here := s.strand.here ++ [k] } } pkt
  | .drop => noteLeft s pkt
  | .go l vc => sendOnLink s l vc none pkt k

/-! ### Flows (R216, R220) -/

def SrcFlow.zero : SrcFlow where
  epoch := 0
  fseq := 0
  syncDue := false
  timedOut := false
  route := 0

def DstFlow.zero : DstFlow where
  epoch := 0
  fseq := 0

/-- The flow to a node. -/
def srcFlow (s : State) (key : Nat) : SrcFlow := readD SrcFlow.zero s.strand.src key
def modSrc (s : State) (key : Nat) (f : SrcFlow → SrcFlow) : State :=
  { s with strand := { s.strand with src := writeD SrcFlow.zero s.strand.src key (f (srcFlow s key)) } }

/-- The key of a flow from a packet's source: management flows apart (R219). -/
def dstKey (k : Packet) : Nat := k.src + (if k.op = 7 then 2 ^ 18 else 0)

/-- The destination accepts a packet of its flow (R220). -/
def accepts (s : State) (k : Packet) : Bool :=
  let d := readD DstFlow.zero s.strand.dst (dstKey k)
  (k.epoch = d.epoch && k.fseq = d.fseq) || (k.sync && k.epoch ≠ d.epoch)

/-- The flow after an accepted packet (R220). -/
def acceptPacket (s : State) (k : Packet) : State :=
  { s with strand := { s.strand with dst := writeD DstFlow.zero s.strand.dst (dstKey k) { epoch := k.epoch, fseq := (k.fseq + 1) % 65536 } } }

/-- VC0 credits of a logical link, none while it is down. -/
def linkCredits (s : State) (l : Nat) : Nat :=
  match headOf s l with
  | some h => if linkUp s l then (getLane s h).link.cr0 else 0
  | none => 0

/-- Credits of a bundle. -/
def bundleCredits (s : State) (b : Nat) : Nat := ((List.range 8).map (fun i => linkCredits s (8 * b + i))).sum

/-- The position of a bundle whose link holds the most credits, the lowest of equals (R216). -/
def bestPosition (s : State) (b : Nat) : Nat :=
  (List.range 8).foldl (fun best i => if linkCredits s (8 * b + i) > linkCredits s (8 * b + best) then i else best) 0

/-- DIRMASK for a destination (R216). -/
def chooseDirs (s : State) (dst : Nat) : Nat :=
  ((List.range 6).map (fun d =>
    if 2 * torusDelta s dst d = sideOf s d && bundleCredits s (2 * d + 1) > bundleCredits s (2 * d) then 2 ^ d else 0)).sum

/-- The bundle of a destination's first hop. -/
def firstBundle (s : State) (dst dirs : Nat) : Nat :=
  if s.strand.table then readD 0 s.strand.routes dst % 16
  else
    match torusDim s dst with
    | some d => 2 * d + b2n (torusMinus s dst d dirs)
    | none => 0

/-- ROUTE of a flow (R216). -/
def chooseRoute (s : State) (dst : Nat) : Nat :=
  let dirs := if s.strand.table then 0 else chooseDirs s dst
  bestPosition s (firstBundle s dst dirs) + 8 * dirs

/-! ### Transactions (R222, R220) -/

/-- A transaction of the list changed at an index. -/
def modTxn (s : State) (i : Nat) (f : Txn → Txn) : State :=
  { s with strand := { s.strand with txns := (s.strand.txns.zipIdx).map (fun e => if e.2 = i then f e.1 else e.1) } }

/-- Packets of a flow sent and not acknowledged. -/
def unackedOn (s : State) (node : Nat) : Nat :=
  ((s.strand.txns.filter (fun t => t.node = node)).map (fun t => (t.pkts.filter (fun p => p.fseq.isSome && !p.acked)).length)).sum

/-- The next packet of a flow to leave: the transaction's index and the packet's. -/
def nextPacket (s : State) (node : Nat) : Option (Nat × Nat) :=
  (s.strand.txns.zipIdx).findSome? (fun e =>
    if e.1.node = node && e.1.ended.isNone then (e.1.pkts.findIdx? (fun p => p.fseq.isNone)).map (fun j => (e.2, j)) else none)

/-- A packet of a transaction as it leaves (R220). -/
def txPacket (s : State) (t : Txn) (p : TxPkt) (j : Nat) : Packet :=
  let f := srcFlow s t.node
  { dst := t.node, src := s.strand.node, sslice := t.slice, op := t.opc, route := f.route, epoch := f.epoch, sync := f.syncDue,
    last := decide (j + 1 = t.pkts.length), fseq := f.fseq, ep := t.ep, key := t.key, rop := t.rop, status := 0, offset := t.roff + p.offset,
    len := p.bytes, data := p.data }

/-! ### The arbiter among slices (15 R311) -/

/-- A slice's weight: its STRAND rate in GB/s, no less than 1. -/
def strandWeight (s : State) (q : Nat) : Nat := max 1 (((lookup s.slices q).map (fun x => x.conf.strand)).getD 0)

/-- The arbiter's time at which a slice's next packet starts: when its last one ended, or now. -/
def startTag (s : State) (q : Nat) : Nat := max s.strand.vtime (readD 0 s.strand.finish q)

/-- A packet of a slice is injected: the arbiter's time is its start, and the slice's next one starts later by its 32 header bytes and its data over the weight. -/
def injected (s : State) (q bytes : Nat) : State :=
  let at_ := startTag s q
  { s with strand := { s.strand with vtime := at_, finish := writeD 0 s.strand.finish q (at_ + (32 + bytes) * 4800 / strandWeight s q) } }

/-- Packet j of transaction i leaves: it takes the flow's next FSEQ; the bytes are metered to the slice (R220; 15 R311, R326). -/
def sendTx (s : State) (i j : Nat) (t : Txn) (p : TxPkt) : State :=
  let k := txPacket s t p j
  let s := modTxn s i (fun t => { t with pkts := t.pkts.set j { p with fseq := some k.fseq } })
  let s := modSrc s t.node (fun f => { f with fseq := (f.fseq + 1) % 65536, syncDue := false })
  let s := if t.kind = .answer then s else charge s t.slice (fun m => { m with strandTx := m.strandTx + p.data.length })
  sendPacket (injected s t.slice p.data.length) (some (t.node, k.fseq)) k

/-- The packet can go on its link now: none waits there on its channel. -/
def linkFree (s : State) (k : Packet) : Bool :=
  match routeOf s k none false with
  | .go l vc => ((headOf s l).map (fun h => (readD [] (getLane s h).link.queue (5 + vc % 2)).isEmpty)).getD true
  | _ => true

/-- The packet of a flow that may leave now: its window of 256 has room, and its link is free. It is the next in the order of issue (R220). -/
def readyPacket (s : State) (node : Nat) : Option (Nat × Nat × Txn × TxPkt) :=
  if unackedOn s node ≥ 256 then none
  else
    match nextPacket s node with
    | some (i, j) =>
      match s.strand.txns[i]? with
      | some t => (t.pkts[j]?).bind (fun p => if linkFree s (txPacket s t p j) then some (i, j, t, p) else none)
      | none => none
    | none => none

/-- The packets that may leave now, one for each flow. -/
def readyPackets (s : State) : List (Nat × Nat × Txn × TxPkt) := (s.strand.txns.map Txn.node).eraseDups.filterMap (readyPacket s)

/-- The one that the arbiter takes: its slice is the first due, the lower of slices due together. -/
def arbitrate (s : State) (l : List (Nat × Nat × Txn × TxPkt)) : Option (Nat × Nat × Txn × TxPkt) :=
  l.foldl (fun best c =>
    match best with
    | none => some c
    | some b =>
      let (x, y) := (startTag s c.2.2.1.slice, startTag s b.2.2.1.slice)
      if x < y || (x = y && c.2.2.1.slice < b.2.2.1.slice) then some c else best) none

/-- Send what may leave, at most so many packets. -/
def sendReady (s : State) : Nat → State
  | 0 => s
  | n + 1 =>
    match arbitrate s (readyPackets s) with
    | some (i, j, t, p) => sendReady (sendTx s i j t p) n
    | none => s

/-- Send on every flow what may leave now (R220, R311). -/
def sendAllFlows (s : State) : State := sendReady s ((s.strand.txns.map (fun t => (t.pkts.filter (fun p => p.fseq.isNone)).length)).sum)

/-- A transaction is issued; a flow without one outstanding takes a new ROUTE (R216). -/
def issueTxn (s : State) (t : Txn) : State :=
  let s := if s.strand.txns.any (fun e => e.node = t.node) then s
    else modSrc s t.node (fun f => { f with route := chooseRoute s t.node })
  sendAllFlows { s with strand := { s.strand with txns := s.strand.txns ++ [t] } }

/-- The packets of a transfer of `len` bytes: 4,096 each, a shorter last one (R222). -/
def splitPackets (len : Nat) (data : List Byte) : List TxPkt :=
  (List.range (ceilDiv len 4096)).map (fun i =>
    { fseq := none, offset := 4096 * i, bytes := min 4096 (len - 4096 * i), data := cut data (4096 * i) 4096, acked := false, got := false,
      status := 0 })

end Sys2Proof.Machine
end

