-- ==== Sys2Proof/Machine/Media.lean ====
section
/-! DEFINITION. The NAND media of a bobbin (13): block ids, dies, pages and their metadata, groups and their parity, programs, erases, and the reading of a page. -/

namespace Sys2Proof.Machine

/-! ### Map entries and geometry (R252, R261) -/

/-- The unmapped map entry (R261). -/
def unmapped : Nat := 0xFFFFFFFF

/-- The lost map entry (R261). -/
def lostEntry : Nat := 0xFFFFFFFE

/-- Bytes of a map unit. -/
def unitBytes : Nat := 16384

/-- A map entry (R261). -/
def mapEntry (bobbin block page : Nat) : Nat := block + page * 2 ^ 17 + bobbin * 2 ^ 28

/-- BLOCK, PAGE and BOBBIN of a map entry. -/
def entryBlock (e : Nat) : Nat := bits e 0 17
def entryPage (e : Nat) : Nat := bits e 17 11
def entryBob (e : Nat) : Nat := bits e 28 4

/-- The key of a page in a bobbin's page table. -/
def pageKey (block page : Nat) : Nat := block * 2048 + page

/-- The die and plane of a block id (R252). -/
def dieOf (block : Nat) : Nat := block / 10880
def planeOf (block : Nat) : Nat := block / 340 % 32

/-- The treadle day of a beat: 1,440 treadle minutes (R277). -/
def dayOf (beat : Nat) : Nat := beat / 86400000000

/-- Block `k` of a bobbin. -/
def getBlock (x : Bobbin) (k : Nat) : FBlock := readD FBlock.zero x.blocks k

/-- Block `k` of a bobbin changed. -/
def modBlock (x : Bobbin) (k : Nat) (f : FBlock → FBlock) : Bobbin :=
  { x with blocks := writeD FBlock.zero x.blocks k (f (getBlock x k)) }

/-- Die d of a bobbin: the spare die 8 is unmapped until REPAIR maps it (01, 13 BOB_DIE_STAT). -/
def getDie (x : Bobbin) (d : Nat) : Die := readD Die.zero x.dies d

/-- Die d changed. -/
def modDie (x : Bobbin) (d : Nat) (f : Die → Die) : Bobbin := { x with dies := writeD Die.zero x.dies d (f (getDie x d)) }

/-- The die that serves an active position; none before boot sets the roles. -/
def dieOfRole (x : Bobbin) (r : Nat) : Option Nat := (List.range 9).find? (fun d => (getDie x d).role = r)

/-- The block lies on a die in use. -/
def onActive (x : Bobbin) (k : Nat) : Bool := (getDie x (dieOf k)).role < 8

/-- A block that may hold data: a data block, or a factory spare that has replaced a retired one (R252, R276). -/
def isData (x : Bobbin) (b k : Nat) : Bool := Config.factoryUse b k = 0 || x.spares.contains k

/-- Free blocks of a bobbin (R271): data blocks of the active dies not open, closed, retired, or reserved for the parity and journal flush. -/
def freeBlocks (x : Bobbin) : Nat :=
  8 * 10184 + (x.spares.filter (onActive x)).length - Config.flushBlocks - (x.blocks.filter (fun e => e.2.st ≠ .free && onActive x e.1)).length

/-- Pages of a block in a mode (R252). -/
def pagesPerBlock (bulk : Bool) : Nat := if bulk then 1152 else 384

/-- The page programmed n-th in a block: in bulk mode the order of R257, with L, M and U of word line w as pages 3w, 3w + 1, 3w + 2 (log entry 18). -/
def pageAt (bulk : Bool) (n : Nat) : Nat :=
  if !bulk then n
  else if n = 0 then 0
  else if n ≤ 1149 then
    let w := (n - 1) / 3
    if n % 3 = 1 then 3 * (w + 1) else if n % 3 = 2 then 3 * w + 1 else 3 * w + 2
  else if n = 1150 then 1150 else 1151

/-! ### Pages (R255, 14 R288) -/

/-- Bytes 0 to 55 of a page's metadata (R255). -/
def pageMeta (owner unit wseq jseq : Nat) : List Byte :=
  leBytes 2 owner ++ leBytes 6 0 ++ leBytes 8 unit ++ leBytes 8 wseq ++ leBytes 8 jseq ++ leBytes 24 0

/-- A page as programmed: its ciphertext under a key, and the CRC-64 over that and the metadata (R255). -/
def mkPage (owner unit wseq jseq key : Nat) (data : Mem) : FPage :=
  { owner := owner, unit := unit, wseq := wseq, jseq := jseq, key := key, data := data, uncorr := false,
    crc := Config.crc64 (Config.xts key unit (readBytes data 0 unitBytes) ++ pageMeta owner unit wseq jseq) }

/-- What a page decrypts to under a key (14 R288). -/
def decrypted (key : Nat) (p : FPage) (data : Mem) : Mem :=
  if p.key = key then data
  else (List.range unitBytes).filterMap (fun i => if Config.wrongKey key p.key p.wseq i = 0 then none else some (i, Config.wrongKey key p.key p.wseq i))

/-- A page decodes by itself: its code word is good and its die answers. -/
def pageDecodes (x : Bobbin) (block page : Nat) : Bool :=
  match lookup x.pages (pageKey block page) with
  | some p => !p.uncorr && (getDie x (dieOf block)).answering
  | none => true

/-- Every written page of a block decodes (R258). -/
def blockVerifies (x : Bobbin) (k : Nat) : Bool := x.pages.all (fun p => p.1 / 2048 ≠ k || pageDecodes x k (p.1 % 2048))

/-- The XOR of two memories. -/
def xorMem (m : Mem) (src : Mem) : Mem := src.foldl (fun m e => writeByte m e.1 (readByte m e.1 ^^^ e.2)) m

/-- The fast-mode group whose parity covers a block (R266, R267). -/
def parityGroup (x : Bobbin) (block : Nat) : Option Group := x.groups.find? (fun g => !g.bulk && g.blocks.any (fun e => e.1 = block))

/-- The pages of a row of a group that do not decode. -/
def rowFails (x : Bobbin) (g : Group) (page : Nat) : List Nat := (g.blocks.map Prod.fst).filter (fun k => !pageDecodes x k page)

/-- A page rebuilt from the parity and the other pages of its row, when those decode (R268). -/
def rebuilt (x : Bobbin) (block page : Nat) : Option Mem :=
  match parityGroup x block with
  | none => none
  | some g =>
    if (rowFails x g page).all (fun k => k = block) then
      some (((g.blocks.map Prod.fst).filter (fun k => k ≠ block)).foldl (fun m k =>
        match lookup x.pages (pageKey k page) with
        | some p => xorMem m p.data
        | none => m) (readD [] g.parity page))
    else none

/-- The data of the page a map entry names, under a key: zeros where unmapped, none where it is lost or reads uncorrectably (R262, R268). -/
def cellData (s : State) (key e : Nat) : Option Mem :=
  if e = unmapped then some []
  else if e = lostEntry then none
  else
    let x := getBob s (entryBob e)
    match lookup x.pages (pageKey (entryBlock e) (entryPage e)) with
    | some p =>
      if pageDecodes x (entryBlock e) (entryPage e) then some (decrypted key p p.data)
      else (rebuilt x (entryBlock e) (entryPage e)).map (decrypted key p)
    | none => none

/-! ### Groups and programs (R256-R258, R266, R267, R278) -/

/-- The least-worn free data block of a die and plane, lowest id first (R278). -/
def leastWorn (x : Bobbin) (b d p : Nat) : Option Nat :=
  ((List.range 340).map (fun k => (d * 32 + p) * 340 + k)).foldl (fun best k =>
    if (getBlock x k).st ≠ .free || !isData x b k then best
    else
      match best with
      | none => some k
      | some b => if (getBlock x k).wear < (getBlock x b).wear then some k else some b) none

/-- A block is opened in a mode (R252). -/
def openBlock (x : Bobbin) (bulk : Bool) (k : Nat) : Bobbin := modBlock x k (fun f => { f with st := .opened, mode := if bulk then 2 else 1 })

/-- Open a group on a plane: one block of each of the 8 active dies, least worn first (R266, R278); none where a die has no free block there. -/
def openGroup (x : Bobbin) (b : Nat) (bulk maint : Bool) (plane : Nat) : Option Bobbin :=
  let blocks := (List.range 8).filterMap (fun r => (dieOfRole x r).bind (fun d => leastWorn x b d plane))
  if blocks.length = 8 then
    let x := blocks.foldl (fun x k => openBlock x bulk k) x
    some { x with groups := x.groups ++ [{ bulk := bulk, maint := maint, plane := plane, blocks := blocks.map (fun k => (k, 0)), parity := [] }] }
  else none

/-- A group has room for another page. -/
def groupRoom (g : Group) : Bool := g.blocks.any (fun e => e.2 < pagesPerBlock g.bulk)

/-- A block in use is closed (R258). -/
def closeBlock (x : Bobbin) (k : Nat) : Bobbin := modBlock x k (fun f => if f.st = .opened then { f with st := .closed } else f)

/-- Groups without room are closed; the parity of a fast-mode group is dropped once each of its blocks is verified (R258, R267). -/
def closeFull (x : Bobbin) : Bobbin :=
  let x := (x.groups.filter (fun g => !groupRoom g)).foldl (fun x g => g.blocks.foldl (fun x e => closeBlock x e.1) x) x
  { x with groups := x.groups.filter (fun g => groupRoom g || (!g.bulk && !(g.blocks.all (fun e => blockVerifies x e.1)))) }

/-- The device stops using groups early: they are closed (R258). -/
def shutGroups (x : Bobbin) (sel : Group → Bool) : Bobbin :=
  closeFull { x with groups := x.groups.map (fun g => if sel g then { g with blocks := g.blocks.map (fun e => (e.1, pagesPerBlock g.bulk)) } else g) }

/-- The block of a group that takes the next page: the one with the fewest. -/
def nextBlock : List (Nat × Nat) → Option (Nat × Nat)
  | [] => none
  | e :: es =>
    match nextBlock es with
    | some f => if f.2 < e.2 then some f else some e
    | none => some e

/-- The page is programmed in a group: counted there, and in the parity of its row (R266). -/
def fillGroup (g : Group) (block page : Nat) (data : Mem) : Group :=
  { g with blocks := g.blocks.map (fun e => if e.1 = block then (e.1, e.2 + 1) else e),
           parity := if g.bulk then g.parity else writeD [] g.parity page (xorMem (readD [] g.parity page) data) }

/-- An M or U program keeps its die busy (R257, R270). -/
def noteBusy (x : Bobbin) (op : DieOp) : Bobbin := modDie x (dieOf op.block) (fun d => { d with busy := some op, suspends := 0 })

/-- Program a page on a bobbin, in an open group of the mode and stream without a block of `avoid`, opening one on plane `plane` when none has room. The map entry of the
page, or none when no block is free there. -/
def programPage (x : Bobbin) (b : Nat) (bulk maint : Bool) (plane now : Nat) (avoid : List Nat) (pg : FPage) : Option (Nat × Bobbin) :=
  let has : Group → Bool := fun g => g.bulk = bulk && g.maint = maint && groupRoom g && !(g.blocks.any (fun e => avoid.contains e.1))
  let x? := if x.groups.any has then some x else openGroup x b bulk maint plane
  x?.bind (fun x =>
    match x.groups.findIdx? has with
    | none => none
    | some i =>
      (x.groups[i]?).bind (fun g =>
        (nextBlock g.blocks).map (fun e =>
          let page := pageAt bulk e.2
          let n := if maint then { x.ctr with move := x.ctr.move + unitBytes } else { x.ctr with prog := x.ctr.prog + unitBytes }
          let x := { x with pages := insertKey x.pages (pageKey e.1 page) pg, groups := x.groups.set i (fillGroup g e.1 page pg.data), ctr := n }
          let x := if bulk && page % 3 ≠ 0 then noteBusy x { erase := false, block := e.1, page := page, since := now } else x
          (mapEntry b e.1 page, closeFull x))))

/-- A list from its element n on, then the rest. -/
def rotate {α : Type} (l : List α) (n : Nat) : List α := l.drop (n % l.length) ++ l.take (n % l.length)

/-- Program a page on some plane of a bobbin, plane `m` first. -/
def programAny (x : Bobbin) (b : Nat) (bulk maint : Bool) (m now : Nat) (avoid : List Nat) (pg : FPage) : Option (Nat × Bobbin) :=
  (rotate (List.range 32) m).findSome? (fun p => programPage x b bulk maint p now avoid pg)

/-! ### Erases (R253, R256, R278) -/

/-- The pages of a block gone from the page table. -/
def dropPages (x : Bobbin) (block : Nat) : Bobbin := { x with pages := x.pages.filter (fun e => e.1 / 2048 ≠ block) }

/-- Erase a block: its wear advances by the mode's wear units, its pages' written bits clear, it is free; its die is busy with it (R253, R256, R270, R278). -/
def eraseBlock (x : Bobbin) (block day now : Nat) : Bobbin :=
  let f := getBlock x block
  let w := if f.mode = 2 then 40 else 3
  let x := dropPages x block
  let x := modBlock x block (fun f => { f with st := .free, mode := 0, wear := f.wear + w, gained := writeD 0 f.gained day (readD 0 f.gained day + w) })
  let x := noteBusy x { erase := true, block := block, page := 0, since := now }
  { x with ctr := { x.ctr with wearMax := max x.ctr.wearMax (f.wear + w) }, refreshQ := x.refreshQ.erase block }

/-- What a die is busy with at a clock: an erase ends within 15 ms, a bulk-mode program of 16 KiB at 0.3125 GB/s within 53 beats (R253, R270). -/
def busyOp (d : Die) (now : Nat) : Option DieOp := d.busy.filter (fun o => now ≤ o.since + if o.erase then 15000 else 53)

end Sys2Proof.Machine
end

