-- ==== Sys2Proof/Machine/FlashOps.lean ====
section
/-! DEFINITION. The translation layer (13): the map of stores and park areas, placement, journal records, movements, block life; shared by the pool, storage, card,
skein and draft commands. -/

namespace Sys2Proof.Machine

/-! ### The map (R261, R262) -/

/-- The owner number of a slice's park area in journal records and page metadata (log entry 18). Unit 128 p + i of it is unit i of the parked copy of page p. -/
def parkOwner (q : Nat) : Nat := 1024 + q

/-- What the map says of a unit of a store. -/
def unitEntry (st : Store) (u : Nat) : Nat := readD unmapped st.map u

/-- What the map says of a unit of an owner. -/
def entryOf (s : State) (owner u : Nat) : Nat :=
  if owner < 1024 then ((lookup s.stores owner).map (fun st => unitEntry st u)).getD unmapped
  else (((lookup s.slices (owner - 1024)).bind (fun x => lookup x.pages (u / 128))).map (fun p => readD unmapped p.parked (u % 128))).getD unmapped

/-- A unit of an owner is mapped anew. -/
def setEntry (s : State) (owner u e : Nat) : State :=
  if owner < 1024 then modStore s owner (fun st => { st with map := writeD unmapped st.map u e })
  else modSlice s (owner - 1024) (fun x => { x with pages := adjust x.pages (u / 128) (fun p => { p with parked := writeD unmapped p.parked (u % 128) e }) })

/-- The slice that an owner belongs to. -/
def ownerSlice (s : State) (owner : Nat) : Nat := if owner < 1024 then ((lookup s.stores owner).map Store.slice).getD 0xFF else owner - 1024

/-- The handle of the key an owner's data is under: a store's key, or the slice's park key (14 R288, 17 R351). -/
def ownerKey (s : State) (owner : Nat) : Nat :=
  if owner < 1024 then ((lookup s.stores owner).map Store.key).getD 0
  else ((s.sec.keys.find? (fun k => k.kind = 3 && k.slice = owner - 1024)).map KeyRec.handle).getD 0

/-- The data of the page that a map entry names, as an owner reads it. -/
def entryData (s : State) (owner e : Nat) : Option Mem := cellData s (ownerKey s owner) e

/-- The data of a map unit, keyed by offset: zeros where unmapped, none where it is lost or reads uncorrectably (R262, R268). -/
def unitData (s : State) (st : Store) (u : Nat) : Option Mem := cellData s st.key (unitEntry st u)

/-- The unit cannot be read (R262, R275). -/
def unitFails (s : State) (st : Store) (u : Nat) : Bool := (unitData s st u).isNone

/-- `n` bytes of a store from byte `off`, failing units as zeros. -/
def readStore (s : State) (st : Store) (off n : Nat) : List Byte :=
  (List.range n).map (fun i =>
    match unitData s st ((off + i) / unitBytes) with
    | some m => readByte m ((off + i) % unitBytes)
    | none => 0)

/-- The units that a byte range of a store touches. -/
def unitsOf (off n : Nat) : List Nat :=
  if n = 0 then [] else (List.range ((off + n - 1) / unitBytes - off / unitBytes + 1)).map (fun i => off / unitBytes + i)

/-- The units whose map entry names a page of a block: owner and unit. -/
def validUnits (s : State) (b block : Nat) : List (Nat × Nat) :=
  let here : Nat → Bool := fun e => e < lostEntry && entryBob e = b && entryBlock e = block
  s.stores.flatMap (fun st => (st.2.map.filter (fun e => here e.2)).map (fun e => (st.1, e.1))) ++
  s.slices.flatMap (fun x => x.2.pages.flatMap (fun p => (p.2.parked.filter (fun e => here e.2)).map (fun e => (parkOwner x.1, 128 * p.1 + e.1))))

/-! ### The journal (R264, R265; 14 R295) -/

/-- Bytes of a journal record. -/
def recordBytes (r : JRecord) : Nat := 32 + 16 * r.changes.length

/-- Apply map changes, unless the owner is gone. -/
def applyChanges (s : State) (cs : List MapChange) : State := cs.foldl (fun s c => setEntry s c.store c.unit c.new) s

/-- Make one journal record of map changes: applied to the map, committed at once while HOLDUP_OK is high (R264). -/
def journalRecord (s : State) (cs : List MapChange) : State :=
  if cs.isEmpty then s
  else
    let s := applyChanges s cs
    let r : JRecord := { jseq := s.journal.jseq + 1, changes := cs, committed := s.pins.holdupOk, made := s.clock, ops := [] }
    { s with journal := { s.journal with jseq := s.journal.jseq + 1, records := s.journal.records ++ [r] } }

/-- A list cut into runs of `n`; the first number bounds how many. -/
def batchesOf {α : Type} (n : Nat) : Nat → List α → List (List α)
  | 0, _ => []
  | k + 1, l => if l.isEmpty then [] else l.take n :: batchesOf n k (l.drop n)

/-- Journal records of map changes that need not commit together, of at most 128 entries each (R264). -/
def journalChanges (s : State) (cs : List MapChange) : State := (batchesOf 128 cs.length cs).foldl journalRecord s

/-- Operation `id` waits on a record that is not committed. -/
def waitsDurable (s : State) (id : Nat) : Bool := s.journal.records.any (fun r => !r.committed && r.ops.contains id)

/-- Operation `id` waits for every uncommitted record of these units (14 R296). -/
def awaitRecords (s : State) (owner : Nat) (us : List Nat) (id : Nat) : State :=
  { s with journal := { s.journal with records := s.journal.records.map (fun r =>
      if !r.committed && r.changes.any (fun c => c.store = owner && us.contains c.unit) then { r with ops := r.ops ++ [id] } else r) } }

/-- The atomic unit of a write, in sectors (14 R298). -/
def atomicUnit (s : State) (o : Op) : Nat := if o.lowHoldup || !s.pins.holdupOk then 1 else 64

/-- The result with which an operation that waited for durability completes: a WRITE or TRIM gives its atomic unit, others 0. -/
def durableResult (s : State) (o : Op) : Nat := if o.opcode = 0x01 || o.opcode = 0x04 then atomicUnit s o else 0

/-- Operations that waited on records now committed complete (14 R296, R297). -/
def wakeDurable (s : State) (ids : List Nat) : State :=
  ids.foldl (fun s id =>
    match lookup s.ops id with
    | some o => if waitsDurable s id then s else finishOk s id (durableResult s o)
    | none => s) s

/-- How many records from the front fill one 16 KiB page. -/
def pageFill : List JRecord → Nat → Nat
  | [], _ => 0
  | r :: rs, room => if recordBytes r ≤ room then 1 + pageFill rs (room - recordBytes r) else 0

/-- Records packed into 16 KiB pages: `room` is left on the page begun with `now`, of which the last record's JSEQ is kept (R264). The JSEQ of each page. -/
def packPages : List JRecord → Nat → Option Nat → List Nat
  | [], _, now => now.toList
  | r :: rs, room, now =>
    if recordBytes r ≤ room then packPages rs (room - recordBytes r) (some r.jseq)
    else now.toList ++ packPages rs (unitBytes - recordBytes r) (some r.jseq)

/-- Journal pages are programmed: pages of a device structure, each with its WSEQ (R255). -/
def addPages (j : Journal) (last : List Nat) : Journal :=
  last.foldl (fun j n => { j with wseq := j.wseq + 1, pages := j.pages ++ [{ unit := j.pages.length, wseq := j.wseq + 1, jseq := n }] }) j

/-- The first `n` records are in verified journal pages: committed and out of the buffer (R264). -/
def programRecords (s : State) (n : Nat) : State :=
  let done := s.journal.records.take n
  let s := { s with journal := { (addPages s.journal (packPages done unitBytes none)) with records := s.journal.records.drop n } }
  wakeDurable s (done.flatMap JRecord.ops).eraseDups

/-- The whole journal buffer is programmed. -/
def programJournal (s : State) : State := programRecords s s.journal.records.length

/-- Every record of the buffer is committed (HOLDUP_OK rises, R264). -/
def commitAll (s : State) : State :=
  let ids := (s.journal.records.flatMap JRecord.ops).eraseDups
  let s := { s with journal := { s.journal with records := s.journal.records.map (fun r => { r with committed := true }) } }
  wakeDurable s ids

/-- The records made so far are committed: at once while HOLDUP_OK is high, otherwise by programming the journal buffer (R264, R273). -/
def commitRecords (s : State) : State := if s.pins.holdupOk then s else programJournal s

/-! ### Placement (R256, R260, R266, R272, R278) -/

/-- The bobbins that may take a unit the device is free to place, from free value `n` on: not read-only, unthrottled ones first (R272, R276). -/
def placeable (s : State) (n : Nat) : List Nat :=
  let ok := (List.range (nBobbins s)).filter (fun b => !(getBob s b).readOnly)
  let calm := ok.filter (fun b => !(getBob s b).foreground)
  rotate calm n ++ rotate (ok.filter (fun b => (getBob s b).foreground)) n

/-- The data of a refused program has found its page, or none (R256). -/
def clearRefused (s : State) : State := { s with bobbins := s.bobbins.map (fun e => (e.1, { e.2 with refused := false })) }

/-- Bytes that the host stream programs on a bobbin, by treadle day (R279). -/
def countProg (x : Bobbin) (day : Nat) : Bobbin := { x with progDays := writeD 0 x.progDays day (readD 0 x.progDays day + unitBytes) }

/-- Program one unit of an owner on a bobbin the device chooses, fast mode, host stream (R260). The bobbin and the plane are free values where several can take it (log
entry 18). The new map entry, or none when no bobbin can (R291). `jseq` is that of the record that will commit it. -/
def placeUnit (s : State) (owner u jseq : Nat) (data : Mem) : Option (Nat × State) :=
  let (n, s) := draw s
  let (m, s) := draw s
  let pg := mkPage owner u (s.journal.wseq + 1) jseq (ownerKey s owner) data
  ((placeable s n).findSome? (fun b => (programAny (getBob s b) b false false m s.clock [] pg).map (fun r => (b, r)))).map (fun r =>
    (r.2.1, { (clearRefused (modBob s r.1 (fun _ => countProg r.2.2 (dayOf s.trd.beat)))) with journal := { s.journal with wseq := s.journal.wseq + 1 } }))

/-- The status of a command or park whose data cannot be placed: REPROGRAM after a refused program, else WRITE_FAULT (R256, R276, R291). -/
def placeStatus (s : State) : Nat := if s.bobbins.any (fun e => e.2.refused) then stReprogram else stWriteFault

/-! ### Movements (R259, R265, R268, R273, R275) -/

/-- Counts of units set to lost: of the bobbin, and of the migration in progress (R275, R282). -/
def countLost (x : Bobbin) : Bobbin :=
  { x with ctr := { x.ctr with lost := x.ctr.lost + 1, uncorr := sat32 (x.ctr.uncorr + 1) }, migrating := x.migrating.map (fun m => (m.1, m.2 + 1)) }

/-- A unit that cannot be read while it is moved is set to lost (R275). -/
def loseUnit (s : State) (b owner u : Nat) : State :=
  modBob (journalRecord s [{ store := owner, unit := u, new := lostEntry, old := entryOf s owner u }]) b countLost

/-- Copy one unit to a block of the bobbin's maintenance stream outside `avoid`: the copy's movement then waits for its commit. One that cannot be read is lost. The plane
and the JSEQ of the page are free values (log entry 18). -/
def copyUnit (s : State) (b : Nat) (bulk : Bool) (avoid : List Nat) (owner u : Nat) : State :=
  let old := entryOf s owner u
  match entryData s owner old with
  | none => loseUnit s b owner u
  | some data =>
    let (m, s) := draw s
    let (j, s) := draw s
    match programAny (getBob s b) b bulk true m s.clock avoid (mkPage owner u (s.journal.wseq + 1) j (ownerKey s owner) data) with
    | none => s
    | some (e, x) =>
      let x := { x with ctr := { x.ctr with read := x.ctr.read + unitBytes }, moves := x.moves ++ [{ owner := owner, unit := u, old := old, new := e }] }
      charge { (modBob s b (fun _ => x)) with journal := { s.journal with wseq := s.journal.wseq + 1 } } (ownerSlice s owner)
        (fun m => { m with flashMove := m.flashMove + unitBytes })

/-- Copy units, each in the mode that `bulkOf` gives its owner. -/
def copyUnits (s : State) (b : Nat) (bulkOf : Nat → Bool) (avoid : List Nat) (us : List (Nat × Nat)) : State :=
  us.foldl (fun s u => copyUnit s b (bulkOf u.1) avoid u.1 u.2) s

/-- UNIT_LOST, when a movement set units to lost (R275, R277). -/
def postLost (s : State) (b lost : Nat) : State := if lost = 0 then s else postEvent s 0x52 (b + lost % 2 ^ 28 * 16)

/-- The copy is safe (R259): its page decodes, and in bulk mode its block is closed and verified. -/
def copySafe (x : Bobbin) (m : BlockMove) : Bool :=
  let k := entryBlock m.new
  pageDecodes x k (entryPage m.new) && ((getBlock x k).mode ≠ 2 || ((getBlock x k).st = .closed && blockVerifies x k))

/-- Erase a source from which every unit has been moved, unless it is on a die that is mapped out (R273, R282). -/
def eraseSource (s : State) (b block : Nat) : State :=
  let x := getBob s b
  if (getBlock x block).st = .closed && onActive x block && (validUnits s b block).isEmpty && !(x.moves.any (fun m => entryBlock m.old = block)) then
    modBob s b (fun x => eraseBlock x block (dayOf s.trd.beat) s.clock)
  else s

/-- Movements whose copies are safe are committed, each only where the map still names the source, then the sources left empty are erased (R265, R273). -/
def settleMoves (s : State) (b : Nat) (sel : Bobbin → BlockMove → Bool) : State :=
  let x := getBob s b
  let ready := x.moves.filter (fun m => copySafe x m && sel x m)
  let s := modBob s b (fun x => { x with moves := x.moves.filter (fun m => !ready.contains m) })
  let s := journalChanges s ((ready.filter (fun m => entryOf s m.owner m.unit = m.old)).map (fun m => { store := m.owner, unit := m.unit, new := m.new, old := m.old }))
  (ready.map (fun m => entryBlock m.old)).eraseDups.foldl (fun s k => eraseSource s b k) (commitRecords s)

/-- The copy lies in a fast-mode block, and is safe as soon as it is programmed (R259). -/
def toFast (x : Bobbin) (m : BlockMove) : Bool := (getBlock x (entryBlock m.new)).mode ≠ 2

/-- The units lost on bobbin b between two states. -/
def lostSince (s0 s : State) (b : Nat) : Nat := (getBob s b).ctr.lost - (getBob s0 b).ctr.lost

/-- Units are copied and committed as far as they go to fast mode; those lost on the way are reported. -/
def moveOut (s0 : State) (b : Nat) (bulkOf : Nat → Bool) (avoid : List Nat) (us : List (Nat × Nat)) : State :=
  let s := copyUnits s0 b bulkOf avoid us
  settleMoves (postLost s b (lostSince s0 s b)) b toFast

/-- move_block (R273). Copies made by an earlier presentation go ahead first; a block whose units are not copied has them copied now, and what went to fast mode is
committed and the block erased. Where bulk-mode copies of it wait already, their groups are closed early, and then it is committed and erased (log entry 39). -/
def moveBlock (s : State) (b block : Nat) (bulkOf : Nat → Bool) : State :=
  let mine : BlockMove → Bool := fun m => entryBlock m.old = block
  let waits := ((getBob s b).moves.filter mine).map (fun m => entryBlock m.new)
  let s := if waits.isEmpty then moveOut (settleMoves s b (fun _ _ => true)) b bulkOf [] (validUnits s b block)
    else settleMoves (modBob s b (fun x => shutGroups x (fun g => g.bulk && g.blocks.any (fun e => waits.contains e.1)))) b (fun _ _ => true)
  eraseSource (commitRecords s) b block

/-- The failing row of an open fast-mode group: its committed units go to a new group when one page fails; the units on failing pages are lost when several do
(R268). -/
def healRow (s : State) (b block page : Nat) : State :=
  let x := getBob s b
  match parityGroup x block with
  | none => s
  | some g =>
    let inRow : Nat → List (Nat × Nat) := fun k => (validUnits s b k).filter (fun u => entryPage (entryOf s u.1 u.2) = page)
    let bad := rowFails x g page
    if bad.length ≤ 1 then moveOut s b (fun _ => false) (g.blocks.map Prod.fst) (g.blocks.flatMap (fun e => inRow e.1))
    else
      let s' := (bad.flatMap inRow).foldl (fun s u => loseUnit s b u.1 u.2) s
      postLost s' b (lostSince s s' b)

/-- A block is queued for refresh (R275). -/
def queueRefresh (x : Bobbin) (block : Nat) : Bobbin :=
  if (getBlock x block).st = .closed && !x.refreshQ.contains block then
    { x with refreshQ := x.refreshQ ++ [block], ctr := { x.ctr with refresh := sat32 (x.ctr.refresh + 1) } }
  else x

/-- Account the reading of a unit: BOB_READ, BOB_UNCORR, a RAS entry where it fails (R275, 14 R301, 18 R379); a page that does not decode has its row healed (R268); whether
a page that decodes did so only at the last retry level, and its block is queued for refresh, is a free value (R275; log entry 18). -/
def countRead (s : State) (owner u : Nat) : State :=
  let e := entryOf s owner u
  let store := if owner < 1024 then owner else 0xFFFF
  if e = unmapped then s
  else if e = lostEntry then logRas s 5 1 0xFFFF store (0xFFFFFFF + u * 2 ^ 32)
  else
    let b := entryBob e
    let x := getBob s b
    let decodes := pageDecodes x (entryBlock e) (entryPage e)
    let fails := (entryData s owner e).isNone
    let (n, s) := draw s
    let s := modBob s b (fun x =>
      { x with ctr := { x.ctr with read := x.ctr.read + unitBytes, uncorr := if decodes && !fails then x.ctr.uncorr else sat32 (x.ctr.uncorr + 1) } })
    let s := if fails then logRas s 5 1 (b * 16 + dieOf (entryBlock e)) store (entryBlock e + entryPage e * 2 ^ 17 + u * 2 ^ 32) else s
    if !decodes then healRow s b (entryBlock e) (entryPage e)
    else if n % 2 = 1 then modBob s b (fun x => queueRefresh x (entryBlock e))
    else s

/-- Account the reading of units. -/
def countReads (s : State) (owner : Nat) (us : List Nat) : State := us.foldl (fun s u => countRead s owner u) s

/-! ### Parked copies (R260, R264; 08 R146, R148) -/

/-- Program the 128 units of a parked copy: the map changes, or none when one cannot be placed. All are committed by one record (R264). -/
def placePark (s : State) (q page : Nat) (data : Mem) : Option (List MapChange × State) :=
  (List.range 128).foldl (fun acc i =>
    acc.bind (fun a =>
      (placeUnit a.2 (parkOwner q) (128 * page + i) (s.journal.jseq + 1) (sliceRange data (i * unitBytes) unitBytes)).map (fun r =>
        (a.1 ++ [{ store := parkOwner q, unit := 128 * page + i, new := r.1, old := entryOf s (parkOwner q) (128 * page + i) }], r.2)))) (some ([], s))

/-- Write a parked copy, durable before this ends (08 R146, R152); none when it cannot be placed. -/
def writePark (s : State) (q page : Nat) (data : Mem) : Option State := (placePark s q page data).map (fun r => commitRecords (journalRecord r.2 r.1))

/-- Unit i of the parked copy of a page. -/
def parkUnit (s : State) (q page i : Nat) : Option Mem := entryData s (parkOwner q) (entryOf s (parkOwner q) (128 * page + i))

/-- The parked copy of a page, keyed by the offset in it; none where some unit cannot be read. -/
def parkData (s : State) (q page : Nat) : Option Mem :=
  if (List.range 128).all (fun i => (parkUnit s q page i).isSome) then
    some ((List.range 128).flatMap (fun i => ((parkUnit s q page i).getD []).map (fun e => (e.1 + i * unitBytes, e.2))))
  else none

/-- Bytes of one unit of a parked copy are replaced: the unit is read, merged and written anew (R263); left as it is where it cannot be. -/
def writeParked (s : State) (q page at_ : Nat) (bs : List Byte) : State :=
  let i := at_ / unitBytes
  let u := 128 * page + i
  match parkUnit s q page i with
  | none => s
  | some m =>
    match placeUnit s (parkOwner q) u (s.journal.jseq + 1) (writeBytes m (at_ % unitBytes) bs) with
    | none => s
    | some (e, s') => journalRecord s' [{ store := parkOwner q, unit := u, new := e, old := entryOf s (parkOwner q) u }]

/-! ### Block life (R271-R279) -/

/-- BLOCK_RETIRED's DETAIL (R277). -/
def retiredDetail (b block cause : Nat) : Nat := block + b * 2 ^ 17 + cause * 2 ^ 21

/-- Blocks that garbage collection could still free: whole blocks' worth of invalid pages in closed blocks. -/
def reclaimable (s : State) (b : Nat) : Nat :=
  let x := getBob s b
  let closed := x.blocks.filter (fun e => e.2.st = .closed && onActive x e.1)
  (closed.map (fun e => pagesPerBlock (e.2.mode = 2) - (validUnits s b e.1).length)).sum / 1152

/-- Fewer than 1,024 free blocks, that garbage collection could not raise to 1,536 (R276). -/
def outOfBlocks (s : State) (b : Nat) : Bool :=
  let x := getBob s b
  freeBlocks x < 1024 && freeBlocks x + reclaimable s b < 1536

/-- The bobbin becomes read-only (R276). -/
def becomeReadOnly (s : State) (b : Nat) : State :=
  if (getBob s b).readOnly then s else postEvent (noteAlert (modBob s b (fun x => { x with readOnly := true }))) 0x54 b

/-- The bobbin leaves read-only once garbage collection can give it blocks again (R276, R283). -/
def liftReadOnly (s : State) (b : Nat) : State :=
  if (getBob s b).readOnly && !outOfBlocks s b then noteAlert (modBob s b (fun x => { x with readOnly := false })) else s

/-- Read-only as R276 has it, either way. -/
def checkReadOnly (s : State) (b : Nat) : State := if outOfBlocks s b then becomeReadOnly s b else liftReadOnly s b

/-- The factory spare of a block's plane that replaces it (R276). -/
def blockSpare (x : Bobbin) (b block : Nat) : Option Nat :=
  ((List.range 340).map (fun k => block / 340 * 340 + k)).find? (fun k => Config.factoryUse b k = 1 && !x.spares.contains k)

/-- A bobbin with a block retired: replaced by a factory spare of its plane while one is left, its groups closed, counted (R275-R277). -/
def retired (x : Bobbin) (b block day : Nat) : Bobbin :=
  let x := shutGroups x (fun g => !g.bulk && g.blocks.any (fun e => e.1 = block))
  let x := modBlock (dropPages x block) block (fun f => { f with st := .retired, mode := 0 })
  let x := { x with spares := x.spares ++ (blockSpare x b block).toList }
  let x := modDie x (dieOf block) (fun y =>
    { y with bad := min (y.bad + 1) 1023, today := (if y.day = day then y.today else 0) + 1, day := day, posted := y.posted && y.day = day })
  { x with groups := x.groups.filterMap (fun g =>
             if !(g.blocks.any (fun e => e.1 = block)) then some g
             else if !g.bulk then none
             else some { g with blocks := g.blocks.filter (fun e => e.1 ≠ block) }),
           refreshQ := x.refreshQ.erase block }

/-- The failure is counted, and the block where it is retired (BOB_RETIRED, BOB_PFAIL, BOB_EFAIL). -/
def countFail (x : Bobbin) (cause : Nat) (gone : Bool) : Bobbin :=
  let c := if gone then { x.ctr with retired := sat32 (x.ctr.retired + 1) } else x.ctr
  { x with ctr := if cause = 1 then { c with efail := sat32 (c.efail + 1) } else { c with pfail := sat32 (c.pfail + 1) } }

/-- Retire a block (R275-R277), with DIE_FAILING at the 64th of a treadle day; a retirement that would leave too few free blocks is refused and the bobbin becomes
read-only: the block is closed and not programmed again. -/
def retireBlock (s : State) (b block cause : Nat) : State :=
  let d := dieOf block
  let s' := modBob s b (fun x => countFail (retired x b block (dayOf s.trd.beat)) cause true)
  if outOfBlocks s' b then
    becomeReadOnly (modBob s b (fun x => countFail (closeBlock (shutGroups x (fun g => g.blocks.any (fun e => e.1 = block))) block) cause false)) b
  else
    let s := postEvent s' 0x51 (retiredDetail b block cause)
    let y := getDie (getBob s b) d
    if y.today ≥ 64 && !y.posted then
      postEvent (modBob s b (fun x => modDie x d (fun y => { y with posted := true, st := 2 }))) 0x53 (b + d * 16)
    else s

/-- A bulk-mode group that lost a block to retirement gets the least-worn free block of the same die and plane in its place (R278, 13 "Worked example"); it is closed
where there is none. -/
def refillGroup (x : Bobbin) (b block : Nat) : Bobbin :=
  let short : Group → Bool := fun g => g.bulk && g.blocks.length = 7 && g.plane = planeOf block && !(g.blocks.any (fun e => dieOf e.1 = dieOf block))
  match leastWorn x b (dieOf block) (planeOf block) with
  | some k =>
    if x.groups.any short then
      let x := openBlock x true k
      { x with groups := x.groups.map (fun g => if short g then { g with blocks := g.blocks ++ [(k, 0)] } else g) }
    else x
  | none => shutGroups x short

end Sys2Proof.Machine
end

