-- ==== Sys2Proof/Machine/Pool.lean ====
section
/-! DEFINITION. The pool and commons of a slice (08): page accounting, eviction, window lines, and access to TIER 1 and TIER 2
addresses and to partner memory through a window (02 R22). -/

namespace Sys2Proof.Machine

/-- Bytes of a page. -/
def pageBytes : Nat := 2097152

/-- Pages of a slice's pool space. -/
def slicePages : Nat := 524288

/-! ### Accounting (R134, R153) -/

/-- The page holds a pool page. -/
def pageResident (p : Page) : Bool :=
  match p.kind with
  | .hank .new => false
  | .hank .parked => false
  | .hank .restoring => false
  | _ => true

/-- A work or window page. -/
def pageHeld (p : Page) : Bool :=
  match p.kind with
  | .work => true
  | .window _ => true
  | .hank _ => false

/-- The page is a hank. -/
def isHank (p : Page) : Bool :=
  match p.kind with
  | .hank _ => true
  | _ => false

/-- Pages that contexts saved for jobs of a slice take: 6 each (15 R317); those saved at a slice switch take the switch reserve. -/
def contextPages (s : State) (q : Nat) : Nat :=
  6 * ((s.jobs.filter (fun j => j.2.slice = q)).map (fun j => (j.2.saved.filter (fun c => !(j.2.switchSaved.contains c.1))).length)).sum

/-- Pages that contexts saved at a slice switch take. -/
def switchPages (s : State) (q : Nat) : Nat :=
  6 * ((s.jobs.filter (fun j => j.2.slice = q)).map (fun j => (j.2.saved.filter (fun c => j.2.switchSaved.contains c.1)).length)).sum

/-- Pages that loaded drafts of a slice take (10 R180). -/
def draftPages (s : State) (q : Nat) : Nat := ((s.drafts.filter (fun d => d.2.slice = q)).map (fun d => d.2.pages)).sum

/-- The held pages of a slice, apart from contexts of a slice switch. -/
def heldPages (s : State) (q : Nat) : Nat :=
  match lookup s.slices q with
  | some x => (x.pages.filter (fun p => pageHeld p.2)).length + (x.skeinPages.filter (fun p => p.pinned)).length +
      contextPages s q + draftPages s q
  | none => 0

/-- The resident pages of a slice, held and evictable. -/
def residentPages (s : State) (q : Nat) : Nat :=
  match lookup s.slices q with
  | some x => (x.pages.filter (fun p => pageResident p.2)).length + x.skeinPages.length + contextPages s q + switchPages s q +
      draftPages s q
  | none => 0

/-- The number of bits set in a 48-bit set of logical spindles. -/
def spindleCount (set : Nat) : Nat := ((List.range 48).filter (fun j => bit set j)).length

/-- The switch reserve of a slice (R134). -/
def switchReserve (c : SliceConf) : Nat := if c.shared then 6 * spindleCount c.spindles else 0

/-- The held limit of a slice (R134). -/
def heldLimit (c : SliceConf) : Nat := c.floor - switchReserve c

/-- A slice is sealed (R153). -/
def isSealed (c : SliceConf) : Bool := c.floor = c.ceiling

/-- The slice may take `n` more held pages (R134). -/
def mayHold (s : State) (q n : Nat) : Bool :=
  match lookup s.slices q with
  | some x => heldPages s q + n ≤ heldLimit x.conf
  | none => false

/-- MEM_SEALED_RSV (R153). -/
def sealedReserve (s : State) : Nat := ((s.slices.filter (fun x => isSealed x.2.conf)).map (fun x => x.2.conf.floor)).sum

/-- MEM_PAGES_FREE: pages neither resident for a slice nor reserved. -/
def freePages (s : State) : Nat :=
  94208 - sealedReserve s - ((s.slices.filter (fun x => !isSealed x.2.conf)).map (fun x => residentPages s x.1)).sum

/-! ### Protection, eviction (R150-R154) -/

/-- A directive of a job names the page and its target step has not ended (R150). -/
def directiveNames (j : Job) (isSkein : Bool) (handle page : Nat) : Bool :=
  (j.dirs.zip j.dirStates).any (fun d =>
    (match d.2 with | .waiting => false | _ => true) && j.step ≤ d.1.target &&
    (if isSkein then d.1.kind = 1 && j.skeins[d.1.slot]? = some handle else d.1.kind = 2) &&
    d.1.first ≤ page && page < d.1.first + d.1.count)

/-- A step that has started and not ended has touched the page: of a skein's image, or of the slice's pool space (R150). -/
def stepTouched (j : Job) (h : Option Nat) (page : Nat) : Bool :=
  match j.phase with
  | .running _ => j.touched.any (fun t => t.2 = (h, page))
  | _ => false

/-- A hank or work page of slice q is protected (R150). -/
def pageProtected (s : State) (q page : Nat) : Bool :=
  s.jobs.any (fun j => j.2.slice = q && (stepTouched j.2 none page || directiveNames j.2 false 0 page))

/-- A cached skein page of slice q is protected (R150). -/
def skeinProtected (s : State) (q handle page : Nat) : Bool :=
  s.jobs.any (fun j => j.2.slice = q && (stepTouched j.2 (some handle) page || directiveNames j.2 true handle page))

/-- An evictable page: last-use beat, slice, page, and what it is (none: a hank; some handle: a cached skein page). -/
structure Victim where
  lastUse : Nat
  slice : Nat
  page : Nat
  skein : Option Nat
  deriving DecidableEq, Repr

/-- The evictable, unprotected pages of a slice. -/
def evictable (s : State) (q : Nat) : List Victim :=
  match lookup s.slices q with
  | some x =>
    (x.pages.filter (fun p => isHank p.2 && pageResident p.2 && !pageProtected s q p.1)).map
      (fun p => { lastUse := p.2.lastUse, slice := q, page := p.1, skein := none }) ++
    (x.skeinPages.filter (fun p => !p.pinned && !skeinProtected s q p.handle p.page)).map
      (fun p => { lastUse := p.lastUse, slice := q, page := p.page, skein := some p.handle })
  | none => []

/-- The order of eviction: last-use beat, then slice, then page (R152). -/
def victimBefore (a b : Victim) : Bool :=
  a.lastUse < b.lastUse || (a.lastUse = b.lastUse && (a.slice < b.slice || (a.slice = b.slice && a.page < b.page)))

/-- The oldest page of a list (R152). -/
def oldest : List Victim → Option Victim
  | [] => none
  | v :: vs =>
    match oldest vs with
    | some w => if victimBefore w v then some w else some v
    | none => some v

/-- The bytes of a slice's page, keyed by offset in the page. -/
def pageData (x : Slice) (page : Nat) : Mem := sliceRange x.pool (pageBytes * page) pageBytes

/-- Write the parked copy of a hank, if it is DIRTY, durable before this ends; counted and metered (R146, R149). None where no bobbin can take it (13 R276). -/
def parkCopy (s : State) (q page : Nat) : Option State :=
  match lookup s.slices q with
  | some x =>
    match lookup x.pages page with
    | some p =>
      if p.kind = .hank .dirty then
        (writePark s q page (pageData x page)).map (fun s =>
          let s := modSlice s q (fun x => { x with pages := adjust x.pages page (fun p => { p with kind := .hank .clean }) })
          let s := { s with mem := { s.mem with park := s.mem.park + 1 } }
          charge s q (fun m => { m with flashWrite := m.flashWrite + pageBytes }))
      else some s
    | none => some s
  | none => some s

/-- A hank gives up its pool page and becomes PARKED (R146, R152). One that was never written since its mapping has no copy, and stands for zeros (R145). -/
def releaseHank (s : State) (q page : Nat) : State :=
  modSlice s q (fun x =>
    match lookup x.pages page with
    | some p => { x with pages := insertKey x.pages page { p with kind := .hank .parked },
                         pool := zeroRange x.pool (pageBytes * page) pageBytes }
    | none => x)

/-- A page is given up: a hank's, parked first if it is DIRTY, or a cached skein copy. -/
def giveUp (s : State) (v : Victim) : Option State :=
  match v.skein with
  | none => (parkCopy s v.slice v.page).map (fun s => releaseHank s v.slice v.page)
  | some h => some (modSlice s v.slice (fun x => { x with skeinPages := x.skeinPages.filter (fun p => p.handle ≠ h || p.page ≠ v.page || p.pinned) }))

/-- Evict a page (R152): none where a DIRTY hank cannot be parked. -/
def evict (s : State) (v : Victim) : Option State := (giveUp s v).map (fun s => { s with mem := { s.mem with evict := s.mem.evict + 1 } })

/-- What asking for one more resident page gives (R152, R154): the state with the page obtained, none, or waiting. -/
inductive PageGrant where
  | got (s : State)
  | none_
  | wait
  deriving Repr

/-- obtain_page (R152), with `k` pages already granted and not yet counted as resident. -/
def obtainAfter (s : State) (q k : Nat) : PageGrant :=
  match lookup s.slices q with
  | none => .none_
  | some x =>
    if isSealed x.conf then
      if residentPages s q + k < x.conf.ceiling then .got s else .none_
    else if residentPages s q + k ≥ x.conf.ceiling then
      match oldest (evictable s q) with
      | some v => ((evict s v).map PageGrant.got).getD .wait
      | none => .none_
    else if freePages s > k then .got s
    else
      match oldest ((s.slices.filter (fun y => !isSealed y.2.conf && residentPages s y.1 > y.2.conf.floor)).flatMap (fun y => evictable s y.1)) with
      | some v => ((evict s v).map PageGrant.got).getD .wait
      | none => .wait

/-- obtain_page (R152). -/
def obtainPage (s : State) (q : Nat) : PageGrant := obtainAfter s q 0

/-- Take `n` more resident pages, `k` having been granted before, one after the other (R152). -/
def obtainPagesFrom (s : State) (q k : Nat) : Nat → PageGrant
  | 0 => .got s
  | n + 1 =>
    match obtainAfter s q k with
    | .got s => obtainPagesFrom s q (k + 1) n
    | g => g

/-- Take `n` more resident pages: `.none_` or `.wait` when one cannot be had. -/
def obtainPages (s : State) (q n : Nat) : PageGrant := obtainPagesFrom s q 0 n

/-! ### Window lines (02 R20-R22) -/

/-- The line number in the window of port p that byte `addr` of the partner's space falls in, with the window. -/
def inWindow (x : Port) (addr : Nat) : Option (Window × Nat) :=
  match x.window with
  | some w => if w.caddr ≤ addr && addr < w.caddr + pageBytes * w.pages then some (w, addr - w.caddr) else none
  | none => none

/-- The window and the partner range share a byte. -/
def meetsWindow (x : Port) (addr n : Nat) : Bool :=
  match x.window with
  | some w => n ≠ 0 && addr < w.caddr + pageBytes * w.pages && w.caddr < addr + n
  | none => false

/-- A descriptor of another slice whose operand falls inside the port's window (R22). -/
def partnerDenied (s : State) (p slice addr n : Nat) : Bool :=
  match (getPort s p).window with
  | some w => w.slice ≠ slice && meetsWindow (getPort s p) addr n
  | none => false

/-- The partner's home answers an access of the range with an error (log entry 3). -/
def homeFails (s : State) (p addr n : Nat) : Bool :=
  (getPort s p).homeErr.any (fun r => addr < r.1 + r.2 && r.1 < addr + n)

/-- The lines of a port's window, from byte `off` on for `n` bytes, that the partner must give up before the device's own access: those it
holds in E before a read, every copy before a write (02 "Coherence"). -/
def linesToRecall (x : Port) (off n : Nat) (wr : Bool) : List Nat :=
  (x.lines.filter (fun l => off < (l.1 + 1) * 64 && l.1 * 64 < off + n && (wr || l.2 = .exclusive))).map Prod.fst

/-- Ask the partner for lines it holds, once each. -/
def askLines (x : Port) (ls : List Nat) (wr : Bool) (clock : Nat) : Port :=
  let fresh := ls.filter (fun l => !(x.recalls.any (fun r => r.line = l && (r.forWrite || !wr))))
  { x with recalls := x.recalls ++ fresh.map (fun l => { line := l, forWrite := wr, at_ := clock }) }

/-- The lines of any window over pool bytes of a slice that an access must recall: per port. -/
def poolLines (s : State) (q addr n : Nat) (wr : Bool) : List (Nat × List Nat) :=
  [0, 1, 2, 3].filterMap (fun p =>
    let x := getPort s p
    match x.window with
    | some w =>
      if w.slice = q && addr < pageBytes * (w.first + w.pages) && pageBytes * w.first < addr + n then
        let off := addr - pageBytes * w.first
        let ls := linesToRecall x off (n - (pageBytes * w.first - addr)) wr
        if ls.isEmpty then none else some (p, ls)
      else none
    | none => none)

/-- Ask every partner for the lines an access needs. -/
def askAll (s : State) (l : List (Nat × List Nat)) (wr : Bool) : State :=
  l.foldl (fun s e => modPort s e.1 (fun x => askLines x e.2 wr s.clock)) s

/-! ### Access to a slice's memory -/

/-- A pool address of the RAS log and of the uncorrectable lists: slice × 2^40 + slice-relative byte (log entry 27). -/
def poolAddr (q a : Nat) : Nat := q * 2 ^ 40 + a

/-- Some 64-byte word of the range is on an uncorrectable list (18 R374). -/
def poolUncorr (s : State) (q a n : Nat) : Bool :=
  s.memStacks.any (fun k => k.uncorr.any (fun u => u < poolAddr q (a + n) && poolAddr q a < u + 64))

/-- A write of all 64 bytes of a listed word takes it off the lists (18 R374). -/
def clearUncorr (s : State) (q a n : Nat) : State :=
  { s with memStacks := s.memStacks.map (fun k => { k with uncorr := k.uncorr.filter (fun u => !(poolAddr q a ≤ u && u + 64 ≤ poolAddr q (a + n))) }) }

/-- What an access to a slice's memory meets: it may go ahead, it waits (for a demand restore, a recall or a page), or it ends the job
with that status (R99, R149, R154, R160). -/
inductive Touch where
  | ready (s : State)
  | wait (s : State)
  | ends (status : Nat)
  deriving Repr

/-- Set what a page of a slice is. -/
def setPage (s : State) (q page : Nat) (f : Page → Page) : State := modSlice s q (fun x => { x with pages := adjust x.pages page f })

/-- A step touches one page of its slice (R145, R149, R151, R154). -/
def touchPage (s : State) (q page : Nat) (wr : Bool) : Touch :=
  match (lookup s.slices q).bind (fun x => lookup x.pages page) with
  | none => .ends stBounds
  | some p =>
    match p.kind with
    | .work => .ready (setPage s q page (fun p => { p with lastUse := s.trd.beat }))
    | .window _ => .ready (setPage s q page (fun p => { p with lastUse := s.trd.beat }))
    | .hank .new =>
      match obtainPage s q with
      | .got s =>
        .ready (setPage (clearUncorr s q (pageBytes * page) pageBytes) q page (fun p => { p with kind := .hank (if wr then .dirty else .clean), lastUse := s.trd.beat }))
      | .none_ => .ends stBounds
      | .wait => .wait s
    | .hank .clean => .ready (setPage s q page (fun p => { p with kind := .hank (if wr then .dirty else .clean), lastUse := s.trd.beat }))
    | .hank .dirty => .ready (setPage s q page (fun p => { p with lastUse := s.trd.beat }))
    | .hank .parking => if wr then .wait s else .ready (setPage s q page (fun p => { p with lastUse := s.trd.beat }))
    | .hank .parked => .wait (setPage s q page (fun p => { p with kind := .hank .restoring }))
    | .hank .restoring => .wait s

/-- Touch pages `page` to `page + n - 1` in order. -/
def touchPages (s : State) (q page : Nat) (wr : Bool) : Nat → Touch
  | 0 => .ready s
  | n + 1 =>
    match touchPage s q page wr with
    | .ready s => touchPages s q (page + 1) wr n
    | t => t

/-- An access to `n` bytes of TIER 1 or TIER 2 of a slice: bounds first (R99), then the pages and the window lines. -/
def touch (s : State) (q tier addr n : Nat) (wr : Bool) : Touch :=
  if n = 0 then .ready s
  else if tier = 1 then
    match lookup s.slices q with
    | some x => if addr + n ≤ x.conf.commons * 65536 then .ready s else .ends stBounds
    | none => .ends stBounds
  else
    match lookup s.slices q with
    | none => .ends stBounds
    | some x =>
      let p0 := addr / pageBytes
      let np := (addr + n - 1) / pageBytes - p0 + 1
      if !((List.range np).all (fun i => (lookup x.pages (p0 + i)).isSome)) then .ends stBounds
      else
        match touchPages s q p0 wr np with
        | .ready s =>
          let ls := poolLines s q addr n wr
          if !ls.isEmpty then .wait (askAll s ls wr)
          else if !wr && poolUncorr s q addr n then .ends stMedia
          else .ready s
        | t => t

/-- The memory behind TIER 1 (commons share) or TIER 2 (pool) of a slice. -/
def tierMem (x : Slice) (tier : Nat) : Mem := if tier = 1 then x.commons else x.pool

/-- `n` bytes of TIER 1 or 2 of a slice. -/
def readTier (s : State) (q tier addr n : Nat) : List Byte :=
  match lookup s.slices q with
  | some x => readBytes (tierMem x tier) addr n
  | none => List.replicate n 0

/-- Bytes written to TIER 1 or 2 of a slice. -/
def writeTier (s : State) (q tier addr : Nat) (bs : List Byte) : State :=
  let s := if tier = 1 then modSlice s q (fun x => { x with commons := writeBytes x.commons addr bs })
    else modSlice s q (fun x => { x with pool := writeBytes x.pool addr bs })
  if tier = 1 then s else clearUncorr s q addr bs.length

/-- The range lies in the slice's commons share or in mapped pool pages (R99). -/
def inSlice (s : State) (q tier addr n : Nat) : Bool :=
  match lookup s.slices q with
  | some x =>
    if tier = 1 then addr + n ≤ x.conf.commons * 65536
    else n = 0 || (addr + n ≤ pageBytes * slicePages &&
      (List.range ((addr + n - 1) / pageBytes - addr / pageBytes + 1)).all (fun i => (lookup x.pages (addr / pageBytes + i)).isSome))
  | none => false

/-! ### Partner memory -/

/-- One byte of the partner's space as a descriptor reaches it: through the window into the pool, or over the link (R22). -/
def partnerByte (s : State) (p addr : Nat) : Byte :=
  let x := getPort s p
  match inWindow x addr with
  | some (w, off) => (readTier s w.slice 2 (pageBytes * w.first + off) 1).headD 0
  | none => readByte x.mem addr

/-- `n` bytes of the partner's space. -/
def readPartner (s : State) (p addr n : Nat) : List Byte := (List.range n).map (fun i => partnerByte s p (addr + i))

/-- A little-endian number of the partner's space. -/
def partnerNat (s : State) (p addr n : Nat) : Nat := leNat (readPartner s p addr n)

/-- Bytes written into the partner's space: by non-allocating writes, or into the pool through the window (R20, R22), whose page is used now (R151). -/
def writePartner (s : State) (p : Nat) : Nat → List Byte → State
  | _, [] => s
  | addr, b :: bs =>
    let s := match inWindow (getPort s p) addr with
      | some (w, off) => setPage (writeTier s w.slice 2 (pageBytes * w.first + off) [b]) w.slice (w.first + off / pageBytes) (fun p => { p with lastUse := s.trd.beat })
      | none => modPort s p (fun x => { x with mem := writeByte x.mem addr b })
    writePartner s p (addr + 1) bs

/-- The window lines a descriptor's own access must recall first. -/
def partnerLines (s : State) (p addr n : Nat) (wr : Bool) : List (Nat × List Nat) :=
  let x := getPort s p
  match x.window with
  | some w =>
    if meetsWindow x addr n then
      let ls := linesToRecall x (addr - w.caddr) (n - (w.caddr - addr)) wr
      if ls.isEmpty then [] else [(p, ls)]
    else []
  | none => []

/-- A descriptor reaches partner ranges (address, bytes, written): another slice's window denies it, lines the partner holds are recalled first and
the operation waits, otherwise it goes on (R22). -/
@[inline] def withPartner (s : State) (id : Nat) (o : Op) (rs : List (Nat × Nat × Bool)) (ok : State) : State :=
  if rs.any (fun r => partnerDenied s o.port o.slice r.1 r.2.1) then fail s id stDenied 0
  else
    let ls := rs.flatMap (fun r => (partnerLines s o.port r.1 r.2.1 r.2.2).map (fun l => (l, r.2.2)))
    if ls.isEmpty then ok else ls.foldl (fun s l => askAll s [l.1] l.2) s

end Sys2Proof.Machine
end

