-- ==== Sys2Proof/Machine/JobOps.lean ====
section
/-! DEFINITION. What ends a job and what that leaves (06 R117, R121; 10 R199, R200; 15 R319, R322): shared by aborts, faults, resets
and program errors. -/

namespace Sys2Proof.Machine

/-- No step of the job runs: it has not started, waits between steps, or every rank has yielded or ended (06 R116; 15 R322). A draft's step runs until all of it is
complete, whichever ranks have a program (10 R183). -/
def jobIdle (j : Job) : Bool :=
  match j.phase with
  | .running _ => j.draft.isNone && j.rankStates.all (fun r => r ≠ .running)
  | _ => true

/-- A step runs on some spindle (19 R382, R385). -/
def stepsRun (s : State) : Bool := s.jobs.any (fun j => !jobIdle j.2)

/-- What a spindle keeps of a rank that left it: scratch, bank and registers stay until a scrub; its queues and blocks go. -/
def leaveCtx (c : Ctx) : Ctx := { c with blocks := [], bandq := [], issued := [], sigs := [], loop := none }

/-- Every spindle of the job is free again and remembers the skein handles it ran with (15 R320). -/
def freeSpindles (s : State) (jid : Nat) (j : Job) : State :=
  j.spindles.foldl (fun s l =>
    match physOf s l with
    | some p => modSpn s p (fun x =>
        if (x.rank.map Prod.fst) = some jid then
          { x with rank := none, ctx := leaveCtx x.ctx, affinity := j.skeins.filter (fun h => h ≠ 0xFFFFFFFF) }
        else x)
    | none => s) s

/-- The logical links of a slice's ply. -/
def plyLinks (s : State) (slice : Nat) : List Nat :=
  match lookup s.plies slice with
  | some p => p.links
  | none => []

/-- Send a vote record on every ply link of a slice but `from_` (10 R186). -/
def sendVote (s : State) (slice : Nat) (v : Vote) (from_ : Option Nat) : State :=
  let ls := (plyLinks s slice).filter (fun l => some l ≠ from_)
  ls.foldl (fun s l => sendVoteFlit s l v) s

/-- The vote record that tells the other members a draft has ended here (10 R200). -/
def endRecord (p : Ply) (step decide status : Nat) : Vote where
  step := step
  decide := decide
  member := p.self
  cause := 0
  isEnd := true
  notice := p.notice.isSome
  status := status
  shape := 0
  sslot := 0
  noticeAt := (p.notice.map Notice.beat).getD 0

/-- A draft of a ply has ended on this member: END goes out, and is kept for every later vote (10 R200). -/
def sayEnded (s : State) (jid : Nat) (j : Job) (decide status : Nat) : State :=
  match lookup s.plies j.slice with
  | some p =>
    let v := endRecord p j.step decide status
    sendVote { s with plies := insertKey s.plies j.slice { p with ended := some (jid, v), votes := p.votes ++ [v] } } j.slice v none
  | none => s

/-- END of a job that ends with a status other than OK; that of a draft that ends well goes out when its last step has ended here. -/
def endVote (s : State) (jid : Nat) (j : Job) (status : Nat) : State :=
  match j.draft with
  | some d => if d.ply = 0 || status = stOk then s else sayEnded s jid j d.start status
  | none => s

/-- OWNER of a scale record reads 0 (05 R89), in its pool page or, where its hank is parked, in the parked copy. -/
def clearOwner (s : State) (q : Nat) (r : Nat × Nat) : State :=
  if r.1 = 1 then writeTier s q 1 (r.2 + 20) (leBytes 4 0)
  else
    match (lookup s.slices q).bind (fun x => lookup x.pages (r.2 / pageBytes)) with
    | some p =>
      match p.kind with
      | .hank .parked => writeParked s q (r.2 / pageBytes) (r.2 % pageBytes + 20) (leBytes 4 0)
      | .hank .restoring => writeParked s q (r.2 / pageBytes) (r.2 % pageBytes + 20) (leBytes 4 0)
      | .hank .clean => setPage (writeTier s q 2 (r.2 + 20) (leBytes 4 0)) q (r.2 / pageBytes) (fun p => { p with kind := .hank .dirty })
      | .hank .new => s
      | _ => writeTier s q 2 (r.2 + 20) (leBytes 4 0)
    | none => s

/-- The job gives up its scale records. -/
def clearOwners (s : State) (j : Job) : State := j.owned.foldl (fun s r => clearOwner s j.slice r) s

/-! ### Overrun (10 R188; 15 R316) -/

/-- The earliest boundary that has come on a logical spindle of a job and waits for its step. -/
def waitingBoundary (s : State) (j : Job) : Option Nat :=
  (j.spindles.filterMap (fun l => ((lookup s.sched l).bind SpindleSched.boundary).map Prod.fst)).min?

/-- The overrun of a boundary that its slice has been charged with. -/
def chargedAt (x : Slice) (b : Nat) : Nat :=
  match x.overAt with
  | some (b', n) => if b' = b then n else 0
  | none => 0

/-- The overrun of boundary b comes to `n` beats: what is new of it is charged, and `deduct`ed from the slice's next time slice (R316). -/
def countOverrun (s : State) (q b n : Nat) (deduct : Bool) : State :=
  modSlice s q (fun x =>
    let more := n - chargedAt x b
    { x with overAt := some (b, max n (chargedAt x b)), owed := if deduct then x.owed + more else x.owed,
             meter := { x.meter with overrun := x.meter.overrun + more } })

/-- A step of the job has ended: the beats past a boundary that waited for it are charged to its slice, the longest such step counting, and deducted of its next time
slice; of a ply draft only the planned overrun is, which the boundary itself has deducted (10 R188, R316). -/
def chargeOverrun (s : State) (j : Job) : State :=
  match j.phase, waitingBoundary s j with
  | .running _, some b => countOverrun s j.slice b (s.trd.beat - b) (!(j.draft.any (fun d => d.ply ≠ 0)))
  | _, _ => s

/-- Job `jid` ends: its place, spindles, contexts and holds are free, its operation completes (06 R117, 15 R319). The operation of a job
ended by a reset completes nothing, since its port was reset. -/
def endJob (s : State) (jid status detail result : Nat) : State :=
  match lookup s.jobs jid with
  | none => s
  | some j =>
    let s := chargeOverrun s j
    let s := freeSpindles s jid j
    let s := clearOwners s j
    let s := endVote s jid j status
    let s := { s with jobs := removeKey s.jobs jid }
    let s := charge s j.slice (fun m => { m with jobsDone := m.jobsDone + 1 })
    finish s jid status detail result

/-- JOB_ABORT on one job (15 R322): at once unless a step runs; a frozen draft completes with SPLIT and FROZEN (10 R199). -/
def abortJob (s : State) (jid : Nat) : State :=
  match lookup s.jobs jid with
  | none => s
  | some j =>
    match j.draft.bind DraftRun.frozen, j.phase with
    | some f, .frozen => endJob s jid stSplit (f % 2 ^ 32) 0
    | _, _ =>
      if jobIdle j then endJob s jid stAborted 0 0
      else modJob s jid (fun j => { j with abortAtEnd := some (stAborted, 0) })

/-- Every job of a list is aborted. -/
def abortJobs (s : State) (l : List Nat) : State := l.foldl abortJob s

/-- The job ends without a completion: its operation is out of flight (resets). -/
def dropJob (s : State) (jid : Nat) : State :=
  match lookup s.jobs jid with
  | none => s
  | some j =>
    let s := freeSpindles s jid j
    let s := clearOwners s j
    let s := endVote s jid j stAborted
    { s with jobs := removeKey s.jobs jid, ops := removeKey s.ops jid }

/-- A scrubbed spindle (15 R317): nothing of a rank is left in it. -/
def scrubSpn (s : State) (p : Nat) : State := modSpn s p (fun x => { x with ctx := Ctx.zero, rank := none, affinity := [] })

/-- Every physical spindle scrubbed. -/
def scrubAll (s : State) : State := (List.range 52).foldl scrubSpn s

end Sys2Proof.Machine
end

