-- ==== Sys2Proof/Machine/RepairOps.lean ====
section
/-! DEFINITION. Changes of the spindle map that a step boundary applies (18 R374, R375). -/

namespace Sys2Proof.Machine

/-- A spare-map register (18 RAS_MAP_SPN, RAS_MAP_CORE, RAS_MAP_STR). -/
def mapWord (e : MapEntry) : Nat := e.phys + e.st * 128 + e.pend * 512

/-- The entry of a map. -/
def mapEntryAt (m : List MapEntry) (l : Nat) : MapEntry := (m[l]?).getD { phys := 0x7F, st := 2, pend := 0x7F }

/-- Logical spindle `l` bound anew; the change is logged (R375). -/
def setSpnMap (s : State) (l : Nat) (e : MapEntry) : State :=
  logRas { s with ras := { s.ras with mapSpn := s.ras.mapSpn.set l e } } 0 4 (if e.phys < 52 then e.phys else l) 0 0

/-- RAS_MAP_SPN of a logical spindle: a recorded choice reads as STATE 3 with what it will bind in PEND. -/
def spnWord (s : State) (l : Nat) : Nat :=
  let e := mapEntryAt s.ras.mapSpn l
  match lookup s.ras.choices l with
  | some c => mapWord { e with st := 3, pend := c.getD 0x7F }
  | none => mapWord e

/-- STATE of a logical spindle in use: 0 on its factory spindle, 1 on a spare. -/
def boundState (l dest : Nat) : Nat := if (mapEntryAt factorySpindles l).phys = dest then 0 else 1

/-- The spare takes over what the spindle behind logical `l` holds: scratch, bank, registers, program position (R374). -/
def swapSpindle (s : State) (l dest : Nat) : State :=
  let old := (mapEntryAt s.ras.mapSpn l).phys
  let x := getSpn s old
  let s := if old = dest then s else
    modSpn (modSpn s dest (fun y => { y with ctx := x.ctx, rank := x.rank, affinity := x.affinity })) old
      (fun y => { y with ctx := Ctx.zero, rank := none, affinity := [] })
  setSpnMap s l { phys := dest, st := boundState l dest, pend := 0x7F }

/-- The RESULT of a REPAIR: the new map register, and byte 4 set when the change waits for RESUME_COMPUTE (R375). -/
def repairResult (word : Nat) (pending : Bool) : Nat := word + b2n pending * 2 ^ 32

/-- A spindle REPAIR that has waited takes effect and its operation completes. -/
def completeSpindleRepair (s : State) (id l dest : Nat) : State :=
  let s := swapSpindle s l dest
  let s := { s with ras := { s.ras with pendingRepairs := removeKey s.ras.pendingRepairs id } }
  finishOk s id (repairResult (spnWord s l) false)

/-- At a step boundary the repairs that wait for spindles of the job take effect (R374). -/
def applyRepairs (s : State) (spindles : List Nat) : State :=
  (s.ras.pendingRepairs.filter (fun r => spindles.contains r.2.1)).foldl (fun s r => completeSpindleRepair s r.1 r.2.1 r.2.2) s

end Sys2Proof.Machine
end

