-- ==== Sys2Proof/Machine/Operands.lean ====
section
/-! DEFINITION. Operand formats and their arithmetic: exact dyadic numbers, rounding to a format (04 R67, R77), the products of the array
(03 R53-R55), the elementwise, primitive and row operations of the finisher (05 R80-R85), requantisation (05 R86). -/

namespace Sys2Proof.Machine

/-! ### Exact numbers and formats -/

/-- An exact value: NaN, an infinity, or (−1)^neg × m × 2^e, whose zeros keep their sign. -/
inductive Num where
  | nan
  | inf (neg : Bool)
  | fin (neg : Bool) (m : Nat) (e : Int)
  deriving DecidableEq, Repr

/-- A floating-point format: significand bits with the hidden one, exponent of the least subnormal, width, the least magnitude pattern that is not
finite, whether that is an infinity, and the NaN it writes (R54, R77). -/
structure FloatFmt where
  prec : Nat
  qmin : Int
  width : Nat
  top : Nat
  hasInf : Bool
  nanBits : Nat
  deriving DecidableEq, Repr

def fp32 : FloatFmt := { prec := 24, qmin := -149, width := 32, top := 0x7F800000, hasInf := true, nanBits := 0x7FC00000 }
def bf16 : FloatFmt := { prec := 8, qmin := -133, width := 16, top := 0x7F80, hasInf := true, nanBits := 0x7FC0 }
def fp16 : FloatFmt := { prec := 11, qmin := -24, width := 16, top := 0x7C00, hasInf := true, nanBits := 0x7E00 }
def e5m2 : FloatFmt := { prec := 3, qmin := -16, width := 8, top := 0x7C, hasInf := true, nanBits := 0x7E }
/-- E4M3 has no infinity; its one magnitude pattern that is not finite is the NaN. -/
def e4m3 : FloatFmt := { prec := 4, qmin := -9, width := 8, top := 0x7F, hasInf := false, nanBits := 0x7F }
/-- The E2M1 elements of MXFP4: every pattern is finite. -/
def e2m1 : FloatFmt := { prec := 2, qmin := -1, width := 4, top := 8, hasInf := false, nanBits := 0 }

/-- The value of a bit pattern. -/
def decodeF (f : FloatFmt) (b : Nat) : Num :=
  let mag := b % 2 ^ (f.width - 1)
  let neg := bit b (f.width - 1)
  if mag ≥ f.top then (if f.hasInf && mag = f.top then .inf neg else .nan)
  else if mag / 2 ^ (f.prec - 1) = 0 then .fin neg mag f.qmin
  else .fin neg (2 ^ (f.prec - 1) + mag % 2 ^ (f.prec - 1)) (f.qmin + (mag / 2 ^ (f.prec - 1) : Nat) - 1)

/-- m / 2^k rounded to nearest, ties to even. -/
def rneShift (m k : Nat) : Nat :=
  let q := m / 2 ^ k
  let r := m % 2 ^ k
  if 2 * r > 2 ^ k || (2 * r = 2 ^ k && q % 2 = 1) then q + 1 else q

/-- m × 2^e in units of 2^q, rounded to nearest, ties to even. -/
def quantise (m : Nat) (e q : Int) : Nat := if q ≤ e then m * 2 ^ (e - q).toNat else rneShift m (q - e).toNat

/-- The bit pattern of a value rounded once to a format: subnormals kept, overflow to infinity, or to the largest finite magnitude where the format has
no infinity (R67, R77). -/
def encodeF (f : FloatFmt) : Num → Nat
  | .nan => f.nanBits
  | .inf neg => b2n neg * 2 ^ (f.width - 1) + (if f.hasInf then f.top else f.top - 1)
  | .fin neg m e =>
    let sign := b2n neg * 2 ^ (f.width - 1)
    if m = 0 then sign
    else
      let q := max (e + (Nat.log2 m : Int) - (f.prec - 1 : Int)) f.qmin
      let b := (q - f.qmin).toNat * 2 ^ (f.prec - 1) + quantise m e q
      sign + (if b < f.top then b else if f.hasInf then f.top else f.top - 1)

/-- The binary32 value of a word. -/
def f32 (w : Word) : Num := decodeF fp32 w.toNat

/-- round32, as a word (R67). -/
def w32 (x : Num) : Word := BitVec.ofNat 32 (encodeF fp32 x)

/-- round32, as a value. -/
def round32 (x : Num) : Num := decodeF fp32 (encodeF fp32 x)

/-- An integer as an exact number. -/
def ofInt (i : Int) : Num := .fin (decide (i < 0)) i.natAbs 0

/-- An INT32 lane. -/
def i32 (w : Word) : Int := w.toInt

/-- An integer in a lane, modulo 2^32. -/
def wInt (i : Int) : Word := BitVec.ofInt 32 i

/-- Clamp an integer. -/
def clampInt (lo hi i : Int) : Int := if i < lo then lo else if hi < i then hi else i

/-- Saturate to INT32. -/
def sat32i (i : Int) : Int := clampInt (-2147483648) 2147483647 i

namespace Num

/-- The value with its sign inverted; a NaN stays. -/
def flip : Num → Num
  | .nan => .nan
  | .inf n => .inf (!n)
  | .fin n m e => .fin (!n) m e

/-- Not an infinity and not a NaN. -/
def finite : Num → Bool
  | .fin _ _ _ => true
  | _ => false

/-- A zero of either sign. -/
def isZero : Num → Bool
  | .fin _ m _ => m = 0
  | _ => false

/-- The signed numerator in units of 2^q, for q at most the exponent. -/
def scaled (neg : Bool) (m : Nat) (e q : Int) : Int := (if neg then -1 else 1) * (m * 2 ^ (e - q).toNat : Nat)

/-- The exact sum; an exact zero of two terms that cancel is +0, and two zeros of one sign keep it (IEEE 754; log entry 14). -/
def add : Num → Num → Num
  | .nan, _ => .nan
  | _, .nan => .nan
  | .inf a, .inf b => if a = b then .inf a else .nan
  | .inf a, _ => .inf a
  | _, .inf b => .inf b
  | .fin a m e, .fin b n f =>
    if m = 0 && n = 0 then .fin (a && b) 0 0
    else
      let q := min e f
      let t := scaled a m e q + scaled b n f q
      .fin (decide (t < 0)) t.natAbs q

/-- The exact product (R54). -/
def mul : Num → Num → Num
  | .nan, _ => .nan
  | _, .nan => .nan
  | .inf a, .inf b => .inf (a != b)
  | .inf a, .fin b n _ => if n = 0 then .nan else .inf (a != b)
  | .fin a m _, .inf b => if m = 0 then .nan else .inf (a != b)
  | .fin a m e, .fin b n f => .fin (a != b) (m * n) (e + f)

/-- The exact difference. -/
def sub (x y : Num) : Num := add x y.flip

/-- Times 2^k, exact. -/
def scale (x : Num) (k : Int) : Num :=
  match x with
  | .fin n m e => .fin n m (e + k)
  | y => y

end Num

/-! ### Adds in the chain and in the bank (04 R67) -/

/-- A CFP32 pair. -/
abbrev Pair := Num × Num

/-- +0. -/
def zeroPos : Num := .fin false 0 0

/-- cfp_start (R67). -/
def cfpStart (p : Num) : Pair :=
  let s := round32 p
  if !s.finite then (s, zeroPos) else (s, round32 (Num.sub p s))

/-- cfp_add_product (R67). -/
def cfpAddProduct (x : Pair) (p : Num) : Pair :=
  let t := round32 (Num.add x.1 p)
  if !t.finite then (t, zeroPos)
  else (t, round32 (Num.add x.2 (round32 (Num.sub (Num.add x.1 p) t))))

/-- cfp_add_pair (R67). -/
def cfpAddPair (x y : Pair) : Pair :=
  let t := round32 (Num.add x.1 y.1)
  if !t.finite then (t, zeroPos)
  else (t, round32 (Num.add (round32 (Num.add x.2 y.2)) (round32 (Num.sub (Num.add x.1 y.1) t))))

/-- The value of a CFP32 entry (R65). -/
def cfpValue (s e : Word) : Num :=
  let x := f32 s
  if (f32 e).isZero || !x.finite then x else Num.add x (f32 e)

/-- int_add and whether it wrapped (R67, R70). -/
def intAdd (v x : Int) : Int × Bool :=
  let t := v + x
  ((BitVec.ofInt 32 t).toInt, decide (t < -2147483648 ∨ 2147483647 < t))

/-! ### Elementwise operations of the finisher (05 R80) -/

def vAdd (a b : Word) : Word := w32 (Num.add (f32 a) (f32 b))
def vSub (a b : Word) : Word := w32 (Num.sub (f32 a) (f32 b))
def vMul (a b : Word) : Word := w32 (Num.mul (f32 a) (f32 b))
/-- FMA rounds a × b + c once. -/
def vFma (a b c : Word) : Word := w32 (Num.add (Num.mul (f32 a) (f32 b)) (f32 c))

/-- A binary32 that is not a NaN, in the order of MAX and MIN: −0 below +0. -/
def orderKey (w : Word) : Int :=
  let mag : Int := (w.toNat % 2 ^ 31 : Nat)
  if w.msb then -mag - 1 else mag

/-- The word is a NaN. -/
def isNaN (w : Word) : Bool := f32 w = .nan

/-- The NaN every operation writes. -/
def nan32 : Word := 0x7FC00000

def vMax (a b : Word) : Word := if isNaN a || isNaN b then nan32 else if orderKey a < orderKey b then b else a
def vMin (a b : Word) : Word := if isNaN a || isNaN b then nan32 else if orderKey b < orderKey a then b else a
def vAbs (a : Word) : Word := if isNaN a then nan32 else a &&& 0x7FFFFFFF
def vNeg (a : Word) : Word := if isNaN a then nan32 else a ^^^ 0x80000000
/-- RELU is MAX with +0 (DEDUCED, log entry 14). -/
def vRelu (a : Word) : Word := vMax a 0
def vClamp (a b c : Word) : Word := vMin (vMax a b) c
/-- SELECT copies the chosen lane (06, the FVEC operations; log entry 14). -/
def vSelect (a b c : Word) : Word := if (f32 a).isZero then c else b

/-- Round a value to an integer, ties to even, and saturate to INT32; NaN gives 0 (R82). -/
def toInt32 : Num → Int
  | .nan => 0
  | .inf n => if n then -2147483648 else 2147483647
  | .fin n m e => sat32i ((if n then -1 else 1) * (quantise m e 0 : Nat))

/-- QCVT (05). -/
def vQcvt (f : Nat) (a : Word) : Word := wInt (toInt32 ((f32 a).scale f))

/-- DEQ (05). -/
def vDeq (q z s : Word) : Word := vMul (w32 (ofInt (i32 q - i32 z))) s

/-! ### Primitives (R82) -/

/-- floor(√n), bit by bit. -/
def isqrtGo (n : Nat) : Nat → Nat → Nat
  | 0, r => r
  | b + 1, r => isqrtGo n b (if (r + 2 ^ b) * (r + 2 ^ b) ≤ n then r + 2 ^ b else r)

/-- floor(√n). -/
def isqrt (n : Nat) : Nat := isqrtGo n (Nat.log2 n / 2 + 1) 0

/-- A truncated quotient with a bit that says whether anything was cut off: enough to round once. -/
def sticky (q : Nat) (exact_ : Bool) : Nat := 2 * q + b2n (!exact_)

/-- The quotient of two positive numbers, with more than 32 bits and a sticky bit. -/
def divPos (m : Nat) (e : Int) (n : Nat) (f : Int) : Num :=
  let k := 40 + Nat.log2 n
  let a := m * 2 ^ k
  .fin false (sticky (a / n) (a % n = 0)) (e - f - k - 1)

def vRecip (a : Word) : Word :=
  match f32 a with
  | .nan => nan32
  | .inf n => w32 (.fin n 0 0)
  | .fin n m e =>
    if m = 0 then w32 (.inf n)
    else
      let k := 40 + Nat.log2 m
      w32 (.fin n (sticky (2 ^ k / m) (2 ^ k % m = 0)) (-e - k - 1))

def vSqrt (a : Word) : Word :=
  match f32 a with
  | .nan => nan32
  | .inf n => if n then nan32 else a
  | .fin n m e =>
    if m = 0 then a
    else if n then nan32
    else
      let odd : Bool := e % 2 = 1
      let y := (if odd then 2 * m else m) * 2 ^ 80
      let r := isqrt y
      w32 (.fin false (sticky r (r * r = y)) ((if odd then e - 1 else e) / 2 - 40 - 1))

def vRsqrt (a : Word) : Word :=
  match f32 a with
  | .nan => nan32
  | .inf n => if n then nan32 else 0
  | .fin n m e =>
    if m = 0 then w32 (.inf n)
    else if n then nan32
    else
      let odd : Bool := e % 2 = 1
      let y := if odd then 2 * m else m
      let r := isqrt (2 ^ 160 / y)
      w32 (.fin false (sticky r (r * r * y = 2 ^ 160)) (-(if odd then e - 1 else e) / 2 - 80 - 1))

/-- ln 2 × 2^256, rounded down. -/
def ln2 : Nat := 80260960185991308862233904206310070533990667611589946606122867505419956976171

/-- 1 + t/k (1 + t/(k+1) (…)) in units of 2^-256, n terms from the last inwards. -/
def expHorner (t : Nat) : Nat → Nat → Nat
  | 0, acc => acc
  | k + 1, acc => expHorner t k (2 ^ 256 + t * acc / ((k + 1) * 2 ^ 256))

/-- 2^f for f in units of 2^-256, below 1: in units of 2^-256. -/
def exp2Frac (f : Nat) : Nat := expHorner (f * ln2 / 2 ^ 256) 64 (2 ^ 256)

/-- EXP2: the power of an integer is exact; any other is irrational, so no tie arises, and it is computed far beyond binary32 before it is rounded once (log entry
13). -/
def vExp2 (a : Word) : Word :=
  match f32 a with
  | .nan => nan32
  | .inf n => if n then 0 else a
  | .fin n m e =>
    if m = 0 then 0x3F800000
    else if e + Nat.log2 m ≥ 8 then (if n then 0 else w32 (.inf false))
    else
      let v : Int := Num.scaled n m e (-256)
      let i := v / 2 ^ 256
      let f := (v % 2 ^ 256).toNat
      if f = 0 then w32 (.fin false 1 i) else w32 (.fin false (sticky (exp2Frac f) false) (i - 256 - 1))

/-- The binary digits of log2(y), y in [1, 2) in units of 2^-320: square, and halve where the square reaches 2. -/
def log2Digits : Nat → Nat → Nat → Nat
  | 0, _, acc => acc
  | n + 1, y, acc =>
    let z := y * y / 2 ^ 320
    if z ≥ 2 ^ 321 then log2Digits n (z / 2) (2 * acc + 1) else log2Digits n z (2 * acc)

/-- LOG2: exact on powers of 2; elsewhere irrational, computed to 160 binary places and rounded once (log entry 13). -/
def vLog2 (a : Word) : Word :=
  match f32 a with
  | .nan => nan32
  | .inf n => if n then nan32 else a
  | .fin n m e =>
    if m = 0 then w32 (.inf true)
    else if n then nan32
    else
      let k := Nat.log2 m
      if m = 2 ^ k then w32 (ofInt (e + k))
      else
        let d : Int := (e + k) * 2 ^ 160 + log2Digits 160 (m * 2 ^ (320 - k)) 0
        if 0 ≤ d then w32 (.fin false (sticky d.natAbs false) (-161)) else w32 (.fin true (2 * d.natAbs - 1) (-161))

/-! ### Composites (R83) -/

def fOne : Word := 0x3F800000
def fTwo : Word := 0x40000000
def fHalf : Word := 0x3F000000
def fMinusOne : Word := 0xBF800000
def log2E : Word := 0x3FB8AA3B
def geluK0 : Word := 0x3F4C422A
def geluK1 : Word := 0x3D372713

def vExp (x : Word) : Word := vExp2 (vMul x log2E)
def vSigmoid (x : Word) : Word := vRecip (vAdd fOne (vExp (vNeg x)))
def vTanh (x : Word) : Word := vFma fTwo (vSigmoid (vMul fTwo x)) fMinusOne
def vSilu (x : Word) : Word := vMul x (vSigmoid x)
def vGelu (x : Word) : Word :=
  let u := vMul x x
  let v := vFma (vMul geluK1 x) u x
  vMul (vMul fHalf x) (vAdd fOne (vTanh (vMul geluK0 v)))

/-! ### Reductions (R84) -/

/-- A node: two children combined, or the one that is not masked. -/
def node (f : Word → Word → Word) : Option Word → Option Word → Option Word
  | some a, some b => some (f a b)
  | some a, none => some a
  | none, b => b

/-- One level of the tree. -/
def treeLevel (f : Word → Word → Word) : List (Option Word) → List (Option Word)
  | a :: b :: t => node f a b :: treeLevel f t
  | t => t

/-- The pairwise tree over at most 256 lanes: eight levels. -/
def tree (f : Word → Word → Word) (l : List (Option Word)) : Option Word :=
  ((List.range 8).foldl (fun l _ => treeLevel f l) l).headD none

/-- A list cut into passes of 256. -/
def passes {α : Type} (l : List α) : List (List α) := (List.range (ceilDiv l.length 256)).map (fun p => (l.drop (256 * p)).take 256)

/-- A row reduced pass by pass (R84); a masked element is none. -/
def reduceRow (f : Word → Word → Word) (l : List (Option Word)) : Option Word := ((passes l).map (tree f)).foldl (node f) none

/-- REDSUM of a row with no masked element; +0 for an empty one, which no instruction writes. -/
def redSum (l : List Word) : Word := (reduceRow vAdd (l.map some)).getD 0

/-- REDMAX of a row. -/
def redMax (l : List Word) : Word := (reduceRow vMax (l.map some)).getD 0

def rowSoftmax (x : List Word) : List Word :=
  let m := redMax x
  let e := x.map (fun v => vExp (vSub v m))
  let r := vRecip (redSum e)
  e.map (fun v => vMul v r)

/-- RECIP of the number of elements. -/
def ninv (n : Nat) : Word := vRecip (w32 (ofInt n))

def rowRmsnorm (x g : List Word) (eps : Word) : List Word :=
  let r := vRsqrt (vFma (redSum (x.map (fun v => vMul v v))) (ninv x.length) eps)
  (x.zip g).map (fun e => vMul (vMul e.1 r) e.2)

def rowLayernorm (x g b : List Word) (eps : Word) : List Word :=
  let mu := vMul (redSum x) (ninv x.length)
  let d := x.map (fun v => vSub v mu)
  let r := vRsqrt (vFma (redSum (d.map (fun v => vMul v v))) (ninv x.length) eps)
  (d.zip (g.zip b)).map (fun e => vFma (vMul e.1 r) e.2.1 e.2.2)

/-! ### Distances (R85) -/

/-- Lane j of a vector of elements: those with index j modulo 256, in ascending order. -/
def laneOfVec {α : Type} (ps : List (List α)) (j : Nat) : List α := ps.filterMap (fun p => p[j]?)

/-- The lane totals combined by the tree of R84; a lane without an element is masked. -/
def laneTree {α : Type} (l : List α) (total : List α → Word) : Word :=
  let ps := passes l
  (tree vAdd ((List.range 256).map (fun j => if j < l.length then some (total (laneOfVec ps j)) else none))).getD 0

/-- Minus zero, where a lane of a floating-point distance starts. -/
def minusZero : Word := 0x80000000

/-- The inner product of two floating-point vectors, widened to binary32. -/
def ipF (a b : List Word) : Word := laneTree (a.zip b) (fun l => l.foldl (fun t e => vFma e.1 e.2 t) minusZero)

/-- The squared distance of two floating-point vectors. -/
def l2F (a b : List Word) : Word :=
  laneTree (a.zip b) (fun l => l.foldl (fun t e => let d := vSub e.1 e.2; vFma d d t) minusZero)

/-- The inner product of two INT8 vectors. -/
def ipI (a b : List Int) : Word := laneTree (a.zip b) (fun l => w32 (ofInt (wInt (l.foldl (fun t e => t + e.1 * e.2) 0)).toInt))

/-- The squared distance of two INT8 vectors. -/
def l2I (a b : List Int) : Word :=
  laneTree (a.zip b) (fun l => w32 (ofInt (wInt (l.foldl (fun t e => t + (e.1 - e.2) * (e.1 - e.2)) 0)).toInt))

/-- COS from its three inner products. -/
def cosOf (ab aa bb : Word) : Word := vMul ab (vRsqrt (vMul aa bb))

/-! ### Lanes and the codes of FVEC and FROW (06) -/

/-- The floating-point format of an FMT code; none for the integer ones. -/
def fmtFloat : Nat → Option FloatFmt
  | 0 => some fp32
  | 1 => some bf16
  | 2 => some fp16
  | 3 => some e4m3
  | 4 => some e5m2
  | _ => none

/-- Bytes of an element of an FMT code. -/
def fmtBytes : Nat → Nat
  | 0 => 4
  | 1 => 2
  | 2 => 2
  | 5 => 4
  | _ => 1

/-- VLD: a stored element widened exactly into a lane (06). -/
def widen (fmt b : Nat) : Word :=
  match fmt with
  | 0 => BitVec.ofNat 32 b
  | 5 => BitVec.ofNat 32 b
  | 6 => wInt (signed 8 b)
  | 7 => BitVec.ofNat 32 (b % 256)
  | _ =>
    match fmtFloat fmt with
    | some f => w32 (decodeF f b)
    | none => 0

/-- VST: a lane in its stored form (R77; integer lanes saturate). -/
def narrow (fmt : Nat) (w : Word) : Nat :=
  match fmt with
  | 0 => w.toNat
  | 5 => w.toNat
  | 6 => unsigned 8 (clampInt (-128) 127 (i32 w))
  | 7 => (clampInt 0 255 (i32 w)).toNat
  | _ =>
    match fmtFloat fmt with
    | some f => encodeF f (f32 w)
    | none => 0

/-- A binary32 result in the stored form of an FROW destination. -/
def narrowF (fmt : Nat) (w : Word) : Nat :=
  match fmt with
  | 5 => (wInt (toInt32 (f32 w))).toNat
  | 6 => unsigned 8 (clampInt (-128) 127 (toInt32 (f32 w)))
  | 7 => (clampInt 0 255 (toInt32 (f32 w))).toNat
  | _ => narrow fmt w

/-- CVT(VA) to FMT (R414). -/
def vCvt (fmt : Nat) (w : Word) : Word :=
  match fmt with
  | 0 => w32 (ofInt (i32 w))
  | 5 => wInt (toInt32 (f32 w))
  | 6 => wInt (clampInt (-128) 127 (toInt32 (f32 w)))
  | 7 => wInt (clampInt 0 255 (toInt32 (f32 w)))
  | _ =>
    match fmtFloat fmt with
    | some f => w32 (decodeF f (encodeF f (f32 w)))
    | none => w

/-- A source element of FROW as binary32: integers become the nearest binary32. -/
def rowElem (fmt b : Nat) : Word :=
  match fmt with
  | 5 => w32 (ofInt (signed 32 b))
  | 6 => w32 (ofInt (signed 8 b))
  | 7 => w32 (ofInt (b % 256 : Nat))
  | _ => widen fmt b

/-! ### Operand formats of the array (03 R52-R55; 06 "Encodings") -/

/-- An integer format code: bits and signedness. -/
def intFmt : Nat → Option (Nat × Bool)
  | 0 => some (8, true)
  | 1 => some (8, false)
  | 2 => some (4, true)
  | 3 => some (4, false)
  | _ => none

/-- The value of an integer element or zero point of that format. -/
def intElem (f : Nat × Bool) (b : Nat) : Int := if f.2 then signed f.1 b else (b % 2 ^ f.1 : Nat)

/-- The value of a floating-point or block-scaled element, without its scale (R54, R55). -/
def floatElem (code b : Nat) : Num :=
  match code with
  | 4 => decodeF e4m3 b
  | 5 => decodeF e5m2 b
  | 6 => (ofInt (signed 8 b)).scale (-6)
  | 7 => decodeF e4m3 b
  | 8 => decodeF e5m2 b
  | 9 => decodeF e2m1 b
  | 10 => decodeF bf16 b
  | _ => decodeF fp16 b

/-- The format is block-scaled. -/
def isMx (code : Nat) : Bool := 6 ≤ code && code ≤ 9

/-- The weight format runs the array in paired mode (R41). -/
def paired (wfmt : Nat) : Bool := wfmt = 2 || wfmt = 3 || wfmt = 9

/-- Reduction indices per block (R41). -/
def blockK (wfmt : Nat) : Nat := if paired wfmt then 256 else 128

/-- SPN_STAT.MODE of a weight format: 1 8-bit, 2 paired, 3 16-bit (R41). -/
def modeOf (wfmt : Nat) : Nat := if paired wfmt then 2 else if wfmt = 10 || wfmt = 11 then 3 else 1

/-- Bits of an activation element (R52, R101). -/
def elemBits (code : Nat) : Nat := if code = 2 || code = 3 || code = 9 then 4 else if code = 10 || code = 11 then 16 else 8

/-- The pairs of R52. -/
def pairLegal (w a : Nat) : Bool :=
  (w ≤ 3 && a ≤ 3) || ((w = 4 || w = 5) && (a = 4 || a = 5)) || (w = 6 && a = 6) ||
  ((w = 7 || w = 8) && (a = 7 || a = 8)) || (w = 9 && (a = 7 || a = 8 || a = 9)) || (w = 10 && a = 10) || (w = 11 && a = 11)

/-- The accumulator formats a weight format allows (R52). -/
def accLegal (w accf : Nat) : Bool := if w ≤ 3 then accf = 0 else accf = 1 || accf = 2

/-- Apply an E8M0 scale field; 0xFF makes the product NaN (R55). -/
def scaleBy (x : Num) (a w : Nat) : Num := if a = 255 || w = 255 then .nan else x.scale ((a : Int) - 127 + ((w : Int) - 127))

/-! ### Requantisation (05 R86) -/

/-- round_shift: to nearest, ties to even, toward minus infinity first. -/
def roundShift (p : Int) (s : Nat) : Int :=
  if s = 0 then p
  else
    let q := p / 2 ^ s
    let r := p - q * 2 ^ s
    if r > 2 ^ (s - 1) || (r = 2 ^ (s - 1) && q % 2 = 1) then q + 1 else q

/-- QMIN and QMAX of an output format. -/
def qmin : Nat → Int
  | 0 => -128
  | 2 => -8
  | 4 => -32768
  | _ => 0

def qmax : Nat → Int
  | 0 => 127
  | 1 => 255
  | 2 => 7
  | 3 => 15
  | _ => 32767

end Sys2Proof.Machine
end

