-- ==== Sys2Proof/Machine/Program.lean ====
section
/-! DEFINITION. Step-program words: their fields, the checks at load (06 R96, R100-R109, R120, R413), and the footprints that order a spindle's
instructions (06 R112). -/

namespace Sys2Proof.Machine

/-- Bits `lo` to `lo + n - 1` of an instruction. -/
def fi (w : IWord) (lo n : Nat) : Nat := bits w.toNat lo n

/-- The opcode of an instruction. -/
def opcodeOf (w : IWord) : Nat := fi w 0 8

/-! ### Opcodes -/

def opMatmul : Nat := 0x01
def opConv : Nat := 0x02
def opBandRecv : Nat := 0x08
def opLoad : Nat := 0x09
def opStore : Nat := 0x0A
def opDrain : Nat := 0x10
def opRequant : Nat := 0x11
def opFvec : Nat := 0x18
def opFrow : Nat := 0x19
def opSignal : Nat := 0x20
def opWait : Nat := 0x21
def opWork : Nat := 0x22
def opShape : Nat := 0x23
def opFence : Nat := 0x24

/-- The class of an opcode, as REL and FENCE number them: 0 array, 1 band, 2 mover, 3 port, 4 finisher; 5 for the sync unit. -/
def unitOf (opcode : Nat) : Nat :=
  if opcode ≤ 2 then 0 else if opcode = 8 then 1 else if opcode ≤ 0x0A then 2 else if opcode ≤ 0x11 then 3
  else if opcode ≤ 0x19 then 4 else 5

/-! ### Matrix instructions -/

def mWfmt (w : IWord) : Nat := fi w 8 4
def mAfmt (w : IWord) : Nat := fi w 12 4
def mAccf (w : IWord) : Nat := fi w 16 2
def mAdd (w : IWord) : Bool := fi w 18 1 = 1
def mPl (w : IWord) : Bool := fi w 19 1 = 1
def mBase (w : IWord) : Nat := fi w 20 13
def mH (w : IWord) : Nat := fi w 33 13 + 1
def mNt (w : IWord) : Nat := fi w 46 7 + 1
def mKc (w : IWord) : Nat := fi w 53 8 + 1
def mNb (w : IWord) : Nat := fi w 61 12 + 1
def mXi (w : IWord) : Nat := fi w 73 4
def mXn (w : IWord) : Nat := fi w 77 4
def mABase (w : IWord) : Nat := fi w 81 19
def mRstride (w : IWord) : Nat := fi w 100 16
def mZa (w : IWord) : Nat := fi w 116 12
def cGeom (w : IWord) : Nat := fi w 81 17
def cK0 (w : IWord) : Nat := fi w 98 19
def cZa (w : IWord) : Nat := fi w 117 8

/-! ### BAND_RECV -/

def bBand (w : IWord) : Nat := fi w 8 2
def bWfmt (w : IWord) : Nat := fi w 10 4
def bXi (w : IWord) : Nat := fi w 14 4
def bSet (w : IWord) : Nat := fi w 18 48
def bTier (w : IWord) : Nat := fi w 66 3
def bSrc (w : IWord) : Nat := fi w 69 39
def bNb (w : IWord) : Nat := fi w 108 12 + 1

/-! ### LOAD and STORE -/

def lTier (w : IWord) : Nat := fi w 8 3
def lFar (w : IWord) : Nat := fi w 11 39
def lScr (w : IWord) : Nat := fi w 50 17
def lRows (w : IWord) : Nat := fi w 67 13 + 1
def lRb (w : IWord) : Nat := (fi w 80 10 + 1) * 64
def lFstride (w : IWord) : Nat := fi w 90 16
def lSstride (w : IWord) : Nat := fi w 106 12
def lXi (w : IWord) : Nat := fi w 118 4
def lXn (w : IWord) : Nat := fi w 122 4

/-! ### DRAIN and REQUANT -/

def dAccf (w : IWord) : Nat := fi w 8 2
def dFmt (w : IWord) : Nat := fi w 10 3
def dBase (w : IWord) : Nat := fi w 13 13
def dH (w : IWord) : Nat := fi w 26 13 + 1
def dNt (w : IWord) : Nat := fi w 39 7 + 1
def dDst (w : IWord) : Nat := fi w 46 19
def dStride (w : IWord) : Nat := fi w 65 16
def dXi (w : IWord) : Nat := fi w 81 4
def dXn (w : IWord) : Nat := fi w 85 4
def dVreg (w : IWord) : Nat := fi w 89 5

def rSrc (w : IWord) : Nat := fi w 8 1
def rBase (w : IWord) : Nat := fi w 9 13
def rVreg (w : IWord) : Nat := fi w 9 5
def rH (w : IWord) : Nat := fi w 22 13 + 1
def rNt (w : IWord) : Nat := fi w 35 7 + 1
def rCh0 (w : IWord) : Nat := fi w 42 16
def rTier (w : IWord) : Nat := fi w 58 1 + 1
def rRec (w : IWord) : Nat := fi w 59 32 * 256
def rDst (w : IWord) : Nat := fi w 91 17
def rStride (w : IWord) : Nat := fi w 108 11
def rXi (w : IWord) : Nat := fi w 119 4
def rXn (w : IWord) : Nat := fi w 123 4

/-! ### FVEC and FROW -/

def vFop (w : IWord) : Nat := fi w 8 8
def vVd (w : IWord) : Nat := fi w 16 5
def vVa (w : IWord) : Nat := fi w 21 5
def vVb (w : IWord) : Nat := fi w 26 5
def vVc (w : IWord) : Nat := fi w 31 5
def vLn (w : IWord) : Nat := fi w 36 9
def vFmt (w : IWord) : Nat := fi w 45 3
def vAddr (w : IWord) : Nat := fi w 48 19
def vF (w : IWord) : Nat := fi w 67 5
def vImm (w : IWord) : Word := w.extractLsb' 76 32
def vImmb (w : IWord) : Bool := fi w 108 1 = 1

def wFop (w : IWord) : Nat := fi w 8 6
def wSfmt (w : IWord) : Nat := fi w 14 3
def wDfmt (w : IWord) : Nat := fi w 17 3
def wSrc (w : IWord) : Nat := fi w 20 17
def wDst (w : IWord) : Nat := fi w 37 17
def wAux (w : IWord) : Nat := fi w 54 17
def wN (w : IWord) : Nat := fi w 71 16 + 1
def wRows (w : IWord) : Nat := fi w 87 13 + 1
def wRstride (w : IWord) : Nat := fi w 100 12 * 16
def wXe (w : IWord) : Nat := fi w 112 4
def wXi (w : IWord) : Nat := fi w 116 4
def wXn (w : IWord) : Nat := fi w 120 4

/-! ### Sync instructions -/

def sSem (w : IWord) : Nat := fi w 8 12
def sN (w : IWord) : Nat := fi w 20 16
def sHold (w : IWord) : Bool := fi w 36 1 = 1
def sRel (w : IWord) : Nat := fi w 37 5
def sKeep (w : IWord) : Bool := fi w 37 1 = 1

def kMode (w : IWord) : Nat := fi w 8 2
def kCtr (w : IWord) : Nat := fi w 10 12
def kXd (w : IWord) : Nat := fi w 22 4
def kXs (w : IWord) : Nat := fi w 26 4
def kXl (w : IWord) : Nat := fi w 30 4
def kStride (w : IWord) : Nat := fi w 34 8
def kScale (w : IWord) : Nat := fi w 42 16
def kBody (w : IWord) : Nat := fi w 58 12

def hXd (w : IWord) : Nat := fi w 8 4
def hSrc (w : IWord) : Nat := fi w 12 4
def hSlot (w : IWord) : Nat := fi w 16 4
def hMul (w : IWord) : Nat := fi w 20 16
def hAdd (w : IWord) : Int := signed 16 (fi w 36 16)
def hImm (w : IWord) : Nat := fi w 52 32

def fClass (w : IWord) : Nat := fi w 8 5

/-! ### Sizes -/

/-- Bytes of scratch. -/
def scratchBytes : Nat := 6291456

/-- Bytes that the elements of a reduction chunk of `n` indices take. -/
def elemSpan (afmt n : Nat) : Nat := (n * elemBits afmt + 7) / 8

/-- Scale bytes per block and per row of an activation scale array (07 R130). -/
def scaleGroups (wfmt : Nat) : Nat := if paired wfmt then 8 else 4
def scaleRow (wfmt nb : Nat) : Nat := 16 * ceilDiv (nb * scaleGroups wfmt) 16

/-- The stored stride of a weight block (06 "BAND_RECV"). -/
def blockStride (wfmt : Nat) : Nat := if wfmt = 10 || wfmt = 11 then 32768 else if wfmt = 4 || wfmt = 5 then 16384 else 17408

/-- Bytes of a DRAIN destination element (04 R76, R107). -/
def drainBytes : Nat → Nat
  | 2 => 2
  | 3 => 2
  | 4 => 1
  | 5 => 1
  | 6 => 8
  | _ => 4

/-- Bank rows of a tile (04 R62). -/
def tileRows (accf h : Nat) : Nat := if accf = 2 then 2 * h else h

/-- Bytes of a REQUANT output row of `n` columns (05, the output formats). -/
def outSpan (ofmt n : Nat) : Nat := if ofmt = 2 || ofmt = 3 then (n + 1) / 2 else if ofmt = 4 then 2 * n else n

/-! ### The load checks (R96) -/

/-- What a load check of an instruction needs of its job: ranks P, the ranks that run the program, the slice's semaphores and counters, and the program's
length. -/
structure ProgCtx where
  p : Nat
  runs : List Nat
  sems : Nat
  ctrs : Nat
  len : Nat
  deriving DecidableEq, Repr

/-- A load error: status, and the rank DETAIL names when it is not the lowest that runs the program (R105, R121). -/
abbrev LoadErr := Nat × Option Nat

def illegal : Option LoadErr := some (0x11, none)
def outOfBounds : Option LoadErr := some (0x12, none)

/-- The first error of a list of (condition, error). -/
def firstErr : List (Bool × Option LoadErr) → Option LoadErr
  | [] => none
  | (c, e) :: t => if c then e else firstErr t

/-- The tile leaves the bank, or is misplaced (R63). -/
def tileBad (accf base h : Nat) : Bool := (accf = 2 && (base % 2 = 1 || h > 4096)) || base + tileRows accf h > 8192

/-- A scratch footprint ends past scratch (R413). -/
def pastScratch (end_ : Nat) : Bool := end_ > scratchBytes

/-- Load checks of MATMUL (R101, R102, R129, R413). -/
def checkMatmul (w : IWord) : Option LoadErr :=
  let wf := mWfmt w
  let af := mAfmt w
  let zaBits := if af ≤ 1 then 8 else if af ≤ 3 then 4 else if isMx af then 12 else 0
  let span := (mNb w - 1) * elemSpan af (blockK wf) + elemSpan af (mKc w)
  firstErr
    [(!pairLegal wf af || !accLegal wf (mAccf w), illegal),
     (mKc w > blockK wf, illegal),
     (mZa w ≥ 2 ^ zaBits, illegal),
     (mPl w && (mRstride w ≠ 0 || (isMx af && mZa w ≠ 0)), illegal),
     (tileBad (mAccf w) (mBase w) (mH w), outOfBounds),
     (mPl w && pastScratch (mABase w * 16 + mH w * 8), outOfBounds),
     (!mPl w && pastScratch (mABase w * 16 + (mH w - 1) * mRstride w * 16 + span), outOfBounds),
     (!mPl w && isMx af && pastScratch (mZa w * 2048 + mH w * scaleRow wf (mNb w)), outOfBounds)]

/-- Load checks of CONV (R102, R413). -/
def checkConv (w : IWord) : Option LoadErr :=
  let wf := mWfmt w
  let af := mAfmt w
  firstErr
    [(!pairLegal wf af || !accLegal wf (mAccf w) || isMx wf || isMx af || af = 2 || af = 3, illegal),
     (fi w 19 1 ≠ 0 || fi w 125 3 ≠ 0, illegal),
     (mKc w > blockK wf, illegal),
     (af > 1 && cZa w ≠ 0, illegal),
     (tileBad (mAccf w) (mBase w) (mH w), outOfBounds),
     (pastScratch (cGeom w * 64 + 64), outOfBounds)]

/-- Load checks of BAND_RECV (R105). -/
def checkBand (c : ProgCtx) (w : IWord) : Option LoadErr :=
  let omitted := c.runs.find? (fun r => !bit (bSet w) r)
  firstErr
    [(bWfmt w > 11 || bTier w = 0 || bTier w > 3 || fi w 120 8 ≠ 0, illegal),
     (omitted.isSome, some (0x12, omitted)),
     (bSet w ≥ 2 ^ c.p, outOfBounds)]

/-- Load checks of LOAD and STORE (R106, R413). -/
def checkMove (w : IWord) : Option LoadErr :=
  firstErr
    [(lTier w > (if opcodeOf w = opStore then 2 else 3) || fi w 126 2 ≠ 0, illegal),
     (pastScratch (lScr w * 64 + (lRows w - 1) * lSstride w * 64 + lRb w), outOfBounds)]

/-- DFMT is a destination that R76 allows. -/
def drainLegal (accf dfmt : Nat) : Bool :=
  dfmt = 7 || (accf = 0 && dfmt = 0) || (accf = 1 && 1 ≤ dfmt && dfmt ≤ 5) || (accf = 2 && 1 ≤ dfmt)

/-- Load checks of DRAIN (R107, R413). -/
def checkDrain (w : IWord) : Option LoadErr :=
  let fin := dFmt w = 7
  firstErr
    [(dAccf w = 3 || !drainLegal (dAccf w) (dFmt w) || fi w 94 34 ≠ 0, illegal),
     (!fin && dVreg w ≠ 0, illegal),
     (fin && (dDst w ≠ 0 || dStride w ≠ 0), illegal),
     (tileBad (dAccf w) (dBase w) (dH w), outOfBounds),
     (fin && dH w > 2 * (32 - dVreg w), outOfBounds),
     (!fin && pastScratch (dDst w * 16 + ((dH w - 1) * dStride w + dNt w) * drainBytes (dFmt w)), outOfBounds)]

/-- Load checks of REQUANT (R108, R413): the width of its outputs is in the scale record, so the narrowest is checked here and the real one at start. -/
def checkRequant (w : IWord) : Option LoadErr :=
  firstErr
    [(fi w 127 1 ≠ 0 || (rSrc w = 1 && fi w 14 8 ≠ 0), illegal),
     (rSrc w = 0 && tileBad 0 (rBase w) (rH w), outOfBounds),
     (rSrc w = 1 && rH w > 2 * (32 - rVreg w), outOfBounds),
     (pastScratch (rDst w * 64 + (rH w - 1) * rStride w * 64 + outSpan 2 (rNt w)), outOfBounds)]

/-- Which of VD, VA, VB, VC an FVEC operation uses; none for an undefined one. -/
def fvecUses (fop : Nat) : Option (Bool × Bool × Bool × Bool) :=
  if fop = 0x00 then some (true, false, false, false)
  else if fop = 0x01 then some (false, true, false, false)
  else if fop = 0x0B || fop = 0x11 || fop = 0x12 || fop = 0x1A then some (true, true, true, true)
  else if 0x08 ≤ fop && fop ≤ 0x0D then some (true, true, true, false)
  else if (0x0E ≤ fop && fop ≤ 0x10) || fop = 0x18 || fop = 0x19 || (0x20 ≤ fop && fop ≤ 0x24) || (0x28 ≤ fop && fop ≤ 0x2C) ||
      fop = 0x30 || fop = 0x31 then some (true, true, false, false)
  else none

/-- Load checks of FVEC (R100, R413). -/
def checkFvec (w : IWord) : Option LoadErr :=
  let fop := vFop w
  match fvecUses fop with
  | none => illegal
  | some (ud, ua, ub, uc) =>
    let mem := fop ≤ 1
    firstErr
      [(vLn w > 256 || fi w 72 4 ≠ 0 || fi w 109 19 ≠ 0, illegal),
       ((!ud && vVd w ≠ 0) || (!ua && vVa w ≠ 0) || ((!ub || vImmb w) && vVb w ≠ 0) || (!uc && vVc w ≠ 0), illegal),
       (!mem && fop ≠ 0x18 && vFmt w ≠ 0, illegal),
       (!mem && vAddr w ≠ 0, illegal),
       (fop ≠ 0x19 && vF w ≠ 0, illegal),
       ((vImmb w && !ub) || (!vImmb w && vImm w ≠ 0), illegal),
       (mem && pastScratch (vAddr w * 16 + vLn w * fmtBytes (vFmt w)), outOfBounds)]

/-- Where the second AUX operand of LAYERNORM starts (R109). -/
def auxB (w : IWord) : Nat := wAux w * 64 + roundUp (4 * wN w) 64

/-- Load checks of FROW (R109, R413). -/
def checkFrow (w : IWord) : Option LoadErr :=
  let fop := wFop w
  let norm := fop = 1 || fop = 2
  let dist := 8 ≤ fop && fop ≤ 10
  let r := wRows w - 1
  firstErr
    [(!(fop ≤ 4 || dist) || fi w 124 4 ≠ 0, illegal),
     (fop > 2 && wDfmt w ≠ 0, illegal),
     (!norm && wXe w ≠ 0, illegal),
     (!norm && !dist && wAux w ≠ 0, illegal),
     (dist && !(wSfmt w = 1 || wSfmt w = 2 || wSfmt w = 6), illegal),
     (dist && wN w > 8192, outOfBounds),
     (pastScratch (wSrc w * 64 + (r * wRstride w + wN w) * fmtBytes (wSfmt w)), outOfBounds),
     (fop ≤ 2 && pastScratch (wDst w * 64 + (r * wRstride w + wN w) * fmtBytes (wDfmt w)), outOfBounds),
     (fop > 2 && pastScratch (wDst w * 64 + 4 * wRows w), outOfBounds),
     (fop = 1 && pastScratch (wAux w * 64 + 4 * wN w), outOfBounds),
     (fop = 2 && pastScratch (auxB w + 4 * wN w), outOfBounds),
     (dist && pastScratch (wAux w * 64 + wN w * fmtBytes (wSfmt w)), outOfBounds)]

/-- Load checks of SIGNAL and WAIT. -/
def checkSem (c : ProgCtx) (w : IWord) : Option LoadErr :=
  firstErr
    [(sN w = 0 || fi w 42 86 ≠ 0 || (opcodeOf w = opWait && fi w 38 4 ≠ 0), illegal),
     (sSem w ≥ c.sems, outOfBounds)]

/-- Load checks of WORK (R120); `loopEnd` is one past the last instruction of the enclosing body, 0 outside one. -/
def checkWork (c : ProgCtx) (idx loopEnd : Nat) (w : IWord) : Option LoadErr :=
  let m := kMode w
  firstErr
    [(m = 3 || kScale w = 0 || fi w 70 58 ≠ 0, illegal),
     (m = 0 && kCtr w ≠ 0, illegal),
     (m = 2 && kXd w ≠ 0, illegal),
     (m ≠ 0 && (kXs w ≠ 0 || kStride w ≠ 0), illegal),
     (m = 1 && kXl w ≠ 0, illegal),
     (m = 0 && kStride w = 0, illegal),
     (m = 2 && kBody w ≠ 0, illegal),
     (m ≠ 2 && kBody w = 0, illegal),
     (m ≠ 2 && idx < loopEnd, illegal),
     (m ≠ 2 && idx + kBody w ≥ c.len, illegal),
     (m ≠ 0 && kCtr w ≥ c.ctrs, outOfBounds)]

/-- Load checks of SHAPE (R110). -/
def checkShape (w : IWord) : Option LoadErr :=
  firstErr [(hSrc w > 4 || (hSrc w ≠ 0 && hSlot w ≠ 0) || (hSrc w ≠ 4 && hImm w ≠ 0) || fi w 84 44 ≠ 0, illegal)]

/-- Every load check of one instruction. -/
def checkInstr (c : ProgCtx) (idx loopEnd : Nat) (w : IWord) : Option LoadErr :=
  let o := opcodeOf w
  if o = opMatmul then checkMatmul w
  else if o = opConv then checkConv w
  else if o = opBandRecv then checkBand c w
  else if o = opLoad || o = opStore then checkMove w
  else if o = opDrain then checkDrain w
  else if o = opRequant then checkRequant w
  else if o = opFvec then checkFvec w
  else if o = opFrow then checkFrow w
  else if o = opSignal || o = opWait then checkSem c w
  else if o = opWork then checkWork c idx loopEnd w
  else if o = opShape then checkShape w
  else if o = opFence then (if fi w 13 115 ≠ 0 then illegal else none)
  else illegal

/-- The first load error of a program: its instruction index, status and rank. -/
def checkProgramFrom (c : ProgCtx) : List IWord → Nat → Nat → Option (Nat × Nat × Nat)
  | [], _, _ => none
  | w :: t, idx, loopEnd =>
    match checkInstr c idx loopEnd w with
    | some (st, r) => some (idx, st, r.getD (c.runs.headD 0))
    | none =>
      let loopEnd := if opcodeOf w = opWork && kMode w ≠ 2 then idx + 1 + kBody w else loopEnd
      checkProgramFrom c t (idx + 1) loopEnd

/-- DETAIL of a program error (R121): where is 0 load, 1 issue, 2 start, 3 end. -/
def progDetail (idx rank where_ : Nat) : Nat := 2 ^ 31 + where_ * 2 ^ 18 + rank * 2 ^ 12 + idx

/-! ### Footprints (R112) -/

/-- An access: space (0 scratch, 1 commons, 2 pool, 4 bank rows, 5 finisher registers), a half-open range, whether it writes. -/
structure Access where
  space : Nat
  lo : Nat
  hi : Nat
  wr : Bool
  deriving DecidableEq, Repr

/-- Two accesses conflict. -/
def conflicts (a b : Access) : Bool := a.space = b.space && a.lo < b.hi && b.lo < a.hi && (a.wr || b.wr)

/-- Any access of one list conflicts with any of another. -/
def anyConflict (as bs : List Access) : Bool := as.any (fun a => bs.any (fun b => conflicts a b))

/-- The footprint of LOAD or STORE, given the value of X[XI]. -/
def moveAccess (w : IWord) (x : Nat) (store : Bool) : List Access :=
  let far := (lFar w + x * lFstride w) * 64
  let farEnd := far + (lRows w - 1) * lFstride w * 64 + lRb w
  let scr := lScr w * 64
  let scrEnd := scr + (lRows w - 1) * lSstride w * 64 + lRb w
  [{ space := 0, lo := scr, hi := scrEnd, wr := !store }] ++
  (if lTier w = 3 then [] else [{ space := lTier w, lo := far, hi := farEnd, wr := store }])

/-- The registers of an FVEC operation. -/
def fvecAccess (w : IWord) : List Access :=
  let reg : Bool → Nat → Bool → List Access := fun used r wr => if used then [{ space := 5, lo := r, hi := r + 1, wr := wr }] else []
  match fvecUses (vFop w) with
  | some (ud, ua, ub, uc) =>
    reg ud (vVd w) true ++ reg ua (vVa w) false ++ reg (ub && !vImmb w) (vVb w) false ++ reg uc (vVc w) false ++
    (if vFop w ≤ 1 then [{ space := 0, lo := vAddr w * 16, hi := vAddr w * 16 + vLn w * fmtBytes (vFmt w), wr := vFop w = 1 }] else [])
  | none => []

/-- The scratch ranges of an FROW. -/
def frowAccess (w : IWord) : List Access :=
  let r := wRows w - 1
  let src := wSrc w * 64
  let dst := wDst w * 64
  [{ space := 0, lo := src, hi := src + (r * wRstride w + wN w) * fmtBytes (wSfmt w), wr := false },
   { space := 0, lo := dst, hi := if wFop w ≤ 2 then dst + (r * wRstride w + wN w) * fmtBytes (wDfmt w) else dst + 4 * wRows w, wr := true }] ++
  (if wFop w = 0 || wFop w = 3 || wFop w = 4 then []
   else [{ space := 0, lo := wAux w * 64, hi := auxB w + 4 * wN w, wr := false }])

/-- Bytes of a scale record of `nch` channels (05 "Scale records"). -/
def recBytes (nch : Nat) : Nat := 64 + 96 * nch

/-- The footprint of an instruction, given the value of its X[XI]. Of a scale record it names the header and the instruction's own channels. -/
def accesses (w : IWord) (x : Nat) : List Access :=
  let o := opcodeOf w
  if o = opMatmul then
    [{ space := 4, lo := mBase w, hi := mBase w + tileRows (mAccf w) (mH w), wr := true }] ++
    (if mPl w then [{ space := 0, lo := 0, hi := scratchBytes, wr := false }]
     else [{ space := 0, lo := mABase w * 16,
             hi := mABase w * 16 + (mH w - 1) * mRstride w * 16 + (mNb w - 1) * elemSpan (mAfmt w) (blockK (mWfmt w)) + elemSpan (mAfmt w) (mKc w),
             wr := false }] ++
       (if isMx (mAfmt w) then
          [{ space := 0, lo := mZa w * 2048, hi := mZa w * 2048 + mH w * scaleRow (mWfmt w) (mNb w), wr := false }]
        else []))
  else if o = opConv then
    [{ space := 4, lo := mBase w, hi := mBase w + tileRows (mAccf w) (mH w), wr := true },
     { space := 0, lo := 0, hi := scratchBytes, wr := false }]
  else if o = opLoad then moveAccess w x false
  else if o = opStore then moveAccess w x true
  else if o = opDrain then
    [{ space := 4, lo := dBase w, hi := dBase w + tileRows (dAccf w) (dH w), wr := false }] ++
    (if dFmt w = 7 then [{ space := 5, lo := dVreg w, hi := dVreg w + (dH w + 1) / 2, wr := true }]
     else [{ space := 0, lo := dDst w * 16, hi := dDst w * 16 + ((dH w - 1) * dStride w + dNt w) * drainBytes (dFmt w), wr := true }])
  else if o = opRequant then
    [{ space := 0, lo := rDst w * 64, hi := rDst w * 64 + (rH w - 1) * rStride w * 64 + 2 * rNt w, wr := true },
     { space := rTier w, lo := rRec w, hi := rRec w + recBytes (rCh0 w + rNt w), wr := true }] ++
    (if rSrc w = 0 then [{ space := 4, lo := rBase w, hi := rBase w + rH w, wr := false }]
     else [{ space := 5, lo := rVreg w, hi := rVreg w + (rH w + 1) / 2, wr := false }])
  else if o = opFvec then fvecAccess w
  else if o = opFrow then frowAccess w
  else []

/-- The scalar register an instruction reads its row index from; 0 for none. -/
def rowReg (w : IWord) : Nat :=
  let o := opcodeOf w
  if o = opMatmul || o = opConv then mXi w
  else if o = opLoad || o = opStore then lXi w
  else if o = opDrain then dXi w
  else if o = opRequant then rXi w
  else if o = opFrow then wXi w
  else if o = opBandRecv then bXi w
  else 0

end Sys2Proof.Machine
end

