-- ==== Sys2Proof/Machine/Spindle.lean ====
section
/-! DEFINITION. A spindle running a rank: its seat, registers and memory, and the tiers an instruction reaches (06 R98, R99; 08 R143). -/

namespace Sys2Proof.Machine

/-- Where an instruction runs: the physical spindle, the job, the rank, the slice and the job's resident place. -/
structure Seat where
  phys : Nat
  job : Nat
  rank : Nat
  slice : Nat
  place : Nat
  deriving DecidableEq, Repr

/-- The rank context of a seat changed. -/
def modCtx (s : State) (p : Nat) (f : Ctx → Ctx) : State := modSpn s p (fun x => { x with ctx := f x.ctx })

/-- The rank context on a physical spindle. -/
def getCtx (s : State) (p : Nat) : Ctx := (getSpn s p).ctx

/-- The counters of a spindle changed; they stand still while it is halted or failed (03, 05). -/
def modCtr (s : State) (p : Nat) (f : SpnCounters → SpnCounters) : State :=
  if s.ras.halted || (getSpn s p).failed then s else modSpn s p (fun x => { x with ctr := f x.ctr })

/-- A scalar register; X0 reads zero (R98). -/
def readX (x : Tbl Word) (i : Nat) : Word := if i = 0 then 0 else readD 0 x i

/-- A scalar register written; X0 ignores it (R98). -/
def writeX (x : Tbl Word) (i : Nat) (v : Word) : Tbl Word := if i = 0 then x else writeD 0 x i v

/-- The bank word of a row and column. -/
def bankWord (c : Ctx) (row col : Nat) : Word := readD 0 c.bank (row * 128 + col)

/-- A bank word written. -/
def setBank (c : Ctx) (row col : Nat) (v : Word) : Ctx := { c with bank := writeD 0 c.bank (row * 128 + col) v }

/-- A lane of a finisher register. -/
def lane (c : Ctx) (reg l : Nat) : Word := readD 0 c.vreg (reg * 256 + l)

/-- A lane written. -/
def setLane (c : Ctx) (reg l : Nat) (v : Word) : Ctx := { c with vreg := writeD 0 c.vreg (reg * 256 + l) v }

/-- Lanes 0 on of a register written. -/
def setLanes (c : Ctx) (reg : Nat) (vs : List Word) : Ctx := (vs.zipIdx).foldl (fun c v => setLane c reg v.2 v.1) c

/-- Bytes of scratch. -/
def scr (c : Ctx) (a n : Nat) : List Byte := readBytes c.scratch a n

/-- Bytes written to scratch. -/
def setScr (c : Ctx) (a : Nat) (bs : List Byte) : Ctx := { c with scratch := writeBytes c.scratch a bs }

/-- What running an instruction comes to: done, waiting with no effect but the requests it made (08 R149), or ending its job with a status. -/
inductive Run where
  | done (s : State)
  | wait (s : State)
  | ends (s : State) (status : Nat)
  deriving Repr

/-- What reading or preparing a tier comes to. -/
inductive Fetch where
  | bytes (s : State) (bs : List Byte)
  | wait (s : State)
  | ends (s : State) (status : Nat)
  deriving Repr

/-- The running step of a rank has touched the pages of a range: of a skein's image, or of the slice's pool space (R150). -/
def notePages (s : State) (jid rank : Nat) (h : Option Nat) (addr n : Nat) : State :=
  if n = 0 then s
  else
    let p0 := addr / pageBytes
    modJob s jid (fun j => { j with touched := (j.touched ++ (List.range ((addr + n - 1) / pageBytes - p0 + 1)).map (fun i => (rank, h, p0 + i))).eraseDups })

/-- The running step of a rank has touched a range of a tier (R150). A slot or a chain of the step stands for rank 48. -/
def noteTouched (s : State) (jid rank tier addr n : Nat) : State := if tier ≠ 2 then s else notePages s jid rank none addr n

/-- The hanks an access must bring back from their parked copies: each request counts one demand restore (R149). -/
def countDemand (s0 s : State) (q : Nat) : State :=
  let restoring : State → Nat := fun s =>
    match lookup s.slices q with
    | some x => (x.pages.filter (fun p => p.2.kind = .hank .restoring)).length
    | none => 0
  let n := restoring s - restoring s0
  { s with mem := { s.mem with demand := s.mem.demand + n } }

/-- The RAS entry of an uncorrectable pool read (08 R160, 18 R379). Which pseudo-channel holds the word is a free value (log entry 27). -/
def logPool (s : State) (q a n : Nat) : State :=
  let (c, s) := draw s
  let meets : Nat → Bool := fun u => u < poolAddr q (a + n) && poolAddr q a < u + 64
  match s.memStacks.findIdx? (fun k => k.uncorr.any meets) with
  | some i =>
    let u := (((s.memStacks[i]?).map Stack.uncorr).getD []).find? meets
    logRas s 4 1 (i * 64 + c % 32) 0 (u.getD 0)
  | none => s

/-- An access of a step to TIER 1 or 2 of its slice (R99, R149). -/
def stepTouch (s : State) (e : Seat) (tier addr n : Nat) (wr : Bool) : Run :=
  match touch s e.slice tier addr n wr with
  | .ready s' => .done (noteTouched s' e.job e.rank tier addr n)
  | .wait s' => .wait (countDemand s s' e.slice)
  | .ends st => .ends (if st = stMedia then logPool s e.slice addr n else s) st

/-! ### Skein images (08 R137-R143) -/

/-- The skein a slot of the job names: the handle, when it is loaded for the job's slice. JOB_ISSUE leaves out a handle whose release has begun
(R141). -/
def slotSkein (s : State) (e : Seat) (slot : Nat) : Option (Nat × Skein) :=
  match (lookup s.jobs e.job).bind (fun j => j.skeins[slot]?) with
  | some h =>
    match lookup s.skeins h with
    | some k => if k.slice = e.slice then some (h, k) else none
    | none => none
  | none => none

/-- The pinned copy in the slice's commons share that holds an image byte (R143, R144). -/
def commonsPin (x : Slice) (h off : Nat) : Option Nat :=
  (x.pins.find? (fun p => p.handle = h && p.offset ≤ off && off < p.offset + p.length)).map (fun p => p.caddr + (off - p.offset))

/-- The pool copy of an image page. -/
def poolCopy (x : Slice) (h page : Nat) : Option SkeinPage := x.skeinPages.find? (fun p => p.handle = h && p.page = page)

/-- The image bytes that neither a commons pin nor a pool copy holds. -/
def fromFlash (x : Slice) (h off n : Nat) : List Nat :=
  ((List.range n).map (fun i => off + i)).filter (fun a => (commonsPin x h a).isNone && (poolCopy x h (a / pageBytes)).isNone)

/-- One image byte, from the first place that holds it (R143); a failing flash unit reads zero and its read is refused before. -/
def imageByte (s : State) (x : Slice) (h : Nat) (k : Skein) (off : Nat) : Byte :=
  match commonsPin x h off with
  | some a => readByte x.commons a
  | none =>
    match poolCopy x h (off / pageBytes) with
    | some p => readByte p.data (off % pageBytes)
    | none =>
      match lookup s.stores k.store with
      | some st => (readStore s st (k.sector * 4096 + off) 1).headD 0
      | none => 0

/-- Read `n` bytes of a loaded skein: past its SIZE ends with BOUNDS, an uncorrectable flash unit with MEDIA_UNCORRECTABLE (R99, R143); flash
bytes are metered and pool copies used now. -/
def readSkein (s : State) (q h : Nat) (k : Skein) (off n : Nat) : Fetch :=
  if off + n > k.size then .ends s stBounds
  else
    match lookup s.slices q, lookup s.stores k.store with
    | some x, some st =>
      let cold := fromFlash x h off n
      let units := (cold.map (fun a => (k.sector * 4096 + a) / unitBytes)).eraseDups
      let bs := (List.range n).map (fun i => imageByte s x h k (off + i))
      let s' := countReads s k.store units
      let s' := if cold.isEmpty then s' else charge s' q (fun m => { m with flashRead := m.flashRead + cold.length })
      if units.any (fun u => unitFails s st u) then .ends s' stMedia
      else
        let hit : SkeinPage → Bool := fun p => p.handle = h && off < pageBytes * (p.page + 1) && pageBytes * p.page < off + n
        .bytes (modSlice s' q (fun x => { x with skeinPages := x.skeinPages.map (fun p => if hit p then { p with lastUse := s.trd.beat } else p) })) bs
    | _, _ => .ends s stBounds

/-! ### Tier addresses (R99) -/

/-- A far-side byte address of a program: TIER 3 keeps its slot apart from the offset within the image. -/
def tierOffset (tier far x stride : Nat) : Nat := if tier = 3 then (far % 2 ^ 34 + x * stride) * 64 else (far + x * stride) * 64

/-- The range is outside what the tier gives the slice (R99; TIER 0: outside scratch, R413). -/
def tierOutside (s : State) (e : Seat) (tier far off n : Nat) : Bool :=
  if tier = 0 then off + n > scratchBytes
  else if tier = 3 then
    match slotSkein s e (far / 2 ^ 34) with
    | some (_, k) => off + n > k.size
    | none => true
  else !inSlice s e.slice tier off n

/-- Prepare and read `n` bytes of a tier for a rank. -/
def readTierFor (s : State) (e : Seat) (tier far off n : Nat) : Fetch :=
  if tier = 0 then .bytes s (scr (getCtx s e.phys) off n)
  else if tier = 3 then
    match slotSkein s e (far / 2 ^ 34) with
    | some (h, k) =>
      match readSkein s e.slice h k off n with
      | .bytes s bs => .bytes (notePages s e.job e.rank (some h) off n) bs
      | r => r
    | none => .ends s stBounds
  else
    match stepTouch s e tier off n false with
    | .done s' => .bytes s' (readTier s' e.slice tier off n)
    | .wait s' => .wait s'
    | .ends s' st => .ends s' st

/-- Prepare the writing of `n` bytes of a tier for a rank. -/
def prepareWrite (s : State) (e : Seat) (tier off n : Nat) : Run :=
  if tier = 0 then .done s else stepTouch s e tier off n true

/-- Write bytes of a tier for a rank. -/
def writeTierFor (s : State) (e : Seat) (tier off : Nat) (bs : List Byte) : State :=
  if tier = 0 then modCtx s e.phys (fun c => setScr c off bs) else writeTier s e.slice tier off bs

/-- Run the pieces of an instruction in order until one waits or ends. -/
def runAll {α : Type} (f : State → α → Run) : List α → State → Run
  | [], s => .done s
  | a :: t, s =>
    match f s a with
    | .done s' => runAll f t s'
    | r => r

/-- The rows of an instruction that its bound does not mask: i with XN = 0 or X[XI] + i < X[XN] (R101, R106). -/
def liveRows (x : Tbl Word) (xi xn rows : Nat) : List Nat :=
  (List.range rows).filter (fun i => xn = 0 || (readX x xi).toNat + i < (readX x xn).toNat)

/-! ### Programs of ranks -/

/-- The step of a draft's run: the step within one iteration (10 R178). -/
def localStep (d : Draft) (j : Job) : Nat := if d.nsteps = 0 then 0 else j.step % d.nsteps

/-- The program a rank runs in the current step (06, 10 R178, 15 R319). -/
def progOf (s : State) (j : Job) (rank : Nat) : List IWord :=
  match j.draft with
  | none => j.prog
  | some d =>
    match lookup s.drafts d.handle with
    | some x =>
      match x.steps[localStep x j]? with
      | some r => ((r.progs[rank]?).bind (fun i => lookup x.progs i)).getD []
      | none => []
    | none => []

/-- The seat of a logical spindle whose rank is running a step. -/
def seatOf (s : State) (sp : Nat) : Option Seat :=
  match physOf s sp with
  | none => none
  | some p =>
    match (getSpn s p).rank with
    | none => none
    | some (jid, r) =>
      match lookup s.jobs jid with
      | none => none
      | some j =>
        match j.phase, j.rankStates[r]? with
        | .running _, some .running =>
          if s.ras.halted then none else some { phys := p, job := jid, rank := r, slice := j.slice, place := j.place.getD 0 }
        | _, _ => none

end Sys2Proof.Machine
end

