-- ==== Sys2Proof/Machine/Records.lean ====
section
/-! DEFINITION. Scale records (05 "Scale records", "Adaptive scales"): the checks and the initialisation of R88 and R89, observation (R91), the fold
of a step (R92), the release of R121. -/

namespace Sys2Proof.Machine

/-- A field of a scale record in a slice's memory. -/
def recField (s : State) (q tier off at_ n : Nat) : Nat := leNat (readTier s q tier (off + at_) n)

/-- A field of a scale record written. -/
def setRec (s : State) (q tier off at_ n v : Nat) : State := writeTier s q tier (off + at_) (leBytes n v)

/-- Where channel c's entry starts. -/
def chanAt (c : Nat) : Nat := 64 + 96 * c

/-- binary32 nearest M × 2^−S (OSCALE). -/
def oscale (m sh : Nat) : Nat := encodeF fp32 (.fin false m (-(sh : Int)))

/-- A layer record of a loaded skein (08 R138): 128 bytes. -/
def layerRecord (s : State) (q h : Nat) (k : Skein) (layer : Nat) : Fetch :=
  match readSkein s q h k 24 8 with
  | .bytes s b => readSkein s q h k (leNat b + 128 * layer) 128
  | r => r

/-- Initialise a record in STATE 0 from its layer: NCH, W, MARGIN, OFMT, FLAGS and the seeds (R88). `l` is the layer record, `seeds` the seed
table. -/
def initRecord (s : State) (q tier off : Nat) (l seeds : List Byte) : State :=
  let nch := field l 16 4
  let w := if field l 5 1 = 0 then 4 else field l 5 1
  let flags := b2n (field l 2 1 = 2) + 2 * field l 4 1
  let s := setRec s q tier off 8 4 nch
  let s := setRec s q tier off 13 1 w
  let s := setRec s q tier off 14 1 (field l 6 1)
  let s := setRec s q tier off 15 1 (field l 3 1)
  let s := setRec s q tier off 16 1 flags
  let s := (List.range nch).foldl (fun s c =>
    let m := field seeds (16 * c) 4
    let sh := field seeds (16 * c + 4) 1
    let s := setRec s q tier off (chanAt c) 4 m
    let s := setRec s q tier off (chanAt c + 4) 2 sh
    let s := setRec s q tier off (chanAt c + 6) 2 (field seeds (16 * c + 6) 2)
    let s := setRec s q tier off (chanAt c + 8) 4 (field seeds (16 * c + 8) 4)
    let s := setRec s q tier off (chanAt c + 12) 4 (oscale m sh)
    setRec s q tier off (chanAt c + 88) 1 0) s
  setRec s q tier off 12 1 1

/-- A rank uses a record in its step: OWNER is set and the record is noted for the fold (R89, R92). -/
def takeRecord (s : State) (e : Seat) (tier off : Nat) : State :=
  let s := setRec s e.slice tier off 20 4 (e.place + 1)
  modJob s e.job (fun j =>
    { j with records := if j.records.contains (e.rank, tier, off) then j.records else j.records ++ [(e.rank, tier, off)],
             owned := if j.owned.contains (tier, off) then j.owned else j.owned ++ [(tier, off)] })

/-- The record must be free or this job's, live or fresh, its skein loaded and its layer quantised, its channels enough (R89); a fresh one is initialised (R88). -/
def openRecord (s : State) (e : Seat) (tier off ch0 nt : Nat) : Run :=
  match stepTouch s e tier off 64 true with
  | .done s =>
    let handle := recField s e.slice tier off 0 4
    let layer := recField s e.slice tier off 4 4
    let st := recField s e.slice tier off 12 1
    let owner := recField s e.slice tier off 20 4
    if st ≥ 2 || (owner ≠ 0 && owner ≠ e.place + 1) then .ends s stBounds
    else
      match lookup s.skeins handle with
      | none => .ends s stBounds
      | some k =>
        let gone := k.releasing && !((lookup s.jobs e.job).any (fun j => j.skeins.contains handle))
        if k.slice ≠ e.slice || gone || layer ≥ k.nlayers then .ends s stBounds
        else
          match layerRecord s e.slice handle k layer with
          | .wait s => .wait s
          | .ends s st => .ends s st
          | .bytes s l =>
            let nch := if st = 0 then field l 16 4 else recField s e.slice tier off 8 4
            if field l 2 1 = 0 || ch0 + nt > nch || !inSlice s e.slice tier off (recBytes nch) then .ends s stBounds
            else
              match stepTouch s e tier off (recBytes nch) true with
              | .done s =>
                if st ≠ 0 then .done (takeRecord s e tier off)
                else
                  match readSkein s e.slice handle k (field l 32 8) (16 * nch) with
                  | .bytes s seeds => .done (takeRecord (initRecord s e.slice tier off l seeds) e tier off)
                  | .wait s => .wait s
                  | .ends s st => .ends s st
              | r => r
  | r => r

/-- The magnitude an observation keeps: |x|, or max(x, 0) in positive range, at most 2^32 − 1 (R91). -/
def observed (positive : Bool) (x : Int) : Nat := min (if positive then (max x 0).toNat else x.natAbs) 0xFFFFFFFF

/-- Observe x in channel c (R91). -/
def observe (s : State) (q tier off c : Nat) (x : Int) : State :=
  let v := observed (bit (recField s q tier off 16 1) 1) x
  let s := if v > recField s q tier off (chanAt c + 16) 4 then setRec s q tier off (chanAt c + 16) 4 v else s
  setRec s q tier off (chanAt c + 89) 1 (Nat.lor (recField s q tier off (chanAt c + 89) 1) 1)

/-- Count a saturation of channel c (R87). -/
def countSat (s : State) (q tier off c : Nat) : State :=
  let s := setRec s q tier off (chanAt c + 20) 4 (sat32 (recField s q tier off (chanAt c + 20) 4 + 1))
  setRec s q tier off 32 8 (recField s q tier off 32 8 + 1)

/-- REQUANT of one value of channel c: the output, whether it saturated, and x (R86). -/
def requantOne (s : State) (q tier off c ofmt : Nat) (acc : Int) : Int × Bool × Int :=
  let m : Nat := recField s q tier off (chanAt c) 4 % 2 ^ 31
  let sh := recField s q tier off (chanAt c + 4) 1
  let z := signed 16 (recField s q tier off (chanAt c + 6) 2)
  let b := signed 32 (recField s q tier off (chanAt c + 8) 4)
  let x := acc + b
  let y := roundShift (x * m) sh + z
  let out := clampInt (qmin ofmt) (qmax ofmt) y
  (out, out ≠ y, x)

/-! ### The fold (R92) -/

/-- The new M and S of a channel whose window's largest value is `a`, with headroom `h` and margin (R92): f is the correctly rounded quotient. -/
def deriveScale (h a margin : Nat) : Nat × Nat :=
  match round32 (.fin false a 0) with
  | .fin _ n f =>
    match round32 (divPos h (-(margin : Int)) n f) with
    | .fin _ m e =>
      let sh : Int := 30 - (e + Nat.log2 m)
      let m31 := m * 2 ^ (30 - Nat.log2 m)
      if sh > 63 then (quantise m e (-63), 63) else (m31, sh.toNat)
    | _ => (0, 0)
  | _ => (0, 0)

/-- derive (R92). -/
def derive_ (s : State) (q tier off c : Nat) : State :=
  let at_ := chanAt c
  let w := recField s q tier off 13 1
  let wpos := recField s q tier off (at_ + 5) 1
  let wfill := recField s q tier off (at_ + 88) 1
  let recent := (List.range wfill).map (fun k => recField s q tier off (at_ + 24 + 4 * ((wpos + w - 1 - k) % w)) 4)
  let a := recent.foldl max 0
  let ofmt := recField s q tier off 15 1
  let z := signed 16 (recField s q tier off (at_ + 6) 2)
  let up := qmax ofmt - z
  let h := if bit (recField s q tier off 16 1) 1 then up else min up (z - qmin ofmt)
  if a = 0 then s
  else
    let (m, sh) := deriveScale h.toNat a (recField s q tier off 14 1)
    let s := setRec s q tier off at_ 4 m
    let s := setRec s q tier off (at_ + 4) 1 sh
    setRec s q tier off (at_ + 12) 4 (oscale m sh)

/-- fold_channel (R92). -/
def foldChannel (s : State) (q tier off c : Nat) : State :=
  let at_ := chanAt c
  let w := recField s q tier off 13 1
  let wpos := recField s q tier off (at_ + 5) 1
  let s := setRec s q tier off (at_ + 24 + 4 * wpos) 4 (recField s q tier off (at_ + 16) 4)
  let s := setRec s q tier off (at_ + 16) 4 0
  let s := setRec s q tier off (at_ + 5) 1 ((wpos + 1) % w)
  let s := setRec s q tier off (at_ + 88) 1 (min (recField s q tier off (at_ + 88) 1 + 1) w)
  let s := if bit (recField s q tier off 16 1) 0 then derive_ s q tier off c else s
  setRec s q tier off (at_ + 89) 1 0

/-- The channels of a record with TOUCH set. -/
def touchedChannels (s : State) (q tier off : Nat) : List Nat :=
  (List.range (recField s q tier off 8 4)).filter (fun c => bit (recField s q tier off (chanAt c + 89) 1) 0)

/-- A fold that a compute fault cut short: STATE 2, and the first `n` channels with TOUCH set are folded (R92, R95). -/
def foldPartly (s : State) (q tier off n : Nat) : State :=
  ((touchedChannels s q tier off).take n).foldl (fun s c => foldChannel s q tier off c) (setRec s q tier off 12 1 2)

/-- A range of a slice's pool has been used by the device at this beat (08 R151). -/
def usePages (s : State) (q tier off n : Nat) : State :=
  if tier ≠ 2 then s
  else modSlice s q (fun x => { x with pages := x.pages.map (fun p =>
    if off < pageBytes * (p.1 + 1) && pageBytes * p.1 < off + n then (p.1, { p.2 with lastUse := s.trd.beat }) else p) })

/-- The fold of one record: STATE 2, every channel with TOUCH set, STEPS, STATE 1 (R92). -/
def foldRecord (s : State) (q tier off : Nat) : State :=
  let s := foldPartly s q tier off (recField s q tier off 8 4)
  let s := setRec s q tier off 24 8 (recField s q tier off 24 8 + 1)
  usePages (setRec s q tier off 12 1 1) q tier off (recBytes (recField s q tier off 8 4))

/-- The finisher's busy cycles advance by a free amount of at least `least` (05 SPN_FIN_BUSY; log entry 6). -/
def countFin (s : State) (p least : Nat) : State :=
  let (n, s) := draw s
  modCtr s p (fun k => { k with finBusy := k.finBusy + least + n })

/-- The physical spindles of some ranks of a job, in ascending order of their logical spindles. -/
def spindlesOf (s : State) (j : Job) (ranks : List Nat) : List Nat :=
  ((List.range 48).filter (fun l => ranks.any (fun r => j.spindles[r]? = some l))).filterMap (physOf s)

/-- The finishers of spindles `ps` fold `n` channels: groups of 128, 48 cycles each, dealt to them in order (R93). -/
def countFold (s : State) (ps : List Nat) (n : Nat) : State :=
  (List.range (ceilDiv n 128)).foldl (fun s g =>
    match ps[g % ps.length]? with
    | some p => countFin s p 48
    | none => s) s

/-- The records that some ranks of the job used in their step are folded, on the finishers of the spindles that used them (R92, R93). -/
def foldOf (s : State) (jid : Nat) (mine : Nat → Bool) : State :=
  match lookup s.jobs jid with
  | some j =>
    let used := j.records.filter (fun r => mine r.1)
    let s := ((used.map Prod.snd).eraseDups).foldl (fun s r =>
      let users := (used.filter (fun u => u.2 = r)).map Prod.fst
      countFold (foldRecord s j.slice r.1 r.2) (spindlesOf s j users) (recField s j.slice r.1 r.2 8 4)) s
    modJob s jid (fun j => { j with records := j.records.filter (fun r => !mine r.1) })
  | none => s

/-- Every record the job used in its step is folded (R92, R93). -/
def foldRecords (s : State) (jid : Nat) : State := foldOf s jid (fun _ => true)

/-- Every record that one rank used in its step is folded: a yield is its step's end (R93; 06 R116). -/
def foldRank (s : State) (jid rank : Nat) : State := foldOf s jid (fun r => r = rank)

/-- The bytes of the scale record that a REQUANT uses: its channels, or those its layer gives a fresh one (R88, R89). -/
def recordSpan (s : State) (q : Nat) (w : IWord) : Nat :=
  let nch := recField s q (rTier w) (rRec w) 8 4
  let fresh := recField s q (rTier w) (rRec w) 12 1 = 0
  let handle := recField s q (rTier w) (rRec w) 0 4
  match (if fresh then lookup s.skeins handle else none) with
  | some k =>
    match layerRecord s q handle k (recField s q (rTier w) (rRec w) 4 4) with
    | .bytes _ l => recBytes (max (field l 16 4) (rCh0 w + rNt w))
    | _ => recBytes (rCh0 w + rNt w)
  | none => recBytes (max nch (rCh0 w + rNt w))

end Sys2Proof.Machine
end

