-- ==== Sys2Proof/Machine/Array.lean ====
section
/-! DEFINITION. The array (03, 04): blocks and operands, chains and bank entries, MATMUL and CONV. -/

namespace Sys2Proof.Machine

/-! ### Weight blocks (R43) -/

/-- Byte `i` of a block. -/
def blockByte (b : Block) (i : Nat) : Nat := ((b.data[i]?).getD 0).toNat

/-- Bytes of weights of a block. -/
def weightBytes (wfmt : Nat) : Nat := if wfmt = 10 || wfmt = 11 then 32768 else 16384

/-- The raw weight of reduction index `r` of a block in column `n`. -/
def weightRaw (b : Block) (r n : Nat) : Nat :=
  if paired b.wfmt then (if r % 2 = 0 then blockByte b (r / 2 * 128 + n) % 16 else blockByte b (r / 2 * 128 + n) / 16)
  else if b.wfmt = 10 || b.wfmt = 11 then blockByte b (2 * (r * 128 + n)) + 256 * blockByte b (2 * (r * 128 + n) + 1)
  else blockByte b (r * 128 + n)

/-- WZP of column `n`. -/
def weightZero (b : Block) (n : Nat) : Nat := blockByte b (16384 + n)

/-- WSCALE of column `n` for reduction index `r`. -/
def weightScale (b : Block) (r n : Nat) : Nat := blockByte b (16384 + r / 32 * 128 + n)

/-! ### Products (R53-R55) -/

/-- An activation element: its raw code and, for block-scaled formats, its scale field. -/
abbrev Act := Nat × Nat

/-- The integer product of an element and a weight, both less their zero points (R53). -/
def intProduct (afmt za : Nat) (b : Block) (r n : Nat) (a : Act) : Int :=
  let fa := (intFmt afmt).getD (8, true)
  let fw := (intFmt b.wfmt).getD (8, true)
  (intElem fa a.1 - intElem fa za) * (intElem fw (weightRaw b r n) - intElem fw (weightZero b n))

/-- The exact floating-point product of an element and a weight, with their scales (R54, R55). -/
def floatProduct (afmt : Nat) (b : Block) (r n : Nat) (a : Act) : Num :=
  let p := Num.mul (floatElem afmt a.1) (floatElem b.wfmt (weightRaw b r n))
  if isMx b.wfmt then scaleBy p a.2 (weightScale b r n) else p

/-! ### Chains and entries (04 R67-R69) -/

/-- The chain of integer products, with the adds that wrapped; none where every position is masked. -/
def chainInt : List Int → Option Int × Nat
  | [] => (none, 0)
  | p :: ps => ps.foldl (fun c x => match c.1 with
      | some v => (some (intAdd v x).1, c.2 + b2n (intAdd v x).2)
      | none => c) (some p, 0)

/-- The FP32 chain. -/
def chainFp : List Num → Option Num
  | [] => none
  | p :: ps => some (ps.foldl (fun v x => round32 (Num.add v x)) (round32 p))

/-- The CFP32 chain. -/
def chainCfp : List Num → Option Pair
  | [] => none
  | p :: ps => some (ps.foldl cfpAddProduct (cfpStart p))

/-- An INT32 chain value into a bank word: OVERWRITE or ADD; the empty sum is 0, and leaves an entry under ADD (R68, R69). -/
def applyInt (add : Bool) (old : Word) (v : Option Int) : Word × Nat :=
  match v with
  | none => (if add then old else 0, 0)
  | some v => if add then (wInt (intAdd (i32 old) v).1, b2n (intAdd (i32 old) v).2) else (wInt v, 0)

/-- An FP32 chain value into a bank word; the empty sum is −0. -/
def applyFp (add : Bool) (old : Word) (v : Option Num) : Word :=
  match v with
  | none => if add then old else minusZero
  | some v => if add then w32 (Num.add (f32 old) v) else w32 v

/-- A CFP32 chain pair into an entry; the empty sum is (−0, +0). -/
def applyCfp (add : Bool) (s e : Word) (v : Option Pair) : Word × Word :=
  match v with
  | none => if add then (s, e) else (minusZero, 0)
  | some v =>
    let r := if add then cfpAddPair (f32 s, f32 e) v else v
    (w32 r.1, w32 r.2)

/-- One block of one row into one entry: the products of its unmasked indices in ascending order, then OVERWRITE or ADD. The context and the adds
that wrapped. -/
def addChunk (c : Ctx) (accf afmt za : Nat) (add : Bool) (bankRow n : Nat) (b : Block) (acts : List (Nat × Act)) : Ctx × Nat :=
  if accf = 0 then
    let ch := chainInt (acts.map (fun a => intProduct afmt za b a.1 n a.2))
    let r := applyInt add (bankWord c bankRow n) ch.1
    (setBank c bankRow n r.1, ch.2 + r.2)
  else
    let ps := acts.map (fun a => floatProduct afmt b a.1 n a.2)
    if accf = 1 then (setBank c bankRow n (applyFp add (bankWord c bankRow n) (chainFp ps)), 0)
    else
      let r := applyCfp add (bankWord c bankRow n) (bankWord c (bankRow + 1) n) (chainCfp ps)
      (setBank (setBank c bankRow n r.1) (bankRow + 1) n r.2, 0)

/-- The unmasked elements of a row in each block: the index within the block, and the element. -/
abbrev RowActs := List (List (Nat × Act))

/-- Stream one row through the blocks, over columns 0 to `nt` − 1. -/
def streamRow (accf afmt za : Nat) (acc : Bool) (bankRow nt : Nat) (blocks : List Block) (acts : RowActs) (st : Ctx × Nat) : Ctx × Nat :=
  ((blocks.zip acts).zipIdx).foldl (fun st ba =>
    (List.range nt).foldl (fun st n =>
      let r := addChunk st.1 accf afmt za (acc || ba.2 ≠ 0) bankRow n ba.1.1 ba.1.2
      (r.1, st.2 + r.2)) st) st

/-- Products formed by a row in unmasked cells (R51). -/
def rowMacs (nt : Nat) (acts : RowActs) : Nat := nt * (acts.map List.length).sum

/-! ### MATMUL rows (06 R101; 07 R129, R130) -/

/-- The raw code of element `r` of block `b` of a row at a scratch address. -/
def actRaw (c : Ctx) (afmt wfmt addr b r : Nat) : Nat :=
  let k := b * blockK wfmt + r
  if elemBits afmt = 4 then
    let v := (readByte c.scratch (addr + k / 2)).toNat
    if k % 2 = 0 then v % 16 else v / 16
  else if elemBits afmt = 16 then readNat c.scratch (addr + 2 * k) 2
  else (readByte c.scratch (addr + k)).toNat

/-- The elements of a row in every block, with the scales at `saddr` for block-scaled formats. -/
def rowActs (c : Ctx) (w : IWord) (addr saddr : Nat) : RowActs :=
  (List.range (mNb w)).map (fun b =>
    (List.range (if b + 1 = mNb w then mKc w else blockK (mWfmt w))).map (fun r =>
      (r, (actRaw c (mAfmt w) (mWfmt w) addr b r,
           if isMx (mAfmt w) then (readByte c.scratch (saddr + b * scaleGroups (mWfmt w) + r / 32)).toNat else 0))))

/-- Bytes of a row's elements, and of its scales. -/
def rowSpan (w : IWord) : Nat := (mNb w - 1) * elemSpan (mAfmt w) (blockK (mWfmt w)) + elemSpan (mAfmt w) (mKc w)
def scaleSpan (w : IWord) : Nat := (mNb w - 1) * scaleGroups (mWfmt w) + ceilDiv (mKc w) 32

/-- Entry i of the pointer list (07 R129). -/
def listEntry (c : Ctx) (w : IWord) (i : Nat) : Nat := readNat c.scratch (mABase w * 16 + 8 * i) 8

/-- The row is skipped by its entry. -/
def entrySkips (v : Nat) : Bool := bit v 63

/-- The entry is malformed, or its row or scales extend past scratch (07 R129). -/
def entryBad (w : IWord) (v : Nat) : Bool :=
  bits v 19 13 ≠ 0 || bits v 51 12 ≠ 0 || (!isMx (mAfmt w) && bits v 32 19 ≠ 0) ||
  pastScratch (bits v 0 19 * 16 + rowSpan w) || (isMx (mAfmt w) && pastScratch (bits v 32 19 * 16 + scaleSpan w))

/-- The rows a MATMUL streams: local row, element address, scale address; none when its pointer list is bad. -/
def matmulRows (c : Ctx) (w : IWord) (x : Tbl Word) : Option (List (Nat × Nat × Nat)) :=
  let live := liveRows x (mXi w) (mXn w) (mH w)
  if !mPl w then
    some (live.map (fun i => (i, mABase w * 16 + i * mRstride w * 16, mZa w * 2048 + i * scaleRow (mWfmt w) (mNb w))))
  else if (List.range (mH w)).any (fun i => !entrySkips (listEntry c w i) && entryBad w (listEntry c w i)) then none
  else
    some ((live.filter (fun i => !entrySkips (listEntry c w i))).map
      (fun i => (i, bits (listEntry c w i) 0 19 * 16, bits (listEntry c w i) 32 19 * 16)))

/-! ### CONV rows (03 R56, R57; 06 R103) -/

/-- A geometry record. -/
structure Geom where
  base : Nat
  size : List Nat
  out : List Nat
  chans : Nat
  cs : Nat
  kernel : List Nat
  stride : List Nat
  dil : List Nat
  pad : List Nat
  deriving DecidableEq, Repr

/-- The geometry record at a scratch address. -/
def readGeom (c : Ctx) (a : Nat) : Geom :=
  let f : Nat → Nat → Nat := fun off n => readNat c.scratch (a + off) n
  { base := f 0 4, size := [f 4 2, f 6 2, f 8 2], out := [f 10 2, f 12 2, f 14 2], chans := f 16 2, cs := f 18 2,
    kernel := [f 20 1, f 21 1, f 22 1], stride := [f 23 1, f 24 1, f 25 1], dil := [f 26 1, f 27 1, f 28 1],
    pad := [f 29 1, f 30 1, f 31 1] }

/-- A value outside the ranges of R56, or a BASE that is not a multiple of the element size. -/
def geomBad (g : Geom) (e : Nat) : Bool :=
  g.size.any (fun v => v = 0) || g.out.any (fun v => v = 0) || g.chans = 0 || g.cs < g.chans ||
  g.kernel.any (fun v => v = 0 || v > 32) || g.stride.any (fun v => v = 0 || v > 16) ||
  g.dil.any (fun v => v = 0 || v > 16) || g.pad.any (fun v => v > 31) || g.base % e ≠ 0

/-- Element `d` of a triple. -/
def dim (l : List Nat) (d : Nat) : Nat := (l[d]?).getD 0

/-- The input position along a dimension; none in the padding. -/
def convPos (g : Geom) (d o k : Nat) : Option Nat :=
  let i : Int := (o * dim g.stride d + k * dim g.dil d : Nat) - (dim g.pad d : Int)
  if i < 0 ∨ (dim g.size d : Int) ≤ i then none else some i.toNat

/-- The scratch address of output row m and reduction index k; none where it is masked (R57). -/
def convAddr (g : Geom) (e m k : Nat) : Option Nat :=
  let ow := m % dim g.out 2
  let oh := m / dim g.out 2 % dim g.out 1
  let od := m / (dim g.out 2 * dim g.out 1) % dim g.out 0
  let b := m / (dim g.out 2 * dim g.out 1 * dim g.out 0)
  let c := k % g.chans
  let kw := k / g.chans % dim g.kernel 2
  let kh := k / (g.chans * dim g.kernel 2) % dim g.kernel 1
  let kd := k / (g.chans * dim g.kernel 2 * dim g.kernel 1)
  if kd ≥ dim g.kernel 0 then none
  else
    match convPos g 0 od kd, convPos g 1 oh kh, convPos g 2 ow kw with
    | some id, some ih, some iw => some (g.base + ((((b * dim g.size 0 + id) * dim g.size 1 + ih) * dim g.size 2 + iw) * g.cs + c) * e)
    | _, _, _ => none

/-- The addresses of a CONV row by block: the index within the block and the element's address, masked indices left out. -/
def convAddrs (g : Geom) (w : IWord) (m : Nat) : List (List (Nat × Nat)) :=
  let kb := blockK (mWfmt w)
  (List.range (mNb w)).map (fun b =>
    (List.range (if b + 1 = mNb w then mKc w else kb)).filterMap (fun r =>
      (convAddr g (elemBits (mAfmt w) / 8) m (cK0 w * kb + b * kb + r)).map (fun a => (r, a))))

/-! ### The instructions -/

/-- The runs of a gathered row: maximal stretches of elements of `sz` bytes at consecutive scratch addresses, the addresses rising (R58). -/
def runsOf (sz : Nat) : List Nat → Nat
  | [] => 0
  | [_] => 1
  | a :: b :: t => (if b = a + sz then 0 else 1) + runsOf sz (b :: t)

/-- Cell steps a row of one block is frozen for its gather (R58). -/
def gatherFreezes (sz : Nat) (row : List (Nat × Nat)) : Nat := ceilDiv (runsOf sz (row.map Prod.snd)) 4 - 1

/-- Take the blocks of a matrix instruction out of the queue and account it: products, blocks, wraps; the cycles frozen for the gather of R58 count as FEED;
other cycles and freezes are free amounts with each cause at most the freezes (R49, R51, log entry 6). -/
def retireMatrix (s : State) (p : Nat) (c : Ctx) (nb rows step gather macs wraps : Nat) : State :=
  let s := modCtx s p (fun _ => { c with blocks := c.blocks.drop nb })
  let (conflict, s) := draw s
  let feed := gather * step + conflict
  let (drain, s) := draw s
  let (wait, s) := draw s
  let (more, s) := draw s
  let top := max feed (max drain wait)
  let frz := top + more % (feed + drain + wait - top + 1)
  let (fill, s) := draw s
  modCtr s p (fun k =>
    { k with busy := k.busy + frz + nb * rows * step + fill, frz := k.frz + frz, feed := k.feed + feed, drain := k.drain + drain,
             weight := k.weight + wait, mac := k.mac + macs, blocks := k.blocks + nb, wrap := k.wrap + wraps })

/-- Cycles per cell step (R41). -/
def cellStep (wfmt : Nat) : Nat := if modeOf wfmt = 3 then 4 else 1

/-- The blocks a matrix instruction takes. -/
def takeBlocks (c : Ctx) (w : IWord) : List Block := (c.blocks.take (mNb w)).map Prod.snd

/-- The bank row of local row i (R62, R101). -/
def bankRowOf (w : IWord) (i : Nat) : Nat := mBase w + (if mAccf w = 2 then 2 * i else i)

/-- The row marks after a matrix instruction that streams the local rows `live` (07 R124): a row it streams is drained again; a row it leaves out is not, unless the
instruction adds to what its tile holds. -/
def markRows (c : Ctx) (w : IWord) (live : List Nat) : Ctx :=
  let kept := c.masked.filter (fun r => !(live.any (fun i => bankRowOf w i = r)))
  let out := ((List.range (mH w)).filter (fun i => !live.contains i)).map (bankRowOf w)
  { c with masked := if mAdd w then kept else kept ++ out.filter (fun r => !kept.contains r) }

/-- MATMUL, its blocks being in the queue (R101). -/
def runMatmul (s : State) (e : Seat) (w : IWord) (x : Tbl Word) : Run :=
  let c := getCtx s e.phys
  match matmulRows c w x with
  | none => .ends s stBounds
  | some rows =>
    let bs := takeBlocks c w
    let za := if mAfmt w ≤ 3 then mZa w else 0
    let r := rows.foldl (fun st row =>
      streamRow (mAccf w) (mAfmt w) za (mAdd w) (bankRowOf w row.1) (mNt w) bs (rowActs c w row.2.1 row.2.2) st) (c, 0)
    let macs := rows.length * mNt w * ((mNb w - 1) * blockK (mWfmt w) + mKc w)
    .done (retireMatrix s e.phys (markRows r.1 w (rows.map Prod.fst)) (mNb w) rows.length (cellStep (mWfmt w)) 0 macs r.2)

/-- CONV, its blocks being in the queue (R57, R101, R103). -/
def runConv (s : State) (e : Seat) (w : IWord) (x : Tbl Word) : Run :=
  let c := getCtx s e.phys
  let g := readGeom c (cGeom w * 64)
  let sz := elemBits (mAfmt w) / 8
  if geomBad g sz then .ends s stBounds
  else
    let rows := (liveRows x (mXi w) (mXn w) (mH w)).map (fun i => (i, convAddrs g w ((readX x (mXi w)).toNat + i)))
    if rows.any (fun r => r.2.any (fun b => b.any (fun a => pastScratch (a.2 + sz)))) then .ends s stBounds
    else
      let bs := takeBlocks c w
      let za := if mAfmt w ≤ 1 then cZa w else 0
      let r := rows.foldl (fun st row =>
        let acts : RowActs := row.2.map (fun b => b.map (fun a => (a.1, (readNat c.scratch a.2 sz, 0))))
        streamRow (mAccf w) (mAfmt w) za (mAdd w) (bankRowOf w row.1) (mNt w) bs acts st) (c, 0)
      let macs := (rows.map (fun r => mNt w * (r.2.map List.length).sum)).sum
      let gather := (rows.map (fun r => (r.2.map (gatherFreezes sz)).sum)).sum
      .done (retireMatrix s e.phys (markRows r.1 w (rows.map Prod.fst)) (mNb w) rows.length (cellStep (mWfmt w)) gather macs r.2)

end Sys2Proof.Machine
end

