-- ==== Sys2Proof/Machine/Port.lean ====
section
/-! DEFINITION. The mover and port units of a spindle: LOAD, STORE (06 R106), DRAIN (04 R74-R77; 06 R107), REQUANT (05 R86-R91; 06 R108). -/

namespace Sys2Proof.Machine

/-! ### LOAD and STORE -/

/-- The far-side offset of row i. -/
def farOf (w : IWord) (x : Tbl Word) (i : Nat) : Nat := tierOffset (lTier w) (lFar w) ((readX x (lXi w)).toNat + i) (lFstride w)

/-- The scratch address of row i. -/
def scrOf (w : IWord) (i : Nat) : Nat := lScr w * 64 + i * lSstride w * 64

/-- Row i of a LOAD brought within reach of its spindle (08 R149). -/
def reachLoad (e : Seat) (w : IWord) (x : Tbl Word) (s : State) (i : Nat) : Run :=
  match readTierFor s e (lTier w) (lFar w) (farOf w x i) (lRb w) with
  | .bytes s _ => .done s
  | .wait s => .wait s
  | .ends s st => .ends s st

/-- Row i of a LOAD copied (06 R106). -/
def copyLoad (e : Seat) (w : IWord) (x : Tbl Word) (s : State) (i : Nat) : State :=
  match readTierFor s e (lTier w) (lFar w) (farOf w x i) (lRb w) with
  | .bytes _ bs => modCtx s e.phys (fun c => setScr c (scrOf w i) bs)
  | _ => s

/-- LOAD: every row's source must lie in its tier; then the rows are copied in order (R99, R106). -/
def runLoad (s : State) (e : Seat) (w : IWord) (x : Tbl Word) : Run :=
  let rows := liveRows x (lXi w) (lXn w) (lRows w)
  if rows.any (fun i => tierOutside s e (lTier w) (lFar w) (farOf w x i) (lRb w)) then .ends s stBounds
  else
    match runAll (reachLoad e w x) rows s with
    | .done s => .done (rows.foldl (copyLoad e w x) s)
    | r => r

/-- STORE: every row's destination must lie in its tier; then the rows are copied in order (R99, R106). -/
def runStore (s : State) (e : Seat) (w : IWord) (x : Tbl Word) : Run :=
  let rows := liveRows x (lXi w) (lXn w) (lRows w)
  if rows.any (fun i => tierOutside s e (lTier w) (lFar w) (farOf w x i) (lRb w)) then .ends s stBounds
  else
    match runAll (fun s i => prepareWrite s e (lTier w) (farOf w x i) (lRb w)) rows s with
    | .done s => .done (rows.foldl (fun s i => writeTierFor s e (lTier w) (farOf w x i) (scr (getCtx s e.phys) (scrOf w i) (lRb w))) s)
    | r => r

/-! ### DRAIN -/

/-- The floating-point format of a DFMT code. -/
def drainFloat : Nat → FloatFmt
  | 2 => bf16
  | 3 => fp16
  | 4 => e4m3
  | 5 => e5m2
  | _ => fp32

/-- The bytes of an entry at its destination (R76, R77). -/
def drainEntry (c : Ctx) (accf dfmt bankRow n : Nat) : List Byte :=
  let v := bankWord c bankRow n
  if dfmt = 6 then leBytes 4 v.toNat ++ leBytes 4 (bankWord c (bankRow + 1) n).toNat
  else if accf = 0 || (accf = 1 && dfmt = 1) then leBytes 4 v.toNat
  else
    let x := if accf = 2 then cfpValue v (bankWord c (bankRow + 1) n) else f32 v
    leBytes (drainBytes dfmt) (encodeF (drainFloat dfmt) x)

/-- The word an entry gives the finisher (R76). -/
def finWord (c : Ctx) (accf bankRow n : Nat) : Word :=
  if accf = 2 then w32 (cfpValue (bankWord c bankRow n) (bankWord c (bankRow + 1) n)) else bankWord c bankRow n

/-- The bank row of a DRAIN's row i. -/
def drainRow (w : IWord) (i : Nat) : Nat := dBase w + (if dAccf w = 2 then 2 * i else i)

/-- The mark of half `h` of finisher register v (07 R124). -/
def halfMark (v h : Nat) : Nat := 8192 + 2 * v + h

/-- A mark set or taken away. -/
def setMark (m : Nat) (on : Bool) (l : List Nat) : List Nat :=
  if on then (if l.contains m then l else l ++ [m]) else l.filter (fun k => k ≠ m)

/-- A DRAIN to the finisher carries the marks of its rows into the halves that would take them (07 R124). -/
def carryMarks (c : Ctx) (w : IWord) (rows : List Nat) : Ctx :=
  if dFmt w = 7 then
    { c with masked := rows.foldl (fun l i => setMark (halfMark (dVreg w + i / 2) (i % 2)) (c.masked.contains (drainRow w i)) l) c.masked }
  else c

/-- DRAIN (R107): the live rows, to scratch or to finisher registers, less those that R124 (07) leaves out; the bank does not change. -/
def runDrain (s : State) (e : Seat) (w : IWord) (x : Tbl Word) : Run :=
  let bound := liveRows x (dXi w) (dXn w) (dH w)
  let c := getCtx s e.phys
  let rows := bound.filter (fun i => !c.masked.contains (drainRow w i))
  let c' := rows.foldl (fun c' i => (List.range (dNt w)).foldl (fun c' n =>
    if dFmt w = 7 then setLane c' (dVreg w + i / 2) (128 * (i % 2) + n) (finWord c (dAccf w) (drainRow w i) n)
    else setScr c' (dDst w * 16 + (i * dStride w + n) * drainBytes (dFmt w)) (drainEntry c (dAccf w) (dFmt w) (drainRow w i) n)) c') c
  .done (modCtx s e.phys (fun _ => carryMarks c' w bound))

/-! ### REQUANT -/

/-- Store output n of a row that starts at `a` (05, the output formats; R108: a nibble leaves its neighbour). -/
def putOutput (c : Ctx) (ofmt a n : Nat) (v : Int) : Ctx :=
  if ofmt = 2 || ofmt = 3 then
    let b := (readByte c.scratch (a + n / 2)).toNat
    let q := unsigned 4 v
    setScr c (a + n / 2) [BitVec.ofNat 8 (if n % 2 = 0 then b / 16 * 16 + q else b % 16 + q * 16)]
  else if ofmt = 4 then setScr c (a + 2 * n) (leBytes 2 (unsigned 16 v))
  else setScr c (a + n) (leBytes 1 (unsigned 8 v))

/-- The INT32 input of row i, column n (R107, R108). -/
def requantIn (c : Ctx) (w : IWord) (i n : Nat) : Int :=
  if rSrc w = 0 then i32 (bankWord c (rBase w + i) n) else i32 (lane c (rVreg w + i / 2) (128 * (i % 2) + n))

/-- The mark that leaves row i of a REQUANT out (07 R124). -/
def requantMark (w : IWord) (i : Nat) : Nat := if rSrc w = 0 then rBase w + i else halfMark (rVreg w + i / 2) (i % 2)

/-- One output: computed, observed, counted when it saturates, written. -/
def requantCell (e : Seat) (w : IWord) (ofmt i n : Nat) (s : State) : State :=
  let q := e.slice
  let ch := rCh0 w + n
  let (v, sat, x) := requantOne s q (rTier w) (rRec w) ch ofmt (requantIn (getCtx s e.phys) w i n)
  let s := observe s q (rTier w) (rRec w) ch x
  let s := if sat then modCtr (countSat s q (rTier w) (rRec w) ch) e.phys (fun k => { k with sat := k.sat + 1 }) else s
  let s := modCtr s e.phys (fun k => { k with req := k.req + 1 })
  modCtx s e.phys (fun c => putOutput c ofmt (rDst w * 64 + i * rStride w * 64) n v)

/-- REQUANT (R86-R91, R108). -/
def runRequant (s : State) (e : Seat) (w : IWord) (x : Tbl Word) : Run :=
  match openRecord s e (rTier w) (rRec w) (rCh0 w) (rNt w) with
  | .done s =>
    let ofmt := recField s e.slice (rTier w) (rRec w) 15 1
    if pastScratch (rDst w * 64 + (rH w - 1) * rStride w * 64 + outSpan ofmt (rNt w)) then .ends s stBounds
    else
      let rows := (liveRows x (rXi w) (rXn w) (rH w)).filter (fun i => !(getCtx s e.phys).masked.contains (requantMark w i))
      .done (countFin (rows.foldl (fun s i => (List.range (rNt w)).foldl (fun s n => requantCell e w ofmt i n s) s) s) e.phys (min 1 (rows.length * rNt w)))
  | r => r

end Sys2Proof.Machine
end

