-- ==== Sys2Proof/Machine/Finisher.lean ====
section
/-! DEFINITION. The finisher's instructions: FVEC on vector registers, FROW on rows in scratch (05 R80-R85; 06 R109, R414). -/

namespace Sys2Proof.Machine

/-! ### FVEC -/

/-- Operand b of lane l: the register, or the immediate (06, IMMB). -/
def operandB (c : Ctx) (w : IWord) (l : Nat) : Word := if vImmb w then vImm w else lane c (vVb w) l

/-- What the marks of a vector register become when an operation writes its lanes 0 to LN − 1 (07 R124): a half computed from a half that is left out is left out too. -/
def vecMarks (w : IWord) (c : Ctx) : Ctx :=
  let srcs : List Nat := match fvecUses (vFop w) with
    | some (_, ua, ub, uc) => (if ua then [vVa w] else []) ++ (if ub && !vImmb w then [vVb w] else []) ++ (if uc then [vVc w] else [])
    | none => []
  let halves := [0, 1].filter (fun h => 128 * h < vLn w)
  { c with masked := halves.foldl (fun l h => setMark (halfMark (vVd w) h) (srcs.any (fun v => c.masked.contains (halfMark v h))) l) c.masked }

/-- An elementwise FVEC: VD's active lanes from the lanes of VA, operand b and VC. -/
def runLanes (s : State) (e : Seat) (w : IWord) (f : Word → Word → Word → Word) : Run :=
  let c := getCtx s e.phys
  let vs := (List.range (vLn w)).map (fun l => f (lane c (vVa w) l) (operandB c w l) (lane c (vVc w) l))
  .done (countFin (modCtx s e.phys (fun c => vecMarks w (setLanes c (vVd w) vs))) e.phys (min 1 (vLn w)))

/-- An FVEC reduction over LN lanes into lane 0 of VD; with no active lane nothing is written (R84). -/
def runReduce (s : State) (e : Seat) (w : IWord) (f : Word → Word → Word) : Run :=
  let c := getCtx s e.phys
  match tree f ((List.range (vLn w)).map (fun l => some (lane c (vVa w) l))) with
  | some v => .done (countFin (modCtx s e.phys (fun c => setLane { c with masked := setMark (halfMark (vVd w) 0) false c.masked } (vVd w) 0 v)) e.phys (min 1 (vLn w)))
  | none => .done (countFin s e.phys (min 1 (vLn w)))

/-- VLD: scratch into VD, widened exactly. -/
def runVld (s : State) (e : Seat) (w : IWord) : Run :=
  let c := getCtx s e.phys
  let n := fmtBytes (vFmt w)
  let vs := (List.range (vLn w)).map (fun l => widen (vFmt w) (readNat c.scratch (vAddr w * 16 + l * n) n))
  .done (countFin (modCtx s e.phys (fun c => vecMarks w (setLanes c (vVd w) vs))) e.phys (min 1 (vLn w)))

/-- VST: VA into scratch, converted. -/
def runVst (s : State) (e : Seat) (w : IWord) : Run :=
  let c := getCtx s e.phys
  let n := fmtBytes (vFmt w)
  let bs := (List.range (vLn w)).flatMap (fun l => leBytes n (narrow (vFmt w) (lane c (vVa w) l)))
  .done (countFin (modCtx s e.phys (fun c => setScr c (vAddr w * 16) bs)) e.phys (min 1 (vLn w)))

/-- QCVT, counting the NaN lanes (05, SPN_QNAN). -/
def runQcvt (s : State) (e : Seat) (w : IWord) : Run :=
  let c := getCtx s e.phys
  let nans := ((List.range (vLn w)).filter (fun l => isNaN (lane c (vVa w) l))).length
  let s := modCtr s e.phys (fun k => { k with qnan := k.qnan + nans })
  runLanes s e w (fun a _ _ => vQcvt (vF w) a)

/-- The lane function of an elementwise FVEC operation. -/
def lanesFn (w : IWord) (fop : Nat) : Word → Word → Word → Word :=
  match fop with
  | 0x08 => fun a b _ => vAdd a b
  | 0x09 => fun a b _ => vSub a b
  | 0x0A => fun a b _ => vMul a b
  | 0x0B => vFma
  | 0x0C => fun a b _ => vMax a b
  | 0x0D => fun a b _ => vMin a b
  | 0x0E => fun a _ _ => vAbs a
  | 0x0F => fun a _ _ => vNeg a
  | 0x10 => fun a _ _ => vRelu a
  | 0x11 => vClamp
  | 0x12 => vSelect
  | 0x18 => fun a _ _ => vCvt (vFmt w) a
  | 0x1A => vDeq
  | 0x20 => fun a _ _ => vRecip a
  | 0x21 => fun a _ _ => vSqrt a
  | 0x22 => fun a _ _ => vRsqrt a
  | 0x23 => fun a _ _ => vExp2 a
  | 0x24 => fun a _ _ => vLog2 a
  | 0x28 => fun a _ _ => vExp a
  | 0x29 => fun a _ _ => vSigmoid a
  | 0x2A => fun a _ _ => vTanh a
  | 0x2B => fun a _ _ => vSilu a
  | _ => fun a _ _ => vGelu a

/-- FVEC. -/
def runFvec (s : State) (e : Seat) (w : IWord) (_x : Tbl Word) : Run :=
  match vFop w with
  | 0x00 => runVld s e w
  | 0x01 => runVst s e w
  | 0x19 => runQcvt s e w
  | 0x30 => runReduce s e w vAdd
  | 0x31 => runReduce s e w vMax
  | fop => runLanes s e w (lanesFn w fop)

/-! ### FROW (R109) -/

/-- The elements of a row at a scratch address, as binary32. -/
def rowAt (c : Ctx) (fmt a n : Nat) : List Word :=
  (List.range n).map (fun i => rowElem fmt (readNat c.scratch (a + i * fmtBytes fmt) (fmtBytes fmt)))

/-- The INT8 elements of a row. -/
def intsAt (c : Ctx) (a n : Nat) : List Int := (List.range n).map (fun i => signed 8 (readByte c.scratch (a + i)).toNat)

/-- A distance of two vectors in scratch: 8 L2SQ, 9 IP, 10 COS (R85). -/
def distanceOf (c : Ctx) (fop fmt a b n : Nat) : Word :=
  if fmt = 6 then
    let x := intsAt c a n
    let y := intsAt c b n
    if fop = 8 then l2I x y else if fop = 9 then ipI x y else cosOf (ipI x y) (ipI x x) (ipI y y)
  else
    let x := rowAt c fmt a n
    let y := rowAt c fmt b n
    if fop = 8 then l2F x y else if fop = 9 then ipF x y else cosOf (ipF x y) (ipF x x) (ipF y y)

/-- The bytes that row `r` of an FROW writes, and where. -/
def frowOut (c : Ctx) (w : IWord) (x : Tbl Word) (r : Nat) : Nat × List Byte :=
  let n := wN w
  let src := wSrc w * 64 + r * wRstride w * fmtBytes (wSfmt w)
  let dst := wDst w * 64 + r * wRstride w * fmtBytes (wDfmt w)
  let one : Nat := wDst w * 64 + 4 * r
  let row := rowAt c (wSfmt w) src n
  let put : List Word → List Byte := fun ys => ys.flatMap (fun y => leBytes (fmtBytes (wDfmt w)) (narrowF (wDfmt w) y))
  let aux := rowAt c 0 (wAux w * 64) n
  match wFop w with
  | 0 => (dst, put (rowSoftmax row))
  | 1 => (dst, put (rowRmsnorm row aux (readX x (wXe w))))
  | 2 => (dst, put (rowLayernorm row aux (rowAt c 0 (auxB w) n) (readX x (wXe w))))
  | 3 => (one, leBytes 4 (redSum row).toNat)
  | 4 => (one, leBytes 4 (redMax row).toNat)
  | fop => (one, leBytes 4 (distanceOf c fop (wSfmt w) src (wAux w * 64) n).toNat)

/-- FROW: the live rows in order; the device reads each row before it writes it. -/
def runFrow (s : State) (e : Seat) (w : IWord) (x : Tbl Word) : Run :=
  let rows := liveRows x (wXi w) (wXn w) (wRows w)
  let s := modCtx s e.phys (fun c => rows.foldl (fun c r => setScr c (frowOut c w x r).1 (frowOut c w x r).2) c)
  .done (countFin s e.phys (min 1 rows.length))

end Sys2Proof.Machine
end

