-- ==== Sys2Proof/Machine/Sequencer.lean ====
section
/-! DEFINITION. The sequencer (06): issue in program order, hazards, semaphores and work counters, program errors; the commands of the step-program
instructions. A command is presented for the instruction at its rank's program position; at any other moment it has no effect (log entries 2, 8). -/

namespace Sys2Proof.Machine

/-! ### Completion of classes and pending signals (R111, R114) -/

/-- Every instruction of the classes `cls` with a serial below `before` is complete. -/
def classesDone (c : Ctx) (cls before : Nat) : Bool :=
  !(c.issued.any (fun i => i.serial < before && bit cls (unitOf (opcodeOf i.w)))) &&
  !(bit cls 1 && c.bandq.any (fun b => b.serial < before))

/-- Semaphore `n` of a slice. -/
def semValue (s : State) (q n : Nat) : Nat :=
  match lookup s.slices q with
  | some x => readD 0 x.sems n
  | none => 0

/-- The pending SIGNAL `g` may take effect (R114). -/
def sigReady (c : Ctx) (g : PendSig) : Bool := classesDone c g.rel g.serial

/-- A SIGNAL would carry its semaphore past 2^32 − 1, or releases a hold its job does not have (R114, R117). -/
def sigBad (s : State) (e : Seat) (g : PendSig) : Bool :=
  semValue s e.slice g.sem + g.n > 0xFFFFFFFF ||
  (g.hold && ((lookup s.jobs e.job).map (fun j => readD 0 j.holds g.sem)).getD 0 = 0)

/-- The effect of a SIGNAL (R114, R117). -/
def applySig (s : State) (e : Seat) (g : PendSig) : State :=
  let s := modSlice s e.slice (fun x => { x with sems := writeD 0 x.sems g.sem (readD 0 x.sems g.sem + g.n) })
  if g.hold then modJob s e.job (fun j => { j with holds := writeD 0 j.holds g.sem (readD 0 j.holds g.sem - 1) }) else s

/-- The seats of a job's running ranks, in rank order. -/
def seatsOf (s : State) (jid : Nat) : List Seat :=
  match lookup s.jobs jid with
  | some j => j.spindles.filterMap (fun l => (seatOf s l).filter (fun e => e.job = jid))
  | none => []

/-- The pending SIGNALs of a rank that a program error lets complete: those, in order, whose classes are complete (R121). -/
def drainSigs (e : Seat) : List PendSig → State → State
  | [], s => s
  | g :: t, s => if sigReady (getCtx s e.phys) g && !sigBad s e g then drainSigs e t (applySig s e g) else s

/-! ### Hazards (R97, R112) -/

/-- An instruction of the array unit. -/
def isMatrix (w : IWord) : Bool := opcodeOf w = opMatmul || opcodeOf w = opConv

/-- The footprint of an issued instruction. -/
def issuedAccess (i : Issued) : List Access := accesses i.w (readX i.x (rowReg i.w)).toNat

/-- The source range of a BAND_RECV not yet received. -/
def reqAccess (b : BandReq) : List Access :=
  if b.tier = 3 then []
  else [{ space := b.tier, lo := b.src * 64 + b.first * blockStride b.wfmt, hi := b.src * 64 + (b.first + b.nb) * blockStride b.wfmt, wr := false }]

/-- An instruction must wait for one of `earlier`: the same unit, or a conflicting access. -/
def blockedBy (w : IWord) (acc : List Access) (earlier : List Issued) : Bool :=
  earlier.any (fun i => unitOf (opcodeOf i.w) = unitOf (opcodeOf w) || anyConflict acc (issuedAccess i))

/-- The blocks of a matrix instruction are in the queue. -/
def blocksReady (c : Ctx) (w : IWord) : Bool := !isMatrix w || mNb w ≤ c.blocks.length

/-- Run an instruction whose hazards are clear. -/
def runInstr (s : State) (e : Seat) (w : IWord) (x : Tbl Word) : Run :=
  let o := opcodeOf w
  if o = opMatmul then runMatmul s e w x
  else if o = opConv then runConv s e w x
  else if o = opLoad then runLoad s e w x
  else if o = opStore then runStore s e w x
  else if o = opDrain then runDrain s e w x
  else if o = opRequant then runRequant s e w x
  else if o = opFvec then runFvec s e w x
  else runFrow s e w x

/-- A program error is noted: the job ends with the first one's status and DETAIL once what it has issued is complete (R121). A step that a freeze is stopping can still
meet one (10 R196). -/
def noteError (s : State) (jid status rank idx where_ : Nat) : State :=
  modJob s jid (fun j => if j.failing.all (fun f => f.1 = stSplit) then { j with failing := some (status, progDetail idx rank where_) } else j)

/-- Start the issued instructions whose hazards have cleared, in issue order; `kept` are the earlier ones that still wait. One that ends its job is complete without
effect. -/
def settleGo (e : Seat) : List Issued → List Issued → State → State
  | [], kept, s => modCtx s e.phys (fun c => { c with issued := kept })
  | i :: t, kept, s =>
    let pendingReads := (getCtx s e.phys).bandq.any (fun b => b.serial < i.serial && anyConflict (issuedAccess i) (reqAccess b))
    if blockedBy i.w (issuedAccess i) kept || pendingReads || !blocksReady (getCtx s e.phys) i.w then settleGo e t (kept ++ [i]) s
    else
      match runInstr s e i.w i.x with
      | .done s => settleGo e t kept s
      | .wait s => settleGo e t (kept ++ [i]) s
      | .ends s st => settleGo e t kept (noteError s e.job st e.rank i.at_ 2)

/-- Start what can start on a seat, whatever that comes to for its job. -/
def settleSeat (s : State) (e : Seat) : State := settleGo e (getCtx s e.phys).issued [] s

/-! ### Broadcasts under way (R104; 03 R44) -/

/-- Bytes of a block with its side field. -/
def blockBytes (wfmt : Nat) : Nat :=
  weightBytes wfmt + (if wfmt ≤ 3 then 128 else if wfmt = 9 then 1024 else if isMx wfmt then 512 else 0)

/-- Where block n of a broadcast lies in its source. -/
def blockAt (r : BandReq) (n : Nat) : Nat :=
  (if r.tier = 3 then r.src % 2 ^ 34 * 64 else r.src * 64) + (r.first + n) * blockStride r.wfmt

/-- Two requests name the same broadcast (R104). -/
def sameBroadcast (a b : BandReq) : Bool :=
  a.band = b.band && a.wfmt = b.wfmt && a.set = b.set && a.tier = b.tier && a.src = b.src && a.nb = b.nb && a.first = b.first

/-- The blocks that the array takes as they come: those of the first issued matrix instruction, once nothing but its blocks keeps it waiting (03 R45). -/
def absorbed (c : Ctx) : Nat :=
  match c.issued.findIdx? (fun i => isMatrix i.w) with
  | some k =>
    match c.issued[k]? with
    | some i =>
      if (c.issued.take k).any (fun f => anyConflict (issuedAccess i) (issuedAccess f)) ||
          c.bandq.any (fun b => b.serial < i.serial && anyConflict (issuedAccess i) (reqAccess b)) then 0
      else mNb i.w
    | none => 0
  | none => 0

/-- A complete block waits in the shadow plane (03 R44). -/
def shadowFull (c : Ctx) : Bool := decide (absorbed c < c.blocks.length)

/-- A rank receives one block of its request; the last one takes the request out of its band queue. -/
def receive (s : State) (e : Seat) (k : Block) : State :=
  modSpn s e.phys (fun x =>
    match x.ctx.bandq with
    | b :: t =>
      { x with band := b.band, ctx := { x.ctx with bandq := if b.got + 1 < b.nb then { b with got := b.got + 1 } :: t else t, blocks := x.ctx.blocks ++ [(b.at_, k)] } }
    | [] => x)

/-- Deliver the next `n` blocks of broadcast `r`, from number `k` on, to its receivers, each block read once; what waits for a block starts, and the next one follows
once every receiver has room (R11, R104; 03 R44). A failing job's receivers always have room. -/
def deliver (e : Seat) (r : BandReq) (es : List Seat) : Nat → Nat → State → State
  | 0, _, s => s
  | n + 1, k, s =>
    let failing := (lookup s.jobs e.job).any (fun j => j.failing.isSome)
    if !failing && es.any (fun d => shadowFull (getCtx s d.phys)) then s
    else
      match readTierFor s e r.tier r.src (blockAt r k) (blockStride r.wfmt) with
      | .bytes s bs =>
        let s := es.foldl (fun s d => receive s d { wfmt := r.wfmt, data := bs.take (blockBytes r.wfmt) }) s
        let s := charge s e.slice (fun m => { m with band := m.band + weightBytes r.wfmt })
        deliver e r es n (k + 1) (es.foldl settleSeat s)
      | .wait s => s
      | .ends s st =>
        let at_ := (((getCtx s e.phys).bandq.head?).map BandReq.at_).getD 0
        es.foldl (fun s d => modCtx s d.phys (fun c => { c with bandq := c.bandq.drop 1 })) (noteError s e.job st e.rank at_ 2)

/-- The seats that are receiving broadcast `r`. -/
def receiving (s : State) (jid : Nat) (r : BandReq) : List Seat :=
  (seatsOf s jid).filter (fun d => ((getCtx s d.phys).bandq.head?).any (fun b => b.got ≠ 0 && sameBroadcast b r))

/-! ### The end of a job by a program error (R121) -/

/-- Take away what a program error cancels on a spindle: broadcasts not started, and the matrix instructions that the blocks still to come do not reach. -/
def cancelStarved : Nat → List Issued → List Issued
  | _, [] => []
  | n, i :: t => if isMatrix i.w then (if mNb i.w ≤ n then i :: cancelStarved (n - mNb i.w) t else cancelStarved 0 t) else i :: cancelStarved n t

/-- A rank context without what a program error cancels. -/
def cancelBand (c : Ctx) : Ctx :=
  let q := c.bandq.filter (fun b => b.got ≠ 0)
  { c with bandq := q, issued := cancelStarved (c.blocks.length + (q.map (fun b => b.nb - b.got)).sum) c.issued }

/-- A failing job's broadcast under way is carried to its end. -/
def finishBroadcast (s : State) (e : Seat) : State :=
  match (getCtx s e.phys).bandq with
  | b :: _ => if b.got ≠ 0 then deliver e b (receiving s e.job b) (b.nb - b.got) b.got s else s
  | [] => s

/-- What a job has issued runs as far as it can; broadcasts not started are cancelled. -/
def drainJob (s : State) (jid : Nat) : State :=
  let s := (seatsOf s jid).foldl (fun s e => modCtx s e.phys cancelBand) s
  let s := (seatsOf s jid).foldl finishBroadcast s
  (seatsOf s jid).foldl settleSeat s

/-- Nothing that the job has issued is still to complete. -/
def drained (s : State) (jid : Nat) : Bool :=
  (seatsOf s jid).all (fun e => (getCtx s e.phys).issued.isEmpty && (getCtx s e.phys).bandq.isEmpty)

/-- The job has met a program error. -/
def isFailing (s : State) (jid : Nat) : Bool := (lookup s.jobs jid).any (fun j => j.failing.isSome)

/-- A job that has met a program error: what it has issued runs to completion; then its pending SIGNALs whose classes are complete take effect, its records are
folded and released, and it completes with the first error (R121). A step that a freeze stops comes to rest the same way, and nothing is folded (10 R196). -/
def endFailed (s : State) (jid : Nat) : State :=
  if !isFailing s jid then s
  else
    let s := drainJob s jid
    match (lookup s.jobs jid).bind Job.failing with
    | some (st, det) =>
      if drained s jid then
        let s := (seatsOf s jid).foldl (fun s e => drainSigs e (getCtx s e.phys).sigs s) s
        if st = stSplit then s else endJob (foldRecords s jid) jid st det 0
      else s
    | none => s

/-- A program error ends its job (R121): no rank issues any more, and the job ends once what it has issued is complete. -/
def programError (s : State) (jid status rank idx where_ : Nat) : State := endFailed (noteError s jid status rank idx where_) jid

/-- Start what can start on a seat. -/
def settle (s : State) (e : Seat) : State := endFailed (settleSeat s e) e.job

/-! ### Program position -/

/-- The position after the instruction at `pos`: the end of a loop body goes back to its WORK (R118). -/
def nextPos (c : Ctx) : Nat :=
  match c.loop with
  | some l => if c.pos + 1 = l.at_ + 1 + l.body then l.at_ else c.pos + 1
  | none => c.pos + 1

/-- The rank's next instruction. -/
def advance (s : State) (e : Seat) : State := modCtx s e.phys (fun c => { c with pos := nextPos c, serial := c.serial + 1 })

/-- Present an instruction to the sequencer of logical spindle `sp`: the row's operation must be `w`'s, and `w` the instruction at the rank's position. What
was issued before and can start, starts first. -/
def present (s : State) (sp : Nat) (w : IWord) (sel : Bool) (go : Seat → State → State) : State :=
  if !sel then s
  else
    match seatOf s sp with
    | none => s
    | some e =>
      let s := settle s e
      match seatOf s sp, lookup s.jobs e.job with
      | some _, some j => if j.failing.isNone && (progOf s j e.rank)[(getCtx s e.phys).pos]? = some w then go e s else s
      | _, _ => s

/-! ### Issue of the unit instructions -/

/-- The formats of the blocks requested and not consumed by issued matrix instructions, in order (R105). -/
def unclaimed (c : Ctx) : List Nat :=
  let all := c.blocks.map (fun b => b.2.wfmt) ++ c.bandq.flatMap (fun b => List.replicate (b.nb - b.got) b.wfmt)
  all.drop ((c.issued.filter (fun i => isMatrix i.w)).map (fun i => mNb i.w)).sum

/-- A matrix instruction asks for more blocks than are requested, or of another format (R105). -/
def countBad (c : Ctx) (w : IWord) : Bool :=
  isMatrix w && (let l := (unclaimed c).take (mNb w); l.length < mNb w || l.any (fun f => f ≠ mWfmt w))

/-- The unit's queue of 8, or the 32 footprints, are full: issue stops (R97, R112). -/
def queueFull (c : Ctx) (w : IWord) : Bool :=
  (c.issued.filter (fun i => unitOf (opcodeOf i.w) = unitOf (opcodeOf w))).length ≥ 8 || c.issued.length ≥ 32

/-- An instruction joins its unit's queue with its registers as they read now, unless the queue is full; then issue stops (R97, R98). -/
def enqueueUnit (w : IWord) (e : Seat) (s : State) : State :=
  let c := getCtx s e.phys
  if queueFull c w then s
  else advance (modCtx s e.phys (fun c => { c with issued := c.issued ++ [{ at_ := c.pos, w := w, x := c.x, serial := c.serial }] })) e

/-- Issue an instruction of the array, mover, port or finisher unit: it starts at once, or waits in its queue for its hazards, its blocks or the memory it reaches. -/
def issueUnit (w : IWord) (e : Seat) (s : State) : State :=
  let c := getCtx s e.phys
  if countBad c w then programError s e.job stBounds e.rank c.pos 1
  else
    let acc := accesses w (readX c.x (rowReg w)).toNat
    if blockedBy w acc c.issued || c.bandq.any (fun b => anyConflict acc (reqAccess b)) || !blocksReady c w then enqueueUnit w e s
    else
      match runInstr s e w c.x with
      | .done s => advance s e
      | .wait s => enqueueUnit w e s
      | .ends s st => programError s e.job st e.rank c.pos 2

/-- MATMUL. -/
def execMatmul (sp : Fin 48) (w : IWord) (s : State) : Host.Outcome State Fault Refusal :=
  .next (present s sp.val w (opcodeOf w = opMatmul) (issueUnit w))
/-- CONV. -/
def execConv (sp : Fin 48) (w : IWord) (s : State) : Host.Outcome State Fault Refusal :=
  .next (present s sp.val w (opcodeOf w = opConv) (issueUnit w))
/-- LOAD. -/
def execLoad (sp : Fin 48) (w : IWord) (s : State) : Host.Outcome State Fault Refusal :=
  .next (present s sp.val w (opcodeOf w = opLoad) (issueUnit w))
/-- STORE. -/
def execStore (sp : Fin 48) (w : IWord) (s : State) : Host.Outcome State Fault Refusal :=
  .next (present s sp.val w (opcodeOf w = opStore) (issueUnit w))
/-- DRAIN. -/
def execDrain (sp : Fin 48) (w : IWord) (s : State) : Host.Outcome State Fault Refusal :=
  .next (present s sp.val w (opcodeOf w = opDrain) (issueUnit w))
/-- REQUANT. -/
def execRequant (sp : Fin 48) (w : IWord) (s : State) : Host.Outcome State Fault Refusal :=
  .next (present s sp.val w (opcodeOf w = opRequant) (issueUnit w))

/-- An FVEC with that FOP. -/
def isFvec (w : IWord) (fop : Nat) : Bool := opcodeOf w = opFvec && vFop w = fop

/-- An FROW with that FOP. -/
def isFrow (w : IWord) (fop : Nat) : Bool := opcodeOf w = opFrow && wFop w = fop

/-- FVEC VLD. -/
def execVld (sp : Fin 48) (w : IWord) (s : State) : Host.Outcome State Fault Refusal :=
  .next (present s sp.val w (isFvec w 0x00) (issueUnit w))
/-- FVEC VST. -/
def execVst (sp : Fin 48) (w : IWord) (s : State) : Host.Outcome State Fault Refusal :=
  .next (present s sp.val w (isFvec w 0x01) (issueUnit w))
/-- FVEC ADD. -/
def execAdd (sp : Fin 48) (w : IWord) (s : State) : Host.Outcome State Fault Refusal :=
  .next (present s sp.val w (isFvec w 0x08) (issueUnit w))
/-- FVEC SUB. -/
def execSub (sp : Fin 48) (w : IWord) (s : State) : Host.Outcome State Fault Refusal :=
  .next (present s sp.val w (isFvec w 0x09) (issueUnit w))
/-- FVEC MUL. -/
def execMul (sp : Fin 48) (w : IWord) (s : State) : Host.Outcome State Fault Refusal :=
  .next (present s sp.val w (isFvec w 0x0a) (issueUnit w))
/-- FVEC FMA. -/
def execFma (sp : Fin 48) (w : IWord) (s : State) : Host.Outcome State Fault Refusal :=
  .next (present s sp.val w (isFvec w 0x0b) (issueUnit w))
/-- FVEC MAX. -/
def execMax (sp : Fin 48) (w : IWord) (s : State) : Host.Outcome State Fault Refusal :=
  .next (present s sp.val w (isFvec w 0x0c) (issueUnit w))
/-- FVEC MIN. -/
def execMin (sp : Fin 48) (w : IWord) (s : State) : Host.Outcome State Fault Refusal :=
  .next (present s sp.val w (isFvec w 0x0d) (issueUnit w))
/-- FVEC ABS. -/
def execAbs (sp : Fin 48) (w : IWord) (s : State) : Host.Outcome State Fault Refusal :=
  .next (present s sp.val w (isFvec w 0x0e) (issueUnit w))
/-- FVEC NEG. -/
def execNeg (sp : Fin 48) (w : IWord) (s : State) : Host.Outcome State Fault Refusal :=
  .next (present s sp.val w (isFvec w 0x0f) (issueUnit w))
/-- FVEC RELU. -/
def execRelu (sp : Fin 48) (w : IWord) (s : State) : Host.Outcome State Fault Refusal :=
  .next (present s sp.val w (isFvec w 0x10) (issueUnit w))
/-- FVEC CLAMP. -/
def execClamp (sp : Fin 48) (w : IWord) (s : State) : Host.Outcome State Fault Refusal :=
  .next (present s sp.val w (isFvec w 0x11) (issueUnit w))
/-- FVEC SELECT. -/
def execSelect (sp : Fin 48) (w : IWord) (s : State) : Host.Outcome State Fault Refusal :=
  .next (present s sp.val w (isFvec w 0x12) (issueUnit w))
/-- FVEC CVT. -/
def execCvt (sp : Fin 48) (w : IWord) (s : State) : Host.Outcome State Fault Refusal :=
  .next (present s sp.val w (isFvec w 0x18) (issueUnit w))
/-- FVEC QCVT. -/
def execQcvt (sp : Fin 48) (w : IWord) (s : State) : Host.Outcome State Fault Refusal :=
  .next (present s sp.val w (isFvec w 0x19) (issueUnit w))
/-- FVEC DEQ. -/
def execDeq (sp : Fin 48) (w : IWord) (s : State) : Host.Outcome State Fault Refusal :=
  .next (present s sp.val w (isFvec w 0x1a) (issueUnit w))
/-- FVEC RECIP. -/
def execRecip (sp : Fin 48) (w : IWord) (s : State) : Host.Outcome State Fault Refusal :=
  .next (present s sp.val w (isFvec w 0x20) (issueUnit w))
/-- FVEC SQRT. -/
def execSqrt (sp : Fin 48) (w : IWord) (s : State) : Host.Outcome State Fault Refusal :=
  .next (present s sp.val w (isFvec w 0x21) (issueUnit w))
/-- FVEC RSQRT. -/
def execRsqrt (sp : Fin 48) (w : IWord) (s : State) : Host.Outcome State Fault Refusal :=
  .next (present s sp.val w (isFvec w 0x22) (issueUnit w))
/-- FVEC EXP2. -/
def execExp2 (sp : Fin 48) (w : IWord) (s : State) : Host.Outcome State Fault Refusal :=
  .next (present s sp.val w (isFvec w 0x23) (issueUnit w))
/-- FVEC LOG2. -/
def execLog2 (sp : Fin 48) (w : IWord) (s : State) : Host.Outcome State Fault Refusal :=
  .next (present s sp.val w (isFvec w 0x24) (issueUnit w))
/-- FVEC EXP. -/
def execExp (sp : Fin 48) (w : IWord) (s : State) : Host.Outcome State Fault Refusal :=
  .next (present s sp.val w (isFvec w 0x28) (issueUnit w))
/-- FVEC SIGMOID. -/
def execSigmoid (sp : Fin 48) (w : IWord) (s : State) : Host.Outcome State Fault Refusal :=
  .next (present s sp.val w (isFvec w 0x29) (issueUnit w))
/-- FVEC TANH. -/
def execTanh (sp : Fin 48) (w : IWord) (s : State) : Host.Outcome State Fault Refusal :=
  .next (present s sp.val w (isFvec w 0x2a) (issueUnit w))
/-- FVEC SILU. -/
def execSilu (sp : Fin 48) (w : IWord) (s : State) : Host.Outcome State Fault Refusal :=
  .next (present s sp.val w (isFvec w 0x2b) (issueUnit w))
/-- FVEC GELU. -/
def execGelu (sp : Fin 48) (w : IWord) (s : State) : Host.Outcome State Fault Refusal :=
  .next (present s sp.val w (isFvec w 0x2c) (issueUnit w))
/-- FVEC REDSUM. -/
def execRedsum (sp : Fin 48) (w : IWord) (s : State) : Host.Outcome State Fault Refusal :=
  .next (present s sp.val w (isFvec w 0x30) (issueUnit w))
/-- FVEC REDMAX. -/
def execRedmax (sp : Fin 48) (w : IWord) (s : State) : Host.Outcome State Fault Refusal :=
  .next (present s sp.val w (isFvec w 0x31) (issueUnit w))
/-- FROW SOFTMAX. -/
def execSoftmax (sp : Fin 48) (w : IWord) (s : State) : Host.Outcome State Fault Refusal :=
  .next (present s sp.val w (isFrow w 0x00) (issueUnit w))
/-- FROW RMSNORM. -/
def execRmsnorm (sp : Fin 48) (w : IWord) (s : State) : Host.Outcome State Fault Refusal :=
  .next (present s sp.val w (isFrow w 0x01) (issueUnit w))
/-- FROW LAYERNORM. -/
def execLayernorm (sp : Fin 48) (w : IWord) (s : State) : Host.Outcome State Fault Refusal :=
  .next (present s sp.val w (isFrow w 0x02) (issueUnit w))
/-- FROW REDSUM. -/
def execFrowRedsum (sp : Fin 48) (w : IWord) (s : State) : Host.Outcome State Fault Refusal :=
  .next (present s sp.val w (isFrow w 0x03) (issueUnit w))
/-- FROW REDMAX. -/
def execFrowRedmax (sp : Fin 48) (w : IWord) (s : State) : Host.Outcome State Fault Refusal :=
  .next (present s sp.val w (isFrow w 0x04) (issueUnit w))
/-- FROW L2SQ. -/
def execL2sq (sp : Fin 48) (w : IWord) (s : State) : Host.Outcome State Fault Refusal :=
  .next (present s sp.val w (isFrow w 0x08) (issueUnit w))
/-- FROW IP. -/
def execIp (sp : Fin 48) (w : IWord) (s : State) : Host.Outcome State Fault Refusal :=
  .next (present s sp.val w (isFrow w 0x09) (issueUnit w))
/-- FROW COS. -/
def execCos (sp : Fin 48) (w : IWord) (s : State) : Host.Outcome State Fault Refusal :=
  .next (present s sp.val w (isFrow w 0x0a) (issueUnit w))

/-! ### The band (R104, R105) -/

/-- The next place in the order of the device's BAND_RECVs: past every one not wholly received. -/
def nextStamp (s : State) : Nat := (s.spindles.flatMap (fun x => x.2.ctx.bandq.map (fun b => b.stamp + 1))).foldl max 0

/-- BAND_RECV: issued into the band queue, to wait for its broadcast (R104). -/
def issueBand (w : IWord) (e : Seat) (s : State) : State :=
  let c := getCtx s e.phys
  if c.bandq.length ≥ 8 then s
  else
    let r : BandReq := { at_ := c.pos, band := bBand w, wfmt := bWfmt w, set := bSet w, tier := bTier w, src := bSrc w, nb := bNb w,
                         first := (readX c.x (bXi w)).toNat, got := 0, serial := c.serial, since := s.clock, stamp := nextStamp s }
    advance (modCtx s e.phys (fun c => { c with bandq := c.bandq ++ [r] })) e

/-- BAND_RECV. -/
def execBandRecv (sp : Fin 48) (w : IWord) (s : State) : Host.Outcome State Fault Refusal :=
  .next (present s sp.val w (opcodeOf w = opBandRecv) (issueBand w))

/-- The seats of a broadcast that can start: every rank of SET, with that request at the head of its band queue and no earlier conflicting store waiting; none while
one is missing (R104, R112). -/
def receivers (s : State) (jid : Nat) (r : BandReq) : Option (List Seat) :=
  match lookup s.jobs jid with
  | none => none
  | some j =>
    let ready : Nat → Option Seat := fun k =>
      match (j.spindles[k]?).bind (fun l => seatOf s l) with
      | some e =>
        let c := getCtx s e.phys
        match c.bandq with
        | b :: _ =>
          if sameBroadcast b r && !(c.issued.any (fun i => i.serial < b.serial && anyConflict (issuedAccess i) (reqAccess b))) then some e else none
        | [] => none
      | none => none
    let want := (List.range 48).filter (fun k => bit r.set k)
    let got := want.filterMap ready
    if got.length = want.length then some got else none

/-- When a broadcast became complete: the last of its BAND_RECVs to be issued (R104). -/
def completedAt (s : State) (es : List Seat) : Nat := (es.map (fun e => (((getCtx s e.phys).bandq.head?).map BandReq.stamp).getD 0)).foldl max 0

/-- The requests at the heads of the band queues of every running rank, each with its job. -/
def headRequests (s : State) : List (Nat × BandReq) :=
  s.jobs.flatMap (fun j => (seatsOf s j.1).filterMap (fun e => ((getCtx s e.phys).bandq.head?).map (fun b => (j.1, b))))

/-- The band serves another broadcast first: one under way, or one that can start and became complete earlier (R104). Commands come one at a time, so no two become
complete together (log entry 37). -/
def bandBusy (s : State) (jid : Nat) (r : BandReq) (at_ : Nat) : Bool :=
  (headRequests s).any (fun h => h.2.band = r.band && !(h.1 = jid && sameBroadcast h.2 r) &&
    (h.2.got ≠ 0 || (receivers s h.1 h.2).any (fun es => completedAt s es < at_)))

/-- The broadcast at the head of spindle `sp`'s band queue. It starts once every rank of its set has issued it and its band is free for it; its blocks
are read once each and reach every receiver while all have room, and presented again it goes on (R11, R104; 03 R44). -/
def startBroadcast (s : State) (sp : Nat) : State :=
  match seatOf s sp with
  | none => s
  | some e =>
    match (getCtx s e.phys).bandq with
    | [] => s
    | r :: _ =>
      let s := (seatsOf s e.job).foldl settleSeat s
      if r.got ≠ 0 then
        let es := receiving s e.job r
        endFailed (deliver ((es.head?).getD e) r es (r.nb - r.got) r.got s) e.job
      else
        match receivers s e.job r with
        | none => endFailed s e.job
        | some es =>
          let lowest := (es.head?).getD e
          let at_ := (((getCtx s lowest.phys).bandq.head?).map BandReq.at_).getD 0
          if isFailing s e.job || bandBusy s e.job r (completedAt s es) then endFailed s e.job
          else if (List.range r.nb).any (fun n => tierOutside s e r.tier r.src (blockAt r n) (blockStride r.wfmt)) then
            programError s e.job stBounds lowest.rank at_ 2
          else endFailed (deliver lowest r es r.nb 0 s) e.job

/-- BROADCAST_START, named by one of its spindles. -/
def execBroadcastStart (sp : Fin 48) (s : State) : Host.Outcome State Fault Refusal := .next (startBroadcast s sp.val)

/-! ### Semaphores (R114-R117, R324) -/

/-- SIGNAL: pending until its classes complete; a 65th stops issue (R114). -/
def issueSignal (w : IWord) (e : Seat) (s : State) : State :=
  let c := getCtx s e.phys
  if c.sigs.length ≥ 64 then s
  else
    let g : PendSig := { at_ := c.pos, sem := sSem w, n := sN w, hold := sHold w, rel := sRel w, serial := c.serial }
    advance (modCtx s e.phys (fun c => { c with sigs := c.sigs ++ [g] })) e

/-- SIGNAL. -/
def execSignal (sp : Fin 48) (w : IWord) (s : State) : Host.Outcome State Fault Refusal :=
  .next (present s sp.val w (opcodeOf w = opSignal) (issueSignal w))

/-- SIGNAL_EFFECT: the oldest pending SIGNAL of a rank takes effect once its classes are complete (R114, R117). -/
def execSignalEffect (sp : Fin 48) (s : State) : Host.Outcome State Fault Refusal :=
  match seatOf s sp.val with
  | none => .next s
  | some e =>
    let s := settle s e
    if (seatOf s sp.val).isNone then .next s
    else
      match (getCtx s e.phys).sigs with
      | [] => .next s
      | g :: t =>
        if isFailing s e.job || !sigReady (getCtx s e.phys) g then .next s
        else if sigBad s e g then .next (programError s e.job stBounds e.rank g.at_ 2)
        else .next (applySig (modCtx s e.phys (fun c => { c with sigs := t })) e g)

/-- A job that holds the semaphore and none of whose ranks is dispatched (R324). -/
def idleHolder (s : State) (q sem : Nat) : Bool :=
  s.jobs.any (fun j => j.2.slice = q && readD 0 j.2.holds sem ≠ 0 && jobIdle j.2)

/-- SEM_BLOCKED's DETAIL (R324). -/
def semBlockedDetail (sem place : Nat) : Nat := sem + place * 4096

/-- A rank yields at its WAIT: the records it used are folded, its context goes to 6 held pages, its spindle is free (R93, R116, R317, R321). Without the pages it waits
in place. -/
def yieldRank (s : State) (e : Seat) (sem : Nat) : State :=
  let c := getCtx s e.phys
  if !c.issued.isEmpty || !c.bandq.isEmpty || !c.sigs.isEmpty || !mayHold s e.slice 6 then s
  else
    match obtainPages s e.slice 6 with
    | .got s =>
      let aff := ((lookup s.jobs e.job).map (fun j => j.skeins.filter (fun h => h ≠ 0xFFFFFFFF))).getD []
      let s := foldRank s e.job e.rank
      let s := modJob s e.job (fun j =>
        { j with saved := insertKey j.saved e.rank c, rankStates := j.rankStates.set e.rank .yielded, touched := j.touched.filter (fun t => t.1 ≠ e.rank) })
      let s := modSpn s e.phys (fun x => { x with rank := none, ctx := leaveCtx x.ctx, affinity := aff })
      if idleHolder s e.slice sem then postSliceEvent s 0x70 e.slice (semBlockedDetail sem e.place) else s
    | _ => s

/-- WAIT: passes when the value is at least N; otherwise the rank yields outside a draft and waits in place inside one (R115-R117). -/
def issueWait (w : IWord) (e : Seat) (s : State) : State :=
  let v := semValue s e.slice (sSem w)
  if sN w ≤ v then
    let s := if sKeep w then s else modSlice s e.slice (fun x => { x with sems := writeD 0 x.sems (sSem w) (v - sN w) })
    let s := if sHold w then modJob s e.job (fun j => { j with holds := writeD 0 j.holds (sSem w) (readD 0 j.holds (sSem w) + 1) }) else s
    advance s e
  else if ((lookup s.jobs e.job).bind Job.draft).isSome then s
  else yieldRank s e (sSem w)

/-- WAIT. -/
def execWait (sp : Fin 48) (w : IWord) (s : State) : Host.Outcome State Fault Refusal :=
  .next (present s sp.val w (opcodeOf w = opWait) (issueWait w))

/-! ### Work counters and loops (R118, R119) -/

/-- Leave a WORK loop: X[XD] reads all ones, the position goes past the body. -/
def leaveLoop (w : IWord) (e : Seat) (s : State) : State :=
  modCtx s e.phys (fun c => { c with x := writeX c.x (kXd w) 0xFFFFFFFF, loop := none, pos := c.pos + 1 + kBody w, serial := c.serial + 1 })

/-- Enter the body of a WORK loop with tile index t. -/
def enterLoop (w : IWord) (t next : Nat) (e : Seat) (s : State) : State :=
  modCtx s e.phys (fun c =>
    { c with x := writeX c.x (kXd w) (BitVec.ofNat 32 (t * kScale w)), loop := some { at_ := c.pos, body := kBody w, t := next },
             pos := c.pos + 1, serial := c.serial + 1 })

/-- WORK, mode LOCAL: the tile index starts at X[XS] and rises by STRIDE until its row reaches X[XL]. -/
def workLocalGo (w : IWord) (e : Seat) (s : State) : State :=
  let c := getCtx s e.phys
  let t := match c.loop with
    | some l => l.t
    | none => (readX c.x (kXs w)).toNat
  if t * kScale w ≥ (readX c.x (kXl w)).toNat then leaveLoop w e s else enterLoop w t (t + kStride w) e s

/-- WORK, mode COUNTER: fetch_and_add of the counter. -/
def workCounterGo (w : IWord) (e : Seat) (s : State) : State :=
  match lookup s.slices e.slice with
  | none => s
  | some x =>
    let v := readD 0 x.ctrValue (kCtr w)
    if v ≥ readD 0 x.ctrLimit (kCtr w) then leaveLoop w e s
    else enterLoop w v 0 e (modSlice s e.slice (fun x => { x with ctrValue := writeD 0 x.ctrValue (kCtr w) (v + 1) }))

/-- WORK, mode INIT. -/
def workInitGo (w : IWord) (e : Seat) (s : State) : State :=
  let n := (readX (getCtx s e.phys).x (kXl w)).toNat
  advance (modSlice s e.slice (fun x =>
    { x with ctrValue := writeD 0 x.ctrValue (kCtr w) 0, ctrLimit := writeD 0 x.ctrLimit (kCtr w) (ceilDiv n (kScale w)) })) e

/-- WORK in mode LOCAL. -/
def execWorkLocal (sp : Fin 48) (w : IWord) (s : State) : Host.Outcome State Fault Refusal :=
  .next (present s sp.val w (opcodeOf w = opWork && kMode w = 0) (workLocalGo w))
/-- WORK in mode COUNTER. -/
def execWorkCounter (sp : Fin 48) (w : IWord) (s : State) : Host.Outcome State Fault Refusal :=
  .next (present s sp.val w (opcodeOf w = opWork && kMode w = 1) (workCounterGo w))
/-- WORK in mode INIT. -/
def execWorkInit (sp : Fin 48) (w : IWord) (s : State) : Host.Outcome State Fault Refusal :=
  .next (present s sp.val w (opcodeOf w = opWork && kMode w = 2) (workInitGo w))

/-! ### SHAPE and FENCE (R110, R111) -/

/-- The value that SRC of a SHAPE selects. -/
def shapeSource (j : Job) (rank : Nat) (w : IWord) : Nat :=
  match hSrc w with
  | 0 => (j.shapes[hSlot w]?).getD 0
  | 1 => rank
  | 2 => j.ranks
  | 3 => j.step % 2 ^ 32
  | _ => hImm w

/-- v × MUL + ADD, MUL 0 read as 1. -/
def shapeValue (j : Job) (rank : Nat) (w : IWord) : Int := (shapeSource j rank w * (if hMul w = 0 then 1 else hMul w) : Nat) + hAdd w

/-- SHAPE (R110). -/
def shapeGo (w : IWord) (e : Seat) (s : State) : State :=
  match lookup s.jobs e.job with
  | none => s
  | some j =>
    let v := shapeValue j e.rank w
    if v < 0 ∨ 2 ^ 32 ≤ v then programError s e.job stBounds e.rank (getCtx s e.phys).pos 1
    else advance (modCtx s e.phys (fun c => { c with x := writeX c.x (hXd w) (BitVec.ofInt 32 v) })) e

/-- SHAPE. -/
def execShape (sp : Fin 48) (w : IWord) (s : State) : Host.Outcome State Fault Refusal :=
  .next (present s sp.val w (opcodeOf w = opShape) (shapeGo w))

/-- FENCE: issue stops until the named classes are complete (R111). -/
def fenceGo (w : IWord) (e : Seat) (s : State) : State :=
  let c := getCtx s e.phys
  if classesDone c (fClass w) c.serial then advance s e else s

/-- FENCE of a step program. -/
def execFence (sp : Fin 48) (w : IWord) (s : State) : Host.Outcome State Fault Refusal :=
  .next (present s sp.val w (opcodeOf w = opFence) (fenceGo w))

end Sys2Proof.Machine
end

