-- ==== Sys2Proof/Machine/Jobs.lean ====
section
/-! DEFINITION. Jobs outside drafts (15 "Jobs"; 07 "Run-time shapes"): submission, issue, dispatch, the step time limit, abort, the resumption of a rank. -/

namespace Sys2Proof.Machine

/-! ### Directives (08 R155; 15 R319) -/

/-- A directive from its 16 bytes, with its target step. -/
def readDirective (b : List Byte) (target : Nat) : Directive where
  target := target
  kind := field b 0 1
  required := bit (field b 1 1) 0
  lead := field b 2 2
  slot := field b 4 1
  ahead := field b 5 1
  count := field b 6 2
  first := field b 8 8

/-- A directive list entry of a job outside a draft is malformed (R319 check 5). -/
def directiveBad (e : List Byte) (nsteps : Nat) : Bool :=
  let d := cut e 8 16
  let kind := field d 0 1
  field e 0 8 ≥ nsteps || !(kind = 1 || kind = 2) || field d 1 1 > 1 || field d 2 2 ≠ 0 || (kind = 2 && field d 4 1 ≠ 0) ||
  (kind = 1 && field d 4 1 > 31) || field d 5 1 = 0 || field d 5 1 > 16 || field d 6 2 = 0 || field e 24 8 ≠ 0

/-- Logical spindles of a slice that are not withdrawn. -/
def usable (s : State) (q : Nat) : List Nat :=
  match lookup s.slices q with
  | some x => (List.range 48).filter (fun l => bit x.conf.spindles l && !withdrawn s l)
  | none => []

/-- The load checks of a program of a slice that `runs` ranks of `p` run. -/
def progCtx (s : State) (q p : Nat) (runs : List Nat) (len : Nat) : ProgCtx where
  p := p
  runs := runs
  sems := ((lookup s.slices q).map (fun x => x.conf.sems)).getD 0
  ctrs := ((lookup s.slices q).map (fun x => x.conf.counters)).getD 0
  len := len

/-! ### JOB_SUBMIT (R319) -/

/-- The skein handle of slot j in a block of 32 handles. -/
def slotHandle (b : List Byte) (off j : Nat) : Nat := field b (off + 4 * j) 4

/-- The first used skein slot that names no handle of the slice (R319 check 4). -/
def badSlot (s : State) (q : Nat) (handles : List Nat) (forced : List Nat) : Option Nat :=
  (List.range 32).find? (fun j =>
    let h := (handles[j]?).getD 0xFFFFFFFF
    (h ≠ 0xFFFFFFFF || forced.contains j) && !((lookup s.skeins h).any (fun k => k.slice = q)))

/-- The checks of the job block, by offset (R319 check 2). -/
def jobBlockBad (b : List Byte) : Option Nat :=
  let cs : List (Bool × Nat) :=
    [(field b 0 8 % 64 ≠ 0, 0), (field b 8 8 % 16 ≠ 0, 8), (field b 16 2 = 0 || field b 16 2 > 4096, 16), (field b 18 2 > 1024, 18),
     (field b 20 4 ≠ 0, 20), (field b 24 8 % 64 ≠ 0, 24), (field b 160 32 ≠ 0, 160)]
  (cs.find? (fun c => c.1)).map Prod.snd

/-- A job as it is when its submission has passed its checks. -/
def newJob (o : Op) (s : State) (b : List Byte) (prog : List IWord) (dirs : List Directive) : Job where
  slice := o.slice
  port := o.port
  sq := o.sq
  tag := o.tag
  place := none
  ranks := o.f 16 1
  prio := o.f 17 1
  late := o.f 18 1
  nsteps := o.f 20 4
  jaddr := o.f 8 8
  shapesAddr := field b 0 8
  prog := prog
  dirs := dirs
  dirStates := dirs.map (fun _ => .waiting)
  skeins := (List.range 32).map (slotHandle b 32)
  shapes := []
  issuedAt := 0
  step := 0
  phase := .submitted
  spindles := []
  rankStates := []
  saved := []
  switchSaved := []
  holds := []
  records := []
  owned := []
  touched := []
  waitSince := s.clock
  abortAtEnd := none
  failing := none
  draft := none

/-- 16 bytes of a program as an instruction. -/
def readInstr (b : List Byte) (i : Nat) : IWord := BitVec.ofNat 128 (field b (16 * i) 16)

/-- Checks 3 to 6 of R319, the program and the directive list having been read. -/
def submitChecked (s : State) (op : Nat) (o : Op) (b progBytes dirBytes : List Byte) : State :=
  let n := field b 16 2
  let nd := field b 18 2
  let prog := (List.range n).map (readInstr progBytes)
  let entry : Nat → List Byte := fun i => cut dirBytes (32 * i) 32
  let forced := ((List.range nd).filter (fun i => field (entry i) 8 1 = 1)).map (fun i => field (entry i) 12 1)
  if o.f 16 1 > (usable s o.slice).length then fail s op stBounds 16
  else
    match badSlot s o.slice ((List.range 32).map (slotHandle b 32)) forced with
    | some j => fail s op stBounds (0x30000 + j)
    | none =>
      match (List.range nd).find? (fun i => directiveBad (entry i) (o.f 20 4)) with
      | some i => fail s op stBadDescriptor (0x70000 + i)
      | none =>
        match checkProgramFrom (progCtx s o.slice (o.f 16 1) (List.range (o.f 16 1)) n) prog 0 0 with
        | some (idx, st, r) => fail s op st (progDetail idx r 0)
        | none =>
          let dirs := (List.range nd).map (fun i => readDirective (cut (entry i) 8 16) (field (entry i) 0 8))
          { s with jobs := insertKey s.jobs op (newJob o s b prog dirs) }

/-- JOB_SUBMIT: the checks of R319; the job then waits for a resident place. -/
def execJobSubmit (op : Nat) (s : State) : Host.Outcome State Fault Refusal :=
  .next (runOp s op 0x20 2 (fun o s =>
    let jaddr := o.f 8 8
    if (lookup s.jobs op).isSome then s
    else checks s op
      [(jaddr % 64 ≠ 0, stBadDescriptor, 8),
       (o.f 16 1 = 0 || o.f 16 1 > 48, stBadDescriptor, 16),
       (o.f 17 1 > 7, stBadDescriptor, 17),
       (o.f 20 4 = 0, stBadDescriptor, 20)]
      (withPartner s op o [(jaddr, 256, true)]
        (if homeFails s o.port jaddr 192 then fail s op stBadDescriptor 8
         else
           let b := readPartner s o.port jaddr 192
           match jobBlockBad b with
           | some off => fail s op stBadDescriptor (0x90000 + off)
           | none =>
             let prog := field b 8 8
             let n := field b 16 2
             let dirs := field b 24 8
             let nd := field b 18 2
             withPartner s op o [(prog, 16 * n, false), (dirs, 32 * nd, false)]
               (if homeFails s o.port prog (16 * n) then fail s op stBadDescriptor 0x90008
                else if nd ≠ 0 && homeFails s o.port dirs (32 * nd) then fail s op stBadDescriptor 0x90018
                else submitChecked s op o b (readPartner s o.port prog (16 * n)) (readPartner s o.port dirs (32 * nd)))))))

/-! ### Shapes (07 R125-R127) -/

/-- What the shape table decides: run with these values, end with a status, DETAIL and RESULT, or wait for memory. -/
inductive ShapeDecision where
  | run (s : State) (vals : List Nat)
  | ends (s : State) (status detail result : Nat)
  | wait (s : State)
  deriving Repr

/-- The first offending field of slot j of a shape table (R126 rule 1). -/
def slotBad (t : List Byte) (j : Nat) : Option Nat :=
  let a := 16 * j
  let kind := field t a 1
  let flags := field t (a + 1) 1
  let src := field t (a + 8) 8
  if kind > 4 then some a
  else if flags > 1 || (kind = 0 && flags ≠ 0) then some (a + 1)
  else if field t (a + 2) 2 ≠ 0 then some (a + 2)
  else if kind = 0 && src ≠ 0 then some (a + 8)
  else if kind = 1 && field t (a + 12) 4 ≠ 0 then some (a + 12)
  else if 2 ≤ kind && src % 4 ≠ 0 then some (a + 8)
  else none

/-- The first slot whose word cannot be read (R126 rule 2). -/
def slotUnreadable (s : State) (p q : Nat) (t : List Byte) : Option Nat :=
  (List.range 16).find? (fun j =>
    let kind := field t (16 * j) 1
    let src := field t (16 * j + 8) 8
    (kind = 2 && homeFails s p src 4) || (kind = 3 && !inSlice s q 1 src 4) || (kind = 4 && !inSlice s q 2 src 4))

/-- Bring the pool words of the table within reach, one after the other (R125). -/
def touchShapes (s : State) (q : Nat) (t : List Byte) : List Nat → Touch
  | [] => .ready s
  | j :: js =>
    let kind := field t (16 * j) 1
    if kind = 3 || kind = 4 then
      match touch s q (kind - 2) (field t (16 * j + 8) 8) 4 false with
      | .ready s => touchShapes s q t js
      | r => r
    else touchShapes s q t js

/-- The value of slot j. -/
def slotValue (s : State) (p q : Nat) (t : List Byte) (j : Nat) : Nat :=
  let src := field t (16 * j + 8) 8
  match field t (16 * j) 1 with
  | 1 => src % 2 ^ 32
  | 2 => partnerNat s p src 4
  | 3 => leNat (readTier s q 1 src 4)
  | 4 => leNat (readTier s q 2 src 4)
  | _ => 0

/-- The partner ranges of a table's KIND 2 words. -/
def kind2Words (t : List Byte) : List Nat :=
  ((List.range 16).filter (fun j => field t (16 * j) 1 = 2)).map (fun j => field t (16 * j + 8) 8)

/-- The window lines that reading some 4-byte words of a partner must recall (02 R22). -/
def wordLines (s : State) (p : Nat) (ws : List Nat) : List (Nat × List Nat) := ws.flatMap (fun a => partnerLines s p a 4 false)

/-- The decision of R126 on the table at `addr`; 0 names none, and every slot then reads 0. The table and its KIND 2 words are read coherently: lines of a window that the
partner holds are recalled first, and another slice's window denies them (02 R22). -/
def shapeDecision (s : State) (p q addr : Nat) : ShapeDecision :=
  if addr = 0 then .run s (List.replicate 16 0)
  else if partnerDenied s p q addr 256 then .ends s stDenied 0 0
  else if homeFails s p addr 256 then .ends s stBadDescriptor 0x100 0
  else if !(partnerLines s p addr 256 false).isEmpty then .wait (askAll s (partnerLines s p addr 256 false) false)
  else
    let t := readPartner s p addr 256
    match (List.range 16).filterMap (slotBad t) with
    | off :: _ => .ends s stBadDescriptor (0x100 + off) 0
    | [] =>
      match slotUnreadable s p q t with
      | some j => .ends s stBounds (0x100 + 16 * j + 8) 0
      | none =>
        if (kind2Words t).any (fun a => partnerDenied s p q a 4) then .ends s stDenied 0 0
        else if !(wordLines s p (kind2Words t)).isEmpty then .wait (askAll s (wordLines s p (kind2Words t)) false)
        else match touchShapes s q t (List.range 16) with
        | .wait s => .wait s
        | .ends st => .ends s st 0 0
        | .ready s =>
          let vals := (List.range 16).map (slotValue s p q t)
          let used : Nat → Bool := fun j => field t (16 * j) 1 ≠ 0
          match (List.range 16).find? (fun j => used j && (vals[j]?).getD 0 > field t (16 * j + 4) 4) with
          | some j => .ends s stShapeOver j ((vals[j]?).getD 0)
          | none =>
            match (List.range 16).find? (fun j => used j && field t (16 * j + 1) 1 = 1 && (vals[j]?).getD 0 = 0) with
            | some j => .ends s stEmpty j 0
            | none => .run s vals

/-! ### Issue (R310, R319) -/

/-- Resident places a slice holds. -/
def placesOf (s : State) (q : Nat) : Nat := (s.jobs.filter (fun j => j.2.slice = q && j.2.place.isSome)).length

/-- A slice's reserved places. -/
def reservedPlaces (s : State) (q : Nat) : Nat := ((lookup s.slices q).map (fun x => x.conf.jobs)).getD 0

/-- Shared places in use and in all (R310). -/
def sharedUsed (s : State) : Nat := (s.slices.map (fun x => placesOf s x.1 - x.2.conf.jobs)).sum
def sharedTotal (s : State) : Nat := 1024 - (s.slices.map (fun x => x.2.conf.jobs)).sum

/-- A slice may take one more place. -/
def mayPlace (s : State) (q : Nat) : Bool := placesOf s q < reservedPlaces s q || sharedUsed s < sharedTotal s

/-- A slice's next place would be a shared one. -/
def needsShared (s : State) (q : Nat) : Bool := placesOf s q ≥ reservedPlaces s q

/-- The job may be issued now: not halted, a place is free for it, and no earlier fetched job comes first (R310, R371). -/
def mayIssue (s : State) (jid : Nat) (j : Job) : Bool :=
  !s.ras.halted && mayPlace s j.slice &&
  !(s.jobs.any (fun k => k.1 < jid && k.2.phase = .submitted && k.2.place.isNone && (k.2.slice = j.slice || (needsShared s j.slice && needsShared s k.2.slice))))

/-- The lowest free resident place. -/
def freePlace (s : State) : Nat := ((List.range 1024).find? (fun p => !(s.jobs.any (fun j => j.2.place = some p)))).getD 0

/-- Bytes 192 to 255 of the job block: SLOT, ISSUED, STEP (R319). -/
def jobStatus (place issued : Nat) (step : Option Nat) : List Byte :=
  leBytes 4 place ++ leBytes 4 0 ++ leBytes 8 issued ++ leBytes 8 (step.getD (2 ^ 64 - 1)) ++ leBytes 40 0

/-- Write bytes 192 to 255 of the job block, unless the port was reset. -/
def writeJobStatus (s : State) (jid : Nat) (step : Option Nat) : State :=
  match lookup s.jobs jid with
  | some j => writePartner s j.port (j.jaddr + 192) (jobStatus (j.place.getD 0) j.issuedAt step)
  | none => s

/-- A job that waits for dispatch and has fewer usable spindles than ranks ends (R319). -/
def starved (s : State) (j : Job) : Bool := j.draft.isNone && j.ranks > (usable s j.slice).length

/-- The window lines that a write of the job's status block must take back from the partner first (02 R22). -/
def statusLines (s : State) (j : Job) : List (Nat × List Nat) := partnerLines s j.port (j.jaddr + 192) 64 true

/-- The job takes the lowest free place and its status block is written; handles whose release has begun are left out (R141, R319). -/
def takePlace (s : State) (jid : Nat) : State :=
  let live : Nat → Nat := fun h => if (lookup s.skeins h).any (fun k => !k.releasing) then h else 0xFFFFFFFF
  writeJobStatus (modJob s jid (fun j => { j with place := some (freePlace s), issuedAt := s.trd.beat, skeins := j.skeins.map live })) jid none

/-- JOB_ISSUE: the job takes the lowest free place and writes its status block; then its shape table decides it (R125-R127, R310, R319). -/
def execJobIssue (op : Nat) (s : State) : Host.Outcome State Fault Refusal :=
  match lookup s.jobs op with
  | none => .next s
  | some j =>
    if j.phase ≠ .submitted || j.draft.isSome then .next s
    else if starved s j then .next (endJob s op stBounds 16 0)
    else if j.place.isNone && !mayIssue s op j then .next s
    else if !awake s 2 then .next (wake s 2)
    else if j.place.isNone && !(statusLines s j).isEmpty then .next (askAll s (statusLines s j) true)
    else
      let s := if j.place.isNone then takePlace s op else s
      match shapeDecision s j.port j.slice j.shapesAddr with
      | .wait s => .next s
      | .ends s st d r => .next (endJob s op st d r)
      | .run s vals => .next (modJob s op (fun j => { j with shapes := vals, phase := .ready, waitSince := s.clock }))

/-! ### Dispatch (R320, R321, R324) -/

/-- The slice is running on a logical spindle (R315): always where it is dedicated. -/
def runningOn (s : State) (q l : Nat) : Bool :=
  match lookup s.slices q with
  | some x => bit x.conf.spindles l && (!x.conf.shared || ((lookup s.sched l).bind SpindleSched.running) = some q)
  | none => false

/-- A boundary has come and the slice dispatches no new step on the spindle (R316). -/
def handingOver (s : State) (l : Nat) : Bool := ((lookup s.sched l).bind SpindleSched.boundary).isSome

/-- A draft of the slice has the logical spindle for its life (10 R182). -/
def draftHas (s : State) (q l : Nat) : Bool := s.jobs.any (fun j => j.2.slice = q && j.2.draft.isSome && j.2.spindles.contains l)

/-- Logical spindles free for a rank of the slice. -/
def freeFor (s : State) (q : Nat) : List Nat :=
  (usable s q).filter (fun l => runningOn s q l && !handingOver s l && !draftHas s q l &&
    (match physOf s l with
     | some p => (getSpn s p).rank.isNone && !(getSpn s p).failed
     | none => false))

/-- The affinity of a spindle for a job: skein handles in common with its last job (R320). -/
def affinityOf (s : State) (j : Job) (l : Nat) : Nat :=
  match physOf s l with
  | some p => ((getSpn s p).affinity.filter (fun h => j.skeins.contains h)).length
  | none => 0

/-- The best spindle of a list: highest affinity, then lowest index. -/
def bestSpindle (s : State) (j : Job) : List Nat → Option Nat
  | [] => none
  | l :: ls =>
    match bestSpindle s j ls with
    | some m => if affinityOf s j m > affinityOf s j l then some m else some l
    | none => some l

/-- The `n` best spindles of a list. -/
def pickSpindles (s : State) (j : Job) : Nat → List Nat → List Nat
  | 0, _ => []
  | n + 1, ls =>
    match bestSpindle s j ls with
    | some l => l :: pickSpindles s j n (ls.filter (fun m => m ≠ l))
    | none => []

/-- The spindles a job would run its next step on: those it keeps, or the best free ones, in ascending logical order; none when they do not suffice. -/
def placementOf (s : State) (j : Job) : Option (List Nat) :=
  if !j.spindles.isEmpty then
    if j.spindles.all (fun l => runningOn s j.slice l && !handingOver s l) then some j.spindles else none
  else
    let free := freeFor s j.slice
    if free.length < j.ranks then none
    else
      let got := pickSpindles s j j.ranks free
      some ((List.range 48).filter (fun l => got.contains l))

/-- Every REQUIRED directive of step `n` has completed (08 R158). -/
def requiredDone (j : Job) (n : Nat) : Bool :=
  (j.dirs.zip j.dirStates).all (fun d => !(d.1.required && d.1.target = n) || d.2 = .complete)

/-- The job waits for the dispatch of its next step. -/
def waitsDispatch (j : Job) : Bool := j.phase = .ready && j.draft.isNone

/-- The semaphores that the slice's yielded ranks wait for. -/
def awaitedSems (s : State) (q : Nat) : List Nat :=
  (s.jobs.filter (fun j => j.2.slice = q)).flatMap (fun j =>
    j.2.saved.filterMap (fun c =>
      if j.2.rankStates[c.1]? = some .yielded then (j.2.prog[c.2.pos]?).map sSem else none))

/-- A holder that is promoted (R324). -/
def promoted (s : State) (j : Job) : Bool := jobIdle j && (awaitedSems s j.slice).any (fun n => readD 0 j.holds n ≠ 0)

/-- The order of waiting jobs of a slice: promoted holders, then PRIO, then issue (R320, R324). -/
def dispatchBefore (s : State) (a b : Nat × Job) : Bool :=
  let pa := promoted s a.2
  let pb := promoted s b.2
  let issue := a.2.issuedAt < b.2.issuedAt || (a.2.issuedAt = b.2.issuedAt && a.1 < b.1)
  if pa != pb then pa
  else if pa then issue
  else a.2.prio < b.2.prio || (a.2.prio = b.2.prio && issue)

/-- The job has waited 1,000 beats for spindles it does not have (R320). -/
def aged (s : State) (j : Job) : Bool := waitsDispatch j && j.spindles.isEmpty && j.waitSince + 1000 ≤ s.clock

/-- Job `a` was issued before job `b`. -/
def issuedBefore (a b : Nat × Job) : Bool := a.2.issuedAt < b.2.issuedAt || (a.2.issuedAt = b.2.issuedAt && a.1 < b.1)

/-- The order of R320 and R324 lets the job be dispatched next. -/
def mayDispatch (s : State) (jid : Nat) (j : Job) : Bool :=
  let others := s.jobs.filter (fun k => k.1 ≠ jid && k.2.slice = j.slice && waitsDispatch k.2)
  let fits : Nat × Job → Bool := fun k => (placementOf s k.2).isSome && requiredDone k.2 k.2.step
  let blocked := others.any (fun k => aged s k.2 && issuedBefore k (jid, j))
  let agedJob := aged s j && !blocked
  promoted s j && !(others.any (fun k => promoted s k.2 && issuedBefore k (jid, j) && fits k)) ||
  (!promoted s j && !blocked && (agedJob || !(others.any (fun k => dispatchBefore s k (jid, j) && fits k))))

/-- Put rank `r` of a job on logical spindle `l` with a context. -/
def seatRank (s : State) (jid r l : Nat) (c : Ctx → Ctx) : State :=
  match physOf s l with
  | some p => modSpn s p (fun x => { x with rank := some (jid, r), ctx := c x.ctx })
  | none => s

/-- A context at the start of a step program: registers cleared, position 0 (R98, R319). -/
def startCtx (c : Ctx) : Ctx := { leaveCtx c with x := [], pos := 0 }

/-- Whether a saved context of the job cannot be read when it is to return: only while a stack lists uncorrectable words, and then a free value, because no address
says where in the pool contexts lie (15 R325; log entry 27). -/
def contextLost (s : State) (j : Job) : Bool × State :=
  if j.saved.isEmpty || s.memStacks.all (fun k => k.uncorr.isEmpty) then (false, s)
  else
    let (n, s) := draw s
    (decide (n % 2 = 1), s)

/-- The job's saved contexts return, or one cannot be read and the job ends with MEDIA_UNCORRECTABLE, its DETAIL a free value (15 R325; log entry 27). -/
def withContexts (s : State) (jid : Nat) (j : Job) (k : State → State) : State :=
  match contextLost s j with
  | (true, s) =>
    let (d, s) := draw s
    endJob s jid stMedia (d % 2 ^ 32) 0
  | (false, s) => k s

/-- Start a step of a job on its spindles: every rank is seated, from its saved context where it has one. -/
def startStep (s : State) (jid : Nat) (j : Job) (sps : List Nat) : State :=
  let s := (sps.zipIdx).foldl (fun s e =>
    seatRank s jid e.2 e.1 (fun c => startCtx ((lookup j.saved e.2).getD c))) s
  modJob s jid (fun j =>
    { j with phase := .running s.clock, spindles := sps, rankStates := List.replicate j.ranks .running, saved := [], switchSaved := [],
             touched := [] })

/-- JOB_DISPATCH: the next step of a job outside a draft starts on all its ranks (R319, R320); compute needs PS0 (19 R383); none starts under the thermal
throttle (21 R410) or a SET_POWER (19 R385). -/
def execJobDispatch (job : Nat) (s : State) : Host.Outcome State Fault Refusal :=
  match lookup s.jobs job with
  | none => .next s
  | some j =>
    if !waitsDispatch j || s.ras.halted || s.pins.throttle || powerPending s then .next s
    else if starved s j then .next (endJob s job stBounds 16 0)
    else if !awake s 0 then .next (wake s 0)
    else if !requiredDone j j.step || !mayDispatch s job j then .next s
    else
      match placementOf s j with
      | some sps =>
        if !(statusLines s j).isEmpty then .next (askAll s (statusLines s j) true)
        else .next (withContexts s job j (fun s => writeJobStatus (startStep s job j sps) job (some j.step)))
      | none => .next s

/-! ### The step time limit, abort (R319, R322) -/

/-- JOB_STEP_TIME_LIMIT: a step not ended 64 beats after it started is stopped, what it has issued is abandoned, and its job ends with DRAFT_STEP_LONG (R319); one that a
program error is ending already keeps that error (06 R121). -/
def execJobStepTimeLimit (job : Nat) (s : State) : Host.Outcome State Fault Refusal :=
  match lookup s.jobs job with
  | none => .next s
  | some j =>
    match j.phase, j.draft with
    | .running since, none =>
      if since + 64 ≤ s.clock && j.rankStates.any (fun r => r = .running) then
        let e := j.failing.getD (stStepLong, 0x20000000 + j.step % 2 ^ 28)
        .next (endJob (foldRecords s job) job e.1 e.2 0)
      else .next s
    | _, _ => .next s

/-- The job that JOB_ABORT names (R322). -/
def abortTarget (s : State) (o : Op) : Option Nat :=
  (s.jobs.find? (fun j => j.2.port = o.port && j.2.sq = o.f 8 2 && j.2.tag = o.f 10 2 && j.2.slice = o.slice)).map Prod.fst

/-- A JOB_SUBMIT or DRAFT_START fetched earlier whose checks are still to come and that JOB_ABORT names: a job not yet issued (R322; 18 R371; log entry 37). -/
def abortUnissued (s : State) (id : Nat) (o : Op) : Option Nat :=
  (s.ops.find? (fun e => e.1 < id && (e.2.opcode = 0x20 || e.2.opcode = 0x25) && isOpen e.2 && e.2.port = o.port && e.2.sq = o.f 8 2 &&
    e.2.tag = o.f 10 2 && e.2.slice = o.slice)).map Prod.fst

/-- JOB_ABORT: the target ends at once or at its next step boundary, and the command completes after it (R322). -/
def execJobAbort (op : Nat) (s : State) : Host.Outcome State Fault Refusal :=
  .next (runOp s op 0x21 4 (fun o s =>
    match abortTarget s o with
    | none =>
      if o.phase ≠ .fetched then finishOk s op 0
      else
        match abortUnissued s op o with
        | some id => finishOk (fail s id stAborted 0) op 0
        | none => fail s op stBounds 8
    | some jid =>
      if o.phase = .fetched then
        let s := abortJob s jid
        if (lookup s.jobs jid).isNone then finishOk s op 0 else s
      else if ((lookup s.jobs jid).bind Job.abortAtEnd).isNone then finishOk s op 0
      else s))

/-! ### The resumption of a rank (06 R116; 15 R320, R324) -/

/-- RANK_RESUME: a yielded rank is dispatched again at its WAIT once the semaphore reaches N, on the free spindle of highest affinity. -/
def execRankResume (job : Nat) (rank : Fin 48) (s : State) : Host.Outcome State Fault Refusal :=
  match lookup s.jobs job with
  | none => .next s
  | some j =>
    let r := rank.val
    match lookup j.saved r, j.phase with
    | some c, .running since =>
      let passes := ((j.prog[c.pos]?).map (fun w => decide (sN w ≤ semValue s j.slice (sSem w)))).getD false
      if j.rankStates[r]? ≠ some .yielded || !passes || s.ras.halted || j.abortAtEnd.isSome || j.failing.isSome then .next s
      else if !awake s 0 then .next (wake s 0)
      else
        match bestSpindle s j (freeFor s j.slice) with
        | some l =>
          .next (withContexts s job j (fun s =>
            modJob (seatRank s job r l (fun _ => c)) job (fun j =>
              { j with saved := removeKey j.saved r, switchSaved := j.switchSaved.filter (fun k => k ≠ r), rankStates := j.rankStates.set r .running,
                       spindles := j.spindles.set r l, phase := .running (if jobIdle j then s.clock else since) })))
        | none => .next s
    | _, _ => .next s

end Sys2Proof.Machine
end

