-- ==== Sys2Proof/Machine/Descriptors.lean ====
section
/-! DEFINITION. The checks of R29 that every descriptor passes before its opcode's own (02), with the reserved fields of every operand
table of the spec. -/

namespace Sys2Proof.Machine

/-- The opcodes of the spec (14 for 0x00-0x08; 15, 08, 10 for 0x20-0x28; 12; the admin opcodes; 11). -/
def opcodes : List Nat :=
  [0x00, 0x01, 0x02, 0x04, 0x08, 0x20, 0x21, 0x22, 0x23, 0x24, 0x25, 0x26, 0x27, 0x28] ++
  [0x40, 0x41, 0x42, 0x43, 0x44, 0x45, 0x48] ++
  [0x60, 0x61, 0x62, 0x63, 0x64, 0x65, 0x66, 0x67, 0x68, 0x69, 0x6A, 0x6B, 0x6C, 0x6D, 0x6E] ++
  [0x70, 0x71, 0x74, 0x75, 0x76, 0x78, 0x79, 0x7A, 0x7C, 0x7D] ++
  [0x80, 0x81, 0x82, 0x83, 0x84, 0x88, 0x89]

/-- An admin opcode (R29 check 3). -/
def isAdmin (opcode : Nat) : Bool := 0x60 ≤ opcode && opcode ≤ 0x7F

/-- A reserved field: offset, size in bytes, and the bits of it that are reserved. -/
abbrev Resv := Nat × Nat × Nat

/-- A field reserved whole. -/
def whole (off n : Nat) : Resv := (off, n, 2 ^ (8 * n) - 1)

/-- Bits `lo` and above of a field of `n` bytes reserved. -/
def above (off n lo : Nat) : Resv := (off, n, 2 ^ (8 * n) - 2 ^ lo)

/-- Reserved fields under a condition on other fields. -/
def when_ (c : Bool) (l : List Resv) : List Resv := if c then l else []

/-- The reserved operand fields of a storage command (14). -/
def resvStorage (b : List Byte) : Nat → List Resv
  | 0x00 => [whole 10 54]
  | 0x04 => [whole 10 1, whole 11 1, whole 24 8, whole 32 2, whole 34 30]
  | 0x08 => [whole 9 23] ++ when_ (field b 8 1 ≠ 1) [whole 32 32]
  | _ => [above 10 1 1, whole 11 1] ++ when_ (!bit (field b 10 1) 0) [whole 32 2] ++ [whole 34 30]

/-- The reserved operand fields of a compute command (08, 10, 15). -/
def resvCompute (b : List Byte) : Nat → List Resv
  | 0x20 => [whole 19 1, whole 24 40]
  | 0x21 => [whole 12 52]
  | 0x22 => when_ (field b 10 1 = 1) [whole 8 2] ++ [whole 11 1] ++ when_ (field b 10 1 = 0) [whole 12 4] ++
      when_ (field b 10 1 = 1) [whole 16 8, whole 24 8] ++ [whole 32 32]
  | 0x23 => [whole 14 2] ++ when_ (field b 13 1 = 1) [whole 32 8] ++ [whole 40 24]
  | 0x24 => when_ (field b 10 2 = 0xFFFF) [whole 8 2] ++ when_ (field b 10 2 ≠ 0xFFFF) [whole 12 4] ++
      when_ (field b 10 2 = 0xFFFF) [whole 16 8, whole 24 8] ++ [whole 32 32]
  | 0x25 => [whole 13 1, whole 32 32]
  | 0x26 => [above 16 1 1, whole 17 47]
  | 0x27 => [whole 16 1, whole 17 47]
  | _ => [whole 17 47]

/-- The reserved operand fields of a card command (12). -/
def resvCard (b : List Byte) : Nat → List Resv
  | 0x40 => [above 20 1 2] ++ when_ (field b 21 1 = 0) [whole 40 8] ++
      when_ (!bit (field b 20 1) 1) [whole 48 8, whole 56 1] ++ [whole 57 7]
  | 0x41 => [whole 24 40]
  | 0x42 => [whole 24 40]
  | 0x43 => [whole 12 52]
  | 0x44 => [whole 22 2, (28, 4, 0x7FFC0000), whole 40 24]
  | 0x45 => [whole 12 52]
  | _ => [whole 14 2] ++ when_ (field b 10 1 = 0) [whole 48 8] ++ [whole 56 8]

/-- The reserved operand fields of REPAIR (18). -/
def resvRepair (b : List Byte) : List Resv :=
  let kind := field b 8 1
  let opt := field b 9 1
  when_ (kind ≠ 0) [whole 9 1] ++ when_ (kind < 3 || kind > 7) [whole 10 2] ++
  when_ ((kind = 0 && (opt = 1 || opt = 2)) || kind = 3 || (5 ≤ kind && kind ≤ 7)) [whole 16 4] ++
  (if kind = 5 then [above 20 4 24] else [whole 20 4]) ++ [whole 24 40]

/-- The reserved operand fields of an admin command (02, 10, 11, 13-19). The operand bytes that SANITISE, WARM_RESET, ATTEST and FW_STAGE do not name count as
reserved; DRAFT, RESUME_STEP and ORIGIN of PLY_REFORM are not reserved with OP 0 or 2 and are then not looked at (log entry 36). -/
def resvAdmin (b : List Byte) : Nat → List Resv
  | 0x60 => [above 9 1 1, whole 14 2, above 16 8 48, whole 62 2]
  | 0x61 => [whole 24 40]
  | 0x62 => [whole 32 32]
  | 0x63 => [whole 32 32]
  | 0x64 => [whole 9 1, whole 12 52]
  | 0x65 => [whole 10 54]
  | 0x66 => [whole 21 3] ++ when_ (field b 16 4 = 0) [whole 24 4] ++ [whole 28 36]
  | 0x67 => [whole 12 52]
  | 0x68 => [whole 9 1] ++ when_ (field b 8 1 = 2) [whole 10 2] ++ [whole 12 4] ++
      when_ (field b 8 1 = 2) [whole 16 8] ++ [whole 24 40]
  | 0x69 => [whole 9 55]
  | 0x6A => [whole 10 6, whole 28 36]
  | 0x6B => [whole 18 2, whole 32 32]
  | 0x6C => resvRepair b
  | 0x6D => [above 8 1 1, whole 9 55]
  | 0x6E => [whole 28 36]
  | 0x70 => [whole 10 54]
  | 0x71 => [whole 12 52]
  | 0x74 => [whole 24 40]
  | 0x75 => [whole 8 56]
  | 0x76 => when_ (field b 8 1 ≠ 1) [whole 10 2] ++ when_ (field b 8 1 = 1) [whole 12 4] ++ [whole 16 48]
  | 0x78 => [whole 12 52]
  | 0x79 => [whole 10 6, whole 24 40]
  | 0x7A => [whole 9 7, whole 60 4]
  | 0x7C => [whole 28 4, whole 48 16]
  | _ => [above 8 4 18] ++ when_ (field b 12 1 = 1) [whole 13 3] ++ when_ (field b 12 1 = 0) [whole 16 8] ++ [whole 24 40]

/-- The reserved operand fields of a strand command (11). -/
def resvStrand (_b : List Byte) : Nat → List Resv
  | 0x83 => [above 8 4 18, whole 38 2, whole 44 20]
  | 0x84 => [whole 20 4, whole 32 32]
  | 0x88 => [above 11 1 4, (32, 4, 0x7FFC0000), whole 40 24]
  | 0x89 => [whole 10 54]
  | _ => [above 8 4 18, whole 14 1, whole 38 2, whole 44 20]

/-- The reserved operand fields of an opcode, given the descriptor. -/
def resvOf (b : List Byte) (opcode : Nat) : List Resv :=
  if opcode < 0x20 then resvStorage b opcode
  else if opcode < 0x40 then resvCompute b opcode
  else if opcode < 0x60 then resvCard b opcode
  else if opcode < 0x80 then resvAdmin b opcode
  else resvStrand b opcode

/-- The offset of the first reserved field that is not zero. -/
def firstResv (b : List Byte) (l : List Resv) : Option Nat :=
  (l.find? (fun r => Nat.land (field b r.1 r.2.1) r.2.2 ≠ 0)).map (fun r => r.1)

/-- FUA is allowed on WRITE and TRIM only (14 R289). -/
def fuaAllowed (opcode : Nat) : Bool := opcode = 0x01 || opcode = 0x04

/-- Checks 1 to 5 of R29 on a descriptor of submission ring `sq` bound to `slice`: the status and DETAIL of the first that fails. -/
def headerCheck (b : List Byte) (sq slice : Nat) : Option (Nat × Nat) :=
  let opcode := field b 0 1
  let flags := field b 1 1
  if flags ≥ 8 then some (stBadDescriptor, 1)
  else if field b 3 1 ≠ 0 then some (stBadDescriptor, 3)
  else if field b 6 2 ≠ 0 then some (stBadDescriptor, 6)
  else if !(opcodes.contains opcode) || (sq = 0 && !isAdmin opcode) then some (stBadDescriptor, 0)
  else if bit flags 1 && !fuaAllowed opcode then some (stBadDescriptor, 1)
  else if sq ≠ 0 && isAdmin opcode then some (stDenied, 0)
  else if field b 2 1 ≠ slice then some (stDenied, 0)
  else
    match firstResv b (resvOf b opcode) with
    | some off => some (stBadDescriptor, off)
    | none => none

end Sys2Proof.Machine
end

