-- ==== Sys2Proof/Machine/Predicates.lean ====
section
/-! DEFINITION. Predicates of the card commands (12 R230), and what the fetch of a FILTER_SCAN or CARD_QUERY fixes (R230, R239). -/

namespace Sys2Proof.Machine

/-! ### Terms (R230) -/

/-- Bytes of the bitmap of an IN term. -/
def bitmapBytes (width : Nat) : Nat := 2 ^ (8 * width) / 8

/-- Term i of a term list; its bitmap is read apart. -/
def termAt (b : List Byte) (i : Nat) (bitmap : List Byte) : Term where
  off := field b (32 * i) 2
  width := field b (32 * i + 2) 1
  type := field b (32 * i + 3) 1
  op := field b (32 * i + 4) 1
  neg := bit (field b (32 * i + 5) 1) 0
  a := field b (32 * i + 8) 8
  b := field b (32 * i + 16) 8
  bitmap := bitmap

/-- BADDR of term i. -/
def termBaddr (b : List Byte) (i : Nat) : Nat := field b (32 * i + 24) 8

/-- The first field of term i at fault, in a row or attributes of `len` bytes: status and offset in the term. -/
def termFault (b : List Byte) (i len : Nat) : Option (Nat × Nat) :=
  let t := termAt b i []
  let w := t.width
  let wOk := w = 1 || w = 2 || w = 4 || w = 8
  if wOk && t.off % w ≠ 0 then some (stBadDescriptor, 0)
  else if wOk && t.off + w > len then some (stBounds, 0)
  else if !wOk then some (stBadDescriptor, 2)
  else if t.type > 2 || (t.type = 2 && w ≠ 4) then some (stBadDescriptor, 3)
  else if t.op > 7 || (t.op = 7 && w > 2) then some (stBadDescriptor, 4)
  else if field b (32 * i + 5) 1 > 1 then some (stBadDescriptor, 5)
  else if field b (32 * i + 6) 2 ≠ 0 then some (stBadDescriptor, 6)
  else if t.a ≥ 2 ^ (8 * w) then some (stBadDescriptor, 8)
  else if (t.op ≠ 6 && t.b ≠ 0) || t.b ≥ 2 ^ (8 * w) then some (stBadDescriptor, 16)
  else if (t.op ≠ 7 && termBaddr b i ≠ 0) || termBaddr b i % 64 ≠ 0 then some (stBadDescriptor, 24)
  else none

/-- The first faulty field of a term list: status and DETAIL (R230). -/
def termsFault (b : List Byte) (n len : Nat) : Option (Nat × Nat) :=
  (List.range n).findSome? (fun i => (termFault b i len).map (fun f => (f.1, 0x40000 + 32 * i + f.2)))

/-- An FP32 pattern is a NaN. -/
def isNaN32 (v : Nat) : Bool := v % 2 ^ 31 > 0x7F800000

/-- A column value in the order of its TYPE; −0 equals +0 (R230). -/
def orderOf (type width v : Nat) : Int :=
  if type = 0 then v
  else if type = 1 then signed (8 * width) v
  else if bit v 31 then -((v % 2 ^ 31 : Nat) : Int) else (v : Int)

/-- A term on a column value, before NOT. -/
def termHolds (t : Term) (v : Nat) : Bool :=
  let o := orderOf t.type t.width
  let nan := t.type = 2 && (isNaN32 v || isNaN32 t.a)
  match t.op with
  | 0 => !nan && o v = o t.a
  | 1 => nan || o v ≠ o t.a
  | 2 => !nan && o v < o t.a
  | 3 => !nan && o v ≤ o t.a
  | 4 => !nan && o v > o t.a
  | 5 => !nan && o v ≥ o t.a
  | 6 => !nan && !(t.type = 2 && isNaN32 t.b) && o t.a ≤ o v && o v ≤ o t.b
  | _ => bit (field t.bitmap (v / 8) 1) (v % 8)

/-- A row or an item's attributes match every term. -/
def rowMatches (ts : List Term) (row : List Byte) : Bool := ts.all (fun t => Bool.xor t.neg (termHolds t (field row t.off t.width)))

/-- The partner ranges of the bitmaps of a term list. -/
def bitmapRanges (b : List Byte) (n : Nat) : List (Nat × Nat × Bool) :=
  ((List.range n).filter (fun i => (termAt b i []).op = 7)).map (fun i => (termBaddr b i, bitmapBytes (termAt b i []).width, false))

/-- The terms of a list with their bitmaps, as the partner's memory holds them. -/
def readTerms (s : State) (p : Nat) (b : List Byte) (n : Nat) : List Term :=
  (List.range n).map (fun i =>
    termAt b i (if (termAt b i []).op = 7 then readPartner s p (termBaddr b i) (bitmapBytes (termAt b i []).width) else []))

/-! ### What a fetch fixes -/

/-- The ranges can be reached at once: no other slice's window in the way, no line of the window held by the partner. -/
def reachNow (s : State) (o : Op) (rs : List (Nat × Nat × Bool)) : Bool :=
  rs.all (fun r => !partnerDenied s o.port o.slice r.1 r.2.1 && (partnerLines s o.port r.1 r.2.1 r.2.2).isEmpty)

/-- The term list at `paddr` and its terms, where the partner holds no line of them; lines it holds are recalled before the checks (R230; log entry 38). -/
def termsNow (s : State) (o : Op) (paddr n : Nat) : Option (List Byte × List Term) :=
  let b := readPartner s o.port paddr (32 * n)
  if reachNow s o [(paddr, 32 * n, false)] && (termsFault b n (2 ^ 16)).isNone then
    if reachNow s o (bitmapRanges b n) then some (b, readTerms s o.port b n) else none
  else none

/-- What the fetch of a FILTER_SCAN or CARD_QUERY fixes: its terms, and of a query the epoch of the index (R230, R239). -/
def snapOf (s : State) (o : Op) : CardSnap :=
  { list := if o.opcode = 0x48 then termsNow s o (o.f 32 8) (min (o.f 11 1) 8) else termsNow s o (o.f 40 8) (min (o.f 21 1) 8),
    seen := if o.opcode = 0x48 then none else (lookup s.card.indexes (o.f 8 4)).map (fun x => (x.epoch, x.current)),
    halted := 0 }

/-- The fetch of operation `id` fixes what it fixes; what ended operations fixed is dropped. -/
def takeSnap (s : State) (id : Nat) (o : Op) : State :=
  if o.opcode = 0x40 || o.opcode = 0x48 then
    { s with card := { s.card with snaps := insertKey (s.card.snaps.filter (fun e => (lookup s.ops e.1).any isOpen)) id (snapOf s o) } }
  else s

end Sys2Proof.Machine
end

