-- ==== Sys2Proof/Machine/HostLink.lean ====
section
/-! DEFINITION. The host link: ports, coherence, rings, doorbells, fetch, link failures (02). -/

namespace Sys2Proof.Machine

/-! ### Ring set-up (R23-R27) -/

/-- Two byte ranges share a byte. -/
def overlap (a n b m : Nat) : Bool := n ≠ 0 && m ≠ 0 && a < b + m && b < a + n

/-- The byte ranges of a port's rings (R23); the meter ring is not among them (log entry 36). -/
def ringRanges (x : Port) : List (Nat × Nat) :=
  x.sqs.map (fun e => (e.2.base, e.2.size * 64)) ++ x.cqs.map (fun e => (e.2.base, e.2.size * 16)) ++
  (match x.evtRing with
   | some r => [(r.base, r.size * 16)]
   | none => [])

/-- The doorbell words in use on a port: those of its rings. -/
def doorbells (x : Port) : List Doorbell :=
  x.sqs.map (fun e => e.2.db) ++ x.cqs.map (fun e => e.2.db) ++
  (match x.evtRing with
   | some r => [r.db]
   | none => [])

/-- The distinct doorbell lines of a port (the device holds them in S, R33). -/
def doorbellLines (x : Port) : List Nat := (doorbells x).map Doorbell.line |>.eraseDups

/-- The address of the admin doorbell line. -/
def adminLine (x : Port) : Nat := x.regs.adb.toNat

/-- EN finds an illegal set-up: a size out of its range, or overlapping ranges (R25). -/
def setupIllegal (x : Port) : Bool :=
  let z := x.regs.asize.toNat
  let sq := bits z 0 4
  let cq := bits z 4 4
  let ev := bits z 8 4
  let a := x.regs.asq.toNat
  let b := x.regs.acq.toNat
  let c := x.regs.evt.toNat
  let d := x.regs.adb.toNat
  !(4 ≤ sq && sq ≤ 12) || !(4 ≤ cq && cq ≤ 14) || !(4 ≤ ev && ev ≤ 14) ||
  overlap a (2 ^ sq * 64) b (2 ^ cq * 16) || overlap a (2 ^ sq * 64) c (2 ^ ev * 16) || overlap a (2 ^ sq * 64) d 64 ||
  overlap b (2 ^ cq * 16) c (2 ^ ev * 16) || overlap b (2 ^ cq * 16) d 64 || overlap c (2 ^ ev * 16) d 64

/-- A new completion or event ring (R30: PHASE 1 on the first pass). -/
def newCompRing (base size line word : Nat) (ivec : Option Nat) (coalCount coalBeats : Nat) : CompRing where
  base := base
  size := size
  db := { line := line, word := word }
  slot := 0
  phase := true
  head := 0
  fault := false
  ivec := ivec
  coalCount := coalCount
  coalBeats := coalBeats
  unsig := 0
  unsigAt := 0

/-- A new submission ring. Its doorbell word is read at the next invalidation or poll of its line, and the tail is 0 until then (log entry 36). -/
def newSubRing (base size line word slice cq prio : Nat) : SubRing where
  base := base
  size := size
  db := { line := line, word := word }
  tail := 0
  fetch := 0
  fetched := 0
  fault := false
  slice := slice
  cq := cq
  prio := prio
  credit := 0
  deleting := false

/-- Act on EN: start the admin rings and the event ring, or set CFG_ERR (R25, R26). -/
def actOnEn (x : Port) : Port :=
  if setupIllegal x then { x with regs := { x.regs with cfgErr := true, run := false } }
  else
    let z := x.regs.asize.toNat
    let line := adminLine x
    { x with
      regs := { x.regs with cfgErr := false, run := true },
      sqs := [(0, newSubRing x.regs.asq.toNat (2 ^ bits z 0 4) line 0 0xFF 0 0)],
      cqs := [(0, newCompRing x.regs.acq.toNat (2 ^ bits z 4 4) line 1 (some x.regs.admIvec.toNat) 1 0)],
      evtRing := some (newCompRing x.regs.evt.toNat (2 ^ bits z 8 4) line 2 (some x.regs.evtIvec.toNat) 1 0),
      held := [], dropped := 0 }

/-- The fields of GLB_ACTRL other than EN written: POLL and the vectors, which running rings then use. -/
def writeActrl (x : Port) (v : Word) : Port :=
  let adm := v.extractLsb' 8 8
  let evt := v.extractLsb' 16 8
  { x with
    regs := { x.regs with poll := v.getLsbD 1, admIvec := adm, evtIvec := evt },
    cqs := adjust x.cqs 0 (fun r => { r with ivec := some adm.toNat }),
    evtRing := x.evtRing.map (fun r => { r with ivec := some evt.toNat }) }

/-! ### Port reset (R39) -/

/-- Operation `id` belongs to a job. -/
def isJobOp (s : State) (id : Nat) : Bool := (lookup s.jobs id).isSome

/-- Jobs that came over port p. -/
def jobsOfPort (s : State) (p : Nat) : List Nat := (s.jobs.filter (fun j => j.2.port = p)).map Prod.fst

/-- Unissued jobs of a port are discarded; the others end as by JOB_ABORT (R39). -/
def resetJobs (s : State) (p : Nat) : State :=
  (jobsOfPort s p).foldl (fun s jid =>
    match lookup s.jobs jid with
    | some j => if j.phase = .submitted then dropJob s jid else abortJob s jid
    | none => s) s

/-- A port reset of the rings (R39, R399): unfetched descriptors ignored, unstarted ones discarded, started ones run silently to their end,
TEARDOWN until they have; the window stays, its partner copies count as I; a meter ring on the port goes (15 R327). -/
def portReset (s : State) (p : Nat) : State :=
  let keep : Nat × Op → Bool := fun e => e.2.port ≠ p || e.2.phase = .started
  let s := { s with ops := (s.ops.filter keep).map (fun e => if e.2.port = p then (e.1, { e.2 with silent := true }) else e) }
  let s := resetJobs s p
  let busy := s.ops.any (fun e => e.2.port = p)
  let s := { s with fences := s.fences.filter (fun f => (lookup s.ops f.op).isSome), meterRing := s.meterRing.filter (fun r => r.port ≠ p),
                    card := { s.card with queries := s.card.queries.filter (fun q => q.remote.isSome || (lookup s.ops q.op).isSome) } }
  modPort s p (fun x =>
    { x with regs := { x.regs with en := false, run := false, rdy := false, teardown := busy },
             link := { x.link with lostAt := none },
             sqs := [], cqs := [], evtRing := none, held := [], dropped := 0, evtLost := 0, lines := [], recalls := [] })

/-- CORE_FAULT's DETAIL (18 R378). -/
def coreFaultDetail (s : State) (core kind : Nat) : Nat := core + kind * 8 + coresRun s * 64

/-- Firmware posts CORE_FAULT after the reset that a core fault or the watchdog caused, on the first port that runs (18 R373; log entry 35). -/
def reportCoreFault (s : State) : State :=
  match s.ras.coreFault with
  | some (core, kind) =>
    if s.dst.wdogPending.isNone && [0, 1, 2, 3].any (fun p => (getPort s p).regs.run) then
      postEvent { s with ras := { s.ras with coreFault := none } } 0x03 (coreFaultDetail s core kind)
    else s
  | none => s

/-- ADMIN_RINGS_ENABLE: the write of GLB_ACTRL with EN 1 (R25). EN written as 1 while it is 1 is no new setting (log entry 36). -/
def enableRings (s : State) (p : Nat) (v : Word) : State :=
  reportCoreFault <| modPort s p (fun x =>
    let x := writeActrl x v
    if x.regs.en then x
    else
      let x := { x with regs := { x.regs with en := true } }
      if x.regs.rdy then actOnEn x else x)

/-- ADMIN_RINGS_DISABLE: the write of GLB_ACTRL with EN 0: a port reset if EN was set (R25). -/
def disableRings (s : State) (p : Nat) (v : Word) : State :=
  let s := modPort s p (fun x => writeActrl x v)
  if (getPort s p).regs.en then portReset s p else s

/-- PORT_READY: boot is over, the link is up and no port reset is in progress; an EN set earlier is acted on (R25). -/
def execPortReady (p : Fin 4) (s : State) : Host.Outcome State Fault Refusal :=
  let x := getPort s p.val
  .next (if s.glb.stage = 9 && !s.glb.held && !x.regs.rdy && !x.regs.teardown && x.link.up then
    reportCoreFault (modPort s p.val (fun x =>
      let x := { x with regs := { x.regs with rdy := true } }
      if x.regs.en then actOnEn x else x))
  else s)

/-! ### Doorbells (R33, R34) -/

/-- The partner stores bytes of its own memory (log entry 3). -/
def partnerStores (x : Port) (l : List (Nat × Byte)) : Port := l.foldl (fun x e => { x with mem := writeByte x.mem e.1 e.2 }) x

/-- The ring index in a doorbell word (bits [15:0]). -/
def doorbellValue (x : Port) (d : Doorbell) : Nat := readNat x.mem (d.line + 4 * d.word) 2

/-- RING_FAULT's DETAIL (R34). -/
def ringFaultDetail (ring p : Nat) (cq evt : Bool) : Nat := ring + p * 256 + b2n cq * 65536 + b2n evt * 131072

/-- The device reads the tail of a submission ring: valid, or a fault. -/
def readTail (v : Nat) (r : SubRing) : SubRing := if v < r.size then { r with tail := v, fault := false } else { r with fault := true }

/-- The device reads the head of a completion or event ring: valid, or a fault. -/
def readHead (v : Nat) (r : CompRing) : CompRing := if v < r.size then { r with head := v, fault := false } else { r with fault := true }

/-- The device rereads the doorbell words of the rings on given lines of a port; RING_FAULT for each ring that enters fault (R33, R34). -/
def rereadLines (s : State) (p : Nat) (lines : List Nat) : State :=
  let x := getPort s p
  let on : Doorbell → Bool := fun d => lines.contains d.line
  let sqs := x.sqs.map (fun e => if on e.2.db then (e.1, readTail (doorbellValue x e.2.db) e.2) else e)
  let cqs := x.cqs.map (fun e => if on e.2.db then (e.1, readHead (doorbellValue x e.2.db) e.2) else e)
  let ev := x.evtRing.map (fun r => if on r.db then readHead (doorbellValue x r.db) r else r)
  let meter := s.meterRing.map (fun m => if m.port = p && on m.ring.db then { m with ring := readHead (doorbellValue x m.ring.db) m.ring } else m)
  let fs := (sqs.zip x.sqs).filterMap (fun e => if e.1.2.fault && !e.2.2.fault then some (ringFaultDetail e.1.1 p false false) else none)
  let fc := (cqs.zip x.cqs).filterMap (fun e => if e.1.2.fault && !e.2.2.fault then some (ringFaultDetail e.1.1 p true false) else none)
  let fe := match ev, x.evtRing with
    | some r, some r0 => if r.fault && !r0.fault then [ringFaultDetail 0 p false true] else []
    | _, _ => []
  let s := { modPort s p (fun x => { x with sqs := sqs, cqs := cqs, evtRing := ev }) with meterRing := meter }
  (fs ++ fc ++ fe).foldl (fun s d => postEvent s 0x12 d) s

/-- The lines a port watches, the meter ring's among them (R33, 15 R327). -/
def watched (s : State) (p : Nat) : List Nat :=
  doorbellLines (getPort s p) ++
  (match s.meterRing with
   | some m => if m.port = p then [m.ring.db.line] else []
   | none => [])

/-- DOORBELL_INVALIDATE: the partner's stores invalidate a watched line, and the device reads it again (R33). -/
def execDoorbellInvalidate (p : Fin 4) (line : Nat) (stores : List (Nat × Byte)) (s : State) : Host.Outcome State Fault Refusal :=
  let s := modPort s p.val (fun x => partnerStores x stores)
  .next (if (getPort s p.val).regs.run && (getPort s p.val).link.up && (watched s p.val).contains line then rereadLines s p.val [line] else s)

/-- DOORBELL_POLL: with POLL set, at PS0 to PS3, the device reads every watched line (R33). -/
def execDoorbellPoll (p : Fin 4) (stores : List (Nat × Byte)) (s : State) : Host.Outcome State Fault Refusal :=
  let s := modPort s p.val (fun x => partnerStores x stores)
  let x := getPort s p.val
  .next (if x.regs.run && x.link.up && x.regs.poll && s.pwr.state ≤ 3 then rereadLines s p.val (watched s p.val) else s)

/-! ### Fetch (R34, R36, R37; 14 R294) -/

/-- A submission ring of a port could be fetched from now (R34, R37, R39). -/
def fetchable (s : State) (p : Nat) (x : Port) (sq : Nat) : Bool :=
  x.regs.run && x.link.up && x.link.lostAt.isNone &&
  (match lookup x.sqs sq with
   | some r => !r.fault && !r.deleting && r.fetch ≠ r.tail &&
       (match lookup x.cqs r.cq with
        | some c => ringRoom c
        | none => false)
   | none => false) &&
  (match s.sec.erase with
   | some e => e.op.any (fun id => (lookup s.ops id).any (fun o => o.port = p && o.sq = sq))
   | none => true)

/-- Operations of the rings SQ 1 to SQ 255 in flight. -/
def plainInFlight (s : State) : Nat := (s.ops.filter (fun e => e.2.sq ≠ 0)).length

/-- Places in flight taken: by descriptors, and by shard requests of other devices (R36; 12 R246). -/
def placesTaken (s : State) : Nat := s.ops.length + (s.card.queries.filter (fun q => q.remote.isSome)).length

/-- The round-robin weight of a priority (R37). -/
def weightOf (prio : Nat) : Nat := if prio = 0 then 8 else if prio = 1 then 4 else if prio = 2 then 2 else 1

/-- Every submission ring but the admin ones that could be fetched from: port and ring. -/
def fetchableRings (s : State) : List (Nat × Nat) :=
  [0, 1, 2, 3].flatMap (fun p =>
    let x := getPort s p
    ((keys x.sqs).filter (fun q => q ≠ 0 && fetchable s p x q)).map (fun q => (p, q)))

/-- Round-robin credit left on a ring. -/
def creditOf (s : State) (e : Nat × Nat) : Nat := ((lookup (getPort s e.1).sqs e.2).map SubRing.credit).getD 0

/-- When no fetchable ring has credit left, every ring gets its weight again (R37, log entry 15). -/
def refillCredits (s : State) : State :=
  if (fetchableRings s).any (fun e => creditOf s e ≠ 0) then s
  else [0, 1, 2, 3].foldl (fun s p => modPort s p (fun x => { x with sqs := x.sqs.map (fun e => (e.1, { e.2 with credit := weightOf e.2.prio })) })) s

/-- The fetch may take this ring next: room in flight, admin rings ahead of the others, round-robin credit left (R36, R37). -/
def mayFetch (s : State) (p sq : Nat) : Bool :=
  fetchable s p (getPort s p) sq && placesTaken s < 4096 &&
  (sq = 0 || (plainInFlight s < 4032 && !(List.range 4).any (fun p => fetchable s p (getPort s p) 0) && creditOf s (p, sq) ≠ 0))

/-- The tails a storage FENCE reads when it is fetched: for each ring in scope, the submission number its tail stands for (14 R294). -/
def fenceTails (s : State) (o : Op) (id : Nat) : List StorageFence :=
  let inScope : Nat → Nat → Bool := fun p q =>
    if o.f 8 1 = 0 then true else p = o.port && (q = o.sq || bit (o.f 32 32) q)
  let tails := [0, 1, 2, 3].flatMap (fun p =>
    let x := getPort s p
    (x.sqs.filter (fun e => e.2.slice = o.slice && e.1 ≠ 0 && inScope p e.1)).map (fun e =>
      let v := doorbellValue x e.2.db
      let ahead := if v < e.2.size then (v + e.2.size - e.2.fetch) % e.2.size else 0
      (p * 256 + e.1, if p = o.port && e.1 = o.sq then o.seq else e.2.fetched + ahead)))
  [{ op := id, slice := o.slice, tails := tails }]

/-- An admin descriptor fetched while a full erase is being prepared or runs (17 R345). -/
def eraseLocks (s : State) (opcode : Nat) : Bool := s.sec.erase.isSome && isAdmin opcode

/-- Fetch one descriptor from a ring, number it and check its header (R29, R36). -/
def fetchOne (s : State) (p sq : Nat) (r : SubRing) : State :=
  let x := getPort s p
  let b := readBytes x.mem (r.base + 64 * r.fetch) 64
  let id := s.opSeq
  let o : Op := { port := p, sq := sq, cq := r.cq, seq := r.fetched, opcode := field b 0 1, flags := field b 1 1, slice := r.slice,
                  tag := field b 4 2, bytes := b, phase := .fetched, fetchedAt := s.clock, lowHoldup := !s.pins.holdupOk, silent := false,
                  left := none, sofar := 0 }
  let s := { s with opSeq := id + 1, ops := insertKey s.ops id o }
  let s := modPort s p (fun x => { x with sqs := insertKey x.sqs sq { r with fetch := (r.fetch + 1) % r.size, fetched := r.fetched + 1, credit := r.credit - 1 } })
  match headerCheck b sq r.slice with
  | some (st, d) => fail s id st d
  | none =>
    if eraseLocks s o.opcode then fail s id stLocked 0
    else if o.opcode = 0x08 then { s with fences := s.fences ++ fenceTails s o id }
    else takeSnap s id o

/-- DESCRIPTOR_FETCH: the next descriptor of a ring, if the order of R37 lets it be taken; in PS4 the device wakes first (19 R383). -/
def execDescriptorFetch (p : Fin 4) (sq : Fin 256) (s : State) : Host.Outcome State Fault Refusal :=
  if !fetchable s p.val (getPort s p.val) sq.val then .next s
  else if !awake s 3 then .next (wake s 3)
  else
    let s := refillCredits s
    match lookup (getPort s p.val).sqs sq.val with
    | some r => .next (if mayFetch s p.val sq.val then fetchOne s p.val sq.val r else s)
    | none => .next s

/-! ### Held entries and interrupts (R31, R34, R35) -/

/-- HELD_ENTRY_POST: what a port holds is posted once its rings allow it, and EVENTS_LOST (R34, R35). -/
def execHeldEntryPost (p : Fin 4) (s : State) : Host.Outcome State Fault Refusal :=
  .next (flushPort s p.val)

/-- INTERRUPT_COALESCE_TIMEOUT: COAL_BEATS after the first entry not yet signalled (R31); while the link is lost the message waits with the entries (log
entry 36). -/
def execInterruptCoalesceTimeout (p : Fin 4) (cq : Fin 256) (s : State) : Host.Outcome State Fault Refusal :=
  let x := getPort s p.val
  match lookup x.cqs cq.val with
  | some r =>
    .next (if r.unsig ≠ 0 && x.link.lostAt.isNone && r.unsigAt + r.coalBeats ≤ s.clock then
      modPort s p.val (fun x => sendIrq { x with cqs := insertKey x.cqs cq.val { r with unsig := 0 } } r true)
    else s)
  | none => .next s

/-! ### Coherence of the window (R20-R22) -/

/-- Window line `l` is under recall. -/
def underRecall (x : Port) (l : Nat) : Bool := x.recalls.any (fun r => r.line = l)

/-- The 64 pool bytes of window line `l`. -/
def lineBytes (s : State) (w : Window) (l : Nat) : List Byte := readTier s w.slice 2 (pageBytes * w.first + 64 * l) 64

/-- The pool page behind a window line is used now (08 R151). -/
def useWindow (s : State) (w : Window) (l : Nat) : State := setPage s w.slice (w.first + 64 * l / pageBytes) (fun p => { p with lastUse := s.trd.beat })

/-- The partner takes a line in a state; the device, as home, serves its bytes and remembers who holds it (R20, R22). -/
def serveLine (s : State) (p addr : Nat) (st : LineState) : State :=
  let x := getPort s p
  match inWindow x addr with
  | some (w, off) =>
    let l := off / 64
    if !x.link.up || underRecall x l then s
    else if !awake s 2 then wake s 2
    else
      let data := lineBytes s w l
      let st' := if lookup x.lines l = some .exclusive then .exclusive else st
      useWindow (modPort s p (fun x => { x with lines := insertKey x.lines l st', served := data })) w l
  | none => s

/-- COHERENT_READ: the partner reads a window line and holds it in S (R22). -/
def execCoherentRead (p : Fin 4) (addr : Nat) (s : State) : Host.Outcome State Fault Refusal := .next (serveLine s p.val addr .shared)

/-- READ_FOR_OWNERSHIP: the partner takes a window line in E, from which it may make it M (R22). -/
def execReadForOwnership (p : Fin 4) (addr : Nat) (s : State) : Host.Outcome State Fault Refusal :=
  .next (serveLine s p.val addr .exclusive)

/-- NON_ALLOCATING_WRITE: the partner writes bytes of a window line without holding it (R20, R22). -/
def execNonAllocatingWrite (p : Fin 4) (addr : Nat) (data : List Byte) (s : State) : Host.Outcome State Fault Refusal :=
  let x := getPort s p.val
  match inWindow x addr with
  | some (w, off) =>
    if !x.link.up || data.isEmpty || off / 64 ≠ (off + data.length - 1) / 64 || underRecall x (off / 64) then .next s
    else if !awake s 2 then .next (wake s 2)
    else
      let s := modPort s p.val (fun x => { x with lines := removeKey x.lines (off / 64) })
      .next (useWindow (writeTier s w.slice 2 (pageBytes * w.first + off) data) w (off / 64))
  | none => .next s

/-- RECALL_RESPONSE: the partner answers for a line under recall: it writes an M line back and keeps it in S, keeps a clean line, or drops
it; an answer to an invalidation leaves no copy (02 "Coherence"). -/
def execRecallResponse (p : Fin 4) (addr : Nat) (answer : RecallAnswer) (s : State) : Host.Outcome State Fault Refusal :=
  let x := getPort s p.val
  match inWindow x addr with
  | some (w, off) =>
    let l := off / 64
    if !underRecall x l then .next s
    else
      let forWrite := x.recalls.any (fun r => r.line = l && r.forWrite)
      let keep : Port → Port := fun x => { x with lines := if forWrite then removeKey x.lines l else insertKey x.lines l .shared }
      let drop : Port → Port := fun x => { x with lines := removeKey x.lines l }
      let done : Port → Port := fun x => { x with recalls := x.recalls.filter (fun r => r.line ≠ l) }
      match answer with
      | .writeBack data =>
        if data.length = 64 && lookup x.lines l = some .exclusive then
          .next (useWindow (writeTier (modPort s p.val (fun x => done (keep x))) w.slice 2 (pageBytes * w.first + 64 * l) data) w l)
        else .next s
      | .keepS => .next (modPort s p.val (fun x => done (keep x)))
      | .drop => .next (modPort s p.val (fun x => done (drop x)))
  | none => .next s

/-! ### Link failures (R18, R21, R39) -/

/-- The link of a port goes down; a link that was up counts as lost from now (R39). -/
def loseLink (x : Port) (clock : Nat) : Port :=
  { x with link := { x.link with up := false, lostAt := if x.link.up && x.link.lostAt.isNone then some clock else x.link.lostAt } }

/-- PORT_DOWN's DETAIL (R412). -/
def portDownDetail (p cause lane : Nat) : Nat := p + cause * 4 + lane * 16

/-- RECALL_TIMEOUT: a recall unanswered for 10 µs; the link counts as lost, the lines held in E or M keep their old pool contents (R21). -/
def execRecallTimeout (p : Fin 4) (s : State) : Host.Outcome State Fault Refusal :=
  let x := getPort s p.val
  if x.recalls.any (fun r => r.at_ + 10 ≤ s.clock) then
    let n := (x.lines.filter (fun l => l.2 = .exclusive)).length
    let slice := (x.window.map Window.slice).getD 0xFF
    let s := modPort s p.val (fun x => { loseLink x s.clock with lines := [], recalls := [], winLost := sat32 (x.winLost + n) })
    .next (postSliceEvent s 0x11 slice n)
  else .next s

/-- AHL_LINK_LOST (R39). -/
def execAhlLinkLost (p : Fin 4) (s : State) : Host.Outcome State Fault Refusal :=
  .next (if (getPort s p.val).link.up then modPort s p.val (fun x => loseLink x s.clock) else s)

/-- The link of port p may carry traffic: eight lanes work, lane 8 counting only where it is substituted (R18). -/
def lanesServe (k : Link) : Bool :=
  (List.range 8).all (fun i => if k.spareFor.toNat = i then !k.failed.getLsbD 8 else !k.failed.getLsbD i)

/-- AHL_LINK_RESTORED: the link is back; within HOLD_BEATS what was held is posted in the order it arose (R39). -/
def execAhlLinkRestored (p : Fin 4) (s : State) : Host.Outcome State Fault Refusal :=
  let x := getPort s p.val
  let late := x.link.lostAt.any (fun t => t + x.link.holdBeats.toNat < s.clock)
  if x.link.up || !lanesServe x.link || late || s.glb.stage < 8 then .next s
  else
    let s := modPort s p.val (fun x => { x with link := { x.link with up := true, lowRate := s.pwr.state = 4, lostAt := none, lanesOk := ~~~x.link.failed } })
    .next (flushPort s p.val)

/-- HOLD_BEATS_EXPIRY: the link stayed lost for HOLD_BEATS: a port reset, and PORT_DOWN on the other ports (R39, R412). -/
def execHoldBeatsExpiry (p : Fin 4) (s : State) : Host.Outcome State Fault Refusal :=
  let x := getPort s p.val
  if x.link.lostAt.any (fun t => t + x.link.holdBeats.toNat ≤ s.clock) then
    .next (postEventBut (portReset s p.val) [p.val] 0x10 0xFF (portDownDetail p.val 1 0xF))
  else .next s

/-- PARTNER_LINK_RESET: the partner resets the link: a port reset, after which the link trains again (R17, R39). -/
def execPartnerLinkReset (p : Fin 4) (s : State) : Host.Outcome State Fault Refusal :=
  .next (modPort (portReset s p.val) p.val (fun x => { x with link := { x.link with up := false } }))

/-- TEARDOWN_COMPLETE: the last operation of a port reset has ended (R39). -/
def execTeardownComplete (p : Fin 4) (s : State) : Host.Outcome State Fault Refusal :=
  .next (if (getPort s p.val).regs.teardown && !(s.ops.any (fun e => e.2.port = p.val)) then
    modPort s p.val (fun x => { x with regs := { x.regs with teardown := false } })
  else s)

/-- AHL_LANE_FAILURE: a lane in use fails and no spare serves it: the port goes down, PORT_DOWN on the other ports (R18, R412), also where it was down before (log
entry 36). -/
def execAhlLaneFailure (p : Fin 4) (lane : Fin 9) (s : State) : Host.Outcome State Fault Refusal :=
  let s := modPort s p.val (fun x =>
    { x with link := { x.link with failed := x.link.failed ||| (1#9 <<< lane.val), lanesOk := x.link.lanesOk &&& ~~~(1#9 <<< lane.val) } })
  let s := logRas s 3 1 (p.val * 9 + lane.val) 0 lane.val
  if lanesServe (getPort s p.val).link then .next s
  else
    let s := modPort s p.val (fun x => loseLink x s.clock)
    .next (postEventBut s [p.val] 0x10 0xFF (portDownDetail p.val 0 lane.val))

/-! ### Ring and window commands (R27, R28) -/

/-- The range meets a doorbell line of the port. -/
def hitsLine (x : Port) (a n : Nat) : Bool := (doorbellLines x).any (fun l => overlap a n l 64)

/-- The range meets a ring of the port. -/
def hitsRing (x : Port) (a n : Nat) : Bool := (ringRanges x).any (fun r => overlap a n r.1 r.2)

/-- DB_LINE is refused: misaligned, over a ring, overlapping another line, or a 65th line (R23, R27). -/
def badLine (x : Port) (line base n : Nat) : Bool :=
  line % 64 ≠ 0 || hitsRing x line 64 || overlap line 64 base n ||
  (!(doorbellLines x).contains line && (doorbellLines x).length ≥ 64)

/-- DB_WORD is refused: out of range, used by another ring, or a word 0 to 2 of the admin line (R26, R27). -/
def badWord (x : Port) (line word : Nat) : Bool :=
  word > 15 || (doorbells x).contains { line := line, word := word } || (line = adminLine x && word ≤ 2)

/-- CQ_CREATE (R27). A ring whose LOG2_SIZE is out of range has its nominal extent in the checks of BASE (log entry 36). -/
def execCqCreate (op : Nat) (s : State) : Host.Outcome State Fault Refusal :=
  .next (runOp s op 0x62 4 (fun o s =>
    let x := getPort s o.port
    let base := o.f 8 8
    let id := o.f 16 2
    let lg := o.f 18 1
    let n := 2 ^ lg * 16
    let line := o.f 20 8
    let word := o.f 28 1
    let ivec := o.f 30 2
    checks s op
      [(base % 4096 ≠ 0 || hitsRing x base n || hitsLine x base n, stBadDescriptor, 8),
       (id = 0 || id > 255 || (lookup x.cqs id).isSome, stBadDescriptor, 16),
       (lg < 4 || lg > 14, stBadDescriptor, 18),
       (o.f 19 1 = 0, stBadDescriptor, 19),
       (badLine x line base n, stBadDescriptor, 20),
       (badWord x line word, stBadDescriptor, 28),
       (ivec > 255 && ivec ≠ 0xFFFF, stBadDescriptor, 30)]
      (let s := modPort s o.port (fun x =>
         { x with cqs := insertKey x.cqs id (newCompRing base (2 ^ lg) line word (vecOf ivec) (o.f 19 1) (o.f 29 1)) })
       finishOk s op 0)))

/-- SQ_CREATE (R24, R27); LOG2_SIZE as for CQ_CREATE. -/
def execSqCreate (op : Nat) (s : State) : Host.Outcome State Fault Refusal :=
  .next (runOp s op 0x63 4 (fun o s =>
    let x := getPort s o.port
    let base := o.f 8 8
    let id := o.f 16 2
    let lg := o.f 18 1
    let n := 2 ^ lg * 64
    let line := o.f 20 8
    let word := o.f 28 1
    let slice := o.f 29 1
    let cq := o.f 30 2
    checks s op
      [(base % 4096 ≠ 0 || hitsRing x base n || hitsLine x base n, stBadDescriptor, 8),
       (id = 0 || id > 255 || (lookup x.sqs id).isSome, stBadDescriptor, 16),
       (lg < 4 || lg > 12, stBadDescriptor, 18),
       (o.f 19 1 > 3, stBadDescriptor, 19),
       (badLine x line base n, stBadDescriptor, 20),
       (badWord x line word, stBadDescriptor, 28),
       ((lookup s.slices slice).isNone, stBadDescriptor, 29),
       (cq = 0 || (lookup x.cqs cq).isNone, stBadDescriptor, 30)]
      (let s := modPort s o.port (fun x =>
         { x with sqs := insertKey x.sqs id (newSubRing base (2 ^ lg) line word slice cq (o.f 19 1)) })
       finishOk s op 0)))

/-- RING_DELETE: fetching from a submission ring stops at once; a completion ring goes at once (R27, R28). -/
def execRingDelete (op : Nat) (s : State) : Host.Outcome State Fault Refusal :=
  .next (runRow s op 0x64 4 (fun o => o.phase = .fetched) (fun o s =>
    let x := getPort s o.port
    let kind := o.f 8 1
    let id := o.f 10 2
    if kind > 1 then fail s op stBadDescriptor 8
    else if id = 0 || id > 255 then fail s op stBadDescriptor 10
    else if kind = 0 then
      match lookup x.sqs id with
      | some r => if r.deleting then fail s op stBadDescriptor 10
                  else modPort s o.port (fun x => { x with sqs := insertKey x.sqs id { r with deleting := true } })
      | none => fail s op stBadDescriptor 10
    else if (lookup x.cqs id).isNone || x.sqs.any (fun e => e.2.cq = id) then fail s op stBadDescriptor 10
    else finishOk (modPort s o.port (fun x => { x with cqs := removeKey x.cqs id })) op 0))

/-- RING_DELETE_COMPLETE: every operation fetched from the ring has posted its completion (R28). -/
def execRingDeleteComplete (op : Nat) (s : State) : Host.Outcome State Fault Refusal :=
  .next (runRow s op 0x64 4 (fun o => o.phase = .started && o.f 8 1 = 0) (fun o s =>
    let id := o.f 10 2
    if !(s.ops.any (fun e => e.2.port = o.port && e.2.sq = id)) then
      finishOk (modPort s o.port (fun x => { x with sqs := removeKey x.sqs id })) op 0
    else s))

/-- Pages of all windows. -/
def windowTotal (s : State) : Nat := ([0, 1, 2, 3].map (fun p => ((getPort s p).window.map Window.pages).getD 0)).sum

/-- Map pages `first` to `first + n - 1` of a slice, zeroed, each obtained under R152; on no page the rest is left to wait. -/
def mapPages (s : State) (q first : Nat) (kind : PageKind) : Nat → PageGrant
  | 0 => .got s
  | n + 1 =>
    match obtainPage s q with
    | .got s =>
      let s := modSlice s q (fun x =>
        { x with pages := insertKey x.pages first { kind := kind, lastUse := s.trd.beat, parked := [] },
                 pool := zeroRange x.pool (pageBytes * first) pageBytes })
      mapPages s q (first + 1) kind n
    | g => g

/-- WINDOW_MAP with PAGES not 0 (R22, R28). A misaligned CADDR and a slice that does not exist are BAD_DESCRIPTOR with DETAIL 0, and the order of the checks is
the model's (log entry 36). -/
def execWindowMap (op : Nat) (s : State) : Host.Outcome State Fault Refusal :=
  .next (runRow s op 0x66 2 (fun o => o.f 16 4 ≠ 0) (fun o s =>
    let caddr := o.f 8 8
    let pages := o.f 16 4
    let slice := o.f 20 1
    let first := o.f 24 4
    let taken := match lookup s.slices slice with
      | some x => x.pages.any (fun p => first ≤ p.1 && p.1 < first + pages)
      | none => false
    checks s op
      [(caddr % pageBytes ≠ 0, stBadDescriptor, 0),
       ((getPort s o.port).window.isSome, stBadDescriptor, 16),
       ((lookup s.slices slice).isNone, stBadDescriptor, 0),
       (!mayHold s slice pages || windowTotal s + pages > 32768, stBounds, 16),
       (first + pages > slicePages || taken, stBounds, 24)]
      (match mapPages s slice first (.window o.port) pages with
       | .got s =>
         let s := modPort s o.port (fun x =>
           { x with window := some { caddr := caddr, pages := pages, slice := slice, first := first }, lines := [], recalls := [] })
         finishOk s op 0
       | _ => s)))

/-- WINDOW_MAP with PAGES 0: lines held in E or M are recalled, then the pages are unmapped and their contents discarded (R28). Without a window it completes, and
SLICE and CADDR are not compared with the window's (log entry 36). -/
def execWindowUnmap (op : Nat) (s : State) : Host.Outcome State Fault Refusal :=
  .next (runRow s op 0x66 2 (fun o => o.f 16 4 = 0) (fun o s =>
    if o.f 8 8 % pageBytes ≠ 0 then fail s op stBadDescriptor 0
    else
      let x := getPort s o.port
      match x.window with
      | none => finishOk s op 0
      | some w =>
        let ls := linesToRecall x 0 (pageBytes * w.pages) false
        if !ls.isEmpty then askAll s [(o.port, ls)] false
        else
          let s := modSlice s w.slice (fun y =>
            { y with pages := y.pages.filter (fun p => !(w.first ≤ p.1 && p.1 < w.first + w.pages)),
                     pool := zeroRange y.pool (pageBytes * w.first) (pageBytes * w.pages) })
          let s := modPort s o.port (fun x => { x with window := none, lines := [], recalls := [] })
          finishOk s op 0))

end Sys2Proof.Machine
end

