-- ==== Sys2Proof/Machine/Shake.lean ====
section
/-! DEFINITION. SHAKE256 (FIPS 202), the digest of skein images, draft images and membership tables (08 R137, 10 R176, R197; log entry 12). -/

namespace Sys2Proof.Machine

/-- The sponge's state: 25 lanes of 64 bits, lane x + 5y. -/
abbrev Lanes := List (BitVec 64)

/-- Lane (x, y), both modulo 5. -/
def kLane (a : Lanes) (x y : Nat) : BitVec 64 := (a[x % 5 + 5 * (y % 5)]?).getD 0

/-- A state from a function of (x, y). -/
def kMake (f : Nat → Nat → BitVec 64) : Lanes := (List.range 25).map (fun i => f (i % 5) (i / 5))

/-- The rotation of lane (x, y) in rho. -/
def kRho : List Nat := [0, 1, 62, 28, 27, 36, 44, 6, 55, 20, 3, 10, 43, 25, 39, 41, 45, 15, 21, 8, 18, 2, 61, 56, 14]

/-- The round constants of iota. -/
def kRc : List (BitVec 64) :=
  [0x0000000000000001, 0x0000000000008082, 0x800000000000808A, 0x8000000080008000, 0x000000000000808B, 0x0000000080000001,
   0x8000000080008081, 0x8000000000008009, 0x000000000000008A, 0x0000000000000088, 0x0000000080008009, 0x000000008000000A] ++
  [0x000000008000808B, 0x800000000000008B, 0x8000000000008089, 0x8000000000008003, 0x8000000000008002, 0x8000000000000080,
   0x000000000000800A, 0x800000008000000A, 0x8000000080008081, 0x8000000000008080, 0x0000000080000001, 0x8000000080008008]

/-- Theta. -/
def kTheta (a : Lanes) : Lanes :=
  let c := (List.range 5).map (fun x => kLane a x 0 ^^^ kLane a x 1 ^^^ kLane a x 2 ^^^ kLane a x 3 ^^^ kLane a x 4)
  let col : Nat → BitVec 64 := fun x => c.getD (x % 5) 0
  kMake (fun x y => kLane a x y ^^^ col (x + 4) ^^^ (col (x + 1)).rotateLeft 1)

/-- Rho, then pi: the lane that ends at (X, Y) started at (X + 3Y, X). -/
def kRhoPi (a : Lanes) : Lanes :=
  kMake (fun x y =>
    let i := (x + 3 * y) % 5 + 5 * x
    ((a[i]?).getD 0).rotateLeft ((kRho[i]?).getD 0))

/-- Chi. -/
def kChi (b : Lanes) : Lanes := kMake (fun x y => kLane b x y ^^^ (~~~(kLane b (x + 1) y) &&& kLane b (x + 2) y))

/-- One round. -/
def kRound (a : Lanes) (rc : BitVec 64) : Lanes :=
  match kChi (kRhoPi (kTheta a)) with
  | l :: t => (l ^^^ rc) :: t
  | [] => []

/-- The 24 rounds. -/
def keccak (a : Lanes) : Lanes := kRc.foldl kRound a

/-- Absorb a block of 136 bytes. -/
def kAbsorb (a : Lanes) (block : List Byte) : Lanes :=
  keccak (a.zipIdx.map (fun e => if e.2 < 17 then e.1 ^^^ BitVec.ofNat 64 (field block (8 * e.2) 8) else e.1))

/-- The message with its padding, to a multiple of 136 bytes. -/
def kPad (m : List Byte) : List Byte :=
  let n := 136 - m.length % 136
  if n = 1 then m ++ [0x9F#8] else m ++ [0x1F#8] ++ List.replicate (n - 2) 0#8 ++ [0x80#8]

/-- Absorb every block. -/
def kBlocks (m : List Byte) : Nat → Lanes → Lanes
  | 0, a => a
  | n + 1, a => kBlocks (m.drop 136) n (kAbsorb a (m.take 136))

/-- The first 64 bytes (512 bits) of the SHAKE256 output over a message. -/
def shake256 (m : List Byte) : List Byte :=
  let p := kPad m
  ((kBlocks p (p.length / 136) (List.replicate 25 0#64)).take 8).flatMap (fun l => leBytes 8 l.toNat)

end Sys2Proof.Machine
end

