-- ==== Sys2Proof/Machine/Storage.lean ====
section
/-! DEFINITION. Stores and storage commands (14): creation and deletion, READ, WRITE, TRIM, FLUSH, FENCE, self-tests, HOLDUP_OK. -/

namespace Sys2Proof.Machine

/-- The capacity units a store takes (13 R254). -/
def capacityOf (bulk : Bool) (sectors : Nat) : Nat := if bulk then sectors / 4 else 3 * (sectors / 4)

/-- Capacity units of a mode that a slice's stores take. -/
def capacityUsed (s : State) (slice : Nat) (bulk : Bool) : Nat :=
  ((s.stores.filter (fun e => e.2.slice = slice && e.2.bulk = bulk)).map (fun e => capacityOf bulk e.2.sectors)).sum

/-- Sector ranges locked by skein and draft handles meet the range (08 R141, 10 R180). -/
def rangeLocked (s : State) (store a n : Nat) : Bool :=
  s.skeins.any (fun k => k.2.store = store && k.2.sector < a + n && a < k.2.sector + k.2.sectors) ||
  s.drafts.any (fun k => k.2.store = store && k.2.sector < a + n && a < k.2.sector + k.2.sectors)

/-- Some range of the store is locked. -/
def storeLocked (s : State) (store : Nat) : Bool := s.skeins.any (fun k => k.2.store = store) || s.drafts.any (fun k => k.2.store = store)

/-- Bytes of a sketch (12 R234). -/
def sketchBytes (sbits : Nat) : Nat := 32 * 2 ^ sbits

/-- Check 1 of 12 R234, after the store number's. -/
def cardCreateFields (o : Op) : List (Bool × Nat × Nat) :=
  let vfmt := o.f 11 1
  let d := o.f 12 2
  [(o.f 8 2 > 1023, stBadDescriptor, 8), (o.f 10 1 > 3, stBadDescriptor, 10), (vfmt > 3, stBadDescriptor, 11),
   ((vfmt = 0 && d ≠ 0) || (vfmt ≠ 0 && (d = 0 || d > 8192)), stBadDescriptor, 12), (o.f 14 2 > 256 || o.f 14 2 % 8 ≠ 0, stBadDescriptor, 14),
   (o.f 16 4 = 0 || o.f 16 4 > 65536, stBadDescriptor, 16), (o.f 32 8 % 64 ≠ 0, stBadDescriptor, 32)]

/-- Check 4 of 12 R234: EP names no endpoint, or an open one. -/
def epBad (s : State) (o : Op) : Bool := o.f 20 2 ≠ 0xFFFF && (o.f 20 2 > 4095 || (lookup s.strand.eps (o.f 20 2)).isSome)

/-- The operation takes the store away: STORE_DELETE, a store lowering or CARD_CREATE past its own checks (R287, 12 R234, 17 R350). -/
def takesStore (s : State) (o : Op) (store : Nat) : Bool :=
  match lookup s.stores store with
  | none => false
  | some st =>
    if o.opcode = 0x65 then o.f 8 2 = store && st.index.isNone && !storeLocked s store
    else if o.opcode = 0x76 then o.f 8 1 = 1 && o.f 10 2 = store && o.f 9 1 < st.level && st.level ≠ 2 && st.index.isNone && !storeLocked s store
    else o.opcode = 0x44 && o.f 8 2 = store && st.slice = o.slice && st.index.isNone && !storeLocked s store && (cardCreateFields o).all (fun c => !c.1) &&
      !epBad s o && !(partnerDenied s o.port o.slice (o.f 32 8) (o.f 16 4 * sketchBytes (o.f 10 1)))

/-- An operation fetched earlier takes the store away (R287). -/
def deletedAhead (s : State) (store id : Nat) : Bool := s.ops.any (fun e => e.1 < id && isOpen e.2 && takesStore s e.2 store)

/-- A STORE_SHARE fetched earlier revokes the slice's grant on the store (15 R312). -/
def revokedAhead (s : State) (store slice id : Nat) : Bool :=
  s.ops.any (fun e => e.1 < id && isOpen e.2 && e.2.opcode = 0x67 && e.2.f 11 1 = 1 && e.2.f 8 2 = store && e.2.f 10 1 = slice)

/-- The slice may read the store by a grant (15 R312). -/
def grantedTo (s : State) (store slice id : Nat) : Bool :=
  (lookup s.stores store).any (fun st => st.grants.contains slice) && !revokedAhead s store slice id

/-- The operation names the store. -/
def namesStore (s : State) (o : Op) (store : Nat) : Bool :=
  if o.opcode = 0x01 || o.opcode = 0x02 || o.opcode = 0x04 || o.opcode = 0x48 then o.f 8 2 = store
  else if o.opcode = 0x00 then o.f 8 2 = store || (o.f 8 2 = 0xFFFF && (lookup s.stores store).any (fun st => st.slice = o.slice))
  else if o.opcode = 0x67 then o.f 8 2 = store
  else if o.opcode = 0x76 then o.f 8 1 = 1 && o.f 10 2 = store
  else if o.opcode = 0x22 then o.f 10 1 = 0 && o.f 8 2 = store
  else if o.opcode = 0x24 then o.f 10 2 ≠ 0xFFFF && o.f 8 2 = store
  else false

/-- Commands on the store fetched before `id` are still in flight (R287). -/
def busyAhead (s : State) (store id : Nat) : Bool := s.ops.any (fun e => e.1 < id && isOpen e.2 && namesStore s e.2 store)

/-- The sector range of a storage command. -/
def rangeOf (o : Op) : Nat × Nat := (o.f 16 8, o.f 12 4)

/-- An earlier READ, WRITE or TRIM of the ring on the same sectors, one of the two a write, has not run yet (R292). -/
def overlapAhead (s : State) (o : Op) : Bool :=
  s.ops.any (fun e => e.2.port = o.port && e.2.sq = o.sq && e.2.seq < o.seq && isOpen e.2 && !waitsDurable s e.1 &&
    (e.2.opcode = 0x01 || e.2.opcode = 0x02 || e.2.opcode = 0x04) && (e.2.opcode ≠ 0x02 || o.opcode ≠ 0x02) && e.2.f 8 2 = o.f 8 2 &&
    (rangeOf e.2).1 < (rangeOf o).1 + (rangeOf o).2 && (rangeOf o).1 < (rangeOf e.2).1 + (rangeOf e.2).2)

/-- The entries of a buffer list: address and length. -/
def bufferList (bs : List Byte) (n : Nat) : List (Nat × Nat) := (List.range n).map (fun i => (field bs (16 * i) 8, field bs (16 * i + 8) 4))

/-- Where the running total of the list first exceeds the bytes wanted, or the last entry when it falls short: the LEN field at fault. -/
def listTotalFault (want : Nat) : List (Nat × Nat) → Nat → Nat → Option Nat
  | [], _, _ => none
  | (_, l) :: rest, i, tot =>
    if tot + l > want then some (16 * i + 8)
    else if rest.isEmpty then (if tot + l = want then none else some (16 * i + 8))
    else listTotalFault want rest (i + 1) (tot + l)

/-- The first field of a buffer list at fault (R290 check 6). -/
def listFault (bs : List Byte) (n want : Nat) : Option Nat :=
  let bad := (List.range n).findSome? (fun i =>
    if field bs (16 * i) 8 % 64 ≠ 0 then some (16 * i)
    else if field bs (16 * i + 8) 4 = 0 || field bs (16 * i + 8) 4 % 64 ≠ 0 then some (16 * i + 8)
    else if field bs (16 * i + 12) 4 ≠ 0 then some (16 * i + 12) else none)
  match bad with
  | some o => some o
  | none => listTotalFault want (bufferList bs n) 0 0

/-- The checks of R285 and R290 before the buffer list: the first that fails. -/
def storageChecks (s : State) (id : Nat) (o : Op) : List (Bool × Nat × Nat) :=
  let n := o.f 8 2
  let st := lookup s.stores n
  let wr := o.opcode ≠ 0x02
  let owner := st.any (fun st => st.slice = o.slice)
  let shared := grantedTo s n o.slice id
  let count := o.f 12 4
  let sector := o.f 16 8
  let list := bit (o.f 10 1) 0
  [(n > 1023, stBadDescriptor, 8),
   (st.isNone || deletedAhead s n id || !(owner || shared) || st.any (fun st => st.index.isSome) || (wr && !owner), stDenied, 0),
   (!owner && st.any (fun st => st.level ≠ 0), stLocked, 0),
   (count = 0 || (o.opcode ≠ 0x04 && count > 16384), stBadDescriptor, 12),
   (o.opcode ≠ 0x04 && list && (o.f 32 2 = 0 || o.f 32 2 > 256), stBadDescriptor, 32),
   (o.opcode ≠ 0x04 && o.f 24 8 % 64 ≠ 0, stBadDescriptor, 24),
   (st.any (fun st => sector + count > st.sectors), stBounds, 16),
   (wr && rangeLocked s n sector count, stDenied, 0)]

/-- The buffers of a READ or WRITE: address and length. -/
def buffersOf (s : State) (o : Op) : List (Nat × Nat) :=
  if bit (o.f 10 1) 0 then bufferList (readPartner s o.port (o.f 24 8) (16 * o.f 32 2)) (o.f 32 2) else [(o.f 24 8, o.f 12 4 * 4096)]

/-- The buffer-list check (R290 check 6). -/
def listCheck (s : State) (o : Op) : Option Nat :=
  if bit (o.f 10 1) 0 then listFault (readPartner s o.port (o.f 24 8) (16 * o.f 32 2)) (o.f 32 2) (o.f 12 4 * 4096) else none

/-- A storage command runs when no FENCE, no overlapping earlier command and no check stops it; `k` is its effect. -/
def runStorage (s : State) (id opcode : Nat) (k : Op → Store → List (Nat × Nat) → State → State) : State :=
  runOp s id opcode 2 (fun o s =>
    if waitsDurable s id then s
    else
      checks s id (storageChecks s id o)
        (if overlapAhead s o then s
         else
           match lookup s.stores (o.f 8 2) with
           | none => s
           | some st =>
             if opcode = 0x04 then k o st [] s
             else
               let lr := if bit (o.f 10 1) 0 then [(o.f 24 8, 16 * o.f 32 2, false)] else []
               withPartner s id o lr
                 (match listCheck s o with
                  | some off => fail s id stBadDescriptor (0x50000 + off)
                  | none =>
                    let bufs := buffersOf s o
                    withPartner s id o (bufs.map (fun b => (b.1, b.2, opcode = 0x02))) (k o st bufs s))))

/-! ### READ (R291, R301) -/

/-- Write the bytes of one sector of a READ where its buffers put it; `off` is its offset in the whole transfer. -/
def toBuffers (s : State) (p : Nat) : List (Nat × Nat) → Nat → List Byte → State
  | [], _, _ => s
  | (a, l) :: rest, off, bs =>
    if off ≥ l then toBuffers s p rest (off - l) bs
    else
      let here := bs.take (l - off)
      toBuffers (writePartner s p (a + off) here) p rest 0 (bs.drop (l - off))

/-- READ: every sector of the range, failing units' destination bytes unchanged (R291, R301). -/
def readEffect (s : State) (id : Nat) (o : Op) (st : Store) (bufs : List (Nat × Nat)) : State :=
  let sector := o.f 16 8
  let count := o.f 12 4
  let us := unitsOf (sector * 4096) (count * 4096)
  let bad := us.filter (unitFails s st)
  let good := (List.range count).filter (fun i => !(bad.contains ((sector + i) / 4)))
  let s' := good.foldl (fun x i => toBuffers x o.port bufs (4096 * i) (readStore s st ((sector + i) * 4096) 4096)) s
  let s' := countReads s' (o.f 8 2) us
  let s' := charge s' st.slice (fun m => { m with flashRead := m.flashRead + us.length * unitBytes })
  match bad with
  | [] => finishOk s' id 0
  | u :: _ => finish s' id stMedia bad.length (max (4 * u) sector)

/-- READ. -/
def execRead (op : Nat) (s : State) : Host.Outcome State Fault Refusal :=
  .next (runStorage s op 0x02 (fun o st bufs s => readEffect s op o st bufs))

/-! ### WRITE and TRIM (R263, R291, R295-R302) -/

/-- Byte `i` of the transfer from the buffers. -/
def fromBuffers (s : State) (p : Nat) : List (Nat × Nat) → Nat → Byte
  | [], _ => 0
  | (a, l) :: rest, i => if i < l then partnerByte s p (a + i) else fromBuffers s p rest (i - l)

/-- The new contents of a unit after sectors `sector` to `sector + count - 1` are written with bytes `src` (read-modify-write, R263). -/
def mergeUnit (old : Mem) (u sector count : Nat) (src : Nat → Byte) : Mem :=
  let lo := max (sector * 4096) (u * unitBytes)
  let hi := min ((sector + count) * 4096) ((u + 1) * unitBytes)
  pasteRange old (lo - u * unitBytes) (hi - lo) ((List.range (hi - lo)).filterMap (fun i =>
    let b := src (lo + i - sector * 4096)
    if b = 0 then none else some (i, b)))

/-- The range covers the unit whole. -/
def coversUnit (sector count u : Nat) : Bool := sector ≤ 4 * u && 4 * u + 4 ≤ sector + count

/-- The journal records of map changes: one per 64-sector part with the 64-sector atomic unit, one per unit otherwise (R298). -/
def recordsOf (atomic : Nat) : List MapChange → List (List MapChange)
  | [] => []
  | c :: cs =>
    match recordsOf atomic cs with
    | (d :: g) :: rest => if atomic = 64 && c.unit / 16 = d.unit / 16 then (c :: d :: g) :: rest else [c] :: (d :: g) :: rest
    | rest => [c] :: rest

/-- The JSEQ of the record that will commit unit `u`, when the changes `acc` of its write come before it (13 R255). -/
def commitSeq (s : State) (acc : List MapChange) (atomic u : Nat) : Nat :=
  s.journal.jseq + (recordsOf atomic (acc ++ [{ store := 0, unit := u, new := 0, old := 0 }])).length

/-- Write the units of one part: placed one after the other; the map changes, or none when a unit cannot be placed. TRIM leaves units it covers whole unmapped. -/
def writeUnits (s : State) (storeId : Nat) (st : Store) (atomic : Nat) (trim : Bool) (sector count : Nat) (src : Nat → Byte) :
    List Nat → List MapChange → Option (List MapChange × State)
  | [], acc => some (acc, s)
  | u :: us, acc =>
    let old := unitEntry st u
    if trim && coversUnit sector count u then
      writeUnits s storeId st atomic trim sector count src us
        (if old = unmapped then acc else acc ++ [{ store := storeId, unit := u, new := unmapped, old := old }])
    else if trim && old = unmapped then writeUnits s storeId st atomic trim sector count src us acc
    else
      match placeUnit s storeId u (commitSeq s acc atomic u) (mergeUnit ((unitData s st u).getD []) u sector count src) with
      | none => none
      | some (e, s) => writeUnits s storeId st atomic trim sector count src us (acc ++ [{ store := storeId, unit := u, new := e, old := old }])

/-- A WRITE or TRIM past its checks: partial units that cannot be read stop it (R302), then placement (R291, 13 R256), then its journal records; with FUA it completes
when it is durable, and so the records of its units made before it (R296). -/
def writeEffect (s : State) (id : Nat) (o : Op) (st : Store) (trim : Bool) (src : Nat → Byte) : State :=
  let n := o.f 8 2
  let sector := o.f 16 8
  let count := o.f 12 4
  let us := unitsOf (sector * 4096) (count * 4096)
  let partials := us.filter (fun u => !coversUnit sector count u)
  match partials.find? (unitFails s st) with
  | some u => finish (countReads s n [u]) id stMedia 0 (max (4 * u) sector)
  | none =>
    let a := atomicUnit s o
    let s := countReads s n partials
    match writeUnits s n ((lookup s.stores n).getD st) a trim sector count src us [] with
    | none => fail (clearRefused s) id (placeStatus s) 0
    | some (cs, s) =>
      let s := (recordsOf a cs).foldl journalRecord s
      let s := charge s st.slice (fun m => { m with flashWrite := m.flashWrite + cs.length * unitBytes, flashRead := m.flashRead + partials.length * unitBytes })
      let s := if bit o.flags 1 then awaitRecords s n us id else s
      if bit o.flags 1 && waitsDurable s id then s else finishOk s id a

/-- WRITE. -/
def execWrite (op : Nat) (s : State) : Host.Outcome State Fault Refusal :=
  .next (runStorage s op 0x01 (fun o st bufs s => writeEffect s op o st false (fromBuffers s o.port bufs)))

/-- TRIM: a write whose data is zeros (R289). -/
def execTrim (op : Nat) (s : State) : Host.Outcome State Fault Refusal :=
  .next (runStorage s op 0x04 (fun o st _ s => writeEffect s op o st true (fun _ => 0)))

/-! ### FLUSH and FENCE (R294, R297) -/

/-- FLUSH: complete once every completed write of the named stores is durable: at once while HOLDUP_OK is high, otherwise when the journal buffer has been programmed
(R297). -/
def execFlush (op : Nat) (s : State) : Host.Outcome State Fault Refusal :=
  .next (runOp s op 0x00 2 (fun o s =>
    let n := o.f 8 2
    checks s op
      [(n > 1023 && n ≠ 0xFFFF, stBadDescriptor, 8),
       (n ≠ 0xFFFF && (deletedAhead s n op || !(lookup s.stores n).any (fun st => st.slice = o.slice && st.index.isNone)), stDenied, 0)]
      (finishOk (commitRecords s) op 0)))

/-- The storage commands and FILTER_SCANs before a fence have completed and posted their completions (R294). -/
def fenceDone (s : State) (f : StorageFence) : Bool :=
  f.tails.all (fun t =>
    let p := t.1 / 256
    let q := t.1 % 256
    !(s.ops.any (fun e => e.2.port = p && e.2.sq = q && e.2.seq < t.2 && e.1 ≠ f.op && isStorage e.2.opcode)) &&
    (match lookup (getPort s p).sqs q with
     | some r => t.2 ≤ r.fetched
     | none => true))

/-- The fence `id` orders nothing any more. -/
def dropFence (s : State) (id : Nat) : State := { s with fences := s.fences.filter (fun f => f.op ≠ id) }

/-- Storage FENCE: its checks, and its completion once everything before it is done (R294). -/
def execStorageFence (op : Nat) (s : State) : Host.Outcome State Fault Refusal :=
  .next (runOp s op 0x08 2 (fun o s =>
    let bad := o.f 8 1 = 1 && (List.range 256).any (fun q => q ≠ o.sq && bit (o.f 32 32) q &&
      !((lookup (getPort s o.port).sqs q).any (fun r => r.slice = o.slice)))
    if o.f 8 1 > 1 then fail (dropFence s op) op stBadDescriptor 0
    else if bad then fail (dropFence s op) op stDenied 0
    else
      match s.fences.find? (fun f => f.op = op) with
      | some f => if fenceDone s f then finishOk (dropFence s op) op 0 else s
      | none => finishOk s op 0))

/-! ### STORE_CREATE and STORE_DELETE (R286, R287) -/

/-- A list of bytes that differs from another in its first byte where the two were equal. -/
def apart (a b : List Byte) : List Byte := if a = b then b.modifyHead (fun x => x ^^^ 1#8) else b

/-- A 64-byte secret from the device's random source: free bytes, the two AES-256 keys it is made of with different values (R288; log entry 5). -/
def newSecret (s : State) : List Byte × State :=
  let a := (List.range 32).map (Config.freeByte s.free)
  (a ++ apart a ((List.range 32).map (fun i => Config.freeByte s.free (32 + i))), { s with free := s.free + 1 })

/-- A new store, empty. -/
def newStore (slice : Nat) (bulk : Bool) (sectors key : Nat) : Store where
  slice := slice
  bulk := bulk
  sectors := sectors
  key := key
  level := 0
  grants := []
  index := none
  deleting := false
  map := []

/-- The store takes an imported key (its record becomes KIND 1) or one made inside the device (17 R351, R353). -/
def bindKey (s : State) (n slice key : Nat) : Nat × State :=
  if key = 0 then
    let (sec, s) := newSecret s
    let h := s.sec.nextHandle
    (h, { s with sec := { s.sec with nextHandle := h + 1, keys := s.sec.keys ++ [{ kind := 1, slice := slice, store := n, handle := h, gen := s.sec.srkGen, secret := sec }] } })
  else
    (key, { s with sec := { s.sec with keys := s.sec.keys.map (fun k => if k.handle = key && k.kind = 2 && k.slice = slice then { k with kind := 1, store := n } else k) } })

/-- STORE_CREATE (R286). -/
def execStoreCreate (op : Nat) (s : State) : Host.Outcome State Fault Refusal :=
  .next (runOp s op 0x61 2 (fun o s =>
    let n := o.f 8 2
    let slice := o.f 10 1
    let bulk := o.f 11 1 = 1
    let key := o.f 12 4
    let sectors := o.f 16 8
    let conf := (lookup s.slices slice).map Slice.conf
    let cap := capacityOf bulk sectors
    checks s op
      [(n > 1023, stBadDescriptor, 8), (conf.isNone, stBadDescriptor, 10), (o.f 11 1 > 1, stBadDescriptor, 11),
       (sectors < 4 || sectors > 2 ^ 33 || sectors % 4 ≠ 0, stBadDescriptor, 16),
       ((lookup s.stores n).isSome, stBounds, 8),
       (key ≠ 0 && !(s.sec.keys.any (fun k => k.handle = key && k.kind = 2 && k.slice = slice)), stBounds, 12),
       (conf.any (fun c => capacityUsed s slice bulk + cap > if bulk then c.bulk else c.fast), stBounds, 16)]
      (let (h, s) := bindKey s n slice key
       finishOk { s with stores := insertKey s.stores n (newStore slice bulk sectors h) } op cap)))

/-- A store is gone: its key destroyed, its units unmapped, its capacity free (R287). -/
def removeStore (s : State) (n : Nat) : State :=
  { s with stores := removeKey s.stores n, sec := { s.sec with keys := s.sec.keys.filter (fun k => !(k.kind = 1 && k.store = n)) } }

/-- STORE_DELETE: after the commands in flight on the store, its key is destroyed (R287). -/
def execStoreDelete (op : Nat) (s : State) : Host.Outcome State Fault Refusal :=
  .next (runOp s op 0x65 2 (fun o s =>
    let n := o.f 8 2
    let st := lookup s.stores n
    checks s op
      [(n > 1023, stBadDescriptor, 8), (st.isNone, stBounds, 8), (deletedAhead s n op, stDenied, 0),
       (st.any (fun st => st.index.isSome) || storeLocked s n, stDenied, 0)]
      (if busyAhead s n op then s else finishOk (removeStore s n) op 0)))

/-! ### Self-tests (R303-R305) -/

/-- The bobbins a BOBBINS mask selects. -/
def bobbinsOf (s : State) (mask : Nat) : List Nat :=
  if mask = 0 then List.range (nBobbins s) else (List.range 16).filter (fun b => bit mask b)

/-- Start a self-test (R305). -/
def startTest (s : State) (id : Nat) (o : Op) (extended : Bool) : State :=
  if o.phase ≠ .fetched then s
  else
    checks s id
      [(o.f 16 8 % 64 ≠ 0, stBadDescriptor, 0), (s.selfTest.isSome, stBounds, 8), ((bobbinsOf s (o.f 10 2)).any (fun b => b ≥ nBobbins s), stBounds, 10)]
      (withPartner s id o [(o.f 16 8, 64, true)]
        { s with selfTest := some { op := id, extended := extended, bobbins := bobbinsOf s (o.f 10 2), raddr := o.f 16 8, port := o.port,
                                    begin_ := s.trd.beat, active := s.clock } })

/-- The 64-byte result record (R304). -/
def testRecord (s : State) (t : SelfTest) (outcome : Nat) (r : TestFindings) : List Byte :=
  leBytes 1 (b2n t.extended) ++ leBytes 1 outcome ++ leBytes 2 (min r.fails 0xFFFF) ++ leBytes 4 0 ++ leBytes 8 t.begin_ ++ leBytes 8 s.trd.beat ++
  leBytes 8 (s.clock - t.active) ++ leBytes 8 r.pages ++ leBytes 4 r.refresh ++ leBytes 4 r.uncorr ++
  leBytes 4 (if r.fails = 0 then 0 else r.first) ++ leBytes 12 0

/-- A test ends: its record is written, unless its port was reset, and it completes (R305). -/
def endTest (s : State) (t : SelfTest) (outcome status : Nat) (r : TestFindings) : State :=
  let s := { s with selfTest := none }
  let silent := (lookup s.ops t.op).any (fun o => o.silent)
  let s := if silent then s else writePartner s t.port t.raddr (testRecord s t outcome r)
  finish s t.op status 0 0

/-- What an aborted test has found so far: free values (log entry 5). -/
def partFindings (s : State) : TestFindings × State :=
  let (p, s) := draw s
  ({ fails := 0, pages := p, refresh := 0, uncorr := 0, first := 0 }, s)

/-- The running test is aborted (R305). -/
def abortTest (s : State) : State :=
  match s.selfTest with
  | some t =>
    let (r, s) := partFindings s
    endTest s t 2 stAborted r
  | none => s

/-- SELF_TEST ACTION 0. -/
def execSelfTestShort (op : Nat) (s : State) : Host.Outcome State Fault Refusal :=
  .next (runRow s op 0x68 2 (fun o => o.f 8 1 ≠ 1 && o.f 8 1 ≠ 2) (fun o s => if o.f 8 1 > 2 then fail s op stBadDescriptor 0 else startTest s op o false))

/-- SELF_TEST ACTION 1. -/
def execSelfTestExtended (op : Nat) (s : State) : Host.Outcome State Fault Refusal :=
  .next (runRow s op 0x68 2 (fun o => o.f 8 1 ≠ 0 && o.f 8 1 ≠ 2) (fun o s => if o.f 8 1 > 2 then fail s op stBadDescriptor 0 else startTest s op o true))

/-- SELF_TEST ACTION 2: it completes OK and the running test ends with ABORTED (R305). -/
def execSelfTestAbort (op : Nat) (s : State) : Host.Outcome State Fault Refusal :=
  .next (runRow s op 0x68 4 (fun o => o.f 8 1 ≠ 0 && o.f 8 1 ≠ 1) (fun o s =>
    if o.f 8 1 > 2 then fail s op stBadDescriptor 0 else abortTest (finishOk s op 0)))

/-- Up to `n` of the numbers of a list, picked by free values. -/
def pickUpTo (s : State) : Nat → List Nat → List Nat × State
  | _, [] => ([], s)
  | 0, _ => ([], s)
  | n + 1, x :: xs =>
    let (k, s) := draw s
    if k % 2 = 1 then (let (l, s) := pickUpTo s n xs; (x :: l, s)) else pickUpTo s (n + 1) xs

/-- What a test found on a bobbin: closed blocks that need refresh are queued, and pages it could not read are uncorrectable; which ones are free values, no more than it
reports (R303, 13 R275; log entry 18). -/
def applyFindings (s : State) (r : TestFindings) (b : Nat) : State :=
  let x := getBob s b
  let (ks, s) := pickUpTo s r.refresh (keys (x.blocks.filter (fun e => e.2.st = .closed)))
  let (ps, s) := pickUpTo s r.uncorr (keys x.pages)
  modBob s b (fun x =>
    let x := { x with pages := x.pages.map (fun e => if ps.contains e.1 then (e.1, { e.2 with uncorr := true }) else e),
                      ctr := { x.ctr with uncorr := sat32 (x.ctr.uncorr + ps.length) } }
    ks.foldl queueRefresh x)

/-- SELF_TEST_DONE: the test ends with what it found (R303, R305). -/
def execSelfTestDone (found : TestFindings) (s : State) : Host.Outcome State Fault Refusal :=
  match s.selfTest with
  | some t => .next (endTest (t.bobbins.foldl (fun s b => applyFindings s found b) s) t (if found.fails = 0 then 0 else 1) stOk found)
  | none => .next s

/-! ### HOLDUP_OK (R299) -/

/-- HOLDUP_OK_FALL: HOLDUP_LOW; the journal buffer is programmed; every write in flight takes the 1-sector unit; what is committed stays so (R298, R299). -/
def execHoldupOkFall (s : State) : Host.Outcome State Fault Refusal :=
  if !s.pins.holdupOk then .next s
  else
    let s := { s with pins := { s.pins with holdupOk := false }, ops := s.ops.map (fun e => (e.1, { e.2 with lowHoldup := true })) }
    .next (postEvent (noteAlert (programJournal s)) 0x60 0)

/-- HOLDUP_OK_RISE: every record in the journal buffer is committed at that moment, then HOLDUP_RESTORED (R264, R299). -/
def execHoldupOkRise (s : State) : Host.Outcome State Fault Refusal :=
  if s.pins.holdupOk then .next s
  else
    let s := commitAll { s with pins := { s.pins with holdupOk := true } }
    .next (postEvent (noteAlert s) 0x61 0)

end Sys2Proof.Machine
end

