-- ==== Sys2Proof/Machine/Memory.lean ====
section
/-! DEFINITION. Pool pages, skeins, hanks, prefetch directives (08). -/

namespace Sys2Proof.Machine

/-! ### POOL_MAP (R135, R136) -/

/-- Hank pages a slice has mapped. -/
def hankCount (x : Slice) : Nat := (x.pages.filter (fun p => isHank p.2)).length

/-- The first page of a range with a property. -/
def firstPage (first count : Nat) (p : Nat → Bool) : Option Nat := ((List.range count).map (fun i => first + i)).find? p

/-- The lowest of two optional page numbers. -/
def lowest (a b : Option Nat) : Option Nat :=
  match a, b with
  | some x, some y => some (min x y)
  | some x, none => some x
  | none, y => y

/-- The page where a range of `count` passes what is left of a limit. -/
def passLimit (first count left : Nat) : Option Nat := if count > left then some (first + left) else none

/-- The lowest offending page of a POOL_MAP (R135). -/
def mapOffence (s : State) (q : Nat) (x : Slice) (kind first count : Nat) : Option Nat :=
  let mapped : Nat → Bool := fun p => (lookup x.pages p).isSome
  if kind = 1 then lowest (firstPage first count mapped) (passLimit first count (heldLimit x.conf - heldPages s q))
  else if kind = 2 then lowest (firstPage first count mapped) (passLimit first count (x.conf.park - hankCount x))
  else firstPage first count (fun p =>
    match (lookup x.pages p).map Page.kind with
    | none => true
    | some (.window _) => true
    | _ => false)

/-- A range of pages leaves the slice's space, with its contents (R136). -/
def unmapPages (s : State) (q first count : Nat) : State :=
  modSlice s q (fun x =>
    { x with pages := x.pages.filter (fun p => !(first ≤ p.1 && p.1 < first + count)),
             pool := zeroRange x.pool (pageBytes * first) (pageBytes * count) })

/-- A new hank of each page of a range (R135). -/
def mapHanks (s : State) (q first count : Nat) : State :=
  (List.range count).foldl (fun s i =>
    modSlice s q (fun x => { x with pages := insertKey x.pages (first + i) { kind := .hank .new, lastUse := s.trd.beat, parked := [] } })) s

/-- Every 64-byte word of a range of pages is written, so none stays on an uncorrectable list. -/
def clearPages (s : State) (q first count : Nat) : State := clearUncorr s q (pageBytes * first) (pageBytes * count)

/-- POOL_MAP (R135, R136). Unmapping waits while a page of the range is protected. -/
def execPoolMap (op : Nat) (s : State) : Host.Outcome State Fault Refusal :=
  .next (runOp s op 0x28 2 (fun o s =>
    let first := o.f 8 4
    let count := o.f 12 4
    let kind := o.f 16 1
    checks s op
      [(first ≥ slicePages, stBadDescriptor, 8),
       (count = 0 || count > slicePages || first + count > slicePages, stBadDescriptor, 12),
       (kind > 2, stBadDescriptor, 16)]
      (match lookup s.slices o.slice with
       | none => fail s op stBounds first
       | some x =>
         match mapOffence s o.slice x kind first count with
         | some p => fail s op stBounds p
         | none =>
           if kind = 0 then
             if (firstPage first count (pageProtected s o.slice)).isSome then s else finishOk (unmapPages s o.slice first count) op 0
           else if kind = 1 then
             match mapPages s o.slice first .work count with
             | .got s => finishOk (clearPages s o.slice first count) op 0
             | _ => s
           else finishOk (mapHanks s o.slice first count) op 0)))

/-! ### Images in stores (R140; 10 R180) -/

/-- Checks 1 and 2 of R140 and of 10 R180 on the store and the sector range, after the store number (14 R285). A slice the store is shared with may load
from it at level 0 (15 R312, 17 R349). -/
def imageChecks (s : State) (id : Nat) (o : Op) : List (Bool × Nat × Nat) :=
  let n := o.f 8 2
  let st := lookup s.stores n
  let owner := st.any (fun st => st.slice = o.slice)
  [(n > 1023, stBadDescriptor, 8),
   (st.isNone || deletedAhead s n id || !(owner || grantedTo s n o.slice id), stDenied, 0),
   (!owner && st.any (fun st => st.level ≠ 0), stLocked, 0),
   (st.any (fun st => o.f 16 8 + o.f 24 8 > st.sectors), stBounds, 24)]

/-- The first store-relative sector of a byte range that cannot be read. -/
def badSector (s : State) (st : Store) (off n : Nat) : Option Nat := ((unitsOf off n).find? (unitFails s st)).map (fun u => max (off / 4096) (4 * u))

/-- An image with its DIGEST field zero has the digest that the field holds (R137, 10 R176). -/
def digestGood (image : List Byte) : Bool := shake256 (image.take 64 ++ List.replicate 64 0 ++ image.drop 128) = cut image 64 64

/-- Read a whole image and check it. `bad` names the wrong field of the 128-byte header; `entry` is the image offset of 32 bytes that place further tables and
`tables` the header field at fault for those; `ok` checks the rest and completes the operation. An uncorrectable read decides in place of the first check that
needs the unreadable byte: before check 3 for the header, else before the digest. -/
def withImage (s : State) (id : Nat) (o : Op) (bad : List Byte → Option Nat) (entry : List Byte → Nat)
    (tables : List Byte → List Byte → Option Nat) (ok : List Byte → State → State) : State :=
  match lookup s.stores (o.f 8 2) with
  | none => s
  | some st =>
    let base := o.f 16 8 * 4096
    let meet : Nat → State := fun n =>
      charge (countReads s (o.f 8 2) (unitsOf base n)) o.slice (fun m => { m with flashRead := m.flashRead + n })
    match badSector s st base 128 with
    | some k => finish (meet 128) id stMedia 0 k
    | none =>
      let h := readStore s st base 128
      let size := field h 16 8
      let placed := if (badSector s st (base + entry h) 32).isNone then tables h (readStore s st (base + entry h) 32) else none
      match bad h, placed, badSector s st base size with
      | some off, _, _ => fail (meet 128) id stBadDescriptor (0x20000 + off)
      | none, some off, _ => fail (meet 128) id stBadDescriptor (0x20000 + off)
      | none, none, some k => finish (meet size) id stMedia 0 k
      | none, none, none =>
        let image := readStore s st base size
        if digestGood image then ok image (meet size) else fail (meet size) id stBadDescriptor (0x20000 + 64)

/-! ### SKEIN_LOAD (R140, R141) -/

/-- The MAGIC of a skein image. -/
def skeinMagic : List Byte := [0x41, 0x54, 0x53, 0x4B, 0x45, 0x49, 0x4E, 0x31]

/-- SIZE is wrong in an image header (R140, 10 R180). -/
def sizeBad (h : List Byte) (sectors : Nat) : Bool := field h 16 8 % 64 ≠ 0 || field h 16 8 > 2 ^ 40 || field h 16 8 > sectors * 4096

/-- The first wrong field of a skein header (R137, R140 check 3). -/
def skeinHeaderBad (sectors : Nat) (h : List Byte) : Option Nat :=
  let n := field h 12 4
  let lo := field h 24 8
  let cs : List (Bool × Nat) :=
    [(cut h 0 8 ≠ skeinMagic, 0), (field h 8 2 ≠ 1, 8), (field h 10 2 ≠ 0, 10), (n = 0 || n > 65535, 12), (sizeBad h sectors, 16),
     (lo % 64 ≠ 0 || lo < 128 || lo + 128 * n > field h 16 8, 24), (field h 32 32 ≠ 0, 32)]
  (cs.find? (fun c => c.1)).map Prod.snd

/-- A layer record is malformed (R138, R140 check 5). -/
def layerBad (l : List Byte) (size : Nat) : Bool :=
  let kind := field l 0 1
  let wfmt := field l 1 1
  let woff := field l 24 8
  let seeds := field l 32 8
  kind > 2 || wfmt > 11 || (kind = 2 && wfmt ≠ 0) || field l 2 1 > 2 || field l 4 1 > 1 || field l 7 1 ≠ 0 || field l 44 20 ≠ 0 ||
  woff % 64 ≠ 0 || seeds % 16 ≠ 0 || (kind ≠ 2 && woff + field l 20 4 * blockStride wfmt > size) || seeds + 16 * field l 40 4 > size

/-- The headroom H of a channel with zero point z (R92). -/
def headroom (positive : Bool) (ofmt : Nat) (z : Int) : Int := if positive then qmax ofmt - z else min (qmax ofmt - z) (z - qmin ofmt)

/-- A seed is out of its range, or leaves no headroom (R90). -/
def seedBad (l e : List Byte) : Bool :=
  let ofmt := field l 3 1
  let z := signed 16 (field e 6 2)
  field e 0 4 ≥ 2 ^ 31 || field e 4 1 > 63 || z < qmin ofmt || z > qmax ofmt || headroom (field l 4 1 = 1) ofmt z < 1

/-- The third stage of R90 fails for a layer. -/
def rangeBad (image l : List Byte) : Bool :=
  field l 5 1 > 16 || field l 6 1 > 8 || field l 3 1 > 4 ||
  (List.range (field l 16 4)).any (fun c => seedBad l (cut image (field l 32 8 + 16 * c) 16))

/-- The seed checks of R90: the status and DETAIL of the first stage that fails. -/
def seedCheck (image : List Byte) (layers : List (List Byte)) : Option (Nat × Nat) :=
  let q : (List Byte → Bool) → Option Nat := fun p => layers.findIdx? (fun l => field l 2 1 ≠ 0 && p l)
  match q (fun l => field l 16 4 = 0) with
  | some i => some (stBounds, 0x10000 + i)
  | none =>
    match q (fun l => field l 32 8 = 0 || field l 40 4 < field l 16 4) with
    | some i => some (stSeedMissing, i)
    | none => (q (rangeBad image)).map (fun i => (stBounds, 0x10000 + i))

/-- A verified skein image becomes a handle (R140). -/
def loadSkein (s : State) (id : Nat) (o : Op) (image : List Byte) : State :=
  let n := field image 12 4
  let layers := (List.range n).map (fun i => cut image (field image 24 8 + 128 * i) 128)
  match layers.findIdx? (fun l => layerBad l (field image 16 8)) with
  | some i => fail s id stBadDescriptor (0x10000 + i)
  | none =>
    match seedCheck image layers with
    | some (st, d) => fail s id st d
    | none =>
      let k : Skein := { slice := o.slice, store := o.f 8 2, sector := o.f 16 8, sectors := o.f 24 8, size := field image 16 8, nlayers := n,
                         digest := cut image 64 64, releasing := false }
      let h := s.nextHandle
      finishOk { s with skeins := insertKey s.skeins h k, nextHandle := h + 1 } id (h % 2 ^ 32 + n * 2 ^ 32)

/-- SKEIN_LOAD with OP 0. -/
def execSkeinLoad (op : Nat) (s : State) : Host.Outcome State Fault Refusal :=
  .next (runRow s op 0x22 2 (fun o => o.f 10 1 ≠ 1) (fun o s =>
    if o.f 10 1 > 1 then fail s op stBadDescriptor 10
    else checks s op (imageChecks s op o) (withImage s op o (skeinHeaderBad (o.f 24 8)) (fun _ => 0) (fun _ _ => none) (fun image s => loadSkein s op o image))))

/-- A skein handle of a slice whose release has not begun. -/
def ownSkein (s : State) (q h : Nat) : Bool := (lookup s.skeins h).any (fun k => k.slice = q && !k.releasing)

/-- A resident job names the handle. -/
def skeinInUse (s : State) (h : Nat) : Bool := s.jobs.any (fun j => j.2.place.isSome && j.2.skeins.contains h)

/-- The handle's pinned and cached copies are dropped, and the handle (R141). -/
def dropSkein (s : State) (h : Nat) : State :=
  { s with skeins := removeKey s.skeins h,
           slices := s.slices.map (fun e => (e.1, { e.2 with skeinPages := e.2.skeinPages.filter (fun p => p.handle ≠ h), pins := e.2.pins.filter (fun p => p.handle ≠ h) })) }

/-- SKEIN_LOAD with OP 1: the release begins, and completes once every resident job that names the handle has ended (R141). -/
def execSkeinRelease (op : Nat) (s : State) : Host.Outcome State Fault Refusal :=
  .next (runRow s op 0x22 2 (fun o => o.f 10 1 ≠ 0) (fun o s =>
    let h := o.f 12 4
    if o.f 10 1 > 1 then fail s op stBadDescriptor 10
    else if o.phase = .fetched && !ownSkein s o.slice h then fail s op stDenied 0
    else if skeinInUse s h then { s with skeins := adjust s.skeins h (fun k => { k with releasing := true }) }
    else finishOk (dropSkein s h) op 0))

/-! ### SKEIN_PIN (R144) -/

/-- The checks both operations of SKEIN_PIN share. -/
def pinChecks (s : State) (o : Op) : List (Bool × Nat × Nat) :=
  let unit := if o.f 13 1 = 1 then pageBytes else 64
  [(o.f 12 1 > 1, stBadDescriptor, 0), (o.f 13 1 > 1, stBadDescriptor, 0),
   (o.f 16 8 % unit ≠ 0, stBadDescriptor, 0), (o.f 24 8 % unit ≠ 0, stBadDescriptor, 0),
   (o.f 13 1 = 0 && o.f 32 8 % 64 ≠ 0, stBadDescriptor, 0),
   (!ownSkein s o.slice (o.f 8 4), stDenied, 0)]

/-- The image pages of a pool pin. -/
def pinPages (o : Op) : List Nat := (List.range (o.f 24 8 / pageBytes)).map (fun i => o.f 16 8 / pageBytes + i)

/-- One more image page is pinned in the pool: a cached copy is turned into a pinned one, or the page is read (R144). -/
def pinPage (s : State) (q h : Nat) (k : Skein) (page : Nat) : Fetch :=
  match (lookup s.slices q).bind (fun x => poolCopy x h page) with
  | some _ =>
    .bytes (modSlice s q (fun x => { x with skeinPages := x.skeinPages.map (fun p => if p.handle = h && p.page = page then { p with pinned := true } else p) })) []
  | none =>
    match readSkein s q h k (pageBytes * page) (min pageBytes (k.size - pageBytes * page)) with
    | .bytes s' bs =>
      match obtainPage s' q with
      | .got s'' =>
        let copy : SkeinPage := { handle := h, page := page, pinned := true, lastUse := s.trd.beat, data := writeBytes [] 0 bs }
        .bytes (modSlice s'' q (fun x => { x with skeinPages := x.skeinPages ++ [copy] })) []
      | _ => .wait s
    | r => r

/-- Pin pages one after the other. -/
def pinAll (q h : Nat) (k : Skein) : List Nat → State → Fetch
  | [], s => .bytes s []
  | p :: t, s =>
    match pinPage s q h k p with
    | .bytes s _ => pinAll q h k t s
    | r => r

/-- Pages of a list that are not pinned yet. -/
def unpinned (s : State) (q h : Nat) (l : List Nat) : Nat :=
  match lookup s.slices q with
  | some x => (l.filter (fun p => !((poolCopy x h p).any (fun c => c.pinned)))).length
  | none => l.length

/-- The pin goes outside the image, the commons share or the held limit (R144). The last page of an image may be partial. -/
def pinOutside (s : State) (o : Op) (k : Skein) : Bool :=
  let share := ((lookup s.slices o.slice).map (fun x => x.conf.commons * 65536)).getD 0
  if o.f 13 1 = 1 then
    o.f 16 8 + o.f 24 8 > roundUp k.size pageBytes || !mayHold s o.slice (unpinned s o.slice (o.f 8 4) (pinPages o))
  else o.f 16 8 + o.f 24 8 > k.size || o.f 32 8 + o.f 24 8 > share

/-- SKEIN_PIN with OP 0 (R144). -/
def execSkeinPin (op : Nat) (s : State) : Host.Outcome State Fault Refusal :=
  .next (runRow s op 0x23 2 (fun o => o.f 12 1 ≠ 1) (fun o s =>
    checks s op (pinChecks s o)
      (let h := o.f 8 4
       match lookup s.skeins h with
       | none => s
       | some k =>
         if pinOutside s o k then fail s op stBounds 0
         else if o.f 13 1 = 1 then
           match pinAll o.slice h k (pinPages o) s with
           | .bytes s _ => finishOk s op 0
           | .wait s => s
           | .ends s st => fail s op st 0
         else
           match readSkein s o.slice h k (o.f 16 8) (o.f 24 8) with
           | .bytes s bs =>
             let pin : CommonsPin := { handle := h, offset := o.f 16 8, length := o.f 24 8, caddr := o.f 32 8 }
             finishOk (modSlice (writeTier s o.slice 1 (o.f 32 8) bs) o.slice (fun x => { x with pins := x.pins ++ [pin] })) op 0
           | .wait s => s
           | .ends s st => fail s op st 0)))

/-- What is left of a commons pin outside a range. -/
def cutPin (off n : Nat) (p : CommonsPin) : List CommonsPin :=
  if p.offset + p.length ≤ off || off + n ≤ p.offset then [p]
  else
    (if p.offset < off then [{ p with length := off - p.offset }] else []) ++
    (if off + n < p.offset + p.length then
       [{ p with offset := off + n, length := p.offset + p.length - (off + n), caddr := p.caddr + (off + n - p.offset) }] else [])

/-- SKEIN_PIN with OP 1: pool copies become cached pages, commons pins of the range are freed (R144). -/
def execSkeinUnpin (op : Nat) (s : State) : Host.Outcome State Fault Refusal :=
  .next (runRow s op 0x23 2 (fun o => o.f 12 1 ≠ 0) (fun o s =>
    checks s op (pinChecks s o)
      (let h := o.f 8 4
       let free : SkeinPage → SkeinPage := fun p => if p.handle = h && (pinPages o).contains p.page then { p with pinned := false } else p
       let s := if o.f 13 1 = 1 then modSlice s o.slice (fun x => { x with skeinPages := x.skeinPages.map free })
         else modSlice s o.slice (fun x => { x with pins := x.pins.flatMap (fun p => if p.handle = h then cutPin (o.f 16 8) (o.f 24 8) p else [p]) })
       finishOk s op 0)))

/-! ### Hanks (R145-R149) -/

/-- The checks of HANK_PARK and HANK_RESTORE: COUNT, and every page of the range a hank (R146). -/
def hankChecks (s : State) (o : Op) : List (Bool × Nat × Nat) :=
  let first := o.f 8 4
  let notHank : Nat → Bool := fun p => !((lookup s.slices o.slice).bind (fun x => lookup x.pages p)).any isHank
  let bad := firstPage first (o.f 12 4) notHank
  [(o.f 12 4 = 0 || o.f 12 4 > 65535, stBadDescriptor, 0), (bad.isSome, stBounds, bad.getD 0)]

/-- Park one hank: its copy written if it is DIRTY, its page given up unless it is kept (R146). -/
def parkHank (s : State) (q page : Nat) (keep : Bool) : Option State :=
  (parkCopy s q page).map (fun s =>
    match (lookup s.slices q).bind (fun x => lookup x.pages page) with
    | some p => if !keep && pageResident p then releaseHank s q page else s
    | none => s)

/-- The hanks of a range that are DIRTY. -/
def dirtyIn (s : State) (q first count : Nat) : Nat :=
  match lookup s.slices q with
  | some x => (x.pages.filter (fun p => first ≤ p.1 && p.1 < first + count && p.2.kind = .hank .dirty)).length
  | none => 0

/-- Park hanks in page order, as far as their copies can be placed. -/
def parkEach (s : State) (q : Nat) (keep : Bool) : List Nat → State × Bool
  | [] => (s, true)
  | p :: ps =>
    match parkHank s q p keep with
    | some s => parkEach s q keep ps
    | none => (s, false)

/-- HANK_PARK on the hanks it has still to handle: those not protected are parked in page order, the others are left for when their protection ends; none left, RESULT
counts the copies written (R146). A copy that cannot be placed completes it with WRITE_FAULT or REPROGRAM (13 R256, R276). -/
def parkHanks (s : State) (op : Nat) (o : Op) (todo : List Nat) : State :=
  let now := todo.filter (fun p => !pageProtected s o.slice p)
  let rest := todo.filter (fun p => pageProtected s o.slice p)
  let n := o.sofar + (now.map (fun p => dirtyIn s o.slice p 1)).sum
  match parkEach s o.slice (bit (o.f 16 1) 0) now with
  | (s, false) => fail (clearRefused s) op (placeStatus s) 0
  | (s, true) => if rest.isEmpty then finishOk s op n else { s with ops := adjust s.ops op (fun o => { o with left := some rest, sofar := n }) }

/-- HANK_PARK (R146). Its checks are made once; a page unmapped since is left out. -/
def execHankPark (op : Nat) (s : State) : Host.Outcome State Fault Refusal :=
  .next (runOp s op 0x26 2 (fun o s =>
    match o.left with
    | some todo => parkHanks s op o todo
    | none => checks s op (hankChecks s o) (parkHanks s op o ((List.range (o.f 12 4)).map (fun i => o.f 8 4 + i)))))

/-- What bringing one hank up comes to: resident, no page to be had, waiting for one, or its parked copy unreadable. -/
inductive Restore where
  | done (s : State)
  | noPage
  | wait
  | bad (s : State)
  deriving Repr

/-- The mapped units of a page's parked copy. -/
def parkUnits (page : Nat) (p : Page) : List Nat := p.parked.map (fun e => 128 * page + e.1)

/-- Bring a hank into the pool: a parked copy is read, a NEW hank is zeroed, a resident one is used now (R145, R147, R151). -/
def restoreHank (s : State) (q page : Nat) : Restore :=
  match (lookup s.slices q).bind (fun x => lookup x.pages page) with
  | none => .noPage
  | some p =>
    if pageResident p then .done (setPage s q page (fun p => { p with lastUse := s.trd.beat }))
    else
      match parkData s q page with
      | none => .bad (setPage (countReads s (parkOwner q) (parkUnits page p)) q page (fun p => { p with kind := .hank .parked }))
      | some data =>
        match obtainPage s q with
        | .none_ => .noPage
        | .wait => .wait
        | .got s =>
          let s := modSlice s q (fun x =>
            { x with pages := adjust x.pages page (fun p => { p with kind := .hank .clean, lastUse := s.trd.beat }),
                     pool := pasteRange x.pool (pageBytes * page) pageBytes data })
          let s := clearPages s q page 1
          if p.parked.isEmpty then .done s
          else .done (charge { (countReads s (parkOwner q) (parkUnits page p)) with mem := { s.mem with restore := s.mem.restore + 1 } } q
            (fun m => { m with flashRead := m.flashRead + pageBytes }))

/-- HANK_RESTORE's pages, in order. -/
def restoreAll (op q : Nat) : List Nat → State → State
  | [], s => finishOk s op 0
  | p :: t, s =>
    match restoreHank s q p with
    | .done s => restoreAll op q t s
    | .noPage => fail s op stBounds p
    | .wait => s
    | .bad s => fail s op stMedia p

/-- HANK_RESTORE (R147). -/
def execHankRestore (op : Nat) (s : State) : Host.Outcome State Fault Refusal :=
  .next (runOp s op 0x27 2 (fun o s =>
    checks s op (hankChecks s o) (restoreAll op o.slice ((List.range (o.f 12 4)).map (fun i => o.f 8 4 + i)) s)))

/-- The pool ranges an instruction reaches; of a scale record all of it (R88, R89). -/
def poolReach (s : State) (q : Nat) (w : IWord) (x : Nat) : List Access :=
  accesses w x ++ (if opcodeOf w = opRequant then [{ space := rTier w, lo := rRec w, hi := rRec w + recordSpan s q w, wr := true }] else [])

/-- An access to the page waits in this job: one of its issued instructions or the next one touches it. The jobs that an unobtainable or unreadable page ends are
those of the slice that run a step (R149, R154). -/
def waitsFor (s : State) (q page : Nat) : List Seat :=
  ((s.jobs.filter (fun j => j.2.slice = q)).flatMap (fun j => seatsOf s j.1)).filter (fun e =>
    let c := getCtx s e.phys
    let hits : List Access → Bool := fun l => l.any (fun a => a.space = 2 && a.lo < pageBytes * (page + 1) && pageBytes * page < a.hi)
    let next := ((lookup s.jobs e.job).bind (fun j => (progOf s j e.rank)[c.pos]?)).getD 0
    hits (poolReach s q next (readX c.x (rowReg next)).toNat) || c.issued.any (fun i => hits (poolReach s q i.w (readX i.x (rowReg i.w)).toNat)) || c.bandq.any (fun b => hits (reqAccess b)))

/-- Waiting accesses to a page end their jobs. -/
def endWaiting (s : State) (q page status : Nat) : State :=
  (waitsFor s q page).foldl (fun s e => programError s e.job status e.rank (getCtx s e.phys).pos 2) s

/-- Start what waited on the slice's spindles. -/
def settleSlice (s : State) (q : Nat) : State :=
  ((s.jobs.filter (fun j => j.2.slice = q)).flatMap (fun j => seatsOf s j.1)).foldl (fun s e => if (lookup s.jobs e.job).isSome then settle s e else s) s

/-- DEMAND_RESTORE: a hank that a step access waits for is restored, and what waited for it starts (R149, R154). -/
def execDemandRestore (slice : Fin 64) (page : Nat) (s : State) : Host.Outcome State Fault Refusal :=
  let q := slice.val
  match (lookup s.slices q).bind (fun x => lookup x.pages page) with
  | some p =>
    if p.kind = .hank .restoring then
      match restoreHank s q page with
      | .done s => .next (settleSlice s q)
      | .noPage => .next (endWaiting (setPage s q page (fun p => { p with kind := .hank .parked })) q page stBounds)
      | .wait => .next s
      | .bad s => .next (endWaiting s q page stMedia)
    else .next s
  | none => .next s

/-! ### Prefetch directives (R155-R159) -/

/-- The next issue number of a directive. -/
def nextIssue (s : State) : Nat :=
  ((s.jobs.flatMap (fun j => j.2.dirStates)).map (fun d => match d with | .issued _ n => n + 1 | _ => 0)).foldl max 0

/-- A directive issued before the n-th is not complete: it is served first (R156). -/
def servedBefore (s : State) (n : Nat) : Bool :=
  s.jobs.any (fun j => j.2.dirStates.any (fun d => match d with | .issued _ m => m < n | _ => false))

/-- Bring up one page of a skein directive as a cached copy; the page of a directive that names no skein, or lies outside it, is skipped (R156). -/
def prefetchSkein (s : State) (q h page : Nat) : Restore :=
  match lookup s.skeins h, lookup s.slices q with
  | some k, some x =>
    if k.slice ≠ q || pageBytes * page ≥ k.size then .done s
    else if (poolCopy x h page).isSome then
      .done (modSlice s q (fun x => { x with skeinPages := x.skeinPages.map (fun p => if p.handle = h && p.page = page then { p with lastUse := s.trd.beat } else p) }))
    else
      match readSkein s q h k (pageBytes * page) (min pageBytes (k.size - pageBytes * page)) with
      | .bytes s' bs =>
        match obtainPage s' q with
        | .got s'' =>
          let copy : SkeinPage := { handle := h, page := page, pinned := false, lastUse := s.trd.beat, data := writeBytes [] 0 bs }
          .done (modSlice s'' q (fun x => { x with skeinPages := x.skeinPages ++ [copy] }))
        | .none_ => .noPage
        | .wait => .wait
      | .wait _ => .wait
      | .ends s' _ => .bad s'
  | _, _ => .done s

/-- Bring up one page of a directive. A page that is not a hank is passed over. -/
def prefetchPage (s : State) (q : Nat) (j : Job) (d : Directive) (page : Nat) : Restore :=
  if d.kind = 1 then prefetchSkein s q ((j.skeins[d.slot]?).getD 0xFFFFFFFF) page
  else if ((lookup s.slices q).bind (fun x => lookup x.pages page)).any isHank then restoreHank s q page
  else .done s

/-- Set where a directive stands. -/
def setDir (s : State) (jid i : Nat) (d : DirState) : State := modJob s jid (fun j => { j with dirStates := j.dirStates.set i d })

/-- Serve an issued directive from page `k` on (`m` pages left): a page that cannot be had is skipped and counted, or waited for where the directive is REQUIRED
(R154); an unreadable page is left out. -/
def serve (s : State) (jid i n : Nat) (q : Nat) (j : Job) (d : Directive) (k : Nat) : Nat → State
  | 0 => setDir s jid i .complete
  | m + 1 =>
    match prefetchPage s q j d (d.first + k) with
    | .done s => serve s jid i n q j d (k + 1) m
    | .bad s => serve s jid i n q j d (k + 1) m
    | .wait => setDir s jid i (.issued k n)
    | .noPage =>
      if d.required then setDir s jid i (.issued k n)
      else serve { s with mem := { s.mem with pfSkip := s.mem.pfSkip + 1 } } jid i n q j d (k + 1) m

/-- Directive `i` of a job is issued if it was not, and served as far as it goes. -/
def issueDirective (s : State) (jid i : Nat) (j : Job) (d : Directive) (st : DirState) : State :=
  match st with
  | .complete => s
  | .issued k n => if servedBefore s n then s else serve s jid i n j.slice j d k (d.count - k)
  | .waiting =>
    let n := nextIssue s
    let s := setDir s jid i (.issued 0 n)
    if servedBefore s n then s else serve s jid i n j.slice j d 0 d.count

/-- Steps of a job that have been dispatched. -/
def stepsDispatched (j : Job) : Nat :=
  match j.phase with
  | .running _ => j.step + 1
  | .frozen => j.step
  | _ => j.step

/-- Outside a draft, directive `d` is due: the step AHEAD steps before its target is dispatched, or there is none (R156). -/
def directiveDue (j : Job) (d : Directive) : Bool := j.place.isSome && (d.target < d.ahead || d.target - d.ahead < stepsDispatched j)

/-! ### Draft time (10 R178, R186) -/

/-- The START of the k-th step of a draft over its iterations, counted from the origin of iteration 0. -/
def planStart (x : Draft) (k : Nat) : Nat :=
  if x.nsteps = 0 then 0 else k / x.nsteps * x.period + ((x.steps[k % x.nsteps]?).map StepRec.start).getD 0

/-- The next step a draft starts. -/
def nextStep (j : Job) : Nat :=
  match j.phase with
  | .running _ => j.step + 1
  | _ => j.step

/-- Its start beat B, with the holds so far. -/
def nextBeat (x : Draft) (j : Job) (d : DraftRun) : Nat :=
  match j.phase with
  | .running _ => d.start + (planStart x (j.step + 1) - planStart x j.step) + 8 * d.holdsNow
  | _ => d.start + 8 * d.holdsNow

/-- The start beat of step k from the next one on, as scheduled now. -/
def beatOf (x : Draft) (j : Job) (d : DraftRun) (k : Nat) : Nat := nextBeat x j d + (planStart x k - planStart x (nextStep j))

/-- The directives of step k of a draft, with that target. -/
def stepDirectives (x : Draft) (k : Nat) : List Directive :=
  ((x.steps[k % x.nsteps]?).map StepRec.dirs).getD [] |>.map (fun d => { d with target := k })

/-- In a draft, directive number `k % 1,024` of step `k / 1,024` is due at B − LEAD (R156); issued, it joins the job's directives. -/
def draftDirective (s : State) (jid : Nat) (j : Job) (r : DraftRun) (idx : Nat) : State :=
  match lookup s.drafts r.handle with
  | none => s
  | some x =>
    let step := idx / 1024
    match (stepDirectives x step)[idx % 1024]? with
    | none => s
    | some d =>
      match j.dirs.findIdx? (fun e => e.target = step && e.slot = d.slot && e.kind = d.kind && e.first = d.first && e.count = d.count && e.lead = d.lead && e.required = d.required) with
      | some i => issueDirective s jid i j d ((j.dirStates[i]?).getD .complete)
      | none =>
        if step < nextStep j || step ≥ r.total || j.phase = .frozen || s.trd.beat + d.lead < beatOf x j r step then s
        else
          let s := modJob s jid (fun j => { j with dirs := j.dirs ++ [d], dirStates := j.dirStates ++ [.waiting] })
          issueDirective s jid j.dirs.length { j with dirs := j.dirs ++ [d] } d .waiting

/-- PREFETCH_DIRECTIVE_ISSUE: outside a draft `idx` numbers the job's directive list; in a draft it is the target step times 1,024 plus the directive's number in its
step record. Presented again, a directive that waits for a page goes on (R154, R156). -/
def execPrefetchDirectiveIssue (job idx : Nat) (s : State) : Host.Outcome State Fault Refusal :=
  match lookup s.jobs job with
  | none => .next s
  | some j =>
    if s.ras.halted then .next s
    else
      match j.draft with
      | some r => .next (draftDirective s job j r idx)
      | none =>
        match j.dirs[idx]?, j.dirStates[idx]? with
        | some d, some st => .next (if directiveDue j d then issueDirective s job idx j d st else s)
        | _, _ => .next s

/-- Since when late weights have kept a job outside a draft waiting, and the instruction that waits: a KIND 1 REQUIRED directive of the next step, or a BAND_RECV at
the head of a rank's band queue (R159). -/
def lateSince (s : State) (jid : Nat) (j : Job) : List (Nat × Nat × Nat) :=
  let dir := j.phase = .ready && (j.dirs.zip j.dirStates).any (fun d => d.1.required && d.1.kind = 1 && d.1.target = j.step && d.2 ≠ .complete)
  (if dir then [(j.waitSince, 0, 0)] else []) ++
  (seatsOf s jid).filterMap (fun e => ((getCtx s e.phys).bandq.head?).map (fun b => (b.since, b.at_, e.rank)))

/-- LATE_LIMIT_EXPIRY, for a job outside a draft: late weights have kept it waiting more than its limit × 8 beats. It ends as a program error ends a job (R159). The
limit of a draft is applied by its votes. -/
def execLateLimitExpiry (job : Nat) (s : State) : Host.Outcome State Fault Refusal :=
  match lookup s.jobs job with
  | none => .next s
  | some j =>
    if j.late = 0 || j.draft.isSome || j.place.isNone then .next s
    else
      match (lateSince s job j).find? (fun t => s.clock > t.1 + 8 * j.late) with
      | some t => .next (programError s job stLate t.2.2 t.2.1 0)
      | none => .next s

end Sys2Proof.Machine
end

