-- ==== Sys2Proof/Machine/DraftImage.lean ====
section
/-! DEFINITION. Draft images and DRAFT_LOAD (10 R176-R180). -/

namespace Sys2Proof.Machine

/-- The MAGIC of a draft image. -/
def draftMagic : List Byte := [0x41, 0x54, 0x44, 0x52, 0x41, 0x46, 0x54, 0x31]

/-- The first wrong field of a draft header, MEMBER and the tables it places included (R176, R180 check 3). -/
def draftHeaderBad (sectors member : Nat) (h : List Byte) : Option Nat :=
  let members := field h 10 2
  let size := field h 16 8
  let loop := bit (field h 33 1) 1
  let nskein := field h 48 1
  let mship := field h 56 8
  let cs : List (Bool × Nat) :=
    [(cut h 0 8 ≠ draftMagic, 0), (field h 8 2 ≠ 1, 8), (members = 0 || members > 512 || member ≥ members, 10),
     (field h 12 4 = 0 || field h 12 4 > 1048576, 12), (sizeBad h sectors, 16),
     (field h 24 8 % 64 ≠ 0 || field h 24 8 + 32 * members > size, 24),
     (field h 32 1 = 0 || field h 32 1 > 48, 32), (field h 33 1 > 3, 33), (field h 34 1 > 3, 34),
     ((loop && field h 35 1 > 15) || (!loop && field h 35 1 ≠ 0xFF), 35), (!loop && field h 36 4 ≠ 0, 36)]
  let ds : List (Bool × Nat) :=
    [((nskein = 0 && field h 40 8 ≠ 0) || field h 40 8 + 64 * nskein > size, 40), (nskein > 32, 48), (field h 49 1 > 25, 49), (field h 50 6 ≠ 0, 50),
     ((members ≠ 1 && mship = 0) || (mship ≠ 0 && mship + 32 > size), 56)]
  ((cs ++ ds).find? (fun c => c.1)).map Prod.snd

/-- The entry of member m in an image. -/
def memberEntry (image : List Byte) (m : Nat) : List Byte := cut image (field image 24 8 + 32 * m) 32

/-- The step index or the program table of the member extends past SIZE: the fault is laid to MEMBER_OFF (R180 check 3). -/
def memberTablesBad (h e : List Byte) : Option Nat :=
  if field e 0 8 + 8 * field h 12 4 > field h 16 8 || field e 8 8 + 16 * field e 16 2 > field h 16 8 then some 24 else none

/-- Bytes of a step record (R178). -/
def stepBytes (b : List Byte) : Nat := 112 + 16 * field b 10 2 + 32 * field b 12 2 + 32 * field b 14 2

/-- The step record at an image offset: its bytes, short where the image ends. -/
def stepRecordAt (image : List Byte) (off : Nat) : List Byte := cut image off (stepBytes (cut image off 112))

/-- The image offset of the record of step k. -/
def stepOffset (image : List Byte) (m k : Nat) : Nat := field image (field (memberEntry image m) 0 8 + 8 * k) 8

/-- The program table entry i of a member. -/
def progEntry (image : List Byte) (m i : Nat) : List Byte := cut image (field (memberEntry image m) 8 8 + 16 * i) 16

/-- PROG entry r of a step record; none for 0xFFFF. -/
def progIndex (b : List Byte) (r : Nat) : Option Nat :=
  let v := field b (16 + 2 * r) 2
  if v = 0xFFFF then none else some v

/-- Directive i, slot entry i, reduction entry i of a step record. -/
def dirBytes (b : List Byte) (i : Nat) : List Byte := cut b (112 + 16 * i) 16
def slotBytes (b : List Byte) (i : Nat) : List Byte := cut b (112 + 16 * field b 10 2 + 32 * i) 32
def redBytes (b : List Byte) (i : Nat) : List Byte := cut b (112 + 16 * field b 10 2 + 32 * field b 12 2 + 32 * i) 32

/-- A directive of a step record has a reserved value or field (08 R155). -/
def stepDirBad (d : List Byte) : Bool :=
  let kind := field d 0 1
  !(kind = 1 || kind = 2) || field d 1 1 > 1 || field d 2 2 = 0 || (kind = 1 && field d 4 1 > 31) || (kind = 2 && field d 4 1 ≠ 0) ||
  field d 5 1 ≠ 0 || field d 6 2 = 0

/-- A slot entry has a reserved value or field, or opens at a beat not below LENGTH (R179). -/
def slotEntBad (len : Nat) (e : List Byte) : Bool :=
  let kind := field e 0 1
  let data := kind = 1 || kind = 2
  kind = 0 || kind > 4 || field e 1 1 > 95 || field e 4 1 ≥ len || (kind ≠ 4 && field e 5 1 ≠ 0) || field e 6 2 > 1999 || field e 8 4 = 0 ||
  (!data && field e 12 2 ≠ 0) || (data && !(field e 14 1 = 1 || field e 14 1 = 2)) || (!data && field e 14 1 ≠ 0) || field e 15 1 ≠ 0 ||
  (!data && (field e 16 8 ≠ 0 || field e 24 4 ≠ 0)) || field e 24 4 % 64 ≠ 0 || field e 28 4 ≠ 0

/-- Bytes of a reduction element (R190). -/
def redElem (op : Nat) : Nat := if op = 1 then 8 else 4

/-- A reduction entry has a reserved value or field (R190). -/
def redEntBad (e : List Byte) : Bool :=
  let op := field e 0 1
  let stride := field e 30 2
  op = 0 || op > 3 || field e 1 1 > 3 || field e 3 1 ≠ 0 || field e 8 4 = 0 || field e 8 4 > 16777216 || field e 12 2 = 0 || field e 12 2 > 4096 ||
  (op = 3 && field e 12 2 ≠ 1) || !(field e 14 1 = 1 || field e 14 1 = 2) || field e 15 1 > 63 || field e 15 1 % 4 ≠ 0 ||
  (stride ≠ 0 && (stride < redElem op || stride % 4 ≠ 0))

/-- A program that a step names is misplaced in the table or in the image (R180 check 5). -/
def progEntryBad (image e : List Byte) : Bool :=
  field e 8 2 = 0 || field e 8 2 > 4096 || field e 0 8 % 16 ≠ 0 || field e 10 6 ≠ 0 || field e 0 8 + 16 * field e 8 2 > image.length

/-- Check 5 of R180 fails for a step record. -/
def stepBad (image : List Byte) (m : Nat) (b : List Byte) : Bool :=
  let ranks := field image 32 1
  let nprog := field (memberEntry image m) 16 2
  let len := field b 8 1
  b.length < 112 || b.length ≠ stepBytes b || len = 0 || field b 9 1 ≠ 0 || field b 10 2 > 1024 || field b 12 2 > 4096 || field b 14 2 > 256 ||
  (List.range 48).any (fun r =>
    match progIndex b r with
    | some i => r ≥ ranks || i ≥ nprog || progEntryBad image (progEntry image m i)
    | none => false) ||
  (List.range (field b 10 2)).any (fun i => stepDirBad (dirBytes b i)) ||
  (List.range (field b 12 2)).any (fun i => slotEntBad len (slotBytes b i)) ||
  (List.range (field b 14 2)).any (fun i => redEntBad (redBytes b i))

/-- A directive of a step record. -/
def readDir (b : List Byte) : Directive := readDirective b 0

/-- A slot entry of a step record. -/
def readSlot (e : List Byte) : SlotEnt where
  kind := field e 0 1
  link := field e 1 1
  peer := field e 2 2
  beat := field e 4 1
  rgroup := field e 5 1
  sub := field e 6 2
  flits := field e 8 4
  sem := field e 12 2
  tier := field e 14 1
  addr := field e 16 8
  bytes := field e 24 4

/-- A reduction entry of a step record. -/
def readRed (e : List Byte) : RedEnt where
  op := field e 0 1
  all := bit (field e 1 1) 0
  round := bit (field e 1 1) 1
  rgroup := field e 2 1
  prev := field e 4 2
  next := field e 6 2
  e := field e 8 4
  nseg := field e 12 2
  tier := field e 14 1
  base := field e 16 8 * 64 + field e 15 1
  seg0 := field e 24 4
  sem := field e 28 2
  estride := field e 30 2

/-- A step record as kept. -/
def readStep (ranks : Nat) (b : List Byte) : StepRec where
  start := field b 0 8
  length := field b 8 1
  progs := (List.range ranks).map (fun r => field b (16 + 2 * r) 2)
  dirs := (List.range (field b 10 2)).map (fun i => readDir (dirBytes b i))
  slots := (List.range (field b 12 2)).map (fun i => readSlot (slotBytes b i))
  reds := (List.range (field b 14 2)).map (fun i => readRed (redBytes b i))

/-- A program of the image. -/
def readProgram (image e : List Byte) : List IWord :=
  (List.range (field e 8 2)).map (fun i => readInstr (cut image (field e 0 8) (16 * field e 8 2)) i)

/-- The programs that the steps name, by index. -/
def progsOf (image : List Byte) (m : Nat) (steps : List StepRec) : Tbl (List IWord) :=
  (steps.flatMap (fun r => r.progs.filter (fun i => i ≠ 0xFFFF))).foldl
    (fun t i => if (lookup t i).isSome then t else insertKey t i (readProgram image (progEntry image m i))) []

/-- Check 6 of R180: the step whose gap is too short. -/
def gapBad (vmax period : Nat) (loop : Bool) (steps : List StepRec) : Option Nat :=
  let at_ : Nat → Option StepRec := fun k => steps[k]?
  let short : Nat → Bool := fun k =>
    match at_ k, at_ (k + 1) with
    | some a, some b => b.start < a.start + a.length + vmax
    | some a, none => loop && period < a.start + a.length + vmax + ((at_ 0).map StepRec.start).getD 0
    | none, _ => false
  (List.range steps.length).find? (fun k => ((at_ k).map StepRec.length).getD 0 > 64 || short k)

/-- The first load error of a step's programs, by rank: status and DETAIL (R180 check 7). -/
def stepProgramError (s : State) (q ranks : Nat) (progs : Tbl (List IWord)) (r : StepRec) : Option (Nat × Nat) :=
  (List.range ranks).findSome? (fun k =>
    match (r.progs[k]?).bind (fun i => lookup progs i) with
    | none => none
    | some prog =>
      let runs := (List.range ranks).filter (fun n => r.progs[n]? = r.progs[k]?)
      (checkProgramFrom (progCtx s q ranks runs prog.length) prog 0 0).map (fun e => (e.2.1, progDetail e.1 e.2.2 0)))

/-- Bytes a load copies: header, digest table, step records, programs (R180). -/
def copyBytes (image : List Byte) (m : Nat) (progs : Tbl (List IWord)) : Nat :=
  128 + 64 * field image 48 1 + ((List.range (field image 12 4)).map (fun k => stepBytes (stepRecordAt image (stepOffset image m k)))).sum +
  16 * (progs.map (fun p => p.2.length)).sum

/-- A draft as loaded. -/
def newDraft (o : Op) (image : List Byte) (steps : List StepRec) (progs : Tbl (List IWord)) (pages : Nat) : Draft where
  slice := o.slice
  store := o.f 8 2
  sector := o.f 16 8
  sectors := o.f 24 8
  member := o.f 10 2
  members := field image 10 2
  nsteps := field image 12 4
  ranks := field image 32 1
  canon := bit (field image 33 1) 0
  loop := bit (field image 33 1) 1
  maxps := field image 34 1
  iterSlot := field image 35 1
  period := field image 36 4
  vmax := field image 49 1
  digest := cut image 64 64
  skeinDigests := (List.range (field image 48 1)).map (fun j => cut image (field image 40 8 + 64 * j) 64)
  mship := if field image 56 8 = 0 then [] else cut image (field image 56 8) 32
  steps := steps
  progs := progs
  pages := pages
  releasing := false

/-- A draft image that has passed its checks takes its pages of the pool and a handle, unless the slice may not hold them or none can be had yet. -/
def placeDraft (s : State) (id : Nat) (o : Op) (image : List Byte) (steps : List StepRec) (progs : Tbl (List IWord)) (pages : Nat) : State :=
  if !mayHold s o.slice pages then fail s id stBounds 0
  else
    match obtainPages s o.slice pages with
    | .got s =>
      finishOk { s with drafts := insertKey s.drafts s.nextHandle (newDraft o image steps progs pages), nextHandle := s.nextHandle + 1 } id
        (s.nextHandle % 2 ^ 32)
    | _ => s

/-- Checks 5 to 9 of R180 on a verified image; a new handle. Pages that cannot be had yet are waited for. -/
def loadDraft (s : State) (id : Nat) (o : Op) (image : List Byte) : State :=
  let m := o.f 10 2
  let records := (List.range (field image 12 4)).map (fun k => stepRecordAt image (stepOffset image m k))
  match records.findIdx? (stepBad image m) with
  | some k => fail s id stBadDescriptor (0x1000000 + k)
  | none =>
    let ranks := field image 32 1
    let steps := records.map (readStep ranks)
    match gapBad (field image 49 1) (field image 36 4) (bit (field image 33 1) 1) steps with
    | some k => fail s id stStepLong k
    | none =>
      let progs := progsOf image m steps
      match steps.findSome? (stepProgramError s o.slice ranks progs) with
      | some (st, d) => fail s id st d
      | none =>
        match steps.findIdx? (fun r => r.reds.any (fun e => e.op = 2)) with
        | some k =>
          if bit (field image 33 1) 0 then fail s id stBadDescriptor (0x1000000 + k)
          else placeDraft s id o image steps progs (ceilDiv (copyBytes image m progs) pageBytes)
        | none => placeDraft s id o image steps progs (ceilDiv (copyBytes image m progs) pageBytes)

/-- DRAFT_LOAD of a member's part (R180). -/
def execDraftLoad (op : Nat) (s : State) : Host.Outcome State Fault Refusal :=
  .next (runRow s op 0x24 2 (fun o => o.f 10 2 ≠ 0xFFFF) (fun o s =>
    checks s op (imageChecks s op o)
      (withImage s op o (draftHeaderBad (o.f 24 8) (o.f 10 2)) (fun h => field h 24 8 + 32 * o.f 10 2) memberTablesBad
        (fun image s => loadDraft s op o image))))

/-- A draft runs under the handle, or is frozen. -/
def draftInUse (s : State) (h : Nat) : Bool := s.jobs.any (fun j => j.2.draft.any (fun d => d.handle = h))

/-- DRAFT_LOAD with MEMBER 0xFFFF: the release begins, waits for the draft that runs under the handle, then frees it (R180). -/
def execDraftRelease (op : Nat) (s : State) : Host.Outcome State Fault Refusal :=
  .next (runRow s op 0x24 2 (fun o => o.f 10 2 = 0xFFFF) (fun o s =>
    let h := o.f 12 4
    let own := (lookup s.drafts h).any (fun d => d.slice = o.slice && !d.releasing)
    if o.phase = .fetched && !own then fail s op stDenied 0
    else if draftInUse s h then { s with drafts := adjust s.drafts h (fun d => { d with releasing := true }) }
    else finishOk { s with drafts := removeKey s.drafts h } op 0))

end Sys2Proof.Machine
end

