-- ==== Sys2Proof/Machine/Drafts.lean ====
section
/-! DEFINITION. Running drafts (10): the start, votes and holds, freezing; the end of a step of any job (06, 10 R183; 15 R319-R321). -/

namespace Sys2Proof.Machine

/-! ### The start block (R181) -/

/-- All ones, in 64 bits. -/
def ones64 : Nat := 2 ^ 64 - 1

/-- Bytes 192 to 255 of the start block. -/
def startBlock (d : DraftRun) : List Byte :=
  leBytes 8 ((d.lastStep.map Prod.fst).getD ones64) ++ leBytes 8 ((d.lastStep.map Prod.snd).getD 0) ++ leBytes 4 d.hLateW ++ leBytes 4 d.hLateI ++
  leBytes 4 d.hThermal ++ leBytes 4 d.hSlice ++ leBytes 4 d.hRepair ++ leBytes 4 d.reforms ++ leBytes 8 (d.frozen.getD ones64) ++ leBytes 16 0

/-- Write bytes 192 to 255 of a draft's start block. -/
def writeStartBlock (s : State) (jid : Nat) : State :=
  match lookup s.jobs jid with
  | some j =>
    match j.draft with
    | some d => writePartner s j.port (d.sblock + 192) (startBlock d)
    | none => s
  | none => s

/-- The run of a job's draft changed. -/
def modDraft (s : State) (jid : Nat) (f : DraftRun → DraftRun) : State := modJob s jid (fun j => { j with draft := j.draft.map f })

/-- The ply of a slice changed. -/
def modPly (s : State) (q : Nat) (f : Ply → Ply) : State := { s with plies := adjust s.plies q f }

/-- The ply a running draft votes in: none for a standalone draft. -/
def plyOfDraft (s : State) (j : Job) (d : DraftRun) : Option Ply := if d.ply = 0 then none else lookup s.plies j.slice

/-- The vote lead V (R185). -/
def leadOf (s : State) (j : Job) (d : DraftRun) : Nat := ((plyOfDraft s j d).map Ply.v).getD 0

/-! ### Freezing (R195, R196) -/

/-- SPLIT's DETAIL. -/
def splitDetail (cause member : Nat) (stopped : Bool) : Nat := cause + member * 4 + b2n stopped * 2048

/-- The draft freezes: FROZEN is written and SPLIT posted; everything it holds is kept (R196). A JOB_ABORT that waited for the step's end now finds it frozen (R199). -/
def freezeDraft (s : State) (jid : Nat) (n : Notice) (stopped : Bool) : State :=
  match lookup s.jobs jid with
  | none => s
  | some j =>
    let s := modJob s jid (fun j => { j with phase := .frozen, abortAtEnd := none, failing := none })
    let s := modDraft s jid (fun d => { d with frozen := some (d.lastEnded.getD ones64), stopped := stopped, go := false })
    let s := writeStartBlock s jid
    let s := postSliceEvent s 0x31 j.slice (splitDetail n.cause n.member stopped)
    if j.abortAtEnd.isSome then abortJob s jid else s

/-- The draft of a slice that is in its ply. -/
def plyJob (s : State) (q : Nat) : Option (Nat × Job × DraftRun) :=
  s.jobs.findSome? (fun e => if e.2.slice = q then (e.2.draft).bind (fun d => if d.ply = 0 then none else some (e.1, e.2, d)) else none)

/-- A notice keeps the next step of a draft, with start beat B, from starting: NOTICE_AT ≤ B − V; no step follows; the ply holds; this member has lost its time base, or
found a vote missing at B (R195, R200; 09 R173). -/
def noticeStops (p : Ply) (n : Notice) (j : Job) (d : DraftRun) (b : Nat) : Bool :=
  d.holdsNow ≠ 0 || j.step ≥ d.total || n.beat + p.v ≤ b || p.silent || (n.cause = 3 && n.member = p.self && b ≤ n.beat)

/-- Between steps, a draft freezes as soon as its notice keeps its next step from starting, a member in a power state once it has left that state (R195, R200). During a
step it freezes at the step's end. -/
def freezeIfDue (s : State) (q : Nat) : State :=
  match plyJob s q, lookup s.plies q with
  | some (jid, j, d), some p =>
    match p.notice, j.phase, lookup s.drafts d.handle with
    | some n, .ready, some x =>
      if !noticeStops p n j d (nextBeat x j d) then s else if awake s 0 then freezeDraft s jid n false else wake s 0
    | _, _, _ => s
  | _, _ => s

/-- The earlier of two notices (R195). -/
def earlierNotice (old : Option Notice) (n : Notice) : Notice :=
  match old with
  | some m => if n.beat < m.beat then n else m
  | none => n

/-- A member raises or adopts a ply-lost notice: it keeps the one with the earliest NOTICE_AT (R195). -/
def takeNotice (s : State) (q : Nat) (n : Notice) : State :=
  if (lookup s.plies q).isSome then freezeIfDue (modPly s q (fun p => { p with notice := some (earlierNotice p.notice n) })) q else s

/-! ### DRAFT_START (R182) -/

/-- The loaded draft does not fit the ply named (R182 check 4). -/
def plyBad (s : State) (q ply : Nat) (x : Draft) : Bool :=
  if ply = 0 then x.members ≠ 1
  else
    match lookup s.plies q with
    | some p => p.id ≠ ply || p.nodes.length ≠ x.members || p.self ≠ x.member || p.digest ≠ x.mship || p.v > x.vmax
    | none => true

/-- The first skein slot that the draft uses and the start block does not fill with that image (R182 check 6). -/
def skeinSlotBad (s : State) (q : Nat) (b : List Byte) (x : Draft) : Option Nat :=
  (List.range x.skeinDigests.length).find? (fun j =>
    !((lookup s.skeins (slotHandle b 8 j)).any (fun k => k.slice = q && !k.releasing && some k.digest = x.skeinDigests[j]?)))

/-- A draft's run at its issue. -/
def newRun (o : Op) (x : Draft) (total : Nat) (dec st slot res : Nat) : DraftRun where
  handle := o.f 8 4
  late := o.f 12 1
  ply := o.f 14 2
  sblock := o.f 24 8
  total := total
  start := o.f 16 8 + ((x.steps.head?).map StepRec.start).getD 0
  first := true
  decision := dec
  decStatus := st
  decSlot := slot
  decResult := res
  ran := 0
  hLateW := 0
  hLateI := 0
  hThermal := 0
  hSlice := 0
  hRepair := 0
  reforms := 0
  holdsNow := 0
  lateNow := 0
  firstCause := 0
  firstMember := 0
  frozen := none
  stopped := false
  lastEnded := none
  lastStep := none
  slots := []
  reds := []
  voted := false
  go := false

/-- A draft as a resident job. -/
def newDraftJob (s : State) (o : Op) (b : List Byte) (x : Draft) (d : DraftRun) (vals : List Nat) : Job where
  slice := o.slice
  port := o.port
  sq := o.sq
  tag := o.tag
  place := some (freePlace s)
  ranks := x.ranks
  prio := 0
  late := o.f 12 1
  nsteps := d.total
  jaddr := o.f 24 8
  shapesAddr := field b 0 8
  prog := []
  dirs := []
  dirStates := []
  skeins := (List.range 32).map (slotHandle b 8)
  shapes := vals
  issuedAt := s.trd.beat
  step := 0
  phase := .ready
  spindles := []
  rankStates := List.replicate x.ranks .ended
  saved := []
  switchSaved := []
  holds := []
  records := []
  owned := []
  touched := []
  waitSince := s.clock
  abortAtEnd := none
  failing := none
  draft := some d

/-- Steps of all iterations: NSTEPS, times the value of ITER_SLOT with LOOP (R182). -/
def totalSteps (x : Draft) (vals : List Nat) : Nat := if x.loop then x.nsteps * (vals[x.iterSlot]?).getD 0 else x.nsteps

/-- The decision of a member as its vote carries it (R200): SHAPE, STATUS and SSLOT, which for a malformed table keeps the DETAIL. -/
def decisionOf (st detail : Nat) : Nat × Nat × Nat :=
  if st = stEmpty then (1, st, detail) else if st = stShapeOver then (2, st, detail) else (3, st, detail)

/-- Issue a draft that has passed its checks: it takes a place and its logical spindles, chosen by affinity (R182). Of the votes heard, those on an earlier draft go; an END
of this one stays (R200). -/
def issueDraft (s : State) (op : Nat) (o : Op) (b : List Byte) (x : Draft) (d : DraftRun) (vals : List Nat) : State :=
  let j := newDraftJob s o b x d vals
  let got := pickSpindles s j x.ranks (usable s o.slice)
  let s := { s with jobs := insertKey s.jobs op { j with spindles := (List.range 48).filter (fun l => got.contains l) } }
  if d.ply ≠ 0 then modPly s o.slice (fun p => { p with votes := p.votes.filter (fun v => d.start ≤ v.decide), ended := none }) else s

/-- Checks 6 and 7 of R182, the start block having been read. -/
def startDraft (s : State) (op : Nat) (o : Op) (x : Draft) : State :=
  let b := readPartner s o.port (o.f 24 8) 192
  match skeinSlotBad s o.slice b x with
  | some j => fail s op stBounds (0x30000 + j)
  | none =>
    match shapeDecision s o.port o.slice (field b 0 8) with
    | .wait s => s
    | .ends s st det res =>
      if o.f 14 2 = 0 then finish s op st det res
      else
        let (dec, st, slot) := decisionOf st det
        issueDraft s op o b x (newRun o x x.nsteps dec st slot res) (List.replicate 16 0)
    | .run s vals =>
      let total := totalSteps x vals
      if total = 0 then finishOk s op 0 else issueDraft s op o b x (newRun o x total 0 0 0 0) vals

/-- DRAFT_START (R182). It waits for a resident place (15 R310), and for the next beat while a load of the beat counter is pending (09 R168). -/
def execDraftStart (op : Nat) (s : State) : Host.Outcome State Fault Refusal :=
  .next (runOp s op 0x25 2 (fun o s =>
    let h := o.f 8 4
    let ply := o.f 14 2
    let x := lookup s.drafts h
    let v := if ply = 0 then 0 else ((lookup s.plies o.slice).map Ply.v).getD 0
    let first := (x.bind (fun x => x.steps.head?)).map StepRec.start
    if (lookup s.jobs op).isSome || s.ras.halted || s.trd.load.isSome then s
    else checks s op
      [(o.f 24 8 % 64 ≠ 0, stBadDescriptor, 0),
       (!(x.any (fun x => x.slice = o.slice && !x.releasing)), stDenied, 0),
       (s.jobs.any (fun j => j.2.slice = o.slice && j.2.draft.isSome), stBounds, 8),
       ((usable s o.slice).length < (x.map Draft.ranks).getD 0, stBounds, 0x20020),
       (x.any (plyBad s o.slice ply), stBounds, 14),
       (!s.trd.numbered || o.f 16 8 + first.getD 0 < s.trd.beat + v + 8, stBounds, 16)]
      (withPartner s op o [(o.f 24 8, 256, true)]
        (match x with
         | none => s
         | some x => if mayPlace s o.slice then startDraft s op o x else s))))

/-! ### Votes (R186, R187) -/

/-- A REQUIRED directive of KIND `kind` of step k has not completed (08 R158). -/
def directiveLate (x : Draft) (j : Job) (k kind : Nat) : Bool :=
  (stepDirectives x k).any (fun d => d.required && d.kind = kind && !((j.dirs.zip j.dirStates).any (fun e => e.1 = d && e.2 = .complete)))

/-- The slice is not running on one of the draft's spindles, or a context saved at a slice switch is not restored (R186, R188). -/
def sliceAway (s : State) (j : Job) : Bool := !j.switchSaved.isEmpty || !(j.spindles.all (fun l => runningOn s j.slice l && !handingOver s l))

/-- A spindle of the draft serves another job. -/
def spindleTaken (s : State) (jid : Nat) (j : Job) : Bool :=
  j.spindles.any (fun l => ((physOf s l).bind (fun p => (getSpn s p).rank)).any (fun r => r.1 ≠ jid))

/-- A rank of the job waits on a band source: its band queue is not empty (08 R158). -/
def bandStarved (s : State) (jid : Nat) : Bool := (seatsOf s jid).any (fun e => !(getCtx s e.phys).bandq.isEmpty)

/-- The logical links of a draft's slots. -/
def draftLinks (x : Draft) : List Nat := x.steps.flatMap (fun r => r.slots.map SlotEnt.link)

/-- A REPAIR that waits for the draft's step boundary: of one of its spindles, or of the lane of one of its links, kept as 1,000 plus the logical link
(18 R376, 11 R227). -/
def repairWaits (s : State) (j : Job) (x : Draft) : Bool :=
  s.ras.pendingRepairs.any (fun r => j.spindles.contains r.2.1 || (draftLinks x).any (fun l => r.2.1 = 1000 + l))

/-- The CAUSE this member names for its next step: 0 when it is ready (R186, 08 R158). -/
def causeOf (s : State) (jid : Nat) (j : Job) (x : Draft) : Nat :=
  let k := nextStep j
  let running := j.phase ≠ .ready
  if repairWaits s j x then 5
  else if s.pins.throttle then 3
  else if sliceAway s j then 4
  else if directiveLate x j k 1 || (running && bandStarved s jid) then 1
  else if directiveLate x j k 2 || running || spindleTaken s jid j || !awake s 0 || powerPending s then 2
  else 0

/-- This member's vote record for its next step. -/
def ownVote (s : State) (jid : Nat) (j : Job) (d : DraftRun) (x : Draft) (p : Ply) : Vote where
  step := nextStep j
  decide := nextBeat x j d
  member := p.self
  cause := causeOf s jid j x
  isEnd := false
  notice := p.notice.isSome
  status := if d.first && d.decision = 3 then d.decStatus else 0
  shape := if d.first then d.decision else 0
  sslot := if d.first && (d.decision = 1 || d.decision = 2) then d.decSlot else 0
  noticeAt := (p.notice.map Notice.beat).getD 0

/-- The draft that a job runs, loaded. -/
def draftOf (s : State) (jid : Nat) : Option (Job × DraftRun × Draft) :=
  (lookup s.jobs jid).bind (fun j => j.draft.bind (fun d => (lookup s.drafts d.handle).map (fun x => (j, d, x))))

/-- From beat B − V on, once, this member votes on its next step; a frozen one, whose last step was not stopped, so carries its notice (R186, R195). A standalone draft
has no other member to tell. -/
def voteNext (s : State) (jid : Nat) : State :=
  match draftOf s jid with
  | none => s
  | some (j, d, x) =>
    if d.voted || d.go || (j.phase = .frozen && d.stopped) || j.phase = .submitted || nextStep j ≥ d.total || s.trd.beat + leadOf s j d < nextBeat x j d then s
    else
      let s' := if awake s 0 then s else wake s 0
      let s' := modDraft s' jid (fun d => { d with voted := true })
      match plyOfDraft s j d with
      | none => s'
      | some p =>
        let v := ownVote s jid j d x p
        sendVote (modPly s' j.slice (fun p => { p with votes := p.votes ++ [v] })) j.slice v none

/-- END of a member has been heard. -/
def endHeard (p : Ply) (m : Nat) : Bool := p.votes.any (fun v => v.isEnd && v.member = m)

/-- A draft that has ended here sends END again, once a stride, until every member has sent its own (R200). -/
def voteEnd (s : State) (q : Nat) : State :=
  match lookup s.plies q with
  | some p =>
    match p.ended with
    | some (jid, v) =>
      if s.trd.beat + p.v < v.decide + 8 || (List.range p.nodes.length).all (endHeard p) then s
      else
        let v := { v with decide := s.trd.beat + p.v, notice := p.notice.isSome, noticeAt := (p.notice.map Notice.beat).getD 0 }
        sendVote (modPly s q (fun p => { p with ended := some (jid, v) })) q v none
    | none => s
  | none => s

/-- VOTE_SEND: this member's vote on the job's next step, or its END when the job's draft has ended here (R186, R200). -/
def voteSend (s : State) (jid : Nat) : State :=
  match s.plies.find? (fun e => (e.2.ended.map Prod.fst) = some jid) with
  | some e => voteEnd s e.1
  | none => voteNext s jid

/-- VOTE_SEND. -/
def execVoteSend (job : Nat) (s : State) : Host.Outcome State Fault Refusal := .next (voteSend s job)

/-- The status and DETAIL with which a draft ends here because it ended on another member (R200). -/
def abortedBy (status member : Nat) : Nat := 0x40000000 + status * 65536 + member

/-- A draft ends at a decision beat: at once between steps, after the step in progress otherwise. -/
def endDraftAt (s : State) (jid : Nat) (j : Job) (status detail : Nat) : State :=
  match j.phase with
  | .running _ => modJob s jid (fun j => { j with abortAtEnd := some (status, detail) })
  | _ => endJob s jid status detail 0

/-- The vote of member m that counts for start beat B. -/
def voteOf (p : Ply) (b m : Nat) : Option Vote := p.votes.find? (fun v => v.member = m && !v.isEnd && v.decide = b)

/-- The shape decisions of a ply's first votes (R200): the status, DETAIL and RESULT with which this member ends. RESULT of SHAPE_OVER is the value on a member that met
it (07 R126); the votes carry no value to the others, which give 0 (log entry 37). -/
def shapeVerdict (d : DraftRun) (self : Nat) (vs : List Vote) : Option (Nat × Nat × Nat) :=
  match vs.find? (fun v => v.shape = 2), vs.find? (fun v => v.shape = 1), vs.find? (fun v => v.shape = 3) with
  | some v, _, _ => some (stShapeOver, v.sslot + v.member * 16, if d.decision = 2 then d.decResult else 0)
  | none, some v, _ => some (stEmpty, v.sslot + v.member * 16, 0)
  | none, none, some v => if d.decision = 3 then some (d.decStatus, d.decSlot, 0) else if v.member = self then none else some (stAborted, abortedBy v.status v.member, 0)
  | none, none, none => none

/-- Count one more hold under a cause (R187). -/
def countHold (d : DraftRun) (cause member : Nat) : DraftRun :=
  let n : Nat → Nat → Nat := fun c h => if cause = c then sat32 (h + 1) else h
  let begin_ := d.holdsNow = 0
  { d with hLateW := n 1 d.hLateW, hLateI := n 2 d.hLateI, hThermal := n 3 d.hThermal, hSlice := n 4 d.hSlice, hRepair := n 5 d.hRepair,
           holdsNow := d.holdsNow + 1, lateNow := if cause = 1 then d.lateNow + 1 else d.lateNow,
           firstCause := if begin_ then cause else d.firstCause, firstMember := if begin_ then member else d.firstMember,
           voted := false, go := false }

/-- Past its late limit a draft ends at this beat, a step in progress and its stalled broadcasts with it: what else is issued completes as far as it can now
(08 R159; log entry 37). -/
def endLate (s : State) (jid : Nat) : State :=
  let s := modJob s jid (fun j => { j with failing := some (j.failing.getD (stLate, 0)) })
  let s := drainJob s jid
  let s := (seatsOf s jid).foldl (fun s e => drainSigs e (getCtx s e.phys).sigs s) s
  match (lookup s.jobs jid).bind Job.failing with
  | some (st, det) => endJob (foldRecords s jid) jid st det 0
  | none => s

/-- The ply holds one stride for the lowest member that was not ready, or, past the late limit, every member ends the draft (R159, R186, R187). -/
def holdOrEnd (s : State) (jid : Nat) (j : Job) (d : DraftRun) (cause member : Nat) : State :=
  if cause = 1 && d.late ≠ 0 && d.lateNow + 1 > d.late then endLate s jid
  else
    let s := modDraft s jid (fun d => countHold d cause member)
    freezeIfDue (charge s j.slice (fun m => { m with holds := m.holds + 1 })) j.slice

/-- The decision of a standalone draft: its own cause decides. In holdover its steps wait without a hold (09 R173); a start beat that a load of the beat counter has
passed over moves to the next whole stride (log entry 37). -/
def decideAlone (s : State) (jid : Nat) (j : Job) (d : DraftRun) (x : Draft) : State :=
  let b := nextBeat x j d
  if s.trd.holdover || !s.trd.locked then s
  else if b < s.trd.beat then modDraft s jid (fun d => { d with start := d.start + ceilDiv (s.trd.beat - b) 8 * 8, voted := false })
  else
    let c := causeOf s jid j x
    if c = 0 then modDraft s jid (fun d => { d with go := true }) else holdOrEnd s jid j d c 0

/-- The decision of a ply at beat B (R186, R195, R200). -/
def decidePly (s : State) (jid : Nat) (j : Job) (d : DraftRun) (x : Draft) (p : Ply) : State :=
  let b := nextBeat x j d
  let members := List.range p.nodes.length
  let vs := members.filterMap (voteOf p b)
  let ends := p.votes.filter (fun v => v.isEnd && v.status ≠ stOk && v.member ≠ p.self)
  let missing := members.find? (fun m => (voteOf p b m).isNone && !(endHeard p m))
  let s := modPly s j.slice (fun p => { p with votes := p.votes.filter (fun v => v.isEnd || b ≤ v.decide) })
  match ends.head?, (if d.first then shapeVerdict d p.self vs else none) with
  | some v, _ => endDraftAt s jid j (if v.status = stLate then stLate else stAborted) (if v.status = stLate then 0 else abortedBy v.status v.member)
  | none, some (st, det, res) => endJob s jid st det res
  | none, none =>
    if p.silent || p.notice.any (fun n => n.beat + p.v ≤ b) then freezeIfDue s j.slice
    else
      match missing, vs.find? (fun v => v.cause ≠ 0) with
      | some _, _ => takeNotice s j.slice { beat := s.trd.beat, member := p.self, cause := 3 }
      | none, some v => holdOrEnd s jid j d v.cause v.member
      | none, none => modDraft s jid (fun d => { d with go := true })

/-- At beat B the votes decide (R186). -/
def voteDecide (s : State) (jid : Nat) : State :=
  match draftOf s jid with
  | none => s
  | some (j, d, x) =>
    if !d.voted || d.go || j.phase = .frozen || s.ras.halted || s.trd.beat < nextBeat x j d then s
    else
      match plyOfDraft s j d with
      | none => decideAlone s jid j d x
      | some p => decidePly s jid j d x p

/-- VOTE_DECIDE. -/
def execVoteDecide (job : Nat) (s : State) : Host.Outcome State Fault Refusal := .next (voteDecide s job)

/-! ### The start of a step (R183, R187) -/

/-- HOLD's DETAIL (R187). -/
def holdDetail (d : DraftRun) : Nat := min d.holdsNow 65535 + d.firstCause * 65536 + d.firstMember * 2 ^ 20

/-- The running step's run: its start beat, its slots and its reduction chains untouched. -/
def startRun (d : DraftRun) (b k : Nat) (r : StepRec) : DraftRun :=
  { d with start := b, first := false, holdsNow := 0, lateNow := 0, lastStep := some (k, b), slots := r.slots.map (fun _ => .waiting),
           reds := r.reds.map (fun _ => { acc := none, forwarded := false, written := false }), voted := false, go := false }

/-- At its start beat, and at no other, every rank with a program begins it, the start block is written, and HOLD is posted after holds (R183, R187; 09 R170). -/
def stepStart (s : State) (jid : Nat) : State :=
  match draftOf s jid with
  | none => s
  | some (j, d, x) =>
    match x.steps[j.step % x.nsteps]? with
    | none => s
    | some r =>
      let b := nextBeat x j d
      if !d.go || j.phase ≠ .ready || s.ras.halted || s.trd.holdover || !s.trd.locked || spindleTaken s jid j || !awake s 0 || s.trd.beat ≠ b then s
      else
        let held := d.holdsNow ≠ 0
        let s := startStep s jid j j.spindles
        let s := modJob s jid (fun j => { j with rankStates := r.progs.map (fun i => if i = 0xFFFF then RankState.ended else .running) })
        let s := modDraft s jid (fun d => startRun d b j.step r)
        let s := writeStartBlock s jid
        if held then postSliceEvent s 0x30 j.slice (holdDetail d) else s

/-- STEP_START. -/
def execStepStart (job : Nat) (s : State) : Host.Outcome State Fault Refusal := .next (stepStart s job)

/-! ### The end of a step (06 R105, R121; 10 R183; 15 R319, R321) -/

/-- A rank is past its program and its issued instructions are complete; blocks it has requested may be left. -/
def rankThrough (s : State) (j : Job) (e : Seat) : Bool :=
  let c := getCtx s e.phys
  c.pos ≥ (progOf s j e.rank).length && c.issued.isEmpty

/-- A rank's program has ended: its position is past the program and what it issued is complete. -/
def rankEnded (s : State) (j : Job) (e : Seat) : Bool :=
  rankThrough s j e && (getCtx s e.phys).bandq.isEmpty && (getCtx s e.phys).sigs.isEmpty

/-- The BAND_RECV that requested the first block that no matrix instruction will consume. -/
def firstUnconsumed (c : Ctx) : Option Nat := (c.blocks.map Prod.fst ++ c.bandq.map BandReq.at_).head?

/-- The lowest of the ranks that are through their programs with blocks unconsumed, and the BAND_RECV that requested the first of them (R105). -/
def leftover (s : State) (j : Job) (es : List Seat) : Option (Nat × Nat) :=
  (es.filter (rankThrough s j)).findSome? (fun e => (firstUnconsumed (getCtx s e.phys)).map (fun i => (e.rank, i)))

/-- Every slot entry and reduction entry of the running step is carried (R183). -/
def slotsDone (s : State) (j : Job) (d : DraftRun) : Bool :=
  match lookup s.drafts d.handle with
  | some x =>
    match x.steps[j.step % x.nsteps]? with
    | some r =>
      d.slots.all (fun t => t ≠ .waiting) &&
      (r.reds.zip d.reds).all (fun e => e.2.written || (!e.1.all && e.1.next ≠ 0xFFFF && e.2.forwarded))
    | none => true
  | none => true

/-- Save the context of rank r from its spindle, and free the spindle. -/
def saveRank (s : State) (jid r l : Nat) (j : Job) : State :=
  match physOf s l with
  | some p =>
    let c := leaveCtx (getCtx s p)
    let s := modJob s jid (fun j => { j with saved := insertKey j.saved r c })
    modSpn s p (fun x => { x with rank := none, ctx := leaveCtx x.ctx, affinity := j.skeins.filter (fun h => h ≠ 0xFFFFFFFF) })
  | none => s

/-- The first waiting job of the slice, in the order of R320. -/
def firstWaiting (s : State) (q : Nat) : Option (Nat × Job) :=
  let ws := s.jobs.filter (fun k => k.2.slice = q && waitsDispatch k.2 && k.2.spindles.isEmpty && requiredDone k.2 k.2.step)
  ws.find? (fun k => ws.all (fun m => m.1 = k.1 || dispatchBefore s k m))

/-- A job that a waiting one of higher priority may displace (R321). -/
def preemptible (s : State) (w : Job) (k : Nat × Job) : Bool :=
  k.2.slice = w.slice && k.2.draft.isNone && !k.2.spindles.isEmpty && k.2.holds.isEmpty && w.prio < k.2.prio && mayHold s w.slice (6 * k.2.ranks)

/-- The order in which running jobs are displaced: lowest priority, then latest issue (R321). -/
def displacedBefore (a b : Nat × Job) : Bool := a.2.prio > b.2.prio || (a.2.prio = b.2.prio && issuedBefore b a)

/-- The first `n` of a list by an order. -/
def takeBy (before : Nat × Job → Nat × Job → Bool) : Nat → List (Nat × Job) → List (Nat × Job)
  | 0, _ => []
  | n + 1, l =>
    match l.find? (fun k => l.all (fun m => m.1 = k.1 || before k m)) with
    | some k => k :: takeBy before n (l.filter (fun m => m.1 ≠ k.1))
    | none => []

/-- The jobs to displace until a waiting job fits: the shortest start of the order of R321 that frees enough spindles. -/
def displaced (w : Job) (free : Nat) : List (Nat × Job) → List (Nat × Job)
  | [] => []
  | k :: t => if free ≥ w.ranks then [] else k :: displaced w (free + k.2.ranks) t

/-- R321 at the step boundary of job `jid`: it gives up its spindles when the first waiting job of its slice cannot fit and displaces it. -/
def preempt (s : State) (jid : Nat) : State :=
  match lookup s.jobs jid with
  | none => s
  | some j =>
    match firstWaiting s j.slice with
    | none => s
    | some (_, w) =>
      if (placementOf s w).isSome || !preemptible s w (jid, j) then s
      else
        let cands := s.jobs.filter (preemptible s w)
        let order := takeBy displacedBefore cands.length cands
        if (displaced w (freeFor s j.slice).length order).any (fun k => k.1 = jid) then
          match obtainPages s j.slice (6 * j.ranks) with
          | .got s =>
            let s := (j.spindles.zipIdx).foldl (fun s e => saveRank s jid e.2 e.1 j) s
            modJob s jid (fun j => { j with spindles := [], waitSince := s.clock })
          | _ => s
        else s

/-- The boundary after a step that every rank has ended: folds, repairs, then the end of the job, a freeze, or the wait for the next step. -/
def stepBoundary (s : State) (jid : Nat) (j : Job) : State :=
  let s := foldRecords s jid
  let s := chargeOverrun s j
  let s := applyRepairs s j.spindles
  let gap := match j.draft.bind (fun d => lookup s.drafts d.handle) with
    | some x => planStart x (j.step + 1) - planStart x j.step
    | none => 0
  let s := modJob s jid (fun k =>
    { k with phase := .ready, step := k.step + 1, touched := [], waitSince := s.clock,
             draft := k.draft.map (fun d => { d with start := d.start + gap, lastEnded := some j.step, ran := d.ran + 1 }) })
  match j.abortAtEnd with
  | some (st, det) => endJob s jid st det 0
  | none =>
    if j.step + 1 < j.nsteps then freezeIfDue (preempt s jid) j.slice
    else
      match j.draft with
      | some d =>
        match plyOfDraft s j d with
        | none => endJob s jid stOk 0 (d.ran + 1)
        | some _ => freezeIfDue (sayEnded s jid j d.start stOk) j.slice
      | none => endJob s jid stOk 0 j.nsteps

/-- A draft whose last step has ended here completes once it has ended on every member (R182). -/
def completeDraft (s : State) (jid : Nat) : State :=
  match lookup s.jobs jid with
  | none => s
  | some j =>
    match j.draft with
    | none => s
    | some d =>
      match plyOfDraft s j d with
      | none => s
      | some p =>
        let overAt := j.phase = .ready && j.step ≥ d.total
        let all := (List.range p.nodes.length).all (fun m => p.votes.any (fun v => v.isEnd && v.status = stOk && v.member = m))
        let lost := p.votes.find? (fun v => v.isEnd && v.status ≠ stOk && v.member ≠ p.self)
        match overAt, all, lost with
        | true, true, _ => endJob s jid stOk 0 d.ran
        | true, false, some v => endJob s jid stAborted (abortedBy v.status v.member) 0
        | _, _, _ => s

/-- A step that a freeze has stopped, with all that it had issued complete: nothing is folded, OWNER stays set, and the draft freezes with STOPPED (R196). -/
def freezeStopped (s : State) (jid : Nat) : State :=
  match lookup s.jobs jid with
  | some j =>
    match j.failing, (lookup s.plies j.slice).bind Ply.notice with
    | some f, some n =>
      if f.1 = stSplit && drained s jid then freezeDraft (modJob s jid (fun j => { j with records := [], touched := [] })) jid n true else s
    | _, _ => s
  | none => s

/-- STEP_END: every rank's program has ended, or has yielded; slots, reductions and folds are complete (R105, R183). With ranks still yielded only the folds are made
(R116); a rank that has ended keeps its spindle until the others have. -/
def execStepEnd (job : Nat) (s : State) : Host.Outcome State Fault Refusal :=
  match lookup s.jobs job with
  | none => .next s
  | some j =>
    match j.phase with
    | .running _ =>
      let s := (seatsOf s job).foldl (fun s e => if (lookup s.jobs job).isSome then settle s e else s) s
      match lookup s.jobs job with
      | none => .next s
      | some j =>
        let es := seatsOf s job
        if j.failing.isSome then .next (freezeStopped s job)
        else
          match leftover s j es with
          | some (r, at_) => .next (programError s job stBounds r at_ 3)
          | none =>
            if es.any (fun e => !rankEnded s j e) || j.draft.any (fun d => !slotsDone s j d) then .next s
            else if j.rankStates.any (fun r => r = .yielded) then
              let s := foldRecords s job
              let s := modJob s job (fun j => { j with rankStates := j.rankStates.map (fun r => if r = .running then .ended else r), touched := [] })
              .next (match j.abortAtEnd with
                | some (st, det) => endJob s job st det 0
                | none => s)
            else
              let s := modJob s job (fun j => { j with rankStates := j.rankStates.map (fun _ => .ended) })
              .next (completeDraft (stepBoundary s job j) job)
    | _ => .next s

/-- The broadcasts of a job that every receiver has issued start, `fuel` of them at most. -/
def startReady (jid : Nat) : Nat → State → State
  | 0, s => s
  | n + 1, s => startReady jid n (((lookup s.jobs jid).map Job.spindles).getD [] |>.foldl startBroadcast s)

/-- Broadcasts that the ranks of a job have issued. -/
def bandsIssued (s : State) (jid : Nat) : Nat := ((seatsOf s jid).map (fun e => (getCtx s e.phys).bandq.length)).sum

/-- Under a notice, a step not ended LENGTH + 8 beats after its start is stopped: no further instruction issues, what was issued completes, and the draft freezes with
STOPPED (R196). -/
def stopStep (s : State) (jid : Nat) : State :=
  match draftOf s jid with
  | none => s
  | some (j, d, x) =>
    match j.phase, plyOfDraft s j d, x.steps[j.step % x.nsteps]? with
    | .running _, some p, some r =>
      if p.notice.isNone || s.trd.beat < d.start + r.length + 8 then s
      else
        let s := startReady jid (bandsIssued s jid) s
        let s := modJob s jid (fun j => { j with failing := some (j.failing.getD (stSplit, 0)) })
        freezeStopped (endFailed s jid) jid
    | _, _, _ => s

/-- FREEZE_STOP_TIMEOUT. -/
def execFreezeStopTimeout (job : Nat) (s : State) : Host.Outcome State Fault Refusal := .next (stopStep s job)

/-! ### Gaps (R189) -/

/-- The exit latency of a state in beats (19 R381). -/
def exitLatency (n : Nat) : Nat := if n = 0 then 0 else if n = 1 then 20 else if n = 2 then 400 else if n = 3 then 5000 else 40000

/-- The issue beats of the directives of step k of a draft that have not been issued. -/
def directiveBeats (x : Draft) (j : Job) (d : DraftRun) (k : Nat) : List Nat :=
  ((stepDirectives x k).filter (fun e => !(j.dirs.contains e))).map (fun e => beatOf x j d k - e.lead)

/-- Beats until the earlier of B − V and the issue of the first prefetch directive before B, whichever step it is for; a LEAD is below 65,536 beats (R189). -/
def draftRoom (s : State) (j : Job) (d : DraftRun) (x : Draft) : Nat :=
  let ks := (List.range (min 65536 (d.total - nextStep j))).map (fun i => nextStep j + i)
  (ks.flatMap (directiveBeats x j d)).foldl min (nextBeat x j d - leadOf s j d) - s.trd.beat

/-- The exit from a gap's power state begins in time for it to end by B − V and by the issue of the next directive (R189). -/
def wakeForDraft (s : State) (jid : Nat) : State :=
  match draftOf s jid with
  | some (j, d, x) => if j.phase = .ready && !awake s 0 && draftRoom s j d x ≤ exitLatency s.pwr.state then wake s 0 else s
  | none => s

/-! ### Votes received, notices (R186, R195) -/

/-- VOTE_RECORD on physical lane n: a record of the slice's ply not yet held is kept, forwarded on its other ply links, and its notice adopted (R186, R195). -/
def execVoteRecord (n : Fin 104) (slice : Fin 64) (v : Vote) (s : State) : Host.Outcome State Fault Refusal :=
  let q := slice.val
  match lookup s.plies q with
  | none => .next s
  | some p =>
    let l := groupBase s (linkOf s n.val)
    if !p.links.contains l || v.member = p.self || v.member ≥ p.nodes.length || p.votes.contains v then .next s
    else
      let s := modPly s q (fun p => { p with votes := p.votes.filter (fun w => !(v.isEnd && w.isEnd && w.member = v.member)) ++ [v] })
      let s := sendVote s q v (some l)
      let s := if v.notice then takeNotice s q { beat := v.noticeAt, member := v.member, cause := 1 } else s
      .next (match plyJob s q with
        | some (jid, _, _) => completeDraft s jid
        | none => s)

/-- MARKER_TIMEOUT: a ply link that has delivered no beat marker for 4 beats; this member raises a notice (R195). -/
def execMarkerTimeout (slice : Fin 64) (n : Fin 104) (s : State) : Host.Outcome State Fault Refusal :=
  match lookup s.plies slice.val with
  | some p =>
    let l := groupBase s (linkOf s n.val)
    if p.links.contains l && readD 0 p.quiet l ≥ 4 then .next (takeNotice s slice.val { beat := s.trd.beat, member := p.self, cause := 0 }) else .next s
  | none => .next s

end Sys2Proof.Machine
end

