-- ==== Sys2Proof/Machine/Slots.lean ====
section
/-! DEFINITION. The scheduled slots and the reduction chains of a running step (10 R179, R184, R190-R192; 11 R211). -/

namespace Sys2Proof.Machine

/-- The running step of a job's draft: the run and its record. -/
def runningStep (s : State) (j : Job) : Option (DraftRun × StepRec) :=
  match j.draft, j.phase with
  | some d, .running _ => ((lookup s.drafts d.handle).bind (fun x => x.steps[j.step % x.nsteps]?)).map (fun r => (d, r))
  | _, _ => none

/-- The order of slot entries on a link: BEAT, SUB, index (11 R211). -/
def slotKey (e : SlotEnt) (i : Nat) : Nat := (e.beat * 2000 + e.sub) * 4096 + i

/-- The reduction entry of a slot entry's group. -/
def redOf (r : StepRec) (e : SlotEnt) : Option (Nat × RedEnt) :=
  (r.reds.findIdx? (fun d => d.rgroup = e.rgroup)).bind (fun k => (r.reds[k]?).map (fun d => (k, d)))

/-- What a KIND 4 entry carries: the running value to NEXT or from PREV, or, with ALL, the result from NEXT or to PREV. Of two entries of one group with one far end
the earlier carries the running value (log entry 28). -/
inductive RedRole where
  | giveValue | takeValue | takeResult | giveResult
  deriving DecidableEq, Repr

/-- The role of KIND 4 entry i. -/
def redRole (r : StepRec) (e : SlotEnt) (i : Nat) : Option RedRole :=
  match redOf r e with
  | none => none
  | some (_, d) =>
    let before := (r.slots.zipIdx).any (fun f => f.1.kind = 4 && f.1.rgroup = e.rgroup && f.1.peer = e.peer && slotKey f.1 f.2 < slotKey e i)
    if e.peer = d.next then some (if before then .takeResult else .giveValue)
    else if e.peer = d.prev then some (if before then .giveResult else .takeValue)
    else none

/-- A KIND 4 entry sends. -/
def redSends (r : StepRec) (e : SlotEnt) (i : Nat) : Bool :=
  match redRole r e i with
  | some .giveValue => true
  | some .giveResult => true
  | _ => false

/-- Slot entry i sends on link l. -/
def sendsOn (r : StepRec) (l : Nat) (e : SlotEnt) (i : Nat) : Bool := e.link = l && (e.kind = 1 || e.kind = 3 || (e.kind = 4 && redSends r e i))

/-- The node at the far end of logical link l, as training learned it. -/
def farNode (s : State) (l : Nat) : Option Nat := (laneOf s l).map (fun n => (getLane s n).peer)

/-- Slot entry i receives on link l: a pass-through entry names its outgoing link, and takes its transfer from the link whose far end is its PEER (log entry 28). -/
def takesOn (s : State) (q : Nat) (r : StepRec) (l : Nat) (e : SlotEnt) (i : Nat) : Bool :=
  let peer := (lookup s.plies q).bind (fun p => p.nodes[e.peer]?)
  if e.kind = 3 then e.link ≠ l && peer.isSome && farNode s l = peer
  else e.link = l && (e.kind = 2 || (e.kind = 4 && !redSends r e i))

/-- How many entries with a property come before an entry: its ORD. -/
def ordOf (r : StepRec) (p : SlotEnt → Nat → Bool) (e : SlotEnt) (i : Nat) : Nat :=
  ((r.slots.zipIdx).filter (fun f => p f.1 f.2 && slotKey f.1 f.2 < slotKey e i)).length

/-- A fault of slot entry i ends the draft here (11 R211); the records of the step are folded as a program error folds them. -/
def endSlot (s : State) (jid status i : Nat) : State := endJob (foldRecords s jid) jid status (0x3000000 + i) 0

/-- An access of a slot or a chain to TIER 1 or 2 of the draft's slice; what lies outside ends the draft (log entry 28). -/
def slotTouch (s : State) (jid q i tier addr n : Nat) (wr : Bool) (k : State → State) : State :=
  match touch s q tier addr n wr with
  | .ready s' => k (noteTouched s' jid 48 tier addr n)
  | .wait s' => countDemand s s' q
  | .ends st => endSlot s jid st i

/-- Semaphore n of a slice, 0xFFFF for none, rises by 1. -/
def slotSignal (s : State) (q n : Nat) : State :=
  if n = 0xFFFF then s
  else modSlice s q (fun x => { x with sems := writeD 0 x.sems n (min (readD 0 x.sems n + 1) 0xFFFFFFFF) })

/-- Set where slot entry i stands. -/
def setSlot (s : State) (jid i : Nat) (t : SlotState) : State := modDraft s jid (fun d => { d with slots := d.slots.set i t })

/-- Change where reduction entry k stands. -/
def modRed (s : State) (jid k : Nat) (f : RedState → RedState) : State :=
  modDraft s jid (fun d => { d with reds := (d.reds.zipIdx).map (fun e => if e.2 = k then f e.1 else e.1) })

/-- Send a transfer on a logical link, metered to the slice (15 R326); `came` is the link that one passed through came in on. -/
def sendTransfer (s : State) (q l : Nat) (came : Option Nat) (h : SlotHeader) (data : List Byte) : State :=
  charge (sendScheduled s l came h data) q (fun m => { m with strandTx := m.strandTx + data.length })

/-! ### Reductions (R190, R191) -/

/-- Bytes between elements of a reduction. -/
def redStep (d : RedEnt) : Nat := if d.estride ≠ 0 then d.estride else redElem d.op

/-- The offset of element x of local segment j. -/
def segAt (d : RedEnt) (j x : Nat) : Nat := d.base + (j * d.e + x) * redStep d

/-- Bytes that the local segments span. -/
def segSpan (d : RedEnt) (nseg : Nat) : Nat := (nseg * d.e - 1) * redStep d + redElem d.op

/-- A CFP32 pair in bytes: S, then E. -/
def pairOf (b : List Byte) : Pair := (f32 (BitVec.ofNat 32 (field b 0 4)), f32 (BitVec.ofNat 32 (field b 4 4)))
def pairBytes (p : Pair) : List Byte := leBytes 4 (w32 p.1).toNat ++ leBytes 4 (w32 p.2).toNat

/-- combine (R191). -/
def redCombine (op : Nat) (a b : List Byte) : List Byte :=
  if op = 1 then pairBytes (cfpAddPair (pairOf a) (pairOf b))
  else if op = 2 then leBytes 4 (vAdd (BitVec.ofNat 32 (leNat a)) (BitVec.ofNat 32 (leNat b))).toNat
  else leBytes 4 (max (leNat a) (leNat b))

/-- The running value of element x after the local segments from `first` on. -/
def redElement (s : State) (q : Nat) (d : RedEnt) (acc : List Byte) (first x : Nat) : List Byte :=
  (List.range (d.nseg - first)).foldl (fun a k => redCombine d.op a (readTier s q d.tier (segAt d (first + k) x) (redElem d.op))) acc

/-- The running values of every element, from those of PREV, or from segment 0. -/
def redValues (s : State) (q : Nat) (d : RedEnt) (prev : Option (List Byte)) : List Byte :=
  (List.range d.e).flatMap (fun x =>
    match prev with
    | some p => redElement s q d (cut p (x * redElem d.op) (redElem d.op)) 0 x
    | none => redElement s q d (readTier s q d.tier (segAt d 0 x) (redElem d.op)) 1 x)

/-- What is written for an element of the result: the pair, or its binary32 with ROUND (R76). -/
def redResult (d : RedEnt) (b : List Byte) : List Byte :=
  if d.op = 1 && d.round then
    leBytes 4 (w32 (cfpValue (BitVec.ofNat 32 (field b 0 4)) (BitVec.ofNat 32 (field b 4 4)))).toNat
  else b

/-- Write the result into segment 0 and signal (R191). -/
def writeResult (s : State) (jid q k i : Nat) (d : RedEnt) (acc : List Byte) : State :=
  slotTouch s jid q i d.tier d.base (segSpan d 1) true (fun s =>
    let s := (List.range d.e).foldl (fun s x => writeTier s q d.tier (segAt d 0 x) (redResult d (cut acc (x * redElem d.op) (redElem d.op)))) s
    let s := modRed s jid k (fun t => { t with acc := some acc, written := true })
    slotSignal s q d.sem)

/-- The local segments join the running value (from PREV, or none at the chain's first member); at its last member the result is written. `done` follows when the local
memory could be reached. -/
def joinChain (s : State) (jid q k i : Nat) (d : RedEnt) (prev : Option (List Byte)) (done : State → State) : State :=
  slotTouch s jid q i d.tier d.base (segSpan d d.nseg) false (fun s =>
    let acc := redValues s q d prev
    let s := modRed s jid k (fun t => { t with acc := some acc })
    if d.next = 0xFFFF then
      match touch s q d.tier d.base (segSpan d 1) true with
      | .wait s => s
      | _ => done (writeResult s jid q k i d acc)
    else done s)

/-- The header of a transfer of the running step. -/
def slotHeader (j : Job) (r : StepRec) (e : SlotEnt) (i n : Nat) : SlotHeader :=
  { step := j.step, ord := ordOf r (sendsOn r e.link) e i, kind := if e.kind = 4 then 4 else 1, rgroup := if e.kind = 4 then e.rgroup else 0, bytes := n }

/-- A KIND 1 slot sends once its gate semaphore is at least 1 (R184). -/
def openTransmit (s : State) (jid : Nat) (j : Job) (r : StepRec) (e : SlotEnt) (i : Nat) : State :=
  if e.sem ≠ 0xFFFF && semValue s j.slice e.sem = 0 then s
  else
    slotTouch s jid j.slice i e.tier (e.addr * 64) e.bytes false (fun s =>
      let data := readTier s j.slice e.tier (e.addr * 64) e.bytes
      let s := if e.sem = 0xFFFF then s
        else modSlice s j.slice (fun x => { x with sems := writeD 0 x.sems e.sem (readD 0 x.sems e.sem - 1) })
      setSlot (sendTransfer s j.slice e.link none (slotHeader j r e i e.bytes) data) jid i .sent)

/-- A KIND 4 slot sends its running value or the result, once it is here. -/
def openReduction (s : State) (jid : Nat) (j : Job) (d : DraftRun) (r : StepRec) (e : SlotEnt) (i : Nat) : State :=
  match redOf r e, redRole r e i with
  | some (k, red), some .giveValue =>
    let send : List Byte → State → State := fun acc s =>
      setSlot (modRed (sendTransfer s j.slice e.link none (slotHeader j r e i acc.length) acc) jid k (fun t => { t with forwarded := true })) jid i .sent
    match (d.reds[k]?).bind RedState.acc with
    | some acc => send acc s
    | none => if red.prev = 0xFFFF then joinChain s jid j.slice k i red none (fun s => send (redValues s j.slice red none) s) else s
  | some (k, _), some .giveResult =>
    match d.reds[k]? with
    | some t => if t.written then setSlot (sendTransfer s j.slice e.link none (slotHeader j r e i (t.acc.getD []).length) (t.acc.getD [])) jid i .sent else s
    | none => s
  | _, _ => s

/-- From its BEAT on, slot entry `idx` of the running step starts sending when what it needs is there (R184). A reduction chain of this member alone has no slot: number
NSLOT + k runs reduction entry k (log entry 28). A stopped step's slots are abandoned (R196). -/
def openSlot (s : State) (jid idx : Nat) : State :=
  match lookup s.jobs jid with
  | none => s
  | some j =>
    match runningStep s j with
    | none => s
    | some (d, r) =>
      if s.ras.halted || j.failing.isSome then s
      else
        match r.slots[idx]? with
        | some e =>
          if d.slots[idx]? ≠ some .waiting || s.trd.beat < d.start + e.beat then s
          else if e.kind = 1 then openTransmit s jid j r e idx
          else if e.kind = 4 then openReduction s jid j d r e idx
          else s
        | none =>
          let k := idx - r.slots.length
          match r.reds[k]?, d.reds[k]? with
          | some red, some t => if red.prev = 0xFFFF && red.next = 0xFFFF && !t.written then joinChain s jid j.slice k k red none (fun s => s) else s
          | _, _ => s

/-- SLOT_OPEN. -/
def execSlotOpen (job idx : Nat) (s : State) : Host.Outcome State Fault Refusal := .next (openSlot s job idx)

/-- Every slot of a job's running step whose BEAT has come starts. -/
def openSlots (s : State) (jid : Nat) : State :=
  match (lookup s.jobs jid).bind (runningStep s) with
  | some (_, r) => (List.range (r.slots.length + r.reds.length)).foldl (fun s i => openSlot s jid i) s
  | none => s

/-- What the matched entry expects: the bytes of the transfer. -/
def expectedBytes (r : StepRec) (e : SlotEnt) (h : SlotHeader) : Nat :=
  if e.kind = 2 then e.bytes
  else if e.kind = 4 then ((redOf r e).map (fun d => d.2.e * redElem d.2.op)).getD 0
  else h.bytes

/-- A transfer matched to entry i is written, forwarded or combined (R184, R191; 11 R211). -/
def takeTransfer (s : State) (jid : Nat) (j : Job) (r : StepRec) (link : Nat) (e : SlotEnt) (i : Nat) (data : List Byte) : State :=
  if e.kind = 2 then
    slotTouch s jid j.slice i e.tier (e.addr * 64) e.bytes true (fun s =>
      setSlot (slotSignal (writeTier s j.slice e.tier (e.addr * 64) data) j.slice e.sem) jid i .received)
  else if e.kind = 3 then setSlot (sendTransfer s j.slice e.link (some link) (slotHeader j r e i data.length) data) jid i .sent
  else
    match redOf r e, redRole r e i with
    | some (k, red), some .takeValue => joinChain s jid j.slice k i red (some data) (fun s => setSlot s jid i .received)
    | some (k, red), some .takeResult =>
      slotTouch s jid j.slice i red.tier red.base (segSpan red 1) true (fun s => setSlot (writeResult s jid j.slice k i red data) jid i .received)
    | _, _ => s

/-- The transfer of entry i has been taken: it is metered, and the buffers it held are free, except that one passed through holds them until it has left (R212). -/
def transferTaken (s : State) (jid q link i : Nat) (e : SlotEnt) (n : Nat) : State :=
  let taken := match ((lookup s.jobs jid).bind Job.draft).bind (fun d => d.slots[i]?) with
    | some .waiting => false
    | _ => true
  if !taken then s
  else
    charge (if e.kind = 3 then s else freeBuffers s link 3 (flitsOf (n + 16))) q (fun m => { m with strandRx := m.strandRx + n })

/-- A transfer that matches no entry ends the draft with BOUNDS; the index in DETAIL is then a free value (11 R211; log entry 28). -/
def endUnmatched (s : State) (jid : Nat) : State :=
  let (n, s) := draw s
  endSlot s jid stBounds (n % 4096)

/-- SCHEDULED_TRANSFER: an arriving transfer is matched by STEP and ORD; one that matches no entry, or differs in BYTES, ends the draft with BOUNDS (11 R211). Between
steps one for the next step waits; a frozen draft, and a step that a freeze has stopped, take none (10 R196). -/
def execScheduledTransfer (job : Nat) (link : Fin 96) (hdr : SlotHeader) (data : List Byte) (s : State) : Host.Outcome State Fault Refusal :=
  match lookup s.jobs job with
  | none => .next s
  | some j =>
    match runningStep s j with
    | none => .next (if j.draft.isSome && j.phase = .ready && !s.ras.halted && hdr.step ≠ j.step then endUnmatched s job else s)
    | some (d, r) =>
      if s.ras.halted || j.failing.isSome then .next s
      else
        let takes := takesOn s j.slice r link.val
        let found := (r.slots.zipIdx).find? (fun f => takes f.1 f.2 && ordOf r takes f.1 f.2 = hdr.ord)
        match found, decide (hdr.step = j.step) with
        | some (e, i), true =>
          if d.slots[i]? ≠ some .waiting then .next s
          else if hdr.bytes ≠ expectedBytes r e hdr || data.length ≠ hdr.bytes then .next (endSlot s job stBounds i)
          else .next (transferTaken (takeTransfer s job j r link.val e i data) job j.slice link.val i e data.length)
        | _, _ => .next (endUnmatched s job)

end Sys2Proof.Machine
end

