-- ==== Sys2Proof/Machine/Meters.lean ====
section
/-! DEFINITION. Meter records and the meter ring (15 R326, R327). -/

namespace Sys2Proof.Machine

/-- Beats of a treadle minute (09 R166). -/
def minuteBeats : Nat := 60000000

/-- Bytes 0 to 509 of a meter record, PHASE and GAP clear (R326). -/
def meterBody (s : State) (q : Nat) (x : Slice) (end_ : Nat) (short final : Bool) : List Byte :=
  let m := x.meter
  leBytes 1 q ++ leBytes 1 (b2n short + 2 * b2n m.holdover + 4 * b2n m.restart + 8 * b2n final) ++ leBytes 2 0 ++ leBytes 4 s.boot ++
  leBytes 8 m.seq ++ leBytes 8 m.begin_ ++ leBytes 8 end_ ++ leBytes 8 (m.spindle / 2000) ++ leBytes 8 (m.switch_ / 2000) ++
  leBytes 8 m.band ++ leBytes 8 m.flashRead ++ leBytes 8 m.flashWrite ++ leBytes 8 m.flashMove ++ leBytes 8 m.strandTx ++ leBytes 8 m.strandRx ++
  leBytes 8 m.cardCmp ++ leBytes 8 m.pageBeats ++ leBytes 4 m.overrun ++ leBytes 4 m.deducted ++ leBytes 4 m.jobsDone ++ leBytes 4 m.holds ++
  (shake256 Config.identityKey).take 32 ++ (shake256 x.conf.operands).take 32 ++ leBytes 318 0

/-- The next record of a slice: parts below a microsecond carry over (R326). -/
def nextMeter (s : State) (m : Meter) (begin_ : Nat) : Meter :=
  { Meter.zero (m.seq + 1) begin_ with holdover := s.trd.holdover, spindle := m.spindle % 2000, switch_ := m.switch_ % 2000 }

/-- Beyond 1,440 waiting records of a slice the oldest is dropped: METER_LOST, and GAP in the next one written (R327). -/
def trimQueue (s : State) (q : Nat) : State :=
  if (s.meterQueue.filter (fun r => r.1 = q)).length ≤ 1440 then s
  else
    let i := s.meterQueue.findIdx (fun r => r.1 = q)
    let gaps := if s.meterGaps.contains q then s.meterGaps else s.meterGaps ++ [q]
    postSliceEvent { s with meterQueue := s.meterQueue.eraseIdx i, meterGaps := gaps } 0x71 q q

/-- Cut the meter record of a slice, ending at beat `end_`; the next begins at `begin_`, which differs when the beat counter is loaded (09 R168). -/
def cutMeterAt (s : State) (q end_ begin_ : Nat) (short final : Bool) : State :=
  match lookup s.slices q with
  | none => s
  | some x =>
    let s := { s with meterQueue := s.meterQueue ++ [(q, meterBody s q x end_ short final)] }
    trimQueue (modSlice s q (fun x => { x with meter := nextMeter s x.meter begin_ })) q

/-- Cut the meter record of a slice now. -/
def cutMeter (s : State) (q : Nat) (short final : Bool) : State := cutMeterAt s q s.trd.beat s.trd.beat short final

/-- Cut every slice's record at a load of the beat counter: it is SHORT, and the next begins at the loaded beat (09 R168). -/
def cutForLoad (s : State) (beat : Nat) : State := (keys s.slices).foldl (fun s q => cutMeterAt s q s.trd.beat beat true false) s

/-- METER_RECORD_CUT: at a treadle minute, once NUMBERED is set, every slice's record is cut; the first one after a cold reset is SHORT (09 R165). -/
def execMeterRecordCut (s : State) : Host.Outcome State Fault Refusal :=
  if s.trd.numbered && s.trd.beat % minuteBeats = 0 then
    .next ((s.slices.filter (fun e => e.2.meter.begin_ < s.trd.beat)).foldl (fun s e => cutMeter s e.1 e.2.meter.restart false) s)
  else .next s

/-- METER_SET (R327). -/
def execMeterSet (op : Nat) (s : State) : Host.Outcome State Fault Refusal :=
  .next (runOp s op 0x6E 4 (fun o s =>
    let x := getPort s o.port
    let base := o.f 8 8
    let lg := o.f 16 1
    let n := 2 ^ lg * 2048
    let word := o.f 17 1
    let ivec := o.f 18 2
    let line := o.f 20 8
    checks s op
      [(base % 4096 ≠ 0 || hitsRing x base n || hitsLine x base n, stBadDescriptor, 0),
       (lg < 4 || lg > 12, stBadDescriptor, 0),
       (badWord x line word, stBadDescriptor, 0),
       (ivec > 255 && ivec ≠ 0xFFFF, stBadDescriptor, 0),
       (badLine x line base n, stBadDescriptor, 0)]
      (finishOk { s with meterRing := some { port := o.port, ring := newCompRing base (2 ^ lg) line word (vecOf ivec) 1 0 } } op 0)))

/-- A record as written: GAP, the signature over bytes 0 to 509 with PHASE zero, then PHASE (R326, R327). -/
def signedRecord (body : List Byte) (gap phase : Bool) : List Byte :=
  let b := body.set 1 (BitVec.ofNat 8 (field body 1 1 + 16 * b2n gap))
  let sig := (Config.sign b).take 1536
  (b.set 2 (BitVec.ofNat 8 (b2n phase))) ++ leBytes 2 sig.length ++ sig ++ List.replicate (1536 - sig.length) 0

/-- METER_RECORD_WRITE: the oldest waiting record goes into the meter ring when its port runs and the ring has room (R327). -/
def execMeterRecordWrite (s : State) : Host.Outcome State Fault Refusal :=
  match s.meterRing, s.meterQueue with
  | some m, (q, body) :: t =>
    let x := getPort s m.port
    if !x.regs.run || x.link.lostAt.isSome || !ringRoom m.ring then .next s
    else
      let (ring, send) := ringSignal (ringNext m.ring) s.clock
      let bytes := signedRecord body (s.meterGaps.contains q) m.ring.phase
      let s := modPort s m.port (fun x => sendIrq { x with mem := writeBytes x.mem (m.ring.base + 2048 * m.ring.slot) bytes } ring send)
      .next { s with meterRing := some { m with ring := ring }, meterQueue := t, meterGaps := s.meterGaps.filter (fun k => k ≠ q) }
  | _, _ => .next s

end Sys2Proof.Machine
end

