-- ==== Sys2Proof/Machine/Tenancy.lean ====
section
/-! DEFINITION. Slices, grants, time slices and slice switches (15 R309-R318). -/

namespace Sys2Proof.Machine

/-! ### SLICE_CREATE and SLICE_DELETE (R309, R313) -/

/-- The configuration that the operands of SLICE_CREATE give. -/
def sliceConf (o : Op) : SliceConf where
  shared := bit (o.f 9 1) 0
  sems := o.f 10 2
  counters := o.f 12 2
  spindles := o.f 16 8
  commons := o.f 24 4
  floor := o.f 28 4
  ceiling := o.f 32 4
  park := o.f 36 4
  fast := o.f 40 8
  bulk := o.f 48 8
  strand := o.f 56 4
  jobs := o.f 60 2
  operands := cut o.bytes 8 56

/-- Capacity units of the device (13 R254). -/
def capacityTotal (s : State) : Nat := if s.glb.cz1200 then 660743424 else 1321488000

/-- Capacity units of a slice's allotments. -/
def allotted (c : SliceConf) : Nat := c.fast + c.bulk + 384 * c.park

/-- A total over the slices and one more. -/
def totalOf (s : State) (c : SliceConf) (f : SliceConf → Nat) : Nat := f c + (s.slices.map (fun e => f e.2.conf)).sum

/-- Two sets of logical spindles meet. -/
def setsMeet (a b : Nat) : Bool := (List.range 48).any (fun l => bit a l && bit b l)

/-- The checks of R309. -/
def createChecks (s : State) (o : Op) (c : SliceConf) : List (Bool × Nat × Nat) :=
  let total := totalOf s c
  let fields : List (Bool × Nat × Nat) := [(o.f 8 1 > 63, stBadDescriptor, 8), (c.sems > 4096, stBadDescriptor, 10), (c.counters > 4096, stBadDescriptor, 12),
   (c.commons > 960, stBadDescriptor, 24), (c.floor > c.ceiling, stBadDescriptor, 28), (c.ceiling > 94208, stBadDescriptor, 32),
   (c.park > 524288, stBadDescriptor, 36), (c.strand > 4800, stBadDescriptor, 56), (c.jobs > 1024, stBadDescriptor, 60),
   ((lookup s.slices (o.f 8 1)).isSome, stBounds, 8)]
  let totals : List (Bool × Nat × Nat) := [(total SliceConf.sems > 16384, stBounds, 10), (total SliceConf.counters > 4096, stBounds, 12), (total SliceConf.commons > 960, stBounds, 24),
   (total SliceConf.floor > 94208, stBounds, 28), (total allotted > capacityTotal s, stBounds, 40), (total SliceConf.strand > 4800, stBounds, 56),
   (total SliceConf.jobs > 1024, stBounds, 60),
   (s.slices.any (fun e => (!c.shared || !e.2.conf.shared) && setsMeet c.spindles e.2.conf.spindles), stBounds, 16),
   (c.floor < switchReserve c, stBounds, 28)]
  fields ++ totals

/-- A new slice: semaphores, counters and commons zero, its first meter record open (R309). -/
def newSlice (s : State) (c : SliceConf) : Slice where
  conf := c
  sems := []
  ctrValue := []
  ctrLimit := []
  commons := []
  pages := []
  pool := []
  skeinPages := []
  pins := []
  meter := { Meter.zero 0 s.trd.beat with holdover := s.trd.holdover, restart := !s.trd.numbered }
  timeSlice := none
  owed := 0
  overAt := none

/-- A key record of a slice: 3 its park key, 4 its ML-KEM seed (17 R351, R352). -/
def makeKey (s : State) (kind q : Nat) : State :=
  let (sec, s) := newSecret s
  let h := s.sec.nextHandle
  { s with sec := { s.sec with nextHandle := h + 1, keys := s.sec.keys ++ [{ kind := kind, slice := q, store := 0xFFFF, handle := h, gen := s.sec.srkGen, secret := sec }] } }

/-- Make `n` pool pages free for a reserve, evicting in the order of 08 R152 from unsealed slices above their floors, `fuel` pages at most; whether they are there now (08
R153). -/
def makeFree (n : Nat) : Nat → State → State × Bool
  | 0, s => (s, decide (n ≤ freePages s))
  | fuel + 1, s =>
    if n ≤ freePages s then (s, true)
    else
      match oldest ((s.slices.filter (fun y => !isSealed y.2.conf && residentPages s y.1 > y.2.conf.floor)).flatMap (fun y => evictable s y.1)) with
      | some v =>
        match evict s v with
        | some s => makeFree n fuel s
        | none => (s, false)
      | none => (s, false)

/-- SLICE_CREATE: a slice with its pool key, park key and ML-KEM seed (R309; 17 R351). A sealed slice's floor is reserved out of the pool: the command waits until so many
pages are free (08 R153). -/
def execSliceCreate (op : Nat) (s : State) : Host.Outcome State Fault Refusal :=
  .next (runOp s op 0x60 4 (fun o s =>
    let c := sliceConf o
    checks s op (createChecks s o c)
      (let q := o.f 8 1
       let r := if isSealed c then makeFree c.floor c.floor s else (s, true)
       if !r.2 then r.1
       else
         let s := { r.1 with slices := insertKey r.1.slices q (newSlice r.1 c), sec := { r.1.sec with poolKeys := r.1.sec.poolKeys ++ [q] } }
         finishOk (makeKey (makeKey s 3 q) 4 q) op 0)))

/-- The slice still has something that keeps it (R313). -/
def sliceHolds (s : State) (q : Nat) : Bool :=
  s.stores.any (fun e => e.2.slice = q) || s.card.indexes.any (fun e => e.2.slice = q) || s.skeins.any (fun e => e.2.slice = q) ||
  s.drafts.any (fun e => e.2.slice = q) || s.strand.eps.any (fun e => e.2.slice = q) ||
  [0, 1, 2, 3].any (fun p => (getPort s p).window.any (fun w => w.slice = q) || (getPort s p).sqs.any (fun r => r.1 ≠ 0 && r.2.slice = q)) ||
  s.jobs.any (fun j => j.2.slice = q) || (lookup s.plies q).isSome

/-- Slice q is gone: grants it holds dropped, its pool key destroyed, its FINAL record cut (R313). -/
def removeSlice (s : State) (q : Nat) : State :=
  let first := (lookup s.slices q).any (fun x => x.meter.restart)
  let s := cutMeter s q (first || s.trd.beat % minuteBeats ≠ 0) true
  { s with slices := removeKey s.slices q, stores := s.stores.map (fun e => (e.1, { e.2 with grants := e.2.grants.filter (fun g => g ≠ q) })),
           sec := { s.sec with poolKeys := s.sec.poolKeys.filter (fun k => k ≠ q), keys := s.sec.keys.filter (fun k => !(k.kind ≠ 1 && k.slice = q)) } }

/-- SLICE_DELETE (R313). -/
def execSliceDelete (op : Nat) (s : State) : Host.Outcome State Fault Refusal :=
  .next (runOp s op 0x69 2 (fun o s =>
    let q := o.f 8 1
    checks s op [((lookup s.slices q).isNone || sliceHolds s q, stBounds, 8)] (finishOk (removeSlice s q) op 0)))

/-! ### STORE_SHARE (R312) -/

/-- The checks of R312, after the store number's. -/
def shareChecks (s : State) (id : Nat) (o : Op) (grant : Bool) : List (Bool × Nat × Nat) :=
  let n := o.f 8 2
  let st := lookup s.stores n
  [(n > 1023, stBadDescriptor, 8), (o.f 11 1 > 1, stBadDescriptor, 11), (deletedAhead s n id, stDenied, 0), (st.isNone, stBounds, 8),
   ((lookup s.slices (o.f 10 1)).isNone, stBounds, 10), (grant && st.any (fun st => st.level ≠ 0), stLocked, 0)]

/-- STORE_SHARE with OP 0 (R312). -/
def execStoreShareGrant (op : Nat) (s : State) : Host.Outcome State Fault Refusal :=
  .next (runRow s op 0x67 4 (fun o => o.f 11 1 ≠ 1) (fun o s =>
    let q := o.f 10 1
    checks s op (shareChecks s op o true)
      (finishOk (modStore s (o.f 8 2) (fun st => if st.slice = q || st.grants.contains q then st else { st with grants := st.grants ++ [q] })) op 0)))

/-- A command of the slice on the store, fetched before `id`, is in flight. -/
def sliceBusy (s : State) (store q id : Nat) : Bool := s.ops.any (fun e => e.1 < id && e.2.slice = q && isOpen e.2 && namesStore s e.2 store)

/-- STORE_SHARE with OP 1: a grant in place ends once every command of the slice on the store has ended (R312). -/
def execStoreShareRevoke (op : Nat) (s : State) : Host.Outcome State Fault Refusal :=
  .next (runRow s op 0x67 4 (fun o => o.f 11 1 ≠ 0) (fun o s =>
    let n := o.f 8 2
    let q := o.f 10 1
    checks s op (shareChecks s op o false)
      (if !((lookup s.stores n).any (fun st => st.slice ≠ q && st.grants.contains q)) then finishOk s op 0
       else if sliceBusy s n q op then s
       else finishOk (modStore s n (fun st => { st with grants := st.grants.filter (fun g => g ≠ q) })) op 0)))

/-! ### The rotation (R314) -/

/-- An entry of the table from its 16 bytes. -/
def readRotEntry (b : List Byte) : RotEntry := { start := field b 0 4, length := field b 4 4, slice := field b 8 1 }

/-- Two entries overlap in time and in logical spindles (R314 check 3). -/
def entriesMeet (s : State) (a b : RotEntry) : Bool :=
  a.start < b.start + b.length && b.start < a.start + a.length &&
  (match lookup s.slices a.slice, lookup s.slices b.slice with
   | some x, some y => setsMeet x.conf.spindles y.conf.spindles
   | _, _ => false)

/-- The first entry that names no SHARED slice or meets an earlier one (R314 check 3). -/
def rotationBad (s : State) (es : List RotEntry) : Option Nat :=
  (List.range es.length).find? (fun i =>
    match es[i]? with
    | some e => !((lookup s.slices e.slice).any (fun x => x.conf.shared)) || (es.take i).any (fun k => entriesMeet s k e)
    | none => false)

/-- SCHED_SET, the table having been read (R314). -/
def schedChecked (s : State) (id : Nat) (o : Op) (table : List Byte) : State :=
  let n := o.f 16 2
  let period := o.f 20 4
  let effect := o.f 24 8
  let entry : Nat → List Byte := fun i => cut table (16 * i) 16
  let bad : Nat → Bool := fun i =>
    let e := entry i
    field e 9 7 ≠ 0 || field e 4 4 < 1000 || field e 0 4 + field e 4 4 > period
  match (List.range n).find? bad with
  | some i => fail s id stBadDescriptor (0x60000 + i)
  | none =>
    if effect % period ≠ 0 || effect < s.trd.beat + 1000 then fail s id stBounds 24
    else
      let es := (List.range n).map (fun i => readRotEntry (entry i))
      match rotationBad s es with
      | some i => fail s id stBounds (0x60000 + i)
      | none => finishOk { s with nextRotation := some { entries := es, period := period, effect := effect } } id 0

/-- SCHED_SET (R314). -/
def execSchedSet (op : Nat) (s : State) : Host.Outcome State Fault Refusal :=
  .next (runOp s op 0x6B 4 (fun o s =>
    let n := o.f 16 2
    let period := o.f 20 4
    checks s op
      [(o.f 8 8 % 64 ≠ 0, stBadDescriptor, 8), (n > 256, stBadDescriptor, 16),
       (period % 1000 ≠ 0 || period < 1000 || period > minuteBeats, stBadDescriptor, 20)]
      (withPartner s op o [(o.f 8 8, 16 * n, false)]
        (if n ≠ 0 && homeFails s o.port (o.f 8 8) (16 * n) then fail s op stBadDescriptor 8
         else schedChecked s op o (readPartner s o.port (o.f 8 8) (16 * n))))))

/-! ### Boundaries (R314, R316) -/

/-- The next table takes effect when its beat comes; time slices of the old one end there. -/
def turnRotation (s : State) : State :=
  match s.nextRotation with
  | some r =>
    if s.trd.numbered && r.effect ≤ s.trd.beat then
      { s with rotation := some r, nextRotation := none, slices := s.slices.map (fun e => (e.1, { e.2 with timeSlice := none })) }
    else s
  | none => s

/-- The entry of a slice that is in progress, with the beat at which it began. -/
def entryNow (s : State) (q : Nat) : Option (Nat × RotEntry) :=
  match s.rotation with
  | some r =>
    let base := s.trd.beat / r.period * r.period
    ((r.entries.find? (fun e => e.slice = q && base + e.start ≤ s.trd.beat && s.trd.beat < base + e.start + e.length))).map (fun e => (base + e.start, e))
  | none => none

/-- The planned overrun of boundary b in a slice that runs a ply draft: the beats from it to the planned end of the step whose plan it falls into (10 R188). -/
def plannedOverrun (s : State) (q b : Nat) : Nat :=
  match plyJob s q with
  | some (_, _, d) =>
    match d.lastStep, lookup s.drafts d.handle with
    | some (k, at_), some x => if at_ < b then at_ + ((x.steps[k % x.nsteps]?).map StepRec.length).getD 0 - b else 0
    | _, _ => 0
  | none => 0

/-- The end of a slice's time slice has come: its planned overrun is charged and deducted, on every member of the ply alike (10 R188). -/
def planOverrun (s : State) (q : Nat) : State :=
  match (lookup s.slices q).bind Slice.timeSlice with
  | some t => if t.1 ≤ s.trd.beat && plannedOverrun s q t.1 ≠ 0 then countOverrun s q t.1 (plannedOverrun s q t.1) true else s
  | none => s

/-- A slice's time slice follows the rotation: over at its scheduled end, and begun with its entry, its end moved earlier by the overrun it owes (R316). -/
def turnSlice (s : State) (q : Nat) : State :=
  let s := planOverrun s q
  match lookup s.slices q with
  | none => s
  | some x =>
    let overAt := x.timeSlice.any (fun t => t.2 ≤ s.trd.beat)
    let cur := if overAt then none else x.timeSlice
    match cur, entryNow s q with
    | none, some (at_, e) =>
      let d := min x.owed e.length
      modSlice s q (fun x =>
        { x with timeSlice := some (at_ + e.length - d, at_ + e.length), owed := x.owed - d, meter := { x.meter with deducted := x.meter.deducted + d } })
    | _, _ => modSlice s q (fun x => { x with timeSlice := cur })

/-- The SHARED slice whose time slice covers a logical spindle now. -/
def coverOf (s : State) (l : Nat) : Option Nat :=
  (s.slices.find? (fun e => e.2.conf.shared && bit e.2.conf.spindles l && e.2.timeSlice.any (fun t => s.trd.beat < t.1))).map Prod.fst

/-- The logical spindle belongs to SHARED slices. -/
def sharedSpindle (s : State) (l : Nat) : Bool := s.slices.any (fun e => e.2.conf.shared && bit e.2.conf.spindles l)

/-- What a logical spindle's schedule stands at. -/
def schedOf (s : State) (l : Nat) : SpindleSched := (lookup s.sched l).getD { running := none, boundary := none }

/-- The beat of the boundary that ends a slice's running on a spindle: its time slice's effective end when that has come, or now. -/
def boundaryBeat (s : State) (running : Option Nat) : Nat :=
  match (running.bind (lookup s.slices)).bind Slice.timeSlice with
  | some t => min t.1 s.trd.beat
  | none => s.trd.beat

/-- A logical spindle's schedule meets the time slices: a boundary is noted where the slice running is not the one that covers it. -/
def turnSpindle (s : State) (l : Nat) : State :=
  let c := schedOf s l
  let want := coverOf s l
  if !sharedSpindle s l && c.running.isNone then s
  else
    match c.boundary with
    | some (b, _) => { s with sched := insertKey s.sched l { c with boundary := some (b, want) } }
    | none =>
      if c.running = want then s
      else { s with sched := insertKey s.sched l { c with boundary := some (boundaryBeat s c.running, want) } }

/-- SLICE_BOUNDARY: time slices begin and end with the beat, and each boundary is noted on its spindles (R314, R316). -/
def execSliceBoundary (s : State) : Host.Outcome State Fault Refusal :=
  let s := turnRotation s
  let s := (keys s.slices).foldl turnSlice s
  .next ((List.range 48).foldl turnSpindle s)

/-! ### The switch (R317, R318) -/

/-- A step runs on a logical spindle: its rank has not ended or yielded. -/
def stepOn (s : State) (l : Nat) : Bool :=
  match (physOf s l).bind (fun p => (getSpn s p).rank) with
  | some (jid, r) =>
    match lookup s.jobs jid with
    | some j => (match j.phase with | .running _ => j.rankStates.any (fun t => t = .running) && j.rankStates[r]? ≠ some .yielded | _ => false)
    | none => false
  | none => false

/-- Step 1 of a switch: the context of the outgoing rank on a spindle is saved in pages of the switch reserve, obtained as 08 R152 obtains them; none while the pages
are waited for (R134, R317). -/
def saveOutgoing (s : State) (l : Nat) : Option State :=
  match physOf s l with
  | none => some s
  | some p =>
    match (getSpn s p).rank with
    | none => some s
    | some (jid, r) =>
      match lookup s.jobs jid with
      | none => some s
      | some j =>
        match obtainPages s j.slice 6 with
        | .got s =>
          let c := leaveCtx (getCtx s p)
          some (modJob s jid (fun j =>
            { j with saved := insertKey j.saved r c, switchSaved := if j.switchSaved.contains r then j.switchSaved else j.switchSaved ++ [r] }))
        | _ => none

/-- The rank of slice q whose context a switch saved from logical spindle l. -/
def switchedOut (s : State) (q l : Nat) : Option (Nat × Nat) :=
  s.jobs.findSome? (fun j => if j.2.slice = q then (j.2.switchSaved.find? (fun r => j.2.spindles[r]? = some l)).map (fun r => (j.1, r)) else none)

/-- Step 3 of a switch: the saved context of the incoming slice returns. -/
def restoreIncoming (s : State) (q l : Nat) : State :=
  match switchedOut s q l, physOf s l with
  | some (jid, r), some p =>
    match lookup s.jobs jid with
    | some j =>
      withContexts s jid j (fun s =>
        let s := modSpn s p (fun x => { x with rank := some (jid, r), ctx := (lookup j.saved r).getD Ctx.zero, affinity := j.skeins.filter (fun h => h ≠ 0xFFFFFFFF) })
        modJob s jid (fun j => { j with saved := removeKey j.saved r, switchSaved := j.switchSaved.filter (fun k => k ≠ r) }))
    | none => s
  | _, _ => s

/-- An amount of switch time, in cycles, for a slice's SWITCH_US: how long a save or restore takes is not a function of the state (log entry 6). -/
def chargeSwitch (s : State) (q : Option Nat) : State :=
  match q with
  | some q =>
    let (n, s) := draw s
    charge s q (fun m => { m with switch_ := m.switch_ + n })
  | none => s

/-- SLICE_SWITCH on one logical spindle: once the outgoing step has ended, save, scrub, restore (R317). While the compute plane is halted no state moves (R325). -/
def execSliceSwitch (sp : Fin 48) (s : State) : Host.Outcome State Fault Refusal :=
  let l := sp.val
  let c := schedOf s l
  match c.boundary with
  | none => .next s
  | some (_, want) =>
    if s.ras.halted || stepOn s l then .next s
    else if c.running = want then .next { s with sched := insertKey s.sched l { c with boundary := none } }
    else
      match saveOutgoing s l with
      | none => .next s
      | some s =>
        let s := chargeSwitch s c.running
        let s := match physOf s l with
          | some p => scrubSpn s p
          | none => s
        let s := match want with
          | some q => if (switchedOut s q l).isSome then chargeSwitch (restoreIncoming s q l) (some q) else s
          | none => s
        .next { s with sched := insertKey s.sched l { running := want, boundary := none } }

end Sys2Proof.Machine
end

