-- ==== Sys2Proof/Machine/Treadle.lean ====
section
/-! DEFINITION. The treadle (09): beats, references, epochs, beat markers. -/

namespace Sys2Proof.Machine

/-- The treadle changed. -/
def modTrd (s : State) (f : Trd → Trd) : State := { s with trd := f s.trd }

/-- A full erase runs that a restart has resumed: control-space writes are ignored (17 R347). -/
def eraseResumed (s : State) : Bool := s.sec.erase.any Erase.resumed

/-- A control-space write takes effect, unless the sideband may not write (20 R398) or a resumed erase runs (17 R347). -/
def ctlWrite (s : State) (who : Requester) (off : Nat) (k : State → State) : State :=
  if who = .sideband ∧ !s.glb.sbWrite then badAccess s off else if eraseResumed s then s else k s

/-- A reference is qualified (R162). -/
def refOk (t : Trd) (b : Bool) : Bool := if b then t.refB else t.refA

/-- An input as SEL names it: B is 1. -/
def inputBit : TreadleInput → Bool
  | .A => false
  | .B => true

/-- Switch to a reference: REF_SWITCH, bit 8 for a switch by software (R172). Before NUMBERED, once the PLL is locked, the absence of an epoch on the input selected counts
from the switch (R164; log entry 37). -/
def switchRef (s : State) (dest : Bool) (software : Bool) : State :=
  let watch := s.trd.locked && !s.trd.numbered
  postEvent (modTrd s (fun t =>
    { t with refSel := dest, switchCnt := sat32 (t.switchCnt + 1),
             lastEpochA := if watch && !dest then some s.clock else t.lastEpochA, lastEpochB := if watch && dest then some s.clock else t.lastEpochB }))
    0x20 (b2n dest + 256 * b2n software)

/-! ### BEAT (R163, R167; 15 R326; 19 R393) -/

/-- The slice that a physical spindle's rank belongs to. -/
def spindleSlice (s : State) (p : Nat) : Option Nat := ((getSpn s p).rank.bind (fun r => lookup s.jobs r.1)).map Job.slice

/-- Charge the beat that has passed: spindle time in cycles for each held spindle, and resident pages (15 R326). -/
def chargeBeat (s : State) : State :=
  let s := (List.range 52).foldl (fun s p =>
    match spindleSlice s p with
    | some q => charge s q (fun m => { m with spindle := m.spindle + 2000 })
    | none => s) s
  (keys s.slices).foldl (fun s q => charge s q (fun m => { m with pageBeats := m.pageBeats + residentPages s q })) s

/-- The plies in which this member sends markers: it has not lost its time base since it was formed (R173). -/
def heardPlies (s : State) : Tbl Ply := s.plies.filter (fun p => !p.2.silent)

/-- The distinct ply links on which markers go out; a plied link is one of them (R167). -/
def markerLinks (s : State) : List Nat := ((heardPlies s).flatMap (fun p => p.2.links)).eraseDups

/-- The device sends markers: it is in a ply, keeps its time base, and is not in PS4 (R167, R169, R173). -/
def sendsMarkers (s : State) : Bool := anyPly s && !s.trd.holdover && s.pwr.state < 4

/-- A marker on every ply link (R167). -/
def sendMarkers (s : State) : State :=
  (markerLinks s).foldl (fun s l =>
    match (heardPlies s).find? (fun p => p.2.links.contains l) with
    | some p => sendMarker s l p.2.anchor p.2.hops
    | none => s) s

/-- A link whose sender STALL has stopped counts the flit times of the beat (11 R212). -/
def countStalls (s : State) : State :=
  { s with strand := { s.strand with lanes := s.strand.lanes.map (fun e =>
      if linkUp s (linkOf s e.1) && e.2.link.stallRx && !(readD [] e.2.link.queue 3).isEmpty then
        (e.1, { e.2 with ctr := { e.2.ctr with schedStall := sat32 (e.2.ctr.schedStall + flitTimes s.clock false) } })
      else e) } }

/-- Beats of a compute halt do not count toward the re-ranking deadline of a query (12 R244). -/
def countHalt (s : State) : State :=
  if s.ras.halted then
    { s with card := { s.card with queries := s.card.queries.map (fun q => { q with halted := q.halted + 1 }),
                                   snaps := s.card.snaps.map (fun e => (e.1, { e.2 with halted := e.2.halted + 1 })) } }
  else s

/-- Every ply link has been one more beat without a marker (10 R195). -/
def ageLinks (s : State) : State :=
  { s with plies := s.plies.map (fun p => (p.1, { p.2 with quiet := p.2.links.foldl (fun t l => writeD 0 t l (readD 0 t l + 1)) p.2.quiet })) }

/-- Writes of PWR_LIMIT and PWR_IDLEn take effect at the next beat (19 R393). -/
def applyPwr (p : Pwr) : Pwr :=
  let p := match p.pendLimit with
    | some n => { p with limit := n, pendLimit := none }
    | none => p
  let at_ : Nat → Nat → Nat := fun n old => (lookup p.pendIdle n).getD old
  { p with idle1 := at_ 1 p.idle1, idle2 := at_ 2 p.idle2, idle3 := at_ 3 p.idle3, idle4 := at_ 4 p.idle4, pendIdle := [] }

/-- A command in progress that keeps the flash or the pool busy: storage, FILTER_SCAN, HANK_PARK, HANK_RESTORE (19 R382). -/
def keepsFlash (o : Op) : Bool :=
  isOpen o && o.phase ≠ .fetched && (o.opcode < 0x20 || o.opcode = 0x48 || o.opcode = 0x26 || o.opcode = 0x27)

/-- Garbage collection, refresh, migration or a card pass has work on a bobbin. -/
def bobbinBusy (s : State) (b : Nat) : Bool :=
  let x := getBob s b
  x.foreground || x.migrating.isSome || !x.refreshQ.isEmpty || !x.passes.isEmpty

/-- The condition of PSn holds (19 R382). -/
def idleFor (s : State) (n : Nat) : Bool :=
  let flash := !(s.ops.any (fun e => keepsFlash e.2)) && s.selfTest.isNone && !((List.range (nBobbins s)).any (bobbinBusy s)) &&
    !(s.jobs.any (fun j => j.2.dirStates.any (fun d => d ≠ .waiting && d ≠ .complete)))
  let fabric := !(anyPly s) && s.strand.txns.all (fun t => t.ended.isSome)
  !stepsRun s && (n < 3 || flash) && (n < 4 || fabric)

/-- Since when the condition of each state holds, at a beat: a condition that holds anew is noted, one that does not is struck. -/
def trackIdle (s : State) : State :=
  let note : Tbl Nat → Nat → Tbl Nat := fun t n =>
    if !idleFor s n then removeKey t n else if (lookup t n).isSome then t else insertKey t n s.clock
  { s with pwr := { s.pwr with idleSince := [1, 2, 3, 4].foldl note s.pwr.idleSince } }

/-- A beat passes: it is numbered where the beats are (10 R163), and the power writes that wait for it take effect (19 R393). -/
def passBeat (s : State) : State :=
  { s with clock := s.clock + 1, pwr := applyPwr s.pwr,
           trd := { s.trd with beat := if s.trd.numbered then s.trd.beat + 1 else s.trd.beat, subbeat := 0 } }

/-- A draft's vote, decision, step start and slots that fall to this beat. -/
def draftBeat (s : State) (jid : Nat) : State := openSlots (stepStart (voteDecide (voteSend s jid) jid) jid) jid

/-- What the drafts have to do in this beat is done before it ends, presented or not: nothing scheduled starts at another beat (R170; log entry 37). -/
def finishBeat (s : State) : State :=
  let s := (keys s.jobs).foldl draftBeat s
  let s := (keys s.jobs).foldl freezeStopped s
  (keys s.plies).foldl (fun s q => freezeIfDue (voteEnd s q) q) s

/-- The load of the beat counter that a member's joining of a ply has left for this beat: the meter records in progress are cut (R168). -/
def applyLoad (s : State) : State :=
  match s.trd.load with
  | some (b, h) =>
    modTrd (cutForLoad s b) (fun t =>
      { t with beat := b, subbeat := 0, numbered := true, plied := true, hops := h, skew := 0, skewOk := true, skewBeats := 0, load := none,
               lastEpochA := some (t.lastEpochA.getD s.clock), lastEpochB := some (t.lastEpochB.getD s.clock) })
  | none => s

/-- BEAT: the next beat begins. Before NUMBERED only provisional beats pass (R164, R165). -/
def execBeat (s : State) : Host.Outcome State Fault Refusal :=
  let s := countHalt (countStalls (chargeBeat (sendIdles (finishBeat s))))
  let s := applyLoad (passBeat s)
  let s := if sendsMarkers s then sendMarkers s else s
  .next ((keys s.jobs).foldl wakeForDraft (trackIdle (ageLinks s)))

/-! ### References (R162, R172, R173) -/

/-- REFERENCE_QUALIFIED: an input has stayed in tolerance for 1,000 beats (R162); in holdover the PLL will lock to whichever was first (R173). -/
def execReferenceQualified (i : TreadleInput) (s : State) : Host.Outcome State Fault Refusal :=
  let b := inputBit i
  .next (modTrd s (fun t =>
    let t := { t with lockTo := if t.holdover && t.lockTo.isNone then some b else t.lockTo }
    if b then { t with refB := true } else { t with refA := true }))

/-- This member's time base is lost: it sends no more markers in the plies it is a member of, and raises a notice in each (R171, R173; 10 R195). -/
def loseTimeBase (s : State) : State :=
  let s : State := { s with plies := s.plies.map (fun (p : Nat × Ply) => (p.1, { p.2 with silent := true })) }
  s.plies.foldl (fun s p => takeNotice s p.1 { beat := s.trd.beat, member := p.2.self, cause := 2 }) s

/-- The input that a PLL without lock will lock to: the selected one if it is qualified, or else the other. -/
def qualifiedInput (t : Trd) : Option Bool := if refOk t t.refSel then some t.refSel else if refOk t (!t.refSel) then some (!t.refSel) else none

/-- Holdover begins: TREADLE_LOST, with DETAIL 1 when the skew is the cause, and the meter records in progress are flagged (R171, R173). -/
def enterHoldover (s : State) (cause : Nat) : State :=
  let s := modTrd s (fun t => { t with holdover := true, locked := false, holdoverAt := some s.clock, lockTo := qualifiedInput t })
  let s := { s with slices := s.slices.map (fun e => (e.1, { e.2 with meter := { e.2.meter with holdover := true } })) }
  loseTimeBase (postEvent s 0x21 cause)

/-- REFERENCE_LOST: the selected input's loss switches to the other, or, once the PLL has locked, enters holdover (R172, R173). -/
def execReferenceLost (i : TreadleInput) (s : State) : Host.Outcome State Fault Refusal :=
  let b := inputBit i
  let s := modTrd s (fun t =>
    let t := { t with lockTo := if t.lockTo = some b then (if refOk t (!b) then some (!b) else none) else t.lockTo }
    if b then { t with refB := false } else { t with refA := false })
  if s.trd.refSel ≠ b || s.trd.holdover then .next s
  else if refOk s.trd (!b) then .next (switchRef s (!b) false)
  else if s.trd.locked then .next (enterHoldover s 0)
  else .next s

/-- After lock, a draft of a device in no ply whose step waited starts it at the first beat that is a whole number of strides after its scheduled start; the beats are
added to TRD_SUSPEND (R173). -/
def resumeDraft (s : State) (jid : Nat) : State :=
  match lookup s.jobs jid with
  | none => s
  | some j =>
    match j.draft, j.phase with
    | some d, .ready =>
      match lookup s.drafts d.handle with
      | some x =>
        let b := nextBeat x j d
        if b > s.trd.beat || j.step ≥ d.total then s
        else
          let n := ceilDiv (s.trd.beat + 1 - b) 8 * 8
          modTrd (modDraft s jid (fun d => { d with start := d.start + n, voted := false, go := false })) (fun t => { t with suspend := t.suspend + n })
      | none => s
    | _, _ => s

/-- PLL_LOCK: the first lock, or the end of holdover (R164, R173). -/
def execPllLock (s : State) : Host.Outcome State Fault Refusal :=
  let t := s.trd
  if t.holdover then
    match t.lockTo with
    | none => .next s
    | some b =>
      let s := if b ≠ t.refSel then switchRef s b false else s
      let n := s.clock - t.holdoverAt.getD s.clock
      let s := modTrd s (fun t => { t with locked := true, holdover := false, holdoverAt := none, lockTo := none })
      let s := postEvent s 0x22 (sat32 n)
      .next (if anyPly s then s else (keys s.jobs).foldl resumeDraft s)
  else if t.locked || !refOk t t.refSel then .next s
  else
    .next (modTrd s (fun t => { t with locked := true, lastEpochA := some s.clock, lastEpochB := some s.clock }))

/-- A write of TRD_REF_SEL: SEL names a qualified input; an unqualified one is ignored (R172, R175). -/
def writeRefSel (s : State) (v : Word) : State :=
  let b := v.getLsbD 0
  if b = s.trd.refSel || !refOk s.trd b then s else switchRef s b true

/-- REF_SEL_WRITE. -/
def execRefSelWrite (who : Requester) (v : Word) (s : State) : Host.Outcome State Fault Refusal :=
  .next (ctlWrite s who 0x2000C (fun s => writeRefSel s v))

/-! ### Epochs (R164, R166) -/

/-- EPOCH_SLIP's DETAIL: INPUT, MISSING and the signed, saturated OFFSET (R166). -/
def slipDetail (b missing : Bool) (offset : Int) : Nat :=
  let o : Int := if offset < -32768 then -32768 else if offset > 32767 then 32767 else offset
  b2n b + 2 * b2n missing + unsigned 16 o * 65536

/-- An epoch slip is counted and posted. -/
def epochSlip (s : State) (b missing : Bool) (offset : Int) : State :=
  postEvent (modTrd s (fun t => { t with epochSlip := sat32 (t.epochSlip + 1) })) 0x23 (slipDetail b missing offset)

/-- Note what an epoch input has shown. -/
def noteEpoch (s : State) (b ok : Bool) (at_ : Nat) : State :=
  modTrd s (fun t => if b then { t with epochB := ok, lastEpochB := some at_ } else { t with epochA := ok, lastEpochA := some at_ })

/-- How many cycles an edge `offset` cycles after the start of the current beat lies from where an epoch belongs: sub-beat 0 of the nearest beat that is a multiple of
1,000,000 (R166). -/
def epochOffset (beat : Nat) (offset : Int) : Int :=
  let r := beat % 1000000
  (if r ≤ 500000 then (r : Int) else (r : Int) - 1000000) * 2000 + offset

/-- EPOCH_PULSE, `offset` cycles after the start of the current beat: the first on the selected input after lock starts beat 0; later ones are checked against the window
of ±13 cycles (R164, R166). -/
def execEpochPulse (i : TreadleInput) (offset : Int) (s : State) : Host.Outcome State Fault Refusal :=
  let b := inputBit i
  if !s.trd.numbered then
    if s.trd.locked && b = s.trd.refSel then
      let s := modTrd s (fun t => { t with beat := 0, subbeat := 0, numbered := true, lastEpochA := some s.clock, lastEpochB := some s.clock })
      .next (noteEpoch s b true s.clock)
    else .next s
  else
    let o := epochOffset s.trd.beat offset
    if o.natAbs ≤ 13 then .next (noteEpoch s b true s.clock) else .next (epochSlip (noteEpoch s b false s.clock) b false o)

/-- EPOCH_MISSING: no epoch on an input for 1,000,010 beats; before NUMBERED only the selected input is watched (R164, R166). -/
def execEpochMissing (i : TreadleInput) (s : State) : Host.Outcome State Fault Refusal :=
  let b := inputBit i
  match (if b then s.trd.lastEpochB else s.trd.lastEpochA) with
  | none => .next s
  | some t =>
    if s.clock < t + 1000010 || (!s.trd.numbered && b ≠ s.trd.refSel) then .next s
    else .next (epochSlip (noteEpoch s b false (if s.trd.numbered then t + 1000000 else s.clock)) b true 0)

/-! ### Beat markers (R167-R171) -/

/-- The logical links of a ply that still deliver markers, this beat or the one before. -/
def liveLinks (p : Ply) : List Nat := p.links.filter (fun l => readD 0 p.quiet l ≤ 1)

/-- BEAT_MARKER on physical lane n: the ply links it belongs to are heard; from the timing link it sets the measured offset from the anchor (R168, R169, TRD_SKEW). `offset`
is the marker's arrival, less the link's delay, against this member's beat, in units of 7.8125 ps. -/
def execBeatMarker (n : Fin 104) (m : Marker) (offset : Int) (s : State) : Host.Outcome State Fault Refusal :=
  let l := groupBase s (linkOf s n.val)
  let hears : Ply → Bool := fun p => p.links.contains l
  let better : Ply → Bool := fun p =>
    m.anchor = p.anchor && p.self ≠ (p.nodes.findIdx? (fun k => k = p.anchor)).getD 512 &&
    (match p.timing with
     | none => true
     | some t => t = l || m.hops + 1 < p.hops || (m.hops + 1 = p.hops && l < t) || !(liveLinks p).contains t)
  let times := s.plies.any (fun p => hears p.2 && better p.2)
  let s := { s with plies := s.plies.map (fun p =>
    if hears p.2 then
      (p.1, { p.2 with quiet := removeKey p.2.quiet l,
                       timing := if better p.2 then some l else p.2.timing, hops := if better p.2 then m.hops + 1 else p.2.hops })
    else p) }
  let bound : Int := 2560
  let step : Trd → Trd := fun t =>
    { t with skew := BitVec.ofInt 16 offset, hops := m.hops + 1, skewOk := decide (offset.natAbs ≤ bound.natAbs),
             skewBeats := if offset.natAbs > bound.natAbs then t.skewBeats + 1 else 0 }
  .next (if times && s.trd.plied then modTrd s step else s)

/-- SKEW_LOST: the measured offset has stayed above 20 ns for 8 consecutive beats in PS0 to PS3; the time base is lost, as when both
references are (R171). -/
def execSkewLost (s : State) : Host.Outcome State Fault Refusal :=
  if s.trd.plied && s.trd.skewBeats ≥ 8 && s.pwr.state ≤ 3 && !s.trd.holdover then .next (enterHoldover (modTrd s (fun t => { t with skewBeats := 0 })) 1)
  else .next s

end Sys2Proof.Machine
end

