-- ==== Sys2Proof/Machine/Plies.lean ====
section
/-! DEFINITION. PLY_REFORM (10 R185, R197-R199). -/

namespace Sys2Proof.Machine

/-- NODE of entry i of a membership table, and its ANCHOR bit. -/
def memberNode (t : List Byte) (i : Nat) : Nat := field t (4 * i) 4 % 2 ^ 18
def memberAnchor (t : List Byte) (i : Nat) : Bool := bit (field t (4 * i) 4) 31

/-- The membership table is malformed (R197 step 1). -/
def membershipBad (s : State) (t : List Byte) (n self : Nat) : Bool :=
  let is := List.range n
  let nodes := is.map (memberNode t)
  is.any (fun i => bits (field t (4 * i) 4) 18 13 ≠ 0) || (is.filter (memberAnchor t)).length ≠ 1 || nodes.eraseDups.length ≠ n ||
  memberNode t self ≠ s.strand.node

/-- The checks of PLY_REFORM's operands for OP 0 and 1. -/
def reformChecks (s : State) (o : Op) : List (Bool × Nat × Nat) :=
  [(o.f 8 8 % 64 ≠ 0, stBadDescriptor, 0), (o.f 16 2 = 0 || o.f 16 2 > 512, stBadDescriptor, 0), (o.f 18 2 ≥ o.f 16 2, stBadDescriptor, 0),
   (o.f 20 1 > 2, stBadDescriptor, 0), (o.f 21 1 > 63, stBadDescriptor, 0), (o.f 22 2 = 0 || o.f 22 2 > 65534, stBadDescriptor, 0),
   ((lookup s.slices (o.f 21 1)).isNone, stBounds, 0)]

/-- V of a ply (R185). -/
def voteLead (d : Nat) : Nat := 1 + ceilDiv d 2

/-- The links that are up and whose far end is another member; a plied link is one, named by its lowest logical link (11 R204). -/
def linksTo (s : State) (nodes : List Nat) : List Nat :=
  (List.range 96).filter (fun l => groupBase s l = l &&
    (match (upLanes s l).head? with
     | some n => (getLane s n).valid && nodes.contains (getLane s n).peer && (getLane s n).peer ≠ s.strand.node
     | none => false))

/-- The ply that PLY_REFORM forms. -/
def newPly (s : State) (o : Op) (t : List Byte) (d hops : Nat) : Ply where
  id := o.f 22 2
  nodes := (List.range (o.f 16 2)).map (memberNode t)
  anchor := memberNode t (((List.range (o.f 16 2)).find? (memberAnchor t)).getD 0)
  self := o.f 18 2
  v := voteLead d
  d := d
  hops := hops
  digest := (shake256 (t.take (4 * o.f 16 2))).take 32
  timing := none
  links := linksTo s ((List.range (o.f 16 2)).map (memberNode t))
  quiet := []
  notice := none
  votes := []
  silent := false
  ended := none

/-- The member adopts the anchor's numbering: at the next beat its counter is loaded with the anchor's number of that beat (R197; 09 R168). The anchor keeps its own. -/
def adoptNumbering (s : State) (anchor : Bool) (hops beat : Nat) : State := if anchor then s else modTrd s (fun t => { t with load := some (beat, hops) })

/-- RESULT of PLY_REFORM (R197). -/
def reformResult (v d hops : Nat) : Nat := v + d * 256 + hops * 65536

/-- The ply has been formed by this command, and the load of the beat counter awaits the next beat. -/
def markFormed (s : State) (id : Nat) : State := { s with ops := adjust s.ops id (fun o => { o with left := some [] }) }

/-- Steps 1 to 4 of R197 on a table that reads: the ply is formed and `ok` goes on once the beat counter is loaded, or the command completes with SPLIT. -/
def formPly (s : State) (id : Nat) (o : Op) (found : PlyExchange) (ok : Ply → State → State) : State :=
  let n := o.f 16 2
  match o.left, lookup s.plies (o.f 21 1) with
  | some _, some p => if s.trd.load.isSome then s else ok p s
  | _, _ =>
  checks s id (reformChecks s o)
    (withPartner s id o [(o.f 8 8, 4 * n, false)]
      (let t := readPartner s o.port (o.f 8 8) (4 * n)
       if homeFails s o.port (o.f 8 8) (4 * n) || membershipBad s t n (o.f 18 2) then fail s id stBadDescriptor 8
       else
         match found with
         | .digestDiffers => fail s id stSplit 1
         | .unreachable => fail s id stSplit 2
         | .tooFar => fail s id stSplit 3
         | .formed d hops beat =>
           if d > 48 || hops > 24 then fail s id stSplit 3
           else
             let p := newPly s o t d hops
             let s := adoptNumbering s (memberAnchor t p.self) hops beat
             let s := { s with plies := insertKey s.plies (o.f 21 1) p }
             if s.trd.load.isSome then markFormed s id else ok p s))

/-- PLY_REFORM with OP 0 (R197). -/
def execPlyReformForm (op : Nat) (found : PlyExchange) (s : State) : Host.Outcome State Fault Refusal :=
  .next (runRow s op 0x7C 2 (fun o => o.f 20 1 ≠ 1 && o.f 20 1 ≠ 2) (fun o s =>
    formPly s op o found (fun p s => finishOk s op (reformResult p.v p.d p.hops))))

/-- The frozen draft of a slice. -/
def frozenDraft (s : State) (q : Nat) : Option (Nat × Job × DraftRun) :=
  s.jobs.findSome? (fun e => if e.2.slice = q && e.2.phase = .frozen then (e.2.draft).map (fun d => (e.1, e.2, d)) else none)

/-- DRAFT does not continue the frozen draft (R198). -/
def resumeBad (s : State) (q : Nat) (p : Ply) (d : DraftRun) (h : Nat) : Bool :=
  match lookup s.drafts h, lookup s.drafts d.handle with
  | some x, some old =>
    x.slice ≠ q || x.releasing || x.mship ≠ p.digest || x.members ≠ p.nodes.length || x.member ≠ p.self || p.v > x.vmax ||
    x.skeinDigests ≠ old.skeinDigests
  | _, _ => true

/-- Steps of all iterations of the draft that continues: as many iterations as the frozen one had. -/
def resumedTotal (s : State) (d : DraftRun) (x : Draft) : Nat :=
  match lookup s.drafts d.handle with
  | some old => if old.nsteps = 0 then x.nsteps else d.total / old.nsteps * x.nsteps
  | none => x.nsteps

/-- The frozen job is bound to DRAFT and continues at RESUME_STEP, which starts at ORIGIN (R198). -/
def bindDraft (s : State) (jid : Nat) (o : Op) (h total : Nat) : State :=
  modJob s jid (fun j =>
    { j with phase := .ready, step := o.f 32 8, nsteps := total, dirs := [], dirStates := [],
             draft := j.draft.map (fun d =>
               { d with handle := h, ply := o.f 22 2, total := total, start := o.f 40 8, first := false, reforms := sat32 (d.reforms + 1), holdsNow := 0,
                        lateNow := 0, frozen := none, stopped := false, voted := false, go := false }) })

/-- The checks of R198, after the ply is formed. -/
def resumeDraftIn (s : State) (id : Nat) (o : Op) (p : Ply) : State :=
  let q := o.f 21 1
  let h := o.f 24 4
  match frozenDraft s q with
  | none => fail s id stBounds 21
  | some (jid, _, d) =>
    let total := ((lookup s.drafts h).map (resumedTotal s d)).getD 0
    checks s id
      [(resumeBad s q p d h, stBounds, 24), (o.f 32 8 ≥ total, stBounds, 32), (o.f 40 8 < s.trd.beat + p.v + 8, stBounds, 40)]
      (finishOk (writeStartBlock (bindDraft s jid o h total) jid) id (reformResult p.v p.d p.hops))

/-- PLY_REFORM with OP 1 (R197, R198). -/
def execPlyReformResume (op : Nat) (found : PlyExchange) (s : State) : Host.Outcome State Fault Refusal :=
  .next (runRow s op 0x7C 2 (fun o => o.f 20 1 = 1) (fun o s =>
    formPly s op o found (fun p s => resumeDraftIn s op o p)))

/-- A slice leaves its ply; with no ply left the numbering is the device's own (09 TRD_STAT, TRD_SKEW). -/
def leavePly (s : State) (q : Nat) : State :=
  let s := { s with plies := removeKey s.plies q }
  if anyPly s then s else modTrd s (fun t => { t with plied := false, skewOk := false, skew := 0, hops := 0, skewBeats := 0 })

/-- PLY_REFORM with OP 2: refused while the slice has a running or frozen draft in the ply (R199). -/
def execPlyReformDissolve (op : Nat) (s : State) : Host.Outcome State Fault Refusal :=
  .next (runRow s op 0x7C 4 (fun o => o.f 20 1 = 2) (fun o s =>
    checks s op
      [(o.f 21 1 > 63, stBadDescriptor, 0),
       (!((lookup s.plies (o.f 21 1)).any (fun p => p.id = o.f 22 2)), stBounds, 0),
       ((plyJob s (o.f 21 1)).isSome, stBounds, 20)]
      (finishOk (leavePly s (o.f 21 1)) op 0)))

end Sys2Proof.Machine
end

