-- ==== Sys2Proof/Machine/Links.lean ====
section
/-! DEFINITION. Lanes and flits of the strand fabric (11 R201-R213): training, received flits, retry and retraining, STR_CTRL.EN. -/

namespace Sys2Proof.Machine

/-! ### Training (R202, R203) -/

/-- What training found is noted: STR_PEER, STR_DELAY, LONG above 150 ns (19,200 units of 7.8125 ps). -/
def noteTraining (x : Lane) (far : FarEnd) : Lane :=
  { x with peer := far.node % 2 ^ 18, farLogical := far.logical % 128, valid := true, delay := min far.delay 0xFFFF, long := decide (far.delay > 19200) }

/-- The lane takes up FEC_LL, BOND and LOOP at its training; low-latency FEC only at full rate (R201, STR_CTRL). -/
def adoptCtrl (low : Bool) (x : Lane) : Lane := { x with cfgErr := false, fecLL := x.ctrlFec && !low, bond := x.ctrlBond, loop := x.ctrlLoop }

/-- LINK_UP, if LINK_DOWN has been posted of the link (R209). -/
def reportUp (s : State) (n : Nat) (was : Bool) : State :=
  if was then postEvent (modLane s n (fun x => { x with downSaid := false })) 0x41 (linkDetail s n false) else s

/-- A training or a retrain has gone through: the delay is measured anew, and the lane comes up; where the ends disagree on FEC or BOND it does not, and CFG_ERR is set
(R202-R204; 09 R168). -/
def endTraining (s : State) (n : Nat) (far : FarEnd) : State :=
  let x := getLane s n
  let s := modLane s n (fun x => noteTraining x far)
  if far.fecLL ≠ x.ctrlFec || far.bond ≠ x.ctrlBond then modLane s n (fun x => { x with cfgErr := true, retraining := false })
  else reportUp (laneComesUp (modLane s n (adoptCtrl (decide (s.pwr.state = 4)))) n) n x.downSaid

/-- LANE_TRAINING_COMPLETE of a lane that is enabled and not up; one that three failed retrains have taken down needs EN or a REPAIR first (R202, R209). -/
def execLaneTrainingComplete (n : Fin 104) (far : FarEnd) (s : State) : Host.Outcome State Fault Refusal :=
  let x := getLane s n.val
  if !x.en || x.up || x.trainFails ≥ 3 then .next s else .next (endTraining s n.val far)

/-! ### Flits -/

/-- A flit arrives; what waited for a link may leave now. -/
def flitRow (n : Fin 104) (ty : Nat) (f : Flit) (s : State) : State := sendAllFlows (receiveFlit s n.val ty f)

/-- DATA_FLIT (R208). -/
def execDataFlit (n : Fin 104) (f : Flit) (s : State) : Host.Outcome State Fault Refusal := .next (flitRow n 1 f s)

/-- MARKER_FLIT: the header; its marker is BEAT_MARKER's (R207). -/
def execMarkerFlit (n : Fin 104) (f : Flit) (s : State) : Host.Outcome State Fault Refusal := .next (flitRow n 2 f s)

/-- VOTE_FLIT: sequenced; each of its records is a VOTE_RECORD (R207). -/
def execVoteFlit (n : Fin 104) (f : Flit) (s : State) : Host.Outcome State Fault Refusal := .next (flitRow n 3 f s)

/-- NAK_FLIT (R208, R209). -/
def execNakFlit (n : Fin 104) (f : Flit) (s : State) : Host.Outcome State Fault Refusal := .next (flitRow n 4 f s)

/-- ACK_FLIT (R208). -/
def execAckFlit (n : Fin 104) (f : Flit) (s : State) : Host.Outcome State Fault Refusal := .next (flitRow n 5 f s)

/-- TRAIN_FLIT: training only; counted (R202). -/
def execTrainFlit (n : Fin 104) (f : Flit) (s : State) : Host.Outcome State Fault Refusal :=
  if !(getLane s n.val).en then .next s
  else .next (modLane s n.val (fun x =>
    { x with ctr := if crcGood f then { x.ctr with rx := x.ctr.rx + 1 } else { x.ctr with crcErr := sat32 (x.ctr.crcErr + 1) } }))

/-- IDLE_FLIT (R206). -/
def execIdleFlit (n : Fin 104) (f : Flit) (s : State) : Host.Outcome State Fault Refusal := .next (flitRow n 0 f s)

/-- ACK_TIMER: at least every 100 ns the receiver acknowledges and returns credits (R208, R213). -/
def execAckTimer (n : Fin 104) (s : State) : Host.Outcome State Fault Refusal :=
  let l := linkOf s n.val
  if l ≠ 0x7F && linkUp s l then .next (sendAcks s l 8) else .next s

/-! ### Retraining (R209) -/

/-- ACKSEQ_TIMEOUT: 10 µs without an advance of ACKSEQ with flits outstanding. -/
def execAckseqTimeout (n : Fin 104) (s : State) : Host.Outcome State Fault Refusal :=
  let l := linkOf s n.val
  match headOf s l with
  | some h =>
    let k := (getLane s h).link
    if (getLane s n.val).up && !k.replayBuf.isEmpty && s.clock ≥ k.ackAt + 10 then .next (retrainLink s l) else .next s
  | none => .next s

/-- RETRAIN_COMPLETE: traffic again, everything unacknowledged replayed, LINK_UP (R209). -/
def execRetrainComplete (r : Retrained) (s : State) : Host.Outcome State Fault Refusal :=
  if (getLane s r.lane.val).retraining then .next (endTraining s r.lane.val r.far) else .next s

/-- RETRAIN_FAIL: another attempt, or after three in a row the lane stays down: LINK_DOWN without RETRAINING, and with no lane of the link left its replay buffer is
discarded. -/
def execRetrainFail (n : Fin 104) (s : State) : Host.Outcome State Fault Refusal :=
  let x := getLane s n.val
  let l := linkOf s n.val
  if !x.retraining then .next s
  else if x.trainFails + 1 < 3 then
    .next (modLane s n.val (fun x => { x with trainFails := x.trainFails + 1, ctr := { x.ctr with retrain := sat32 (x.ctr.retrain + 1) } }))
  else
    let s := modLane s n.val (fun x => { x with trainFails := 3, retraining := false, up := false, downSaid := true })
    let s := if linkUp s l || !(retrainingLanes s l).isEmpty then s else discardLink s l
    .next (postEvent s 0x40 (linkDetail s n.val false))

/-! ### STR_CTRL.EN -/

/-- STR_CTRL as written (STR_CTRL). -/
def writeCtrl (x : Lane) (v : Word) : Lane :=
  { x with en := v.getLsbD 0, ctrlFec := v.getLsbD 1, ctrlBond := bits v.toNat 2 2, ctrlLoop := v.getLsbD 4 }

/-- The offset of STR_CTRL of lane n (01 R8). -/
def strCtrl (n : Nat) : Nat := 0x100000 + n * 0x1000

/-- EN written as 0: the lane is taken down; the other members of a plied link go on (R205). -/
def disableLane (s : State) (n : Nat) (v : Word) : State :=
  let was := (getLane s n).up
  let s := modLane s n (fun x => { writeCtrl x v with up := false, trained := false, retraining := false })
  if was then afterLaneLoss s (linkOf s n) else s

/-- EN written as 1: from 0, the lane is retrained and TRAIN_FAILS is cleared (R209). -/
def enableLane (s : State) (n : Nat) (v : Word) : State :=
  let was := (getLane s n).en
  let s := modLane s n (fun x => writeCtrl x v)
  if was then s else beginRetrain (modLane s n (fun x => { x with trainFails := 0 })) n

/-- LANE_DISABLE; a value with EN set is LANE_ENABLE's. -/
def execLaneDisable (who : Requester) (n : Fin 104) (v : Word) (s : State) : Host.Outcome State Fault Refusal :=
  .next (ctlWrite s who (strCtrl n.val) (fun s => if v.getLsbD 0 then s else disableLane s n.val v))

/-- LANE_ENABLE; a value with EN clear is LANE_DISABLE's. -/
def execLaneEnable (who : Requester) (n : Fin 104) (v : Word) (s : State) : Host.Outcome State Fault Refusal :=
  .next (ctlWrite s who (strCtrl n.val) (fun s => if v.getLsbD 0 then enableLane s n.val v else s))

end Sys2Proof.Machine
end

