-- ==== Sys2Proof/Machine/Fabric.lean ====
section
/-! DEFINITION. The network and transaction layers of the strand fabric (11 R214-R225): routing, flows, transactions in order of issue, their ends. -/

namespace Sys2Proof.Machine

/-- A packet that came in on lane n is taken off the link: the buffers of its flits are free. A packet for this node does not say on which channel it came; it is taken from
VC0 first (log entry 38). -/
def releaseBuffers (s : State) (n : Nat) (k : Packet) : State :=
  let l := groupBase s (linkOf s n)
  let flits := flitsOf (32 + k.data.length)
  if k.op = 7 then freeBuffers s l 2 flits
  else
    let on0 := min flits (((headOf s l).map (fun h => (getLane s h).link.held0)).getD 0)
    freeBuffers (freeBuffers s l 0 on0) l 1 (flits - on0)

/-- PACKET_ROUTE: a packet that came in on lane n goes on, holding the buffers it arrived in until its flits have left (R213), or is dropped; one for this node is taken by
its own row (R214, R215). -/
def execPacketRoute (n : Fin 104) (onVc1 : Bool) (arrivedDim : Option (Fin 6)) (k : Packet) (s : State) : Host.Outcome State Fault Refusal :=
  match routeOf s k (arrivedDim.map Fin.val) onVc1 with
  | .here => .next s
  | .drop => .next (sendAllFlows (releaseBuffers (countDrop s n.val) n.val k))
  | .go l vc => .next (sendAllFlows (sendOnLink s l vc (some (groupBase s (linkOf s n.val), if k.op = 7 then 2 else b2n onVc1)) none k))

/-- The entries of a route table that are not 0. -/
def routeTable (b : List Byte) : Nat → Nat → Tbl Nat
  | _, 0 => []
  | i, n + 1 =>
    let e := field (b.take 2) 0 2
    let t := routeTable (b.drop 2) (i + 1) n
    if e = 0 then t else (i, e) :: t

/-- FABRIC_SET (R214, R215, R217). -/
def execFabricSet (op : Nat) (s : State) : Host.Outcome State Fault Refusal :=
  .next (runOp s op 0x7D 2 (fun o s =>
    let node := o.f 8 4 % 2 ^ 18
    let mode := o.f 12 1
    let taddr := o.f 16 8
    checks s op
      [(mode > 1, stBadDescriptor, 0), (mode = 1 && taddr % 4096 ≠ 0, stBadDescriptor, 0), (node ≠ s.strand.node && anyPly s, stBounds, 8)]
      (if mode = 0 then
         let sides := (List.range 6).map (fun d => bits (o.f 13 3) (3 * d) 3 + 1)
         finishOk { s with strand := { s.strand with node := node, table := false, sides := sides } } op 0
       else
         withPartner s op o [(taddr, 524288, false)]
           (if homeFails s o.port taddr 524288 then fail s op stBadDescriptor 0
            else
              let t := routeTable (readPartner s o.port taddr 524288) 0 262144
              finishOk { s with strand := { s.strand with node := node, table := true, routes := t } } op 0))))

/-! ### Ends (R222-R225) -/

/-- A packet of a transaction is done: acknowledged and, for a read that was not refused, answered. -/
def pktDone (t : Txn) (p : TxPkt) : Bool := p.acked && (t.opc ≠ 2 || p.got || p.status ≠ 0)

/-- The status of a transaction whose packets are all done: that of the first refused one (R219). -/
def txnStatus (t : Txn) : Nat := ((t.pkts.find? (fun p => p.status ≠ 0)).map TxPkt.status).getD 0

/-- Bytes acknowledged, for a read received, in order from the start (R224). -/
def bytesInOrder (t : Txn) : Nat :=
  ((t.pkts.takeWhile (fun p => if t.opc = 2 then p.got else p.acked && p.status = 0)).map TxPkt.bytes).sum

/-- A transaction that posts a completion. -/
def posts (t : Txn) : Bool := t.kind = .single || t.kind = .gather

/-- Every transaction of an operation has ended, and none of its flows has an earlier transaction of another operation (R223). -/
def opReleasable (s : State) (op : Nat) : Bool :=
  (s.strand.txns.zipIdx).all (fun e =>
    !(posts e.1 && e.1.op = op) ||
    (e.1.ended.isSome && !((s.strand.txns.take e.2).any (fun t => posts t && t.op ≠ op && t.node = e.1.node))))

/-- When every transaction of a flow has completed and one timed out, the flow starts a new EPOCH with SYNC (R225). Answers still unacknowledged are given up with it. -/
def refreshFlow (s : State) (node : Nat) : State :=
  if (srcFlow s node).timedOut && !(s.strand.txns.any (fun t => t.node = node && t.kind ≠ .answer)) then
    let s := { s with strand := { s.strand with txns := s.strand.txns.filter (fun t => t.node ≠ node || t.pkts.all (fun p => p.fseq.isNone)) } }
    modSrc s node (fun f => { f with epoch := (f.epoch + 1) % 256, syncDue := true, timedOut := false })
  else s

/-- The completion of an operation whose transactions have ended: a gather's is that of its lowest failing entry, with a bit in RESULT for every entry that failed
(R222, R223). -/
def completeTxns (s : State) (op : Nat) : State :=
  let ts := s.strand.txns.filter (fun t => posts t && t.op = op)
  let bad := ts.filter (fun t => t.ended.any (fun e => e.1 ≠ stOk))
  let (st, d) := (bad.head?.bind Txn.ended).getD (stOk, 0)
  let s := { s with strand := { s.strand with txns := s.strand.txns.filter (fun t => !(posts t && t.op = op)) } }
  let s := (ts.map Txn.node).eraseDups.foldl refreshFlow s
  finish s op st d ((bad.filter (fun t => t.kind = .gather)).map (fun t => 2 ^ t.entry)).sum

/-- Post the completions that the order of the flows lets out, at most so many (R223). -/
def releaseTxns (s : State) : Nat → State
  | 0 => s
  | n + 1 =>
    match (s.strand.txns.filter posts).find? (fun t => opReleasable s t.op) with
    | some t => releaseTxns (completeTxns s t.op) n
    | none => s

/-- A shard request that was refused is the shard's answer (12 R246). -/
def noteRefusals (s : State) : State :=
  let bad := s.strand.txns.filter (fun t => t.kind = .shard && t.ended.any (fun e => e.1 ≠ stOk))
  bad.foldl (fun s t =>
    let a : ShardAnswer := { shard := t.entry, status := (t.ended.getD (stOk, 0)).1, epoch := 0, nan := 0, results := [] }
    { s with card := { s.card with queries := s.card.queries.map (fun q =>
        if q.op = t.op && q.remote.isNone && !(q.answers.any (fun b => b.shard = t.entry)) then { q with answers := q.answers ++ [a] } else q) } }) s

/-- Ended transactions leave in order; shard requests and answers leave as soon as they are done. -/
def settleTxns (s : State) : State :=
  let s := { s with strand := { s.strand with txns := s.strand.txns.map (fun (t : Txn) =>
      if t.ended.isNone && t.pkts.all (pktDone t) then { t with ended := some (txnStatus t, 0) } else t) } }
  let s := noteRefusals s
  let gone := (s.strand.txns.filter (fun t => !posts t && t.ended.isSome)).map Txn.node
  let s := { s with strand := { s.strand with txns := s.strand.txns.filter (fun t => posts t || t.ended.isNone) } }
  let s := gone.eraseDups.foldl refreshFlow s
  sendAllFlows (releaseTxns s s.strand.txns.length)

/-- A transaction times out when its first packet left `timeout` strides ago (R224). -/
def timedOut (s : State) (t : Txn) : Bool :=
  t.ended.isNone && (match t.leftAt with | some b => decide (s.clock ≥ b + 8 * t.timeout) | none => false)

/-- The transactions of a list of indexes time out: FLOW_TIMEOUT with the bytes in order, and their flows remember it (R224, R225). -/
def expireTxns (s : State) (p : Txn → Bool) : State :=
  let nodes := ((s.strand.txns.filter (fun t => p t && t.kind ≠ .answer && timedOut s t)).map Txn.node).eraseDups
  let s' := { s with strand := { s.strand with txns := s.strand.txns.map (fun (t : Txn) =>
      if p t && t.kind ≠ .answer && timedOut s t then { t with ended := some (stFlowTimeout, bytesInOrder t) } else t) } }
  settleTxns (nodes.foldl (fun s n => modSrc s n (fun f => { f with timedOut := true })) s')

/-- TRANSACTION_TIMEOUT of a strand descriptor, or of the shard requests of a query (R224; 12 R246). -/
def execTransactionTimeout (op : Nat) (s : State) : Host.Outcome State Fault Refusal :=
  .next (expireTxns s (fun t => t.kind ≠ .answer && t.op = op))

end Sys2Proof.Machine
end

