-- ==== Sys2Proof/Machine/CardOps.lean ====
section
/-! DEFINITION. What the card commands share (12): predicates, candidates and their order, the output of a query, its end, the messages between shards. -/

namespace Sys2Proof.Machine

/-! ### Items and candidates (R235, R236, R241, R242) -/

/-- Bytes of a vector. -/
def vectorBytes (vfmt d : Nat) : Nat := if vfmt = 0 then 0 else if vfmt = 3 then d else 2 * d

/-- The bobbin of an item (R236). -/
def bobbinOfItem (s : State) (id : Nat) : Nat := (id * 0x9E3779B97F4A7C15 % 2 ^ 64) * nBobbins s / 2 ^ 64

/-- The number of set bits. -/
def popcount (b : Byte) : Nat := ((List.range 8).filter (fun i => b.getLsbD i)).length

/-- The sketch distance: the bits in which two sketches differ (R235). -/
def sketchDistance (a b : List Byte) : Nat := ((a.zip b).map (fun e => popcount (e.1 ^^^ e.2))).sum

/-- An FP32 distance in ascending order, −0 before +0. -/
def distKey (v : Nat) : Nat := if bit v 31 then 2 ^ 32 - 1 - v else v + 2 ^ 31

/-- The order of candidates of one stage: `key` of the distance, then the id. -/
def candLe (key : Nat → Nat) (a b : Cand) : Bool := key a.dist < key b.dist || (key a.dist = key b.dist && a.id ≤ b.id)

/-- A candidate put in its place. -/
def insertCand (key : Nat → Nat) (x : Cand) : List Cand → List Cand
  | [] => [x]
  | y :: ys => if candLe key x y then x :: y :: ys else y :: insertCand key x ys

/-- Candidates in order. -/
def sortCands (key : Nat → Nat) (l : List Cand) : List Cand := l.foldr (insertCand key) []

/-- The first n in order. -/
def bestCands (key : Nat → Nat) (n : Nat) (l : List Cand) : List Cand := (sortCands key l).take n

/-- The clusters in the order of R241 for a sketch. -/
def nearestClusters (centroids : List (List Byte)) (sketch : List Byte) (n : Nat) : List Nat :=
  (bestCands id n ((centroids.zipIdx).map (fun e => { dist := sketchDistance e.1 sketch, id := e.2, shard := 0 }))).map Cand.id

/-- The clusters a query probes (R241): those listed, all, or the nearest. -/
def probesOf (x : Index) (sketch : List Byte) (listed : Option (List Nat)) (n : Nat) : List Nat :=
  match listed with
  | some l => l.eraseDups
  | none => if n = 0 then List.range x.ncluster else nearestClusters x.centroids sketch n

/-- The stride of a query block (R241). -/
def queryStride (x : Index) (metric probes : Nat) (listed : Bool) : Nat :=
  roundUp (sketchBytes x.sbits + (if metric ≠ 0 then vectorBytes x.vfmt x.d else 0) + if listed then 4 * probes else 0) 64

/-- The listed clusters of query q. -/
def listedClusters (x : Index) (metric probes : Nat) (block : List Byte) (q : Nat) : List Nat :=
  let at_ := q * queryStride x metric probes true + sketchBytes x.sbits + (if metric ≠ 0 then vectorBytes x.vfmt x.d else 0)
  (List.range probes).map (fun i => field block (at_ + 4 * i) 4)

/-- Query q of a block. -/
def querySpec (x : Index) (metric probes : Nat) (listed : Bool) (block : List Byte) (q : Nat) : QuerySpec :=
  let at_ := q * queryStride x metric probes listed
  let sketch := cut block at_ (sketchBytes x.sbits)
  { sketch := sketch, vector := if metric ≠ 0 then cut block (at_ + sketchBytes x.sbits) (vectorBytes x.vfmt x.d) else [],
    probes := probesOf x sketch (if listed then some (listedClusters x metric probes block q) else none) probes }

/-- Elements of a vector as the finisher reads them. -/
def vectorElems (vfmt : Nat) (v : List Byte) : List Word :=
  (List.range (v.length / 2)).map (fun i => rowElem (if vfmt = 1 then 1 else 2) (field v (2 * i) 2))
def vectorInts (v : List Byte) : List Int := v.map (fun b => signed 8 b.toNat)

/-- The distance key of an item for a query (R85, R242): L2SQ, −IP or −COS. -/
def distanceKey (vfmt metric : Nat) (a b : List Byte) : Nat :=
  if vfmt = 3 then
    let x := vectorInts a
    let y := vectorInts b
    (if metric = 1 then l2I x y else if metric = 2 then vNeg (ipI x y) else vNeg (cosOf (ipI x y) (ipI x x) (ipI y y))).toNat
  else
    let x := vectorElems vfmt a
    let y := vectorElems vfmt b
    (if metric = 1 then l2F x y else if metric = 2 then vNeg (ipF x y) else vNeg (cosOf (ipF x y) (ipF x x) (ipF y y))).toNat

/-! ### Queries in progress -/

/-- Query `op` changed. -/
def modQuery (s : State) (op : Nat) (f : Query → Query) : State :=
  { s with card := { s.card with queries := s.card.queries.map (fun q => if q.op = op then f q else q) } }

/-- Query `op`. -/
def getQuery (s : State) (op : Nat) : Option Query := s.card.queries.find? (fun q => q.op = op)

/-- Query `op` has ended. -/
def dropQuery (s : State) (op : Nat) : State := { s with card := { s.card with queries := s.card.queries.filter (fun q => q.op ≠ op) } }

/-- A pass in the order of its operation (R228). -/
def insertPass (op : Nat) : List CardPass → List CardPass
  | [] => [{ op := op }]
  | p :: ps => if op < p.op then { op := op } :: p :: ps else p :: insertPass op ps

/-- A query joins, with a pass on every bobbin (R228). -/
def startQuery (s : State) (q : Query) : State :=
  let s := { s with card := { s.card with queries := s.card.queries ++ [q] } }
  q.waiting.foldl (fun s b => modBob s b (fun x => { x with passes := insertPass q.op x.passes })) s

/-! ### The output of a query (R244, R245, R248) -/

/-- What a shard gave: its status, epoch and entries. -/
def shardRows (q : Query) : List ShardAnswer :=
  let mine : ShardAnswer := { shard := 0, status := q.localStatus.getD 0, epoch := q.epoch, nan := q.nan, results := q.ranked }
  if q.shards.isEmpty then [mine]
  else mine :: (List.range q.shards.length).map (fun i =>
    (q.answers.find? (fun a => a.shard = i + 1)).getD { shard := i + 1, status := stFlowTimeout, epoch := 0, nan := 0, results := [] })

/-- The shards that gave a result. -/
def goodRows (q : Query) : List ShardAnswer := (shardRows q).filter (fun a => a.status = stOk)

/-- The merged entries of query i (R248). -/
def mergedOf (q : Query) (i : Nat) : List Cand :=
  ((goodRows q).flatMap (fun a => ((a.results[i]?).getD []).map (fun c => { c with shard := a.shard }))).foldr (insertCand distKey) [] |>.take q.k

/-- One shard status entry. -/
def shardEntry (a : ShardAnswer) : List Byte :=
  let n := if a.status = stOk then (a.results.map List.length).sum else 0
  leBytes 1 a.status ++ leBytes 3 0 ++ leBytes 4 a.epoch ++ leBytes 4 n ++ leBytes 4 0

/-- One result block. -/
def resultBlock (k : Nat) (cs : List Cand) : List Byte :=
  leBytes 4 cs.length ++ leBytes 12 0 ++
  (List.range k).flatMap (fun i =>
    match cs[i]? with
    | some c => leBytes 8 c.id ++ leBytes 4 c.dist ++ leBytes 1 c.shard ++ leBytes 3 0
    | none => leBytes 8 0xFFFFFFFFFFFFFFFF ++ leBytes 4 0x7F800000 ++ leBytes 1 0xFF ++ leBytes 3 0)

/-- The bits of MISSING. -/
def missingBits (q : Query) : Nat :=
  if q.shards.isEmpty then 0 else (((shardRows q).filter (fun a => a.status ≠ stOk)).map (fun a => 2 ^ a.shard)).sum

/-- The output at OADDR. -/
def queryOutput (q : Query) : List Byte :=
  let rows := if q.shards.isEmpty then [] else (shardRows q).flatMap shardEntry
  leBytes 4 q.epoch ++ leBytes 4 0 ++ leBytes 8 (missingBits q) ++ leBytes 8 q.cmp ++ leBytes 4 (((goodRows q).map ShardAnswer.nan).sum % 2 ^ 32) ++
  leBytes 36 0 ++ rows ++ leBytes (roundUp rows.length 64 - rows.length) 0 ++
  (List.range q.specs.length).flatMap (fun i => resultBlock q.k (mergedOf q i))

/-- DETAIL of a query (R245): queries short of K, shards missing. -/
def queryDetail (q : Query) : Nat :=
  ((List.range q.specs.length).filter (fun i => (mergedOf q i).length < q.k)).length +
  128 * ((List.range 64).filter (fun i => bit (missingBits q) i)).length

/-- A query writes its output and completes with OK or PARTIAL (R245); on a port that was reset nothing is written (R250). -/
def answerQuery (s : State) (q : Query) : State :=
  match lookup s.ops q.op with
  | none => dropQuery s q.op
  | some o =>
    let s := if o.silent then s else writePartner s o.port q.oaddr (queryOutput q)
    let short := (List.range q.specs.length).any (fun i => decide ((mergedOf q i).length < q.k))
    finish (dropQuery s q.op) q.op (if short then stPartial else stOk) (queryDetail q) 0

/-! ### Messages between shards (R246, R247; log entry 32) -/

/-- A shard reply: 2, shard, status, query number, epoch, NAN, then COUNT and the entries of every query. -/
def replyBytes (r : ShardFrom) (q : Query) (status : Nat) : List Byte :=
  leBytes 1 2 ++ leBytes 1 r.shard ++ leBytes 1 status ++ leBytes 1 0 ++ leBytes 4 r.query ++ leBytes 4 q.epoch ++ leBytes 4 q.nan ++
  (if status ≠ stOk then [] else q.ranked.flatMap (fun cs => leBytes 4 cs.length ++ (List.range q.k).flatMap (fun i =>
    match cs[i]? with
    | some c => leBytes 8 c.id ++ leBytes 4 c.dist
    | none => leBytes 12 0)))

/-- The answer that a reply spells, for queries of K results each. -/
def replyAnswer (b : List Byte) (nq k : Nat) : ShardAnswer :=
  let status := field b 2 1
  { shard := field b 1 1, status := status, epoch := field b 8 4, nan := field b 12 4,
    results := if status ≠ stOk then [] else (List.range nq).map (fun i =>
      let at_ := 16 + i * (4 + 12 * k)
      (List.range (min (field b at_ 4) k)).map (fun j => { id := field b (at_ + 4 + 12 * j) 8, dist := field b (at_ + 12 + 12 * j) 4, shard := 0 })) }

/-- A message to a card endpoint of another device, as message packets. -/
def cardTxn (kind : TxnKind) (op entry slice node ep key timeout : Nat) (data : List Byte) : Txn :=
  { kind := kind, op := op, entry := entry, slice := slice, node := node, opc := 4, ep := ep, key := key, rop := 0, roff := 0,
    pkts := splitPackets data.length data, port := 0, ltier := 0, laddr := 0, leftAt := none, timeout := timeout, ended := none }

/-- A shard request's answer goes back; the request is done. -/
def replyShard (s : State) (q : Query) (r : ShardFrom) (status : Nat) : State :=
  issueTxn (dropQuery s q.op) (cardTxn .answer 0 0 q.slice r.node r.ep r.key 0 (replyBytes r q status))

/-! ### The end of a scan (R232, R233) -/

/-- Rows of a map unit. -/
def rowsPerUnit (c : Scan) : Nat := unitBytes / c.rowBytes

/-- The map unit of a row. -/
def unitOfRow (c : Scan) (r : Nat) : Nat := c.sector / 4 + r / rowsPerUnit c

/-- A row put in its place. -/
def insertRow (h : Nat × List Byte) : List (Nat × List Byte) → List (Nat × List Byte)
  | [] => [h]
  | x :: xs => if h.1 ≤ x.1 then h :: x :: xs else x :: insertRow h xs

/-- The matching rows in order. -/
def scanRows (c : Scan) : List (Nat × List Byte) := c.hits.foldr insertRow []

/-- Rows of failing units read as before (OMODE 0). -/
def bitmapByte (s : State) (p : Nat) (c : Scan) (oaddr i : Nat) : Byte :=
  let old := (partnerByte s p (oaddr + i)).toNat
  BitVec.ofNat 8 (((List.range 8).map (fun j =>
    let r := 8 * i + j
    let on := if r ≥ c.rows then false
      else if c.failed.contains (unitOfRow c r) then bit old j
      else c.hits.any (fun h => h.1 = r)
    b2n on * 2 ^ j)).sum)

/-- A FILTER_SCAN writes its output and completes. -/
def answerScan (s : State) (q : Query) (c : Scan) : State :=
  match lookup s.ops q.op with
  | none => dropQuery s q.op
  | some o =>
    let first := c.failed.min?
    let rows := scanRows c
    let seen := (match first with
      | some u => rows.takeWhile (fun (h : Nat × List Byte) => unitOfRow c h.1 < u)
      | none => rows).take c.maxRows
    let out := if c.omode = 0 then (List.range (ceilDiv c.rows 8)).map (fun i => bitmapByte s o.port c q.oaddr i)
      else if c.omode = 1 then seen.flatMap Prod.snd
      else seen.flatMap (fun (h : Nat × List Byte) => leBytes 8 h.1)
    let s := dropQuery (if o.silent then s else writePartner s o.port q.oaddr out) q.op
    match first with
    | some u => finish s q.op stMedia 0 (4 * u)
    | none => finishOk s q.op rows.length

/-! ### The end of a query -/

/-- Every remote shard has answered, or the deadline has passed (R247). -/
def shardsIn (s : State) (q : Query) : Bool := q.expired || s.clock ≥ q.deadline || (List.range q.shards.length).all (fun i => q.answers.any (fun a => a.shard = i + 1))

/-- Query `op` ends if its local part has ended and no remote shard is waited for (R245-R247). -/
def concludeQuery (s : State) (op : Nat) : State :=
  match getQuery s op with
  | none => s
  | some q =>
    match q.localStatus with
    | none => s
    | some st =>
      match q.remote, q.scan with
      | some r, _ => replyShard s q r st
      | none, some c => answerScan s q c
      | none, none =>
        if !shardsIn s q then s
        else if q.shards.isEmpty && st ≠ stOk then finish (dropQuery s op) op st 0 q.localResult
        else answerQuery s q

/-- Every query that can end now ends. -/
def concludeAll (s : State) : State := (s.card.queries.map Query.op).foldl concludeQuery s

/-- The local part of a query ends (R242). -/
def endLocal (s : State) (op status result : Nat) : State :=
  concludeQuery (modQuery s op (fun q => { q with localStatus := some status, localResult := result, todo := [] })) op

/-- Local re-ranking that has not started by the deadline is not run; beats of a compute halt do not count (R244). -/
def rerankLate (s : State) (q : Query) : Bool := q.metric ≠ 0 && !q.started && decide (s.clock ≥ q.deadline + q.halted)

/-- The passes of a query are done: with METRIC 0 its results are here, otherwise its candidates are to be re-ranked (R242, R244). -/
def afterScan (s : State) (op : Nat) : State :=
  match getQuery s op with
  | none => s
  | some q =>
    if q.scan.isSome then endLocal s op stOk 0
    else if q.metric = 0 then
      let num : Cand → Cand := fun c => { c with dist := (w32 (ofInt (c.dist : Int))).toNat }
      endLocal (modQuery s op (fun q => { q with ranked := q.cands.map (fun l => (bestCands id q.k l).map num) })) op stOk 0
    else
      let todo := (q.cands.zipIdx).flatMap (fun e => e.1.map (fun c => (e.2, c)))
      let s := modQuery s op (fun q => { q with todo := todo, ranked := q.cands.map (fun _ => []) })
      if todo.isEmpty then endLocal s op stOk 0
      else if rerankLate s q then endLocal s op stFlowTimeout 0
      else s

/-- The queries whose re-ranking has started and not ended, which a compute halt ends (01 R14). -/
def rerankingQueries (s : State) : List Nat := (s.card.queries.filter (fun q => q.started && q.localStatus.isNone)).map Query.op

/-- A compute halt ends a query (01 R14). -/
def haltQuery (s : State) (op : Nat) : State :=
  match getQuery s op with
  | some q =>
    match q.remote with
    | some r => replyShard s q r stLost
    | none => finish (dropQuery s op) op stLost 0 0
  | none => s

end Sys2Proof.Machine
end

