-- ==== Sys2Proof/Machine/Endpoints.lean ====
section
/-! DEFINITION. Endpoints and the packets that reach them (11 R218-R221). -/

namespace Sys2Proof.Machine

/-! ### Endpoints (R218) -/

/-- The checks of STR_OPEN (R218). -/
def openChecks (s : State) (o : Op) : List (Bool × Nat × Nat) :=
  let ep := o.f 8 2
  let tier := o.f 10 1
  let base := o.f 16 8
  let size := o.f 24 8
  let sem := o.f 36 2
  let sems := ((lookup s.slices o.slice).map (fun x => x.conf.sems)).getD 0
  [(tier > 2, stBadDescriptor, 0), (base % 64 ≠ 0, stBadDescriptor, 0), (size % 64 ≠ 0 || size = 0 || size > 2 ^ 40, stBadDescriptor, 0),
   (o.f 38 2 > 255 && o.f 38 2 ≠ 0xFFFF, stBadDescriptor, 0), (sem ≠ 0xFFFF && sem ≥ sems, stBounds, 0),
   (ep > 4095 || (lookup s.strand.eps ep).isSome, stBounds, 8),
   (if tier = 0 then decide (base + size > 2 ^ 64) else !inSlice s o.slice tier base size, stBounds, 16)]

/-- The endpoint that STR_OPEN opens. -/
def newEndpoint (o : Op) : Endpoint where
  slice := o.slice
  tier := o.f 10 1
  perm := o.f 11 1
  key := o.f 12 4
  base := o.f 16 8
  size := o.f 24 8
  peer := o.f 32 4
  sem := vecOf (o.f 36 2)
  ivec := vecOf (o.f 38 2)
  port := o.port
  card := none
  closing := false

/-- STR_OPEN (R218). -/
def execStrOpen (op : Nat) (s : State) : Host.Outcome State Fault Refusal :=
  .next (runOp s op 0x88 3 (fun o s =>
    checks s op (openChecks s o)
      (if o.f 10 1 = 0 && partnerDenied s o.port o.slice (o.f 16 8) (o.f 24 8) then fail s op stDenied 0
       else finishOk { s with strand := { s.strand with eps := insertKey s.strand.eps (o.f 8 2) (newEndpoint o) } } op 0)))

/-- A request that an endpoint has admitted waits to be finished (R218). -/
def admittedTo (s : State) (ep : Nat) : Bool := s.strand.waiting.any (fun w => w.1.ep = ep && w.2 = stOk && (w.1.op = 1 || w.1.op = 2 || w.1.op = 4 || w.1.op = 5))

/-- STR_CLOSE: an endpoint that is not open completes with BOUNDS, another slice's with ACCESS_DENIED. It completes once every request already admitted has finished; what
arrives from now on is refused (R218). -/
def execStrClose (op : Nat) (s : State) : Host.Outcome State Fault Refusal :=
  .next (runOp s op 0x89 3 (fun o s =>
    let ep := o.f 8 2
    match lookup s.strand.eps ep with
    | none => fail s op stBounds 8
    | some e =>
      if e.slice ≠ o.slice then fail s op stDenied 0
      else if admittedTo s ep then { s with strand := { s.strand with eps := insertKey s.strand.eps ep { e with closing := true } } }
      else finishOk { s with strand := { s.strand with eps := removeKey s.strand.eps ep } } op 0))

/-! ### Admission and acknowledgement (R219, R220) -/

/-- The destination's answer to one request: served with a status, or not yet possible. -/
inductive Served where
  | done (status : Nat) (s : State)
  | wait (s : State)

/-- The status of admission: `perm` is the bit of PERM, `n` the length of the range (R219). -/
def admission (s : State) (k : Packet) (perm n : Nat) : Nat :=
  match lookup s.strand.eps k.ep with
  | none => stDenied
  | some e =>
    if e.closing || e.card.isSome || e.key ≠ k.key || !(bit e.peer 31 || e.peer % 2 ^ 18 = k.src) || !bit e.perm perm then stDenied
    else if k.offset + n > e.size then stBounds
    else stOk

/-- The acknowledgement of a packet. -/
def ackOf (s : State) (k : Packet) (status : Nat) : Packet :=
  { dst := k.src, src := s.strand.node, sslice := 0xFF, op := 6, route := k.route, epoch := k.epoch, sync := false, last := true, fseq := 0, ep := k.ep,
    key := 0, rop := 0, status := status, offset := k.fseq, len := 0, data := [] }

/-- An accepted packet has been applied: it is acknowledged (R220). -/
def acknowledge (s : State) (k : Packet) (status : Nat) : State := sendPacket s none (ackOf s k status)

/-- A packet no longer waits. -/
def unqueue (s : State) (k : Packet) : State := { s with strand := { s.strand with waiting := s.strand.waiting.filter (fun w => w.1 ≠ k) } }

/-- An accepted packet, admitted with a status, is served and acknowledged; a refused one is acknowledged at once, and one that must wait for memory stays (R219-R221). -/
def applyPacket (s : State) (k : Packet) (admitted : Nat) (serve : State → Served) : State :=
  match (if admitted = stOk then serve s else .done admitted s) with
  | .done st s => acknowledge (unqueue s k) k st
  | .wait s => if s.strand.waiting.any (fun w => w.1 = k) then s else { s with strand := { s.strand with waiting := s.strand.waiting ++ [(k, admitted)] } }

/-- Packets of the flow of k wait, and k is not the first of them. -/
def behindWaiting (s : State) (k : Packet) : Bool := ((s.strand.waiting.find? (fun w => dstKey w.1 = dstKey k)).map (fun w => decide (w.1 ≠ k))).getD false

/-- A packet is taken off its link, or out of those of this node to itself (R213, R217). -/
def takenOff (s : State) (n : Nat) (k : Packet) : State :=
  if s.strand.here.contains k then { s with strand := { s.strand with here := s.strand.here.erase k } } else releaseBuffers s n k

/-- A packet with OP `op` for this node came in on lane n, or is one of this node's own (R217): its flow accepts it, or drops and counts it (R220). Accepted packets of a flow
are applied in order; one that waits is applied when its command comes again (log entry 22). `admitted` is the status of its admission as it arrives. -/
def servePacket (s : State) (n op : Nat) (k : Packet) (admitted : Nat) (serve : State → Served) : State :=
  if k.op ≠ op || routeOf s k none false ≠ .here then s
  else
    match s.strand.waiting.find? (fun w => w.1 = k) with
    | some w => if behindWaiting s k then s else applyPacket s k w.2 serve
    | none =>
      let s := takenOff s n k
      if !accepts s k then countDrop s n
      else
        let s := acceptPacket s k
        if behindWaiting s k then { s with strand := { s.strand with waiting := s.strand.waiting ++ [(k, admitted)] } } else applyPacket s k admitted serve

/-- A request of an endpoint: refused, or served on the endpoint (R219). -/
def serveRequest (s : State) (n op perm len : Nat) (k : Packet) (serve : State → Endpoint → Served) : State :=
  servePacket s n op k (admission s k perm len) (fun s =>
    match lookup s.strand.eps k.ep with
    | some e => serve s e
    | none => .done stDenied s)

/-! ### The memory behind a buffer -/

/-- Access to `n` bytes of a buffer: partner memory of a port (TIER 0) or a slice's memory. It goes ahead, waits for recalled lines or hanks, or ends with a status. -/
def reach (s : State) (port slice tier addr n : Nat) (wr : Bool) (k : State → Served) : Served :=
  if tier = 0 then
    let ls := partnerLines s port addr n wr
    if ls.isEmpty then k s else .wait (askAll s ls wr)
  else if s.pwr.state > 2 then .wait (wake s 2)
  else
    match touch s slice tier addr n wr with
    | .ready s' => k s'
    | .wait s' => .wait (countDemand s s' slice)
    | .ends st => .done st (if st = stMedia then logPool s slice addr n else s)

/-- The bytes of a buffer. -/
def bufBytes (s : State) (port slice tier addr n : Nat) : List Byte := if tier = 0 then readPartner s port addr n else readTier s slice tier addr n

/-- Bytes written to a buffer. -/
def putBytes (s : State) (port slice tier addr : Nat) (b : List Byte) : State := if tier = 0 then writePartner s port addr b else writeTier s slice tier addr b

/-- The request's bytes are written into the endpoint's window. -/
def storeAt (s : State) (e : Endpoint) (k : Packet) (then_ : State → State) : Served :=
  reach s e.port e.slice e.tier (e.base + k.offset) k.data.length true (fun s =>
    .done stOk (then_ (putBytes s e.port e.slice e.tier (e.base + k.offset) k.data)))

/-! ### Requests (R221) -/

/-- WRITE_PACKET. -/
def execWritePacket (n : Fin 104) (k : Packet) (s : State) : Host.Outcome State Fault Refusal :=
  .next (serveRequest s n.val 1 0 k.data.length k (fun s e => storeAt s e k (fun s => s)))

/-- A message's arrival: SEM rises by 1, then IVEC goes to the opening port (R221). -/
def announce (s : State) (e : Endpoint) : State :=
  let s := match e.sem with
    | some m => slotSignal s e.slice m
    | none => s
  interrupt s e.port e.ivec

/-- MESSAGE_PACKET. -/
def execMessagePacket (n : Fin 104) (k : Packet) (s : State) : Host.Outcome State Fault Refusal :=
  .next (serveRequest s n.val 4 3 k.data.length k (fun s e => storeAt s e k (fun s => announce s e)))

/-- One element combined: INT32 add, FP32 add, or unsigned maximum. -/
def combineElem (rop a b : Nat) : Nat :=
  if rop = 1 then (a + b) % 2 ^ 32
  else if rop = 2 then (vAdd (BitVec.ofNat 32 a) (BitVec.ofNat 32 b)).toNat
  else max a b

/-- The elements of a range combined with those of a packet. -/
def combineBytes (rop : Nat) (old new : List Byte) : List Byte :=
  (List.range (new.length / 4)).flatMap (fun i => leBytes 4 (combineElem rop (field old (4 * i) 4) (field new (4 * i) 4)))

/-- REDUCE_PACKET; a ROP that is reserved is no such packet (log entry 2). -/
def execReducePacket (n : Fin 104) (k : Packet) (s : State) : Host.Outcome State Fault Refusal :=
  if k.rop = 0 || k.rop > 3 then .next s
  else
    .next (serveRequest s n.val 5 2 k.data.length k (fun s e =>
      reach s e.port e.slice e.tier (e.base + k.offset) k.data.length true (fun s =>
        let old := bufBytes s e.port e.slice e.tier (e.base + k.offset) k.data.length
        .done stOk (putBytes s e.port e.slice e.tier (e.base + k.offset) (combineBytes k.rop old k.data)))))

/-- The answer to a read request: one response on the reverse flow. -/
def answerTxn (k : Packet) (slice opc : Nat) (pkts : List TxPkt) : Txn :=
  { kind := .answer, op := 0, entry := 0, slice := slice, node := k.src, opc := opc, ep := k.ep, key := k.key, rop := 0, roff := k.offset, pkts := pkts,
    port := 0, ltier := 0, laddr := 0, leftAt := none, timeout := 0, ended := none }

/-- READ_REQUEST_PACKET: LEN is what is asked for; the bytes go back as a read response. -/
def execReadRequestPacket (n : Fin 104) (k : Packet) (s : State) : Host.Outcome State Fault Refusal :=
  .next (serveRequest s n.val 2 1 k.len k (fun s e =>
    reach s e.port e.slice e.tier (e.base + k.offset) k.len false (fun s =>
      let data := bufBytes s e.port e.slice e.tier (e.base + k.offset) k.len
      .done stOk (issueTxn s (answerTxn k e.slice 3 [{ fseq := none, offset := 0, bytes := k.len, data := data, acked := false, got := false, status := 0 }])))))

/-! ### Answers (R220-R224) -/

/-- The outstanding read packet that a response answers: the oldest that asked this node for that offset of that endpoint. -/
def answeredBy (s : State) (k : Packet) : Option (Nat × Nat) :=
  (s.strand.txns.zipIdx).findSome? (fun e =>
    if e.1.node = k.src && e.1.opc = 2 && e.1.ended.isNone && e.1.ep = k.ep then
      (e.1.pkts.findIdx? (fun p => p.fseq.isSome && !p.got && e.1.roff + p.offset = k.offset && p.bytes = k.data.length)).map (fun j => (e.2, j))
    else none)

/-- Packet j of transaction i changed. -/
def modPkt (s : State) (i j : Nat) (f : TxPkt → TxPkt) : State :=
  modTxn s i (fun t => { t with pkts := (t.pkts.zipIdx).map (fun e => if e.2 = j then f e.1 else e.1) })

/-- READ_RESPONSE_PACKET: the bytes reach the local buffer; one that answers nothing outstanding is discarded. -/
def execReadResponsePacket (n : Fin 104) (k : Packet) (s : State) : Host.Outcome State Fault Refusal :=
  .next (settleTxns (servePacket s n.val 3 k stOk (fun s =>
    match answeredBy s k with
    | none => .done stOk s
    | some (i, j) =>
      match s.strand.txns[i]? with
      | none => .done stOk s
      | some t =>
        let at_ := t.laddr + (k.offset - t.roff)
        reach s t.port t.slice t.ltier at_ k.data.length true (fun s =>
          let s := putBytes s t.port t.slice t.ltier at_ k.data
          let s := charge s t.slice (fun m => { m with strandRx := m.strandRx + k.data.length })
          .done stOk (modPkt s i j (fun p => { p with got := true }))))))

/-- The packet that an acknowledgement names. -/
def ackedBy (s : State) (k : Packet) : Option (Nat × Nat) :=
  (s.strand.txns.zipIdx).findSome? (fun e =>
    if e.1.node = k.src then (e.1.pkts.findIdx? (fun p => p.fseq = some (k.offset % 65536) && !p.acked)).map (fun j => (e.2, j)) else none)

/-- ACKNOWLEDGEMENT_PACKET: its packet is acknowledged with its status; one that comes after its transaction completed is only counted (R220, R224). -/
def execAcknowledgementPacket (n : Fin 104) (k : Packet) (s : State) : Host.Outcome State Fault Refusal :=
  if k.op ≠ 6 || routeOf s k none false ≠ .here then .next s
  else
    let s := takenOff s n.val k
    match ackedBy s k with
    | some (i, j) => .next (concludeAll (settleTxns (modPkt s i j (fun p => { p with acked := true, status := k.status }))))
    | none => .next (modLane s n.val (fun x => { x with ctr := { x.ctr with lateAck := sat32 (x.ctr.lateAck + 1) } }))

/-- MANAGEMENT_PACKET: delivered to the control cores (R210). What it says between devices is not in the spec (log entry 22). -/
def execManagementPacket (n : Fin 104) (k : Packet) (s : State) : Host.Outcome State Fault Refusal :=
  .next (servePacket s n.val 7 k stOk (fun s => .done stOk { s with strand := { s.strand with mgmt := s.strand.mgmt ++ [k] } }))

end Sys2Proof.Machine
end

