-- ==== Sys2Proof/Machine/Cards.lean ====
section
/-! DEFINITION. The card engine's commands, passes, re-ranking and shards (12). -/

namespace Sys2Proof.Machine

/-! ### FILTER_SCAN (R231-R233) -/

/-- The field ranges of FILTER_SCAN. -/
def scanFields (o : Op) : List (Bool × Nat × Nat) :=
  let rb := o.f 12 2
  [(o.f 8 2 > 1023, stBadDescriptor, 8), (o.f 10 1 > 2, stBadDescriptor, 0), (o.f 11 1 = 0 || o.f 11 1 > 8, stBadDescriptor, 0),
   (rb < 8 || rb > 16384 || rb % 8 ≠ 0, stBadDescriptor, 0), (o.f 16 8 % 4 ≠ 0, stBadDescriptor, 0),
   (o.f 24 8 = 0 || o.f 24 8 > 2 ^ 40, stBadDescriptor, 0), (o.f 32 8 % 64 ≠ 0 || o.f 40 8 % 64 ≠ 0, stBadDescriptor, 0),
   (o.f 10 1 ≠ 0 && o.f 48 8 = 0, stBadDescriptor, 0)]

/-- Map units that the rows of a scan take. -/
def scanUnits (rowBytes rows : Nat) : Nat := ceilDiv rows (unitBytes / rowBytes)

/-- Checks 1 and 2 of R231. -/
def scanStore (s : State) (id : Nat) (o : Op) : List (Bool × Nat × Nat) :=
  let n := o.f 8 2
  let st := lookup s.stores n
  [(!(st.any (fun st => st.slice = o.slice && st.index.isNone)) || deletedAhead s n id, stDenied, 0),
   (st.any (fun st => o.f 16 8 + 4 * (scanUnits (o.f 12 2) (o.f 24 8) - 1) + ceilDiv (((o.f 24 8 - 1) % (unitBytes / o.f 12 2) + 1) * o.f 12 2) 4096 > st.sectors),
    stBounds, 24)]

/-- Bytes a scan may write. -/
def scanOutBytes (o : Op) : Nat :=
  if o.f 10 1 = 0 then ceilDiv (o.f 24 8) 8 else min (o.f 48 8) (o.f 24 8) * (if o.f 10 1 = 1 then o.f 12 2 else 8)

/-- The scan that a descriptor starts. -/
def newScan (s : State) (id : Nat) (o : Op) (ts : List Term) : Query where
  op := id
  slice := o.slice
  index := 0
  remote := none
  scan := some { store := o.f 8 2, omode := o.f 10 1, rowBytes := o.f 12 2, sector := o.f 16 8, rows := o.f 24 8, maxRows := o.f 48 8, done := [],
                 failed := [], hits := [] }
  metric := 0
  vfmt := 0
  k := 0
  c := 0
  itemBytes := 0
  deadline := 0
  epoch := 0
  specs := []
  terms := ts
  items := []
  waiting := List.range (nBobbins s)
  cands := []
  todo := []
  cmp := 0
  nan := 0
  ranked := []
  started := false
  expired := false
  localStatus := none
  localResult := 0
  shards := []
  answers := []
  oaddr := o.f 40 8
  halted := 0

/-- The terms that the fetch of a descriptor read (R230). -/
def snapTerms (s : State) (id : Nat) : Option (List Byte × List Term) := (lookup s.card.snaps id).bind CardSnap.list

/-- The terms of a descriptor, read once, at its fetch or once the partner has given up their lines: the first faulty field decides; `ok` goes on with the list and its
terms (R230). -/
def withTerms (s : State) (id : Nat) (o : Op) (paddr n len : Nat) (ok : List Byte → List Term → State) : State :=
  if n = 0 then ok [] []
  else
    match snapTerms s id with
    | some (b, ts) =>
      match termsFault b n len with
      | some (st, d) => fail s id st d
      | none => ok b ts
    | none =>
      withPartner s id o [(paddr, 32 * n, false)]
        (let b := readPartner s o.port paddr (32 * n)
         match termsFault b n len with
         | some (st, d) => fail s id st d
         | none => withPartner s id o (bitmapRanges b n) (ok b (readTerms s o.port b n)))

/-- FILTER_SCAN: checked, then a pass on every bobbin (R228, R231). -/
def execFilterScan (op : Nat) (s : State) : Host.Outcome State Fault Refusal :=
  .next (runOp s op 0x48 2 (fun o s =>
    if (getQuery s op).isSome then s
    else
      checks s op (scanFields o)
        (checks s op (scanStore s op o)
          (withTerms s op o (o.f 32 8) (o.f 11 1) (o.f 12 2) (fun _ ts =>
            withPartner s op o [(o.f 40 8, scanOutBytes o, true)] (startQuery s (newScan s op o ts)))))))

/-! ### Indexes (R234) -/

/-- Checks 2 to 4 of R234. -/
def cardCreateChecks (s : State) (id : Nat) (o : Op) : List (Bool × Nat × Nat) :=
  let n := o.f 8 2
  let st := lookup s.stores n
  [(!(st.any (fun st => st.slice = o.slice)) || deletedAhead s n id, stDenied, 0), (st.any (fun st => st.index.isSome) || storeLocked s n, stBounds, 8),
   (epBad s o, stBounds, 20)]

/-- The index that CARD_CREATE makes: epoch 1 is current and holds no items (12 "Changes and epochs"). -/
def newIndex (o : Op) (centroids : List (List Byte)) : Index where
  slice := o.slice
  store := o.f 8 2
  sbits := o.f 10 1
  vfmt := o.f 11 1
  d := o.f 12 2
  rb := o.f 14 2
  ncluster := o.f 16 4
  ep := vecOf (o.f 20 2)
  key := o.f 24 4
  peer := o.f 28 4
  centroids := centroids
  epoch := 1
  current := []
  pending := []
  dropping := none

/-- A card endpoint (R234). -/
def cardEndpoint (o : Op) (h : Nat) : Endpoint where
  slice := o.slice
  tier := 0
  perm := 8
  key := o.f 24 4
  base := 0
  size := 0
  peer := o.f 28 4
  sem := none
  ivec := none
  port := o.port
  card := some h
  closing := false

/-- The store's contents are discarded, as by TRIM of all of it; durable before this ends. -/
def trimStore (s : State) (n : Nat) : State :=
  match lookup s.stores n with
  | some st => commitRecords (journalChanges s (st.map.map (fun e => { store := n, unit := e.1, new := unmapped, old := e.2 })))
  | none => s

/-- CARD_CREATE (R234). -/
def execCardCreate (op : Nat) (s : State) : Host.Outcome State Fault Refusal :=
  .next (runOp s op 0x44 2 (fun o s =>
    let n := o.f 8 2
    let sb := sketchBytes (o.f 10 1)
    let nc := o.f 16 4
    checks s op (cardCreateFields o)
      (checks s op (cardCreateChecks s op o)
        (withPartner s op o [(o.f 32 8, nc * sb, false)]
          (if busyAhead s n op then s
           else
             let centroids := (List.range nc).map (fun i => readPartner s o.port (o.f 32 8 + i * sb) sb)
             let h := s.card.nextHandle
             let s := trimStore s n
             let s := modStore s n (fun st => { st with index := some h })
             let s := { s with card := { s.card with indexes := insertKey s.card.indexes h (newIndex o centroids), nextHandle := h + 1 } }
             let s := if o.f 20 2 = 0xFFFF then s
               else { s with strand := { s.strand with eps := insertKey s.strand.eps (o.f 20 2) (cardEndpoint o h) } }
             finishOk s op (h % 2 ^ 32))))))

/-- An index handle of the slice, for operation `id`: one that a CARD_DROP fetched before it drops is refused (R234, R250). -/
def ownIndex (s : State) (slice h id : Nat) : Option Index :=
  match lookup s.card.indexes h with
  | some x => if x.slice = slice && x.dropping.all (fun d => id < d) then some x else none
  | none => none

/-- A query, change or publish on the index, fetched before `id`, has not ended, or a shard request uses it (R234). -/
def indexBusy (s : State) (h id : Nat) : Bool :=
  s.card.queries.any (fun q => q.index = h && q.scan.isNone) ||
  s.ops.any (fun e => e.1 < id && isOpen e.2 && (e.2.opcode = 0x40 || e.2.opcode = 0x41 || e.2.opcode = 0x42 || e.2.opcode = 0x43) && e.2.f 8 4 = h)

/-- The index is gone: its endpoint closed, its store the slice's again, reading as zeros (R234). -/
def removeIndex (s : State) (h : Nat) (x : Index) : State :=
  let s := modStore s x.store (fun st => { st with index := none })
  let s := match x.ep with
    | some ep => { s with strand := { s.strand with eps := removeKey s.strand.eps ep } }
    | none => s
  { s with card := { s.card with indexes := removeKey s.card.indexes h } }

/-- CARD_DROP: it waits for what uses the index; from its start on new commands that name the handle are refused (R234, R250). -/
def execCardDrop (op : Nat) (s : State) : Host.Outcome State Fault Refusal :=
  .next (runOp s op 0x45 2 (fun o s =>
    let h := o.f 8 4
    match lookup s.card.indexes h with
    | none => fail s op stBounds 0
    | some x =>
      if x.slice ≠ o.slice || x.dropping.any (fun d => d ≠ op) then fail s op stBounds 0
      else if indexBusy s h op then { s with card := { s.card with indexes := insertKey s.card.indexes h { x with dropping := some op } } }
      else finishOk (removeIndex s h x) op 0))

/-! ### Changes (R235-R240) -/

/-- ISTRIDE (R235). -/
def itemStride (x : Index) : Nat := roundUp (16 + sketchBytes x.sbits + vectorBytes x.vfmt x.d + x.rb) 64

/-- Item i of a list. -/
def itemAt (x : Index) (b : List Byte) (i : Nat) : Item :=
  let at_ := i * itemStride x
  let sb := sketchBytes x.sbits
  let vb := vectorBytes x.vfmt x.d
  { id := field b at_ 8, cluster := field b (at_ + 8) 4, sketch := cut b (at_ + 16) sb, vector := cut b (at_ + 16 + sb) vb,
    attr := cut b (at_ + 16 + sb + vb) x.rb }

/-- Bytes that n items take: what a scan reads of each, and vectors packed whole into 16 KiB code words (R236; log entry 31). -/
def itemSpace (x : Index) (n : Nat) : Nat :=
  let vb := vectorBytes x.vfmt x.d
  n * (16 + sketchBytes x.sbits + x.rb) + (if vb = 0 then 0 else ceilDiv n (16384 / vb) * 16384)

/-- Item versions the index holds: the pending epoch, and those only the current epoch or a running query still needs (R239). -/
def itemVersions (s : State) (h : Nat) (x : Index) : Nat :=
  (x.pending ++ x.current ++ (s.card.queries.filter (fun q => q.index = h)).flatMap Query.items ++
    (s.card.snaps.filter (fun e => (lookup s.ops e.1).any (fun o => isOpen o && o.f 8 4 = h))).flatMap (fun e => (e.2.seen.map Prod.snd).getD [])).eraseDups.length

/-- The store lacks room for n new items (R237). -/
def noRoom (s : State) (h : Nat) (x : Index) (n : Nat) : Bool :=
  (lookup s.stores x.store).any (fun st => itemSpace x (itemVersions s h x + n) > st.sectors * 4096)

/-- Insert or replace an item. -/
def putItem (l : List Item) (i : Item) : List Item := l.filter (fun j => j.id ≠ i.id) ++ [i]

/-- Change an index. -/
def modIndex (s : State) (h : Nat) (f : Index → Index) : State := { s with card := { s.card with indexes := adjust s.card.indexes h f } }

/-- RESULT of a change: the count, and the pending epoch (R237). -/
def changeResult (x : Index) (n : Nat) : Nat := n + (x.epoch + 1) % 2 ^ 32 * 2 ^ 32

/-- CARD_INSERT (R237). -/
def execCardInsert (op : Nat) (s : State) : Host.Outcome State Fault Refusal :=
  .next (runOp s op 0x41 2 (fun o s =>
    let h := o.f 8 4
    let n := o.f 12 4
    if n = 0 || n > 65536 then fail s op stBadDescriptor 0
    else
      match ownIndex s o.slice h op with
      | none => fail s op stBounds 0
      | some x =>
        withPartner s op o [(o.f 16 8, n * itemStride x, false)]
          (let b := readPartner s o.port (o.f 16 8) (n * itemStride x)
           let items := (List.range n).map (itemAt x b)
           match items.findIdx? (fun i => i.id = 0xFFFFFFFFFFFFFFFF || i.cluster ≥ x.ncluster) with
           | some i => fail s op stBounds i
           | none =>
             if noRoom s h x n then fail s op stBounds 0xFFFFFFFF
             else if items.any (fun i => (getBob s (bobbinOfItem s i.id)).readOnly) then fail s op stWriteFault 0
             else
               let s := modIndex s h (fun x => { x with pending := items.foldl putItem x.pending })
               let s := charge s o.slice (fun m => { m with flashWrite := m.flashWrite + itemSpace x n })
               finishOk s op (changeResult x n))))

/-- Delete ids in order; how many were found. -/
def deleteIds (l : List Item) : List Nat → Nat → List Item × Nat
  | [], n => (l, n)
  | i :: is, n => deleteIds (l.filter (fun j => j.id ≠ i)) is (if l.any (fun j => j.id = i) then n + 1 else n)

/-- CARD_DELETE (R237). -/
def execCardDelete (op : Nat) (s : State) : Host.Outcome State Fault Refusal :=
  .next (runOp s op 0x42 2 (fun o s =>
    let h := o.f 8 4
    let n := o.f 12 4
    if n = 0 || n > 65536 then fail s op stBadDescriptor 0
    else
      match ownIndex s o.slice h op with
      | none => fail s op stBounds 0
      | some x =>
        withPartner s op o [(o.f 16 8, 8 * n, false)]
          (let ids := (List.range n).map (fun i => partnerNat s o.port (o.f 16 8 + 8 * i) 8)
           match ids.findIdx? (fun i => i = 0xFFFFFFFFFFFFFFFF) with
           | some i => fail s op stBounds i
           | none =>
             let (l, k) := deleteIds x.pending ids 0
             finishOk (modIndex s h (fun x => { x with pending := l })) op (changeResult x k))))

/-- CARD_PUBLISH: the pending epoch becomes current (R238). -/
def execCardPublish (op : Nat) (s : State) : Host.Outcome State Fault Refusal :=
  .next (runOp s op 0x43 2 (fun o s =>
    let h := o.f 8 4
    match ownIndex s o.slice h op with
    | none => fail s op stBounds 0
    | some x =>
      let e := (x.epoch + 1) % 2 ^ 32
      finishOk (modIndex s h (fun x => { x with epoch := e, current := x.pending })) op e))

/-! ### CARD_QUERY (R239-R249) -/

/-- The field ranges of CARD_QUERY. -/
def queryFields (o : Op) : List (Bool × Nat × Nat) :=
  let sharded := bit (o.f 20 1) 1
  [(o.f 12 1 = 0 || o.f 12 1 > 64, stBadDescriptor, 0), (o.f 13 1 > 3, stBadDescriptor, 0), (o.f 14 2 = 0 || o.f 14 2 > 4096, stBadDescriptor, 0),
   (o.f 16 2 = 0 || o.f 16 2 > 4096, stBadDescriptor, 0), (bit (o.f 20 1) 0 && o.f 18 2 = 0, stBadDescriptor, 0), (o.f 21 1 > 8, stBadDescriptor, 0),
   (o.f 24 8 % 64 ≠ 0 || o.f 32 8 % 64 ≠ 0 || (o.f 21 1 ≠ 0 && o.f 40 8 % 64 ≠ 0), stBadDescriptor, 0),
   (sharded && (o.f 56 1 < 2 || o.f 56 1 > 64), stBadDescriptor, 0)]

/-- Strides of a deadline; 0 means 125. -/
def deadlineBeats (n : Nat) : Nat := 8 * (if n = 0 then 125 else n)

/-- The epoch and items an operation on an index sees: those of its fetch, or of now (R239). -/
def seenBy (s : State) (id : Nat) (x : Index) : Nat × List Item := ((lookup s.card.snaps id).bind CardSnap.seen).getD (x.epoch, x.current)

/-- Beats of a compute halt since an operation was fetched (R244). -/
def haltedOf (s : State) (id : Nat) : Nat := ((lookup s.card.snaps id).map CardSnap.halted).getD 0

/-- A query of an index (R239). -/
def newQuery (s : State) (id : Nat) (x : Index) (h metric k c deadline : Nat) (specs : List QuerySpec) (ts : List Term) (remote : Option ShardFrom)
    (shards : List (Nat × Nat × Nat)) (oaddr : Nat) : Query where
  op := id
  slice := x.slice
  index := h
  remote := remote
  scan := none
  metric := metric
  vfmt := x.vfmt
  k := k
  c := c
  itemBytes := 16 + sketchBytes x.sbits + x.rb
  deadline := deadline
  epoch := (seenBy s id x).1
  specs := specs
  terms := ts
  items := (seenBy s id x).2
  waiting := List.range (nBobbins s)
  cands := specs.map (fun _ => [])
  todo := []
  cmp := 0
  nan := 0
  ranked := specs.map (fun _ => [])
  started := false
  expired := false
  localStatus := none
  localResult := 0
  shards := shards
  answers := []
  oaddr := oaddr
  halted := haltedOf s id

/-- What a shard request carries: 1, the shard, the shape of the index, the sender's endpoint and key, the query number, the descriptor's parameters, the terms with
their bitmaps, and the query block (R246; log entry 32). -/
def requestBytes (id shard : Nat) (o : Op) (x : Index) (termBytes block : List Byte) : List Byte :=
  leBytes 1 1 ++ leBytes 1 shard ++ leBytes 1 x.sbits ++ leBytes 1 x.vfmt ++ leBytes 2 x.d ++ leBytes 2 (x.ep.getD 0xFFFF) ++ leBytes 4 x.key ++
  leBytes 4 id ++ cut o.bytes 12 12 ++ leBytes 4 termBytes.length ++ termBytes ++ block

/-- The term list and its bitmaps, as a request carries them. -/
def termBytesOf (b : List Byte) (ts : List Term) : List Byte := b ++ ts.flatMap Term.bitmap

/-- The shard table: node, endpoint, key of shards 1 on (R246). -/
def shardTable (b : List Byte) (n : Nat) : List (Nat × Nat × Nat) :=
  (List.range n).map (fun i => (field b (16 * i) 4 % 2 ^ 18, field b (16 * i + 4) 2, field b (16 * i + 8) 4))

/-- Bytes of the output. -/
def outputBytes (nq k nshard : Nat) : Nat := 64 + roundUp (16 * nshard) 64 + nq * (16 + 16 * k)

/-- The shard requests of a query go out (R246). -/
def sendShards (s : State) (id : Nat) (o : Op) (x : Index) (termBytes block : List Byte) (shards : List (Nat × Nat × Nat)) : State :=
  (shards.zipIdx).foldl (fun s e =>
    issueTxn s (cardTxn .shard id (e.2 + 1) x.slice e.1.1 e.1.2.1 e.1.2.2 (deadlineBeats (o.f 22 2) / 8) (requestBytes id (e.2 + 1) o x termBytes block))) s

/-- CARD_QUERY past its checks. -/
def beginQuery (s : State) (id : Nat) (o : Op) (x : Index) (list : List Byte) (ts : List Term) : State :=
  let h := o.f 8 4
  let nq := o.f 12 1
  let metric := o.f 13 1
  let probes := o.f 18 2
  let listed := bit (o.f 20 1) 0
  let sharded := bit (o.f 20 1) 1
  let len := nq * queryStride x metric probes listed
  let ns := if sharded then o.f 56 1 else 0
  withPartner s id o [(o.f 24 8, len, false), (o.f 48 8, 16 * (ns - 1), false), (o.f 32 8, outputBytes nq (o.f 14 2) ns, true)]
    (let block := readPartner s o.port (o.f 24 8) len
     if listed && (List.range nq).any (fun q => (listedClusters x metric probes block q).any (fun c => c ≥ x.ncluster)) then fail s id stBounds 0
     else
       let specs := (List.range nq).map (querySpec x metric probes listed block)
       let shards := shardTable (readPartner s o.port (o.f 48 8) (16 * (ns - 1))) (ns - 1)
       let q := newQuery s id x h metric (o.f 14 2) (o.f 16 2) (o.fetchedAt + deadlineBeats (o.f 22 2)) specs ts none shards (o.f 32 8)
       startQuery (sendShards s id o x (termBytesOf list ts) block shards) q)

/-- CARD_QUERY; one that asks for re-ranking waits out a compute halt (R239-R244; 01 R14). -/
def execCardQuery (op : Nat) (s : State) : Host.Outcome State Fault Refusal :=
  .next (runOp s op 0x40 2 (fun o s =>
    if (getQuery s op).isSome then s
    else
      checks s op (queryFields o)
        (match ownIndex s o.slice (o.f 8 4) op with
         | none => fail s op stBounds 0
         | some x =>
           checks s op
             [(o.f 13 1 ≠ 0 && x.vfmt = 0, stBadDescriptor, 0),
              (bit (o.f 20 1) 1 && !(x.ep.any (fun ep => (lookup s.strand.eps ep).any (fun e => e.card = some (o.f 8 4)))), stBounds, 8),
              (o.f 13 1 ≠ 0 && (usable s o.slice).isEmpty, stBounds, 13)]
             (if o.f 13 1 ≠ 0 && s.ras.halted then s
              else withTerms s op o (o.f 40 8) (o.f 21 1) x.rb (fun list ts => beginQuery s op o x list ts)))))

/-! ### CARD_PASS (R228, R229, R241-R243) -/

/-- What a pass over map unit u finds: the rows tested and the hits, none where the unit fails. -/
def scanUnit (s : State) (st : Store) (c : Scan) (ts : List Term) (u : Nat) : Option (List (Nat × List Byte)) :=
  match unitData s st u with
  | none => none
  | some m =>
    let rpu := rowsPerUnit c
    let first := (u - c.sector / 4) * rpu
    some ((List.range (min rpu (c.rows - first))).filterMap (fun i =>
      let row := readBytes m (i * c.rowBytes) c.rowBytes
      if rowMatches ts row then some (first + i, row) else none))

/-- The units of a scan that no pass has taken. -/
def unitsLeft (c : Scan) : List Nat := ((List.range (scanUnits c.rowBytes c.rows)).map (fun i => c.sector / 4 + i)).filter (fun u => !(c.done.contains u))

/-- The units a pass on bobbin b takes: those that lie there now; the last pass takes those too that lie nowhere, unmapped or lost (R228). -/
def passUnits (q : Query) (c : Scan) (st : Store) (b : Nat) : List Nat :=
  (unitsLeft c).filter (fun u =>
    let e := unitEntry st u
    if e < lostEntry then entryBob e = b else q.waiting = [b])

/-- The pass is counted and metered (R229, BOB card registers). -/
def countPass (s : State) (b slice bytes cmp : Nat) : State :=
  let s := modBob s b (fun x => { x with ctr := { x.ctr with cardBytes := x.ctr.cardBytes + bytes, cardCmp := x.ctr.cardCmp + cmp, cardPass := x.ctr.cardPass + 1 } })
  charge s slice (fun m => { m with flashRead := m.flashRead + bytes, cardCmp := m.cardCmp + cmp })

/-- A pass of a FILTER_SCAN. -/
def scanPass (s : State) (b : Nat) (q : Query) (c : Scan) : State :=
  match lookup s.stores c.store with
  | none => s
  | some st =>
    let us := passUnits q c st b
    let found := us.map (fun u => (u, scanUnit s st c q.terms u))
    let failed := (found.filter (fun f => f.2.isNone)).map Prod.fst
    let rows := (us.filter (fun u => !(failed.contains u))).map (fun u => min (rowsPerUnit c) (c.rows - (u - c.sector / 4) * rowsPerUnit c))
    let mapped := us.filter (fun u => decide (unitEntry st u < lostEntry))
    let s := countReads s c.store us
    let s := countPass s b q.slice (mapped.length * unitBytes) rows.sum
    modQuery s q.op (fun q =>
      { q with cmp := q.cmp + rows.sum,
               scan := some { c with done := c.done ++ us, failed := c.failed ++ failed, hits := c.hits ++ found.flatMap (fun f => f.2.getD []) } })

/-- A page of bobbin b cannot be read: an active die does not answer, or a written page is uncorrectable. -/
def badMedia (x : Bobbin) : Bool := (List.range 9).any (fun d => (getDie x d).role < 8 && !(getDie x d).answering) || x.pages.any (fun p => p.2.uncorr)

/-- Where a bobbin has a page that cannot be read, whether items are on it is a free value (R245; log entry 31). -/
def itemsLost (s : State) (b : Nat) (some_ : Bool) : Bool × State :=
  if some_ && badMedia (getBob s b) then
    let (n, s) := draw s
    (decide (n % 2 = 1), s)
  else (false, s)

/-- A pass of a query: the items of its clusters on bobbin b are compared, and the best C per query are kept (R241, R242). -/
def sketchPass (s : State) (b : Nat) (q : Query) : State :=
  let here := q.items.filter (fun i => bobbinOfItem s i.id = b && q.specs.any (fun p => p.probes.contains i.cluster))
  let (lost, s) := itemsLost s b (!here.isEmpty)
  let compared := (here.map (fun i => (q.specs.filter (fun p => p.probes.contains i.cluster)).length)).sum
  let cmp := compared + (if q.terms.isEmpty then 0 else here.length)
  let ok := here.filter (fun i => rowMatches q.terms i.attr)
  let best := q.specs.map (fun p =>
    bestCands id q.c ((ok.filter (fun i => p.probes.contains i.cluster)).map (fun i => { dist := sketchDistance i.sketch p.sketch, id := i.id, shard := 0 })))
  let s := countPass s b q.slice (here.length * q.itemBytes) cmp
  let s := modQuery s q.op (fun q => { q with cmp := q.cmp + cmp, cands := (q.cands.zip best).map (fun e => e.1 ++ e.2) })
  if lost then
    modQuery s q.op (fun q => { q with localStatus := if q.localStatus.isNone then some stMedia else q.localStatus,
                                       localResult := if q.localStatus.isNone then b else q.localResult })
  else s

/-- The bobbins on which units of a scan lie that no pass has taken: writes have moved them there meanwhile. -/
def bobbinsLeft (s : State) (q : Query) : List Nat :=
  match q.scan with
  | none => []
  | some c =>
    match lookup s.stores c.store with
    | none => []
    | some st => (((unitsLeft c).filter (fun u => unitEntry st u < lostEntry)).map (fun u => entryBob (unitEntry st u))).eraseDups

/-- Further passes of a query join the queues of their bobbins, and are waited for. -/
def morePasses (s : State) (op : Nat) (bs : List Nat) : State :=
  bs.foldl (fun s b => modBob s b (fun x => { x with passes := insertPass op x.passes })) (modQuery s op (fun q => { q with waiting := bs }))

/-- The pass on bobbin b is done; after the last one the query goes on (R242), or units that lie elsewhere now get their passes. -/
def passDone (s : State) (b op : Nat) : State :=
  let s := modQuery s op (fun q => { q with waiting := q.waiting.filter (fun k => k ≠ b) })
  match getQuery s op with
  | some q =>
    let left := bobbinsLeft s q
    if !q.waiting.isEmpty then s
    else if !left.isEmpty then morePasses s op left
    else if q.localStatus.isSome then concludeQuery s op
    else afterScan s op
  | none => s

/-- A descriptor fetched before operation `id` will have a pass and has not begun: its pass comes first (R228). One that a fence or a compute halt holds is passed over. -/
def passAhead (s : State) (id : Nat) : Bool :=
  s.ops.any (fun e => e.1 < id && isOpen e.2 && (e.2.opcode = 0x40 || e.2.opcode = 0x48) && (getQuery s e.1).isNone && fenceAllows s e.2 &&
    (if e.2.opcode = 0x48 then !fenceHolds s e.1 e.2 else !(s.ras.halted && e.2.f 13 1 ≠ 0)))

/-- CARD_PASS: the unit's next pass, in the order of its queue (R228). -/
def execCardPass (b : Fin 16) (s : State) : Host.Outcome State Fault Refusal :=
  match (getBob s b.val).passes with
  | [] => .next s
  | p :: ps =>
    if passAhead s p.op then .next s
    else if !awake s 2 then .next (wake s 2)
    else
      let s := modBob s b.val (fun x => { x with passes := ps })
      match getQuery s p.op with
      | none => .next s
      | some q =>
        let s := match q.scan with
          | some c => scanPass s b.val q c
          | none => sketchPass s b.val q
        .next (passDone s b.val p.op)

/-! ### RERANK_UNIT (R242-R244) -/

/-- A candidate with its distance key. -/
def rerankOne (q : Query) (e : Nat × Cand) : Nat × Cand :=
  match q.items.find? (fun i => i.id = e.2.id), q.specs[e.1]? with
  | some i, some p => (e.1, { e.2 with dist := distanceKey q.vfmt q.metric i.vector p.vector })
  | _, _ => e

/-- Finisher cycles of a candidate: a pass of 256 lanes over its elements (05 R83; log entry 31). -/
def rerankCycles (q : Query) : Nat := ceilDiv (((q.specs.head?).map (fun p => p.vector.length)).getD 0 / (if q.vfmt = 3 then 1 else 2)) 256

/-- The first bobbin of a list on which an item's vector cannot be read (R245). -/
def vectorsLost : List Nat → State → Option Nat × State
  | [], s => (none, s)
  | b :: bs, s =>
    match itemsLost s b true with
    | (true, s) => (some b, s)
    | (false, s) => vectorsLost bs s

/-- Up to 256 candidates are re-ranked; with none left the local part ends. -/
def rerankSome (s : State) (q : Query) : State :=
  let now := (q.todo.take 256).map (rerankOne q)
  let good := now.filter (fun e => !isNaN32 e.2.dist)
  let ranked := (q.ranked.zipIdx).map (fun r => r.1 ++ (good.filter (fun e => e.1 = r.2)).map Prod.snd)
  let s := charge s q.slice (fun m => { m with spindle := m.spindle + now.length * rerankCycles q, flashRead := m.flashRead + now.length * 16384 })
  let s := modQuery s q.op (fun q => { q with started := true, todo := q.todo.drop 256, nan := q.nan + (now.length - good.length), ranked := ranked })
  if q.todo.length ≤ 256 then
    endLocal (modQuery s q.op (fun q => { q with ranked := q.ranked.map (bestCands distKey q.k) })) q.op stOk 0
  else s

/-- A unit of re-ranking; a vector that cannot be read ends the local part with MEDIA_UNCORRECTABLE and its bobbin (R245). -/
def rerank (s : State) (q : Query) : State :=
  match vectorsLost ((q.todo.take 256).map (fun e => bobbinOfItem s e.2.id)).eraseDups s with
  | (some b, s) => endLocal s q.op stMedia b
  | (none, s) => rerankSome s q

/-- RERANK_UNIT: on a finisher of a spindle on which the owning slice runs, while compute is not halted (R243). -/
def execRerankUnit (op : Nat) (s : State) : Host.Outcome State Fault Refusal :=
  match getQuery s op with
  | none => .next s
  | some q =>
    if q.scan.isSome || q.todo.isEmpty || q.localStatus.isSome || s.ras.halted || !((usable s q.slice).any (runningOn s q.slice)) || rerankLate s q then .next s
    else if !awake s 0 then .next (wake s 0)
    else .next (rerank s q)

/-! ### Shards (R246, R247) -/

/-- A message packet for a card endpoint: refused unless key and node are right; the packets of a message are put together, and `whole` takes the last one (R219,
R246). -/
def serveCard (s : State) (n : Nat) (k : Packet) (whole : State → Endpoint → List Byte → Served) : State :=
  servePacket s n 4 k stOk (fun s =>
    match lookup s.strand.eps k.ep with
    | none => .done stDenied s
    | some e =>
      if e.card.isNone || e.key ≠ k.key || !(bit e.peer 31 || e.peer % 2 ^ 18 = k.src) then .done stDenied s
      else
        let at_ := k.src * 4096 + k.ep
        let b := (if k.offset = 0 then [] else readD [] s.card.arriving at_) ++ k.data
        if !k.last then .done stOk { s with card := { s.card with arriving := writeD [] s.card.arriving at_ b } }
        else
          match whole s e b with
          | .wait s => .wait s
          | .done st s => .done st { s with card := { s.card with arriving := removeKey s.card.arriving at_ } })

/-- The terms a request carries. -/
def requestTerms (b : List Byte) (n : Nat) : List Term :=
  let step : (List Term × Nat) → Nat → (List Term × Nat) := fun acc i =>
    let t := termAt b i []
    if t.op = 7 then (acc.1 ++ [{ t with bitmap := cut b acc.2 (bitmapBytes t.width) }], acc.2 + bitmapBytes t.width) else (acc.1 ++ [t], acc.2)
  ((List.range n).foldl step ([], 32 * n)).1

/-- The checks of a local query on the parameters a shard request carries: the descriptor's own at `p`, the metric against the index, the re-ranking spindles, the terms and
the explicit clusters (R244, R246). -/
def shardChecks (s : State) (x : Index) (p : Nat → Nat → Nat) (terms block : List Byte) : List (Bool × Nat) :=
  let metric := p 13 1
  [(p 12 1 = 0 || p 12 1 > 64 || metric > 3 || p 14 2 = 0 || p 14 2 > 4096 || p 16 2 = 0 || p 16 2 > 4096 || (bit (p 20 1) 0 && p 18 2 = 0) || p 21 1 > 8, stBadDescriptor),
   (metric ≠ 0 && x.vfmt = 0, stBadDescriptor),
   (metric ≠ 0 && (usable s x.slice).isEmpty, stBounds),
   ((termsFault terms (p 21 1) x.rb).any (fun f => f.1 = stBadDescriptor), stBadDescriptor),
   ((termsFault terms (p 21 1) x.rb).isSome, stBounds),
   (bit (p 20 1) 0 && (List.range (p 12 1)).any (fun q => (listedClusters x metric (p 18 2) block q).any (fun c => c ≥ x.ncluster)), stBounds)]

/-- A whole shard request: refused with BAD_DESCRIPTOR where the shape differs, with BOUNDS where a drop says so, and as a local query is; it waits for a place in flight;
else it runs as a local query (R244, R246). -/
def admitShard (s : State) (k : Packet) (h : Nat) (b : List Byte) : Served :=
  match lookup s.card.indexes h with
  | none => .done stBounds s
  | some x =>
    let p : Nat → Nat → Nat := fun off n => field b (20 + off - 12) n
    let tl := field b 32 4
    let terms := cut b 36 tl
    let block := b.drop (36 + tl)
    if field b 2 1 ≠ x.sbits || field b 3 1 ≠ x.vfmt || field b 4 2 ≠ x.d then .done stBadDescriptor s
    else if x.dropping.isSome then .done stBounds s
    else
      match (shardChecks s x p terms block).find? (fun c => c.1) with
      | some c => .done c.2 s
      | none =>
        if placesTaken s ≥ 4096 then .wait s
        else
          let specs := (List.range (p 12 1)).map (querySpec x (p 13 1) (p 18 2) (bit (p 20 1) 0) block)
          let r : ShardFrom := { node := k.src, ep := field b 6 2, key := field b 8 4, query := field b 12 4, shard := field b 1 1 }
          let id := s.opSeq
          let q := newQuery s id x h (p 13 1) (p 14 2) (p 16 2) (s.clock + deadlineBeats (p 22 2)) specs (requestTerms terms (p 21 1)) (some r) [] 0
          .done stOk (startQuery { s with opSeq := id + 1 } q)

/-- SHARD_REQUEST. -/
def execShardRequest (n : Fin 104) (k : Packet) (s : State) : Host.Outcome State Fault Refusal :=
  .next (serveCard s n.val k (fun s e b => if field b 0 1 ≠ 1 then .done stOk s else admitShard s k (e.card.getD 0) b))

/-- A whole shard reply joins the answers of its query, unless the deadline has come, the query has merged or has it already (R247). -/
def takeReply (s : State) (b : List Byte) : State :=
  modQuery s (field b 4 4) (fun q =>
    let a := replyAnswer b q.specs.length q.k
    if q.remote.isSome || q.expired || s.clock ≥ q.deadline || a.shard = 0 || a.shard > q.shards.length || q.answers.any (fun c => c.shard = a.shard) then q
    else { q with answers := q.answers ++ [a] })

/-- SHARD_REPLY (R247). -/
def execShardReply (n : Fin 104) (k : Packet) (s : State) : Host.Outcome State Fault Refusal :=
  .next (concludeAll (serveCard s n.val k (fun s _ b => .done stOk (if field b 0 1 ≠ 2 then s else takeReply s b))))

/-- QUERY_DEADLINE: missing shards are given up and local re-ranking that has not started is not run (R244, R247). -/
def execQueryDeadline (op : Nat) (s : State) : Host.Outcome State Fault Refusal :=
  match getQuery s op with
  | none => .next s
  | some q =>
    if q.scan.isSome || s.clock < q.deadline then .next s
    else
      let s := modQuery s op (fun q => { q with expired := true })
      if q.waiting.isEmpty && q.localStatus.isNone && rerankLate s q then .next (endLocal s op stFlowTimeout 0)
      else .next (concludeQuery s op)

end Sys2Proof.Machine
end

