-- ==== Sys2Proof/Machine/Distaff.lean ====
section
/-! DEFINITION. The distaff (16): regions, code words, the DST command sequence, programs, erases and their suspension. -/

namespace Sys2Proof.Machine

/-! ### The array (R328, R330) -/

/-- A word in the erased state. -/
def CodeWord.erased : CodeWord where
  data := BitVec.allOnes 256
  written := false
  st := .good

/-- A word of the shipped slot A, identity, commit and key-store regions: its contents are set at manufacture (log entry 24). -/
def shippedWord (n : Nat) : CodeWord where
  data := Config.shippedWord n
  written := Config.shippedWritten n
  st := .good

/-- The distaff changed. -/
def modDst (s : State) (f : Distaff → Distaff) : State := { s with dst := f s.dst }

/-- The bank of a code word: 2^20 words each. -/
def bankOf (w : Nat) : Nat := w / 2 ^ 20

/-- The sector of a code word: 2,048 words each. -/
def sectorOf (w : Nat) : Nat := w / 2048

/-- The 32 bytes of a code word. -/
def wordBytes (d : BitVec 256) : List Byte := leBytes 32 d.toNat

/-- The regions of R328. -/
inductive Region where
  | slots | identity | keyStore | logs | user
  deriving DecidableEq, Repr

/-- The region of a distaff address. -/
def regionOf (a : Nat) : Region :=
  let o := a % 0x2000000
  if o < 0x1800000 then .slots
  else if o < 0x1900000 then (if a < 0x2000000 then .identity else .keyStore)
  else if o < 0x1A00000 then .slots
  else if a ≥ 0x2000000 && o < 0x1B00000 then .user
  else .logs

/-- What a word reads as that is not listed: erased once its sector has been, and in the regions that ship empty (slot B, user area, logs); otherwise as
shipped (log entry 24). -/
def plainWord (s : State) (n : Nat) : CodeWord :=
  let a := 32 * n
  if s.dst.changed.contains (sectorOf n) then CodeWord.erased
  else
    match regionOf a with
    | .logs => CodeWord.erased
    | .user => CodeWord.erased
    | .slots => if 0x2000000 ≤ a && a < 0x3800000 then CodeWord.erased else shippedWord n
    | _ => shippedWord n

/-- Code word n. -/
def getWord (s : State) (n : Nat) : CodeWord := readD (plainWord s n) s.dst.array n

/-- Code word n set. -/
def putWord (s : State) (n : Nat) (w : CodeWord) : State := modDst s (fun d => { d with array := writeD (plainWord s n) d.array n w })

/-- The record at place k is no longer valid in Commit A (`inA`) or Commit B; one valid in neither does not count (17 R358). -/
def voidCommits (s : State) (inA : Bool) (hit : Nat → Bool) : State :=
  let f : CommitRec → CommitRec := fun c => if hit c.pos then (if inA then { c with inA := false } else { c with inB := false }) else c
  { s with sec := { s.sec with commits := (s.sec.commits.map f).filter (fun c => c.inA || c.inB) } }

/-- The commit records a sector or word takes with it when it is erased or left indeterminate. -/
def voidAt (s : State) (erase : Bool) (w : Nat) : State :=
  let at_ : Nat → Nat → Bool := fun base p => if erase then sectorOf w = sectorOf (base + 2 * p) else w = base + 2 * p || w = base + 2 * p + 1
  voidCommits (voidCommits s true (at_ (0x1900000 / 32))) false (at_ (0x3900000 / 32))

/-- A sector is erased: its words read as erased (R330, R331). -/
def eraseWords (s : State) (sector : Nat) : State :=
  let s := modDst s (fun d => { d with array := d.array.filter (fun e => sectorOf e.1 ≠ sector),
                                       changed := if d.changed.contains sector then d.changed else d.changed ++ [sector] })
  voidAt s true (sector * 2048)

/-- What R337 lets the DST path do in a region: read, or program and erase. -/
def dstMay (s : State) (a : Nat) (wr : Bool) : Bool :=
  match regionOf a with
  | .keyStore => false
  | .user => true
  | _ => !wr || level s = 0

/-- An operation runs in a bank and is not suspended. -/
def bankBusy (s : State) (bank : Nat) : Bool := s.dst.current.any (fun o => !o.suspended && bankOf o.target = bank)

/-- The word lies in the sector of a suspended erase (R329). -/
def inSuspended (s : State) (w : Nat) : Bool := s.dst.current.any (fun o => o.erase && o.suspended && sectorOf o.target = sectorOf w)

/-- A word that an interrupted operation left: data and written flag are free values (R339). -/
def freeWord (n w : Nat) : CodeWord where
  data := BitVec.ofNat 256 (leNat ((List.range 32).map (fun i => Config.freeByte n (33 * w + i))))
  written := (Config.freeByte n (33 * w + 32)).getLsbD 0
  st := .indeterminate

/-- The running operation is abandoned: its word or sector is indeterminate (R339). -/
def abandonOp (s : State) : State :=
  match s.dst.current with
  | none => s
  | some o =>
    let n := s.free
    let s := { s with free := s.free + 1 }
    let ws := if o.erase then (List.range 2048).map (fun i => sectorOf o.target * 2048 + i) else [o.target]
    let s := ws.foldl (fun s w => putWord s w (freeWord n w)) s
    modDst (voidAt s o.erase o.target) (fun d => { d with current := none })

/-- What a read of a word gives: its data, or none for a double-bit error; a single-bit error is corrected and counted (R330). An indeterminate word may read as any value, with or without errors (R339). -/
def readWord (s : State) (w : Nat) : Option (BitVec 256) × State :=
  let c := getWord s w
  let fixed := modDst s (fun d => { d with ce := sat32 (d.ce + 1) })
  match c.st with
  | .good => (some c.data, s)
  | .single => (some c.data, fixed)
  | .double => (none, s)
  | .indeterminate =>
    let (n, s) := draw s
    let fixed := modDst s (fun d => { d with ce := sat32 (d.ce + 1) })
    let v := (freeWord n w).data
    if n % 3 = 0 then (some v, s) else if n % 3 = 1 then (some v, fixed) else (none, s)

/-! ### Path status (DST_STAT, DST_FSTAT) -/

def errBankSelf : Nat := 0x60
def errReprogram : Nat := 0x61
def errKey : Nat := 0x70
def errBusy : Nat := 0x71
def errAccess : Nat := 0x72
def errUncorr : Nat := 0x73
def errSequence : Nat := 0x74

/-- A path's status changed. -/
def modPath (s : State) (byDst : Bool) (f : PathStat → PathStat) : State :=
  modDst s (fun d => if byDst then { d with stat := f d.stat } else { d with fstat := f d.fstat })

/-- A command of a path is refused. -/
def refusePath (s : State) (byDst : Bool) (err : Nat) : State := modPath s byDst (fun p => { p with err := err })

/-- The DST command sequence is left: UNLOCKED clears. -/
def endSeq (s : State) : State := modDst s (fun d => { d with seq := .idle })

/-- The DST command is abandoned or refused. -/
def refuseDst (s : State) (err : Nat) : State := refusePath (endSeq s) true err

/-! ### The DST command sequence (R336) -/

/-- DST_UNLOCK: a write of DST_KEY. -/
def unlockDst (s : State) (v : Word) : State :=
  if s.dst.keyLocked then refuseDst s errKey
  else
    let bad := refuseDst (modDst s (fun d => { d with keyFails := d.keyFails + 1, keyLocked := decide (d.keyFails + 1 ≥ 8) })) errKey
    match s.dst.seq with
    | .idle => if v = 0x4C9E2A17 then modDst s (fun d => { d with seq := .halfKey }) else bad
    | .halfKey => if v = 0xB361D5E8 then modDst s (fun d => { d with seq := .unlocked, keyFails := 0 }) else bad
    | _ => refuseDst s errSequence

/-- DST_UNLOCK. -/
def execDstUnlock (who : Requester) (v : Word) (s : State) : Host.Outcome State Fault Refusal :=
  .next (ctlWrite s who 0x40000 (fun s => unlockDst s v))

/-- A write of DST_CMD: READ, PROGRAM and ERASE wait for their address; SUSPEND and RESUME are commands of their own (DISTAFF_SUSPEND, DISTAFF_RESUME). -/
def writeDstCmd (s : State) (v : Word) : State :=
  let c := v.toNat % 256
  if s.dst.keyLocked then refuseDst s errKey
  else if s.dst.seq ≠ .unlocked then refuseDst s errSequence
  else if c = 0x03 || c = 0x10 || c = 0x30 then modDst s (fun d => { d with seq := .cmd c })
  else refuseDst s errSequence

/-- WORD of DST_ADDR, as it reads. -/
def addrField (v : Word) : Nat := bits v.toNat 5 21 * 32

/-- A write of DST_ADDR that starts no READ and no ERASE: the field takes its value; for PROGRAM the data words follow. -/
def writeDstAddr (s : State) (v : Word) : State :=
  let s := modDst s (fun d => { d with addr := addrField v })
  match s.dst.seq with
  | .cmd 0x10 => modDst s (fun d => { d with seq := .data 0 })
  | .idle => s
  | _ => refuseDst s errSequence

/-- DST_DATAn set. -/
def putData (d : Distaff) (n : Nat) (v : Word) : Distaff :=
  { d with data := BitVec.ofNat 256 (leNat ((wordBytes d.data).take (4 * n) ++ leBytes 4 v.toNat ++ (wordBytes d.data).drop (4 * n + 4))) }

/-- A write of DST_DATAn that does not start the program. -/
def writeDstData (s : State) (n : Nat) (v : Word) : State :=
  let s := modDst s (fun d => putData d n v)
  match s.dst.seq with
  | .data k => if k = n then modDst s (fun d => { d with seq := .data (n + 1) }) else refuseDst s errSequence
  | .idle => s
  | _ => refuseDst s errSequence

/-! ### READ (R329, R330, R337) -/

/-- A DST READ of the word at DST_ADDR. -/
def dstRead (s : State) : State :=
  let a := s.dst.addr
  let w := a / 32
  if !dstMay s a false then refuseDst s errAccess
  else if bankBusy s (bankOf w) then refuseDst s errBusy
  else
    let s := endSeq s
    let (v, s) := if inSuspended s w then (some (BitVec.allOnes 256), s) else readWord s w
    let s := modDst s (fun d => { d with data := v.getD 0, stat := { d.stat with done := true, op := 3 } })
    if v.isNone then refusePath s true errUncorr else s

/-! ### PROGRAM and ERASE (R331-R335) -/

/-- An operation starts. -/
def startDistaff (s : State) (byDst erase : Bool) (w : Nat) (data : BitVec 256) : State :=
  let o : DistaffOp := { erase := erase, byDst := byDst, target := w, data := data, suspended := false, verified := false }
  let s := modDst s (fun d => { d with current := some o, pulses := if erase then 0 else d.pulses, suspends := if erase then 0 else d.suspends })
  modPath s byDst (fun p => { p with op := if erase then 2 else 1 })

/-- A PROGRAM of a word: refused while an operation exists, or where the written flag is set (R331, R333). -/
def programWord (s : State) (byDst : Bool) (w : Nat) (data : BitVec 256) : State :=
  if s.dst.current.isSome then refusePath s byDst errBusy
  else if (getWord s w).written then refusePath s byDst errReprogram
  else startDistaff s byDst false w data

/-- An ERASE of a word's sector (R333). -/
def eraseSector (s : State) (byDst : Bool) (w : Nat) : State :=
  if s.dst.current.isSome then refusePath s byDst errBusy else startDistaff s byDst true w 0

/-- The core fetches instructions from the bank it targets (R335). -/
def bankSelf (execBank : Option (Fin 2)) (a : Nat) : Bool := execBank.any (fun b => b.val = bankOf (a / 32))

/-- The write of DST_DATA7 that completes a PROGRAM (R336, R337). -/
def dstProgram (s : State) (v : Word) : State :=
  let s := endSeq (modDst s (fun d => putData d 7 v))
  if !dstMay s s.dst.addr true then refusePath s true errAccess else programWord s true (s.dst.addr / 32) s.dst.data

/-- The write of DST_ADDR that starts an ERASE (R336, R337). -/
def dstErase (s : State) (v : Word) : State :=
  let s := endSeq (modDst s (fun d => { d with addr := addrField v }))
  if !dstMay s s.dst.addr true then refusePath s true errAccess else eraseSector s true (s.dst.addr / 32)

/-- A write of DST_ADDR, as its place in the sequence makes it: it starts a READ or an ERASE, brings a PROGRAM its address, or is out of order (R336). -/
def writeAddr (s : State) (v : Word) : State :=
  if s.dst.seq = .cmd 0x03 then dstRead (modDst s (fun d => { d with addr := addrField v }))
  else if s.dst.seq = .cmd 0x30 then dstErase s v
  else writeDstAddr s v

/-- A write of DST_DATAn, as its place in the sequence makes it: the eighth starts the PROGRAM (R336). -/
def writeData (s : State) (n : Nat) (v : Word) : State :=
  if n = 7 && s.dst.seq = .data 7 then dstProgram s v else writeDstData s n v

/-- DISTAFF_READ: the write of DST_ADDR that starts a READ (R336). -/
def execDistaffRead (who : Requester) (addr : Word) (s : State) : Host.Outcome State Fault Refusal :=
  .next (ctlWrite s who 0x40008 (fun s => writeAddr s addr))

/-- DISTAFF_PROGRAM: from the DST block, the write of DST_DATA7; from a core, the whole sequence of R334. -/
def execDistaffProgram (path : DistaffPath) (s : State) : Host.Outcome State Fault Refusal :=
  match path with
  | .dst who v => .next (ctlWrite s who 0x4002C (fun s => writeData s 7 v))
  | .core _ addr data execBank =>
    if addr % 32 ≠ 0 || data.length ≠ 32 then .next (refusePath s false errSequence)
    else if bankSelf execBank addr then .next (refusePath s false errBankSelf)
    else .next (programWord s false (addr % 0x4000000 / 32) (BitVec.ofNat 256 (leNat data)))

/-- DISTAFF_ERASE: from the DST block, the write of DST_ADDR; from a core, the sequence of R334. -/
def execDistaffErase (path : DistaffPath) (s : State) : Host.Outcome State Fault Refusal :=
  match path with
  | .dst who v =>
    .next (ctlWrite s who 0x40008 (fun s => writeAddr s v))
  | .core _ addr _ execBank =>
    if bankSelf execBank addr then .next (refusePath s false errBankSelf) else .next (eraseSector s false (addr % 0x4000000 / 32))

/-! ### SUSPEND and RESUME (R333, R338) -/

/-- SUSPEND: the erase stops; one suspended already is left so; no erase there is ERR SEQUENCE. While a watchdog reset waits no SUSPEND is accepted (R340). -/
def suspendErase (s : State) (byDst : Bool) (bank : Option Nat) : State :=
  match s.dst.current with
  | some o =>
    if !o.erase || bank.any (fun b => b ≠ bankOf o.target) then refusePath s byDst errSequence
    else if o.suspended || s.dst.wdogPending.isSome || o.verified then s
    else modDst s (fun d => { d with current := some { o with suspended := true }, suspends := min (d.suspends + 1) 0xFFFF })
  | none => refusePath s byDst errSequence

/-- RESUME. -/
def resumeErase (s : State) (byDst : Bool) (bank : Option Nat) : State :=
  match s.dst.current with
  | some o =>
    if !o.erase || bank.any (fun b => b ≠ bankOf o.target) then refusePath s byDst errSequence
    else modDst s (fun d => { d with current := some { o with suspended := false } })
  | none => refusePath s byDst errSequence

/-- A command that needs no address starts with the write of DST_CMD, after the unlock (R336). -/
def dstBare (s : State) (k : State → State) : State :=
  if s.dst.keyLocked then refuseDst s errKey
  else if s.dst.seq ≠ .unlocked then refuseDst s errSequence
  else k (endSeq s)

/-- A write of DST_CMD: SUSPEND and RESUME start with it, the others wait for their address (R336). -/
def writeCmd (s : State) (v : Word) : State :=
  if v.toNat % 256 = 0xB0 then dstBare s (fun s => suspendErase s true none)
  else if v.toNat % 256 = 0xD0 then dstBare s (fun s => resumeErase s true none)
  else writeDstCmd s v

/-- DISTAFF_SUSPEND. -/
def execDistaffSuspend (path : DistaffPath) (s : State) : Host.Outcome State Fault Refusal :=
  match path with
  | .dst who v => .next (ctlWrite s who 0x40004 (fun s => writeCmd s v))
  | .core _ addr _ _ => .next (suspendErase s false (some (bankOf (addr % 0x4000000 / 32))))

/-- DISTAFF_RESUME. -/
def execDistaffResume (path : DistaffPath) (s : State) : Host.Outcome State Fault Refusal :=
  match path with
  | .dst who v => .next (ctlWrite s who 0x40004 (fun s => writeCmd s v))
  | .core _ addr _ _ => .next (resumeErase s false (some (bankOf (addr % 0x4000000 / 32))))

/-! ### Pulses and ends (R332) -/

/-- ERASE_PULSE: a pulse ends; once the sector verifies its words are erased. -/
def execErasePulse (verified : Bool) (s : State) : Host.Outcome State Fault Refusal :=
  match s.dst.current with
  | some o =>
    if !o.erase || o.suspended || o.verified then .next s
    else
      let s := modDst s (fun d => { d with pulses := min (d.pulses + 1) 0xFFFF })
      if verified then
        .next (modDst (eraseWords s (sectorOf o.target)) (fun d => { d with current := some { o with verified := true } }))
      else .next s
  | none => .next s

/-- A word as a PROGRAM leaves it: its data and the written flag; one that an interrupted operation left, and that no erase has cleared since, stays
indeterminate (R331, R339). -/
def programmed (s : State) (w : Nat) (data : BitVec 256) : CodeWord :=
  { data := data, written := true, st := if (getWord s w).st = .indeterminate then .indeterminate else .good }

/-- The running program, or the erase whose sector has verified, ends: DONE of its path is set. -/
def endDistaff (s : State) : State :=
  match s.dst.current with
  | some o =>
    if o.erase && !o.verified then s
    else
      let s := if o.erase then s else putWord s o.target (programmed s o.target o.data)
      modPath (modDst s (fun d => { d with current := none })) o.byDst (fun p => { p with done := true })
  | none => s

/-- A write of DST_STAT: DONE clears on bit 3, ERR on bit 8 (R341). -/
def writeDstStat (s : State) (v : Word) : State :=
  modPath s true (fun p => { p with done := p.done && !v.getLsbD 3, err := if v.getLsbD 8 then 0 else p.err })

/-- DST_STAT_WRITE. -/
def execDstStatWrite (who : Requester) (v : Word) (s : State) : Host.Outcome State Fault Refusal :=
  .next (ctlWrite s who 0x40030 (fun s => writeDstStat s v))

end Sys2Proof.Machine
end

