-- ==== Sys2Proof/Machine/Flash.lean ====
section
/-! DEFINITION. The flash rows (13): failures, garbage collection, folding, the journal, wear, reports, migration. -/

namespace Sys2Proof.Machine

/-- PROGRAM_REFUSED: a program aimed at a written page is refused, the page is not touched, the RAS log records it; the data looks for another page, and where none is
left its command or park completes with REPROGRAM (R256; log entry 39). -/
def execProgramRefused (b : Fin 16) (block page : Nat) (s : State) : Host.Outcome State Fault Refusal :=
  .next (if (lookup (getBob s b.val).pages (pageKey block page)).isSome then
    modBob (logRas s 5 2 (b.val * 16 + dieOf block) 0xFFFF (block + page * 2 ^ 17)) b.val (fun x => { x with refused := true })
  else s)

/-- A fast-mode program fails: the committed units of its block are read, or rebuilt from parity, and moved; the block is retired (R275). -/
def failFast (s : State) (b block : Nat) : State :=
  let avoid := ((parityGroup (getBob s b) block).map (fun g => g.blocks.map Prod.fst)).getD [block]
  retireBlock (moveOut s b (fun _ => false) avoid (validUnits s b block)) b block 0

/-- A bulk-mode program or close verify fails: nothing was committed to the block, which is retired, another takes its place in its group, and every unit copied to it is
copied again from its source, if the map still names that (R259, R275). -/
def failBulk (s : State) (b block cause : Nat) : State :=
  let mine : BlockMove → Bool := fun m => entryBlock m.new = block
  let again := ((getBob s b).moves.filter mine).filter (fun m => entryOf s m.owner m.unit = m.old)
  let s := modBob s b (fun x => { x with moves := x.moves.filter (fun m => !mine m) })
  let s := modBob (retireBlock s b block cause) b (fun x => refillGroup x b block)
  let s' := copyUnits s b (fun _ => true) [block] (again.map (fun m => (m.owner, m.unit)))
  postLost s' b (lostSince s s' b)

/-- NAND_PROGRAM_FAILURE: a program in an open block fails, or the close verify of a bulk-mode block to which nothing is committed yet (R258, R275). -/
def execNandProgramFailure (b : Fin 16) (block : Nat) (atClose : Bool) (s : State) : Host.Outcome State Fault Refusal :=
  let f := getBlock (getBob s b.val) block
  .next (if f.mode = 1 && f.st = .opened && !atClose then failFast s b.val block
    else if f.mode = 2 && (f.st = .opened || (f.st = .closed && atClose)) && (validUnits s b.val block).isEmpty then failBulk s b.val block (if atClose then 2 else 0)
    else s)

/-- The die of a block is erasing it. -/
def erasing_ (s : State) (b block : Nat) : Bool :=
  let x := getBob s b
  (getBlock x block).st = .free && (busyOp (getDie x (dieOf block)) s.clock).any (fun o => o.erase && o.block = block)

/-- NAND_ERASE_FAILURE: an erase fails; the block holds no data and is retired (R275). -/
def execNandEraseFailure (b : Fin 16) (block : Nat) (s : State) : Host.Outcome State Fault Refusal :=
  let x := getBob s b.val
  .next (if erasing_ s b.val block || ((getBlock x block).st = .closed && (validUnits s b.val block).isEmpty && !(x.moves.any (fun m => entryBlock m.old = block)))
    then retireBlock s b.val block 1 else s)

/-- The closed blocks of a bobbin's dies in use that pass a test, with their number of valid units. -/
def closedWith (s : State) (b : Nat) (p : Nat → FBlock → Bool) : List (Nat × Nat) :=
  let x := getBob s b
  (x.blocks.filter (fun e => e.2.st = .closed && onActive x e.1 && p e.1 e.2)).map (fun e => (e.1, (validUnits s b e.1).length))

/-- The victim: fewest valid units, lowest block id first (R271). -/
def victimOf : List (Nat × Nat) → Option Nat
  | [] => none
  | (k, n) :: rest =>
    match rest.find? (fun e => e.2 < n || (e.2 = n && e.1 < k)) with
    | some _ => victimOf rest
    | none => some k

/-- The store is in bulk mode; a park area is fast (R254). -/
def bulkOwner (s : State) (owner : Nat) : Bool := owner < 1024 && (lookup s.stores owner).any (fun st => st.bulk)

/-- A block holds landing copies: a fast-mode block with a unit of a bulk-mode store (R260). -/
def isLanding (s : State) (b block : Nat) : Bool :=
  (getBlock (getBob s b) block).mode = 1 && (validUnits s b block).any (fun u => bulkOwner s u.1)

/-- GC_MOVE: the next block garbage collection, refresh or migration moves: the victim of R271 below 4,096 free blocks, a block queued for refresh, or a
block of the die that migration empties, whose source is not erased (R273, R275, R282); or the rest of a movement whose copies wait. In PS3 and PS4 the flash is idle
(19 R381). -/
def execGcMove (b : Fin 16) (block : Nat) (s : State) : Host.Outcome State Fault Refusal :=
  let x := getBob s b.val
  let f := getBlock x block
  let mode : Nat → Bool := fun _ => f.mode = 2
  if s.pwr.state ≥ 3 then .next s
  else if x.migrating.any (fun m => m.1 = dieOf block) || x.moves.any (fun m => entryBlock m.old = block) then .next (moveBlock s b.val block mode)
  else if f.st ≠ .closed || !onActive x block then .next s
  else if x.refreshQ.contains block || (freeBlocks x < 4096 && victimOf (closedWith s b.val (fun _ _ => true)) = some block) then
    .next (moveBlock s b.val block mode)
  else .next s

/-- LANDING_FOLD: the landing block with the fewest valid units is folded: bulk-mode stores' units into bulk-mode blocks, the others into fast ones (R260, R271,
R273). -/
def execLandingFold (b : Fin 16) (block : Nat) (s : State) : Host.Outcome State Fault Refusal :=
  .next (if s.pwr.state < 3 && victimOf (closedWith s b.val (fun k _ => isLanding s b.val k)) = some block then moveBlock s b.val block (bulkOwner s) else s)

/-- THROTTLE's DETAIL (R277). -/
def throttleDetail (b : Nat) (start : Bool) : Nat := b + b2n start * 256

/-- GC_REGIME_CHANGE: foreground starts below 1,024 free blocks and ends at 1,536; THROTTLE each time, BOB_THROTTLE counts the beats (R271, R272). -/
def execGcRegimeChange (b : Fin 16) (s : State) : Host.Outcome State Fault Refusal :=
  let x := getBob s b.val
  if !x.foreground && freeBlocks x < 1024 then
    .next (postEvent (modBob s b.val (fun x => { x with foreground := true, since := s.clock })) 0x50 (throttleDetail b.val true))
  else if x.foreground && freeBlocks x ≥ 1536 then
    .next (postEvent (modBob s b.val (fun x =>
      { x with foreground := false, ctr := { x.ctr with throttle := x.ctr.throttle + (s.clock - x.since) } })) 0x50 (throttleDetail b.val false))
  else .next (liftReadOnly s b.val)

/-- READ_SUSPEND: a read suspends the erase or M/U program its die is busy with, reads, and resumes it, at most 4 times an operation; any later one waits (R270). -/
def execReadSuspend (b : Fin 16) (die : Fin 9) (s : State) : Host.Outcome State Fault Refusal :=
  let d := getDie (getBob s b.val) die.val
  .next (if (busyOp d s.clock).isSome && d.suspends < 4 then
    modBob s b.val (fun x => modDie x die.val (fun d => { d with suspends := d.suspends + 1 }))
  else s)

/-- JOURNAL_PAGE_PROGRAM: a full journal page is programmed and verified (R264, 14 R295). -/
def execJournalPageProgram (s : State) : Host.Outcome State Fault Refusal :=
  let n := pageFill s.journal.records unitBytes
  .next (if n < s.journal.records.length then programRecords s n else s)

/-- JOURNAL_TIMER: 200 beats after a page's first record the page is programmed (14 R295). -/
def execJournalTimer (s : State) : Host.Outcome State Fault Refusal :=
  .next (if s.journal.records.head?.any (fun r => r.made + 200 ≤ s.clock) then programRecords s (pageFill s.journal.records unitBytes) else s)

/-- MAP_CHECKPOINT: the map is checkpointed, at most every 10 s; replay needs only the journal pages that follow it (R264). -/
def execMapCheckpoint (s : State) : Host.Outcome State Fault Refusal :=
  let j := s.journal
  .next (if j.checkpointAt ≠ 0 && s.clock < j.checkpointAt + 10000000 then s
    else { s with journal := { j with wseq := j.wseq + 1, checkpoint := (j.pages.getLast?.map DevPage.jseq).getD j.checkpoint, pages := [], checkpointAt := s.clock } })

/-- Wear gained in the last 30 treadle days. -/
def gained30 (f : FBlock) (day : Nat) : Nat := ((f.gained.filter (fun e => day < e.1 + 30)).map Prod.snd).sum

/-- The cycling blocks: erased at least once in the last 30 treadle days (R279). -/
def cycling (x : Bobbin) (day : Nat) : List FBlock := (x.blocks.map Prod.snd).filter (fun f => gained30 f day ≠ 0)

/-- The mean wear W of the cycling blocks, rounded down (R279). -/
def meanWear (x : Bobbin) (day : Nat) : Nat := ((cycling x day).map FBlock.wear).sum / (cycling x day).length

/-- Days remaining: 30 × (120,000 − W) / ΔW, rounded down and saturated at 65,535 (R279). With n cycling blocks of total wear w and total gain g this is
30 × (120,000 n − w) / g. -/
def daysLeft (x : Bobbin) (day : Nat) : Nat :=
  let c := cycling x day
  let g := (c.map (fun f => gained30 f day)).sum
  if g = 0 then 65535 else min 65535 (30 * (120000 * c.length - (c.map FBlock.wear).sum) / g)

/-- The device projection: the minimum over bobbins (R279). -/
def deviceDays (s : State) (day : Nat) : Nat := (((List.range (nBobbins s)).map (fun b => daysLeft (getBob s b) day)).min?).getD 65535

/-- LIFE_PROJECTION: each treadle minute every bobbin's projection is refreshed; LIFE_LOW when it first falls below 180 days (R279). -/
def execLifeProjection (s : State) : Host.Outcome State Fault Refusal :=
  let day := dayOf s.trd.beat
  .next ((List.range (nBobbins s)).foldl (fun s b =>
    let d := daysLeft (getBob s b) day
    let low := d < 180
    let first := low && !(getBob s b).lifeLow
    let s := modBob s b (fun x => { x with lifeLow := low, ctr := { x.ctr with life := d } })
    if first then postEvent s 0x55 (b + d * 16) else s) s)

/-! ### FLASH_REPORT (R281) -/

/-- The block-table STATE of a block: free, open, closed, or retired or factory-bad. -/
def blockStateCode (use_ : Nat) (st : BlockState) : Nat :=
  if use_ > 2 then 3
  else
    match st with
    | .free => 0
    | .opened => 1
    | .closed => 2
    | .retired => 3

/-- The summary record of a bobbin. -/
def summaryRecord (s : State) (b : Nat) : List Byte :=
  let x := getBob s b
  let day := dayOf s.trd.beat
  let prog := ((x.progDays.filter (fun e => day < e.1 + 30)).map Prod.snd).sum
  leBytes 1 b ++ leBytes 3 0 ++ leBytes 4 (freeBlocks x) ++ leBytes 4 x.ctr.retired ++ leBytes 4 x.ctr.wearMax ++
  leBytes 4 (meanWear x day) ++ leBytes 4 (daysLeft x day) ++ leBytes 8 (prog / (30 * 86400)) ++ leBytes 8 x.ctr.move ++
  leBytes 4 x.ctr.lost ++ leBytes 20 0

/-- The block-table entry of a block. -/
def blockEntry (s : State) (b k : Nat) : List Byte :=
  let f := getBlock (getBob s b) k
  let n := pagesPerBlock (f.mode = 2)
  leBytes 4 (f.wear % 2 ^ 20 + f.mode * 2 ^ 20 + blockStateCode (Config.factoryUse b k) f.st * 2 ^ 22 + (validUnits s b k).length * 100 / n * 2 ^ 24)

/-- The report FLASH_REPORT writes. -/
def flashReport (s : State) (bobbin kind : Nat) : List Byte :=
  let bs := if bobbin = 0xFF then List.range (nBobbins s) else [bobbin]
  if kind = 0 then bs.flatMap (summaryRecord s) else bs.flatMap (fun b => (List.range 97920).flatMap (blockEntry s b))

/-- Bytes of that report. -/
def reportBytes (s : State) (bobbin kind : Nat) : Nat :=
  (if bobbin = 0xFF then nBobbins s else 1) * (if kind = 0 then 64 else 391680)

/-- FLASH_REPORT (R281). -/
def execFlashReport (op : Nat) (s : State) : Host.Outcome State Fault Refusal :=
  .next (runOp s op 0x6A 4 (fun o s =>
    let b := o.f 8 1
    let kind := o.f 9 1
    let addr := o.f 16 8
    let n := reportBytes s b kind
    checks s op
      [(b > 15 && b ≠ 0xFF, stBadDescriptor, 0), (kind > 1, stBadDescriptor, 0), (addr % 64 ≠ 0, stBadDescriptor, 0),
       (b ≠ 0xFF && b ≥ nBobbins s, stBounds, 8), (o.f 24 4 < n, stBounds, 24)]
      (withPartner s op o [(addr, n, true)] (finishOk (writePartner s o.port addr (flashReport s b kind)) op n))))

/-- Units still on a die (BOB_MIGRATE). -/
def unitsOnDie (s : State) (b d : Nat) : Nat :=
  let here : Nat → Bool := fun e => e < lostEntry && entryBob e = b && dieOf (entryBlock e) = d
  (s.stores.map (fun st => (st.2.map.filter (fun e => here e.2)).length)).sum +
  (s.slices.map (fun x => (x.2.pages.map (fun p => (p.2.parked.filter (fun e => here e.2)).length)).sum)).sum

/-- MIGRATE_DONE: no valid unit is left on the die that migration empties; it is mapped out (R282). -/
def execMigrateDone (b : Fin 16) (s : State) : Host.Outcome State Fault Refusal :=
  match (getBob s b.val).migrating with
  | some (d, lost) =>
    if unitsOnDie s b.val d = 0 then
      let s := modBob s b.val (fun x => { modDie x d (fun y => { y with st := 3, role := 0xF }) with migrating := none })
      .next (checkReadOnly (postEvent s 0x56 (b.val + d * 16 + lost % 2 ^ 24 * 256)) b.val)
    else .next s
  | none => .next s

/-- DIE_STOPS_ANSWERING: DIE_FAILING with bit 8, once; the die is failing and stays in use (R277). -/
def execDieStopsAnswering (b : Fin 16) (die : Fin 9) (s : State) : Host.Outcome State Fault Refusal :=
  if b.val < nBobbins s && (getDie (getBob s b.val) die.val).answering then
    let s := modBob s b.val (fun x => modDie x die.val (fun d => { d with answering := false, st := if d.role < 8 then 2 else d.st }))
    .next (postEvent s 0x53 (b.val + die.val * 16 + 256))
  else .next s

end Sys2Proof.Machine
end

