-- ==== Sys2Proof/Machine/Firmware.lean ====
section
/-! DEFINITION. The commit regions, firmware images and the choice of a slot (17 R357-R362); FW_STAGE and FW_COMMIT; the RAS log copies in the distaff (18 R379). -/

namespace Sys2Proof.Machine

/-! ### The array as firmware reads and writes it -/

/-- The bytes of a code word as firmware reads them: zeros after a double-bit error (R330). -/
def wordAt (s : State) (w : Nat) : List Byte := if (getWord s w).st = .double then List.replicate 32 0 else wordBytes (getWord s w).data

/-- `n` bytes of the distaff from address `a`. -/
def readDistaff (s : State) (a n : Nat) : List Byte :=
  cut ((List.range (ceilDiv (a % 32 + n) 32)).flatMap (fun i => wordAt s (a / 32 + i))) (a % 32) n

/-- A whole code word programmed from 32 bytes (R331). -/
def programBytes (s : State) (w : Nat) (b : List Byte) : State :=
  putWord s w { data := BitVec.ofNat 256 (leNat (b.take 32)), written := true, st := .good }

/-! ### Commit records (R357-R359) -/

/-- The first code word of place p in Commit A and in Commit B: a record and its seal take two. -/
def commitA (p : Nat) : Nat := 0x1900000 / 32 + 2 * p
def commitB (p : Nat) : Nat := 0x3900000 / 32 + 2 * p

/-- The SEQ of the next record: one above the highest that is valid (R357). -/
def nextCommitSeq (s : State) : Nat := (s.sec.commits.map (fun c => c.seq + 1)).foldl max 0

/-- The 32 bytes of a record (R357). -/
def commitBytes (seq kind arg svn : Nat) (data : List Byte) : List Byte :=
  let b := leBytes 4 0x4154434D ++ leBytes 4 seq ++ leBytes 1 kind ++ leBytes 1 arg ++ leBytes 1 svn ++ leBytes 1 0 ++ data.take 16 ++
    List.replicate (16 - data.length) 0
  b ++ leBytes 4 (Config.crc32c b).toNat

/-- The seal of a record: its bitwise complement. -/
def sealBytes (b : List Byte) : List Byte := b.map (fun x => ~~~x)

/-- A record and its seal written at the next place, to Commit A and then to Commit B (R358). -/
def putCommit (s : State) (kind arg svn : Nat) (data : List Byte) : State :=
  let p := s.sec.commitAt
  let seq := nextCommitSeq s
  let b := commitBytes seq kind arg svn data
  let s := programBytes (programBytes s (commitA p) b) (commitA p + 1) (sealBytes b)
  let s := programBytes (programBytes s (commitB p) b) (commitB p + 1) (sealBytes b)
  let c : CommitRec := { seq := seq, kind := kind, arg := arg, svn := svn, data := data, pos := p, inA := true, inB := true }
  { s with sec := { s.sec with commits := s.sec.commits ++ [c], commitAt := (p + 1) % 16384 } }

/-- The newest record of those that pass a test. -/
def newestCommit (l : List CommitRec) (p : CommitRec → Bool) : Option CommitRec :=
  (l.filter p).foldl (fun best c =>
    match best with
    | none => some c
    | some b => if b.seq < c.seq then some c else some b) none

/-- The newest commit record. -/
def lastCommit (s : State) : Option CommitRec := newestCommit s.sec.commits (fun c => c.kind = 1)

/-- A staging-begun record newer than the newest commit record. -/
def stagingBegun (s : State) : Option CommitRec :=
  newestCommit s.sec.commits (fun c => c.kind = 2 && ((lastCommit s).all (fun k => k.seq < c.seq)))

/-- The newest sanitise marker without a completion record after it (R347). -/
def openMarker (s : State) : Option CommitRec :=
  newestCommit s.sec.commits (fun c => c.kind = 4 && !(s.sec.commits.any (fun k => k.kind = 6 && c.seq < k.seq)))

/-- The records that compaction carries over, in SEQ order (R359). -/
def carrySet (s : State) : List CommitRec :=
  let l := s.sec.commits
  let is : Option CommitRec → CommitRec → Bool := fun o c => o = some c
  l.filter (fun c =>
    is (newestCommit l (fun k => k.kind = 1 && k.arg = 0)) c || is (newestCommit l (fun k => k.kind = 1 && k.arg = 1)) c ||
    is (newestCommit l (fun k => k.kind = 3)) c || is (stagingBegun s) c ||
    (match openMarker s with
     | some m => c = m || (c.kind = 5 && m.seq < c.seq)
     | none => false))

/-- Compaction, when the sector in use is full: the carry set goes into the erased sector, then the next one, the oldest of the ring, is erased in each
region (R359). -/
def compactCommits (s : State) : State :=
  if s.sec.commitAt % 1024 ≠ 0 then s
  else
    let sector := s.sec.commitAt / 1024
    let s := (carrySet s).foldl (fun s c => putCommit s c.kind c.arg c.svn c.data) s
    let old := (sector + 1) % 16
    eraseWords (eraseWords s (sectorOf (commitA 0) + old)) (sectorOf (commitB 0) + old)

/-- A record is written (R357-R359). -/
def addRecord (s : State) (kind arg svn : Nat) (data : List Byte) : State := putCommit (compactCommits s) kind arg svn data

/-! ### Firmware images (R357) -/

/-- The first address of a slot. -/
def slotBase (slot : Nat) : Nat := slot * 0x2000000

/-- The header of a slot's image. -/
def imageHeader (s : State) (slot : Nat) : List Byte := readDistaff s (slotBase slot) 4096

/-- Body bytes of an image. -/
def imageSize (h : List Byte) : Nat := field h 16 8

/-- Bytes of a slot: 24 MiB. -/
def slotBytes24 : Nat := 0x1800000

/-- The first header field that is wrong, by offset (R361). -/
def headerFault (h : List Byte) : Option Nat :=
  let cs : List (Bool × Nat) :=
    [(cut h 0 8 ≠ [0x41, 0x54, 0x46, 0x57, 0x49, 0x4D, 0x47, 0x31], 0), (field h 12 1 > 128, 12), (field h 13 1 > 3, 13),
     (field h 14 2 = 0 || field h 14 2 > 1536, 14), (imageSize h % 32 ≠ 0 || imageSize h > 25161728, 16), (field h 24 40 ≠ 0, 24),
     (field h 1921 127 ≠ 0, 1921), (field h 3584 512 ≠ 0, 3584)]
  (cs.find? (fun c => c.1)).map Prod.snd

/-- The first 32 bytes of the SHAKE256 output. -/
def shake32 (b : List Byte) : List Byte := (shake256 b).take 32

/-- Key, digest and signature of an image are right (R357). -/
def imageGenuine (s : State) (slot : Nat) (h : List Byte) : Bool :=
  let digest := shake256 (cut h 0 64 ++ readDistaff s (slotBase slot + 4096) (imageSize h))
  shake32 (cut h 128 1793) = Config.romDigest (field h 13 1) && digest = cut h 64 64 &&
  Config.verify (cut h 128 1793) (cut h 64 64) (cut h 2048 (field h 14 2))

/-- The slot still holds the image it shipped with, which verifies (log entry 24). -/
def shippedSlot (s : State) (slot : Nat) : Bool :=
  slot = 0 && s.dst.changed.all (fun k => k ≥ 384) && s.dst.array.all (fun e => e.1 ≥ 384 * 2048)

/-- The slot's image verifies (R357). -/
def imageVerifies (s : State) (slot : Nat) : Bool :=
  let h := imageHeader s slot
  shippedSlot s slot || ((headerFault h).isNone && imageGenuine s slot h && field h 12 1 ≥ s.sec.counter)

/-- The slot the boot ROM runs (R362): that of the newest commit record, else the other one's; none when neither verifies. -/
def chooseSlot (s : State) : Option Nat :=
  match lastCommit s with
  | none => none
  | some c =>
    if imageVerifies s c.arg then some c.arg
    else
      match newestCommit s.sec.commits (fun k => k.kind = 1 && k.arg ≠ c.arg) with
      | some k => if imageVerifies s k.arg then some k.arg else none
      | none => none

/-- Stage 2 of a boot: level, counter and slot are loaded; UPD says what became of an update (R362, SEC_FW). -/
def loadFirmware (s : State) : State :=
  match chooseSlot s with
  | none => { s with sec := { s.sec with loaded := true, upd := 3, staging := none } }
  | some slot =>
    let h := imageHeader s slot
    let digest := cut h 64 64
    let new := !s.sec.fwDigest.isEmpty && (s.sec.slot ≠ slot || s.sec.fwDigest ≠ digest)
    let upd := if (stagingBegun s).isSome then 2 else if new then 1 else 0
    { s with sec := { s.sec with loaded := true, slot := slot, svn := field h 12 1, fwDigest := digest, upd := upd, staging := none } }

/-- An image has reached ready: the counter rises to its SVN (R362). -/
def raiseCounter (s : State) : State := { s with sec := { s.sec with counter := max s.sec.counter s.sec.svn } }

/-! ### FW_STAGE and FW_COMMIT (R360, R361) -/

/-- The slot that is not running. -/
def otherSlot (s : State) : Nat := 1 - s.sec.slot

/-- Bytes of the new image written at an offset of the other slot; a sector is erased before its first word of this staging. -/
def stageBytes (s : State) (off : Nat) (b : List Byte) : State :=
  let base := slotBase (otherSlot s)
  (List.range (b.length / 32)).foldl (fun s i =>
    let a := base + off + 32 * i
    let s := if a % 65536 = 0 then eraseWords s (a / 65536) else s
    programBytes s (a / 32) (cut b (32 * i) 32)) s

/-- FW_STAGE: OFFSET 0 starts a staging; the next OFFSET is where the last one ended (R360). The array takes one operation at a time, so it waits for one in
progress (R333). A part past the end of the slot is refused as a wrong OFFSET (log entry 34). -/
def execFwStage (op : Nat) (s : State) : Host.Outcome State Fault Refusal :=
  .next (runOp s op 0x74 4 (fun o s =>
    let off := o.f 16 4
    let len := o.f 20 4
    let at_ := (s.sec.staging.map Staging.bytes).getD 0
    checks s op
      [(len % 32 ≠ 0 || len > 1048576, stBadDescriptor, 20), (off ≠ 0 && off ≠ at_, stBounds, 16), (off + len > slotBytes24, stBounds, 16)]
      (withPartner s op o [(o.f 8 8, len, false)]
        (if s.dst.current.isSome then s
         else
           let s := if off = 0 then addRecord s 2 (otherSlot s) 0 [] else s
           let s := stageBytes s off (readPartner s o.port (o.f 8 8) len)
           finishOk { s with sec := { s.sec with staging := some { bytes := off + len } } } op 0))))

/-- The commit itself: the record that names the slot and its SVN, after compaction; staging ends and RESULT is the record's sequence number (R361). -/
def commitImage (s : State) (op slot : Nat) (h : List Byte) : State :=
  let s := compactCommits s
  let seq := nextCommitSeq s
  let s := addRecord s 1 slot (field h 12 1) (cut h 64 16)
  finishOk { s with sec := { s.sec with staging := none } } op seq

/-- FW_COMMIT (R361): the commit record of the verified image; RESULT is its SEQ. -/
def execFwCommit (op : Nat) (s : State) : Host.Outcome State Fault Refusal :=
  .next (runOp s op 0x75 4 (fun _ s =>
    let slot := otherSlot s
    let h := imageHeader s slot
    let short := s.sec.staging.all (fun g => g.bytes < 4096 || g.bytes < 4096 + imageSize h)
    if short then fail s op stSlotIncomplete 0
    else
      match headerFault h with
      | some off => fail s op stBadDescriptor (0x80000 + off)
      | none =>
        if !imageGenuine s slot h then fail s op stDenied 0
        else if field h 12 1 < s.sec.counter then fail s op stBounds 12
        else if s.dst.current.isSome then s
        else
          commitImage s op slot h))

/-! ### LOG_COPY (18 R379) -/

/-- The 32 bytes of a RAS log entry. -/
def logBytes (e : LogEntry) : List Byte :=
  leBytes 8 e.seq ++ leBytes 8 e.beat ++ leBytes 1 e.source ++ leBytes 1 e.type ++ leBytes 2 e.index ++ leBytes 2 e.count ++
  leBytes 2 (if e.source = 5 then e.store else 0) ++ leBytes 8 e.addr

/-- The log region of the bank that firmware does not run from: its first word and its words (R328). -/
def logRegion (s : State) : Nat × Nat := if s.sec.slot = 0 then (0x3B00000 / 32, 0x500000 / 32) else (0x1A00000 / 32, 0x600000 / 32)

/-- Entries written to that region so far. -/
def logCount (s : State) : Nat := if s.sec.slot = 0 then s.dst.logB else s.dst.logA

/-- A log entry at the next word of the region, its sector erased first when the region comes round to it (log entry 33). -/
def copyEntry (s : State) (e : LogEntry) : State :=
  let (base, n) := logRegion s
  let w := base + logCount s % n
  let s := if w % 2048 = 0 then eraseWords s (sectorOf w) else s
  modDst (programBytes s w (logBytes e)) (fun d => if s.sec.slot = 0 then { d with logB := d.logB + 1 } else { d with logA := d.logA + 1 })

/-- LOG_COPY: firmware copies the oldest entry not yet copied; while an operation runs in the distaff it waits (R333). -/
def execLogCopy (s : State) : Host.Outcome State Fault Refusal :=
  match (s.ras.log.filter (fun e => !e.copied)).getLast? with
  | none => .next s
  | some e =>
    if s.dst.current.isSome || coresRun s = 0 then .next s
    else
      let s := copyEntry s e
      .next { s with ras := { s.ras with log := s.ras.log.map (fun k => if k.seq = e.seq then { k with copied := true } else k) } }

end Sys2Proof.Machine
end

