-- ==== Sys2Proof/Machine/Security.lean ====
section
/-! DEFINITION. Protection levels, the full erase, keys and attestation (17 R342-R356, R363-R365). -/

namespace Sys2Proof.Machine

/-! ### Device levels (R342-R344) -/

/-- The device level is raised: the record (and for 2 the fuse) is written, and a JTAG debug session is cut off (R344). -/
def raiseLevel (s : State) (lv : Nat) : State :=
  let s := { s with sec := { s.sec with levelRec := lv, fused2 := s.sec.fused2 || decide (lv = 2), jtagSession := false } }
  addRecord s 3 lv 0 []

/-- A full erase is prepared: only the command's ring is fetched from, and every job ends as by JOB_ABORT (R345). -/
def prepareErase (s : State) (id : Nat) (lowering : Bool) : State :=
  let s := { s with sec := { s.sec with erase := some { op := some id, lowering := lowering, step := 0, dies := 0, resumed := false } } }
  abortJobs s (keys s.jobs)

/-- The operand checks of LEVEL_SET: the store number first (14 R285), then R343 check 1. -/
def levelFields (o : Op) : List (Bool × Nat × Nat) :=
  let target := o.f 8 1
  [(target = 1 && o.f 10 2 > 1023, stBadDescriptor, 10), (target > 1, stBadDescriptor, 8), (o.f 9 1 > 2, stBadDescriptor, 9),
   (target = 0 && o.f 12 4 ≠ 0x4C564C00 + o.f 9 1, stBadDescriptor, 12)]

/-- LEVEL_SET with TARGET 0: a raise takes effect with its record, which waits for an operation in progress in the distaff (R333, R344); a lowering from 1 to 0
prepares the full erase (R343, R345). -/
def execLevelSetDevice (op : Nat) (s : State) : Host.Outcome State Fault Refusal :=
  .next (runRow s op 0x76 4 (fun o => o.f 8 1 ≠ 1) (fun o s =>
    let lv := o.f 9 1
    if s.sec.erase.any (fun e => e.op = some op) then s
    else
      checks s op (levelFields o ++ [(level s = 2 && lv < 2, stLocked, 0)])
        (if lv = level s then finishOk s op 0
         else if lv > level s then (if s.dst.current.isSome then s else finishOk (raiseLevel s lv) op 0)
         else if s.sec.erase.isSome then fail s op stLocked 0
         else prepareErase s op true)))

/-- A store lowered by crypto-erase: its key revoked and made anew, its units unmapped, its grants dropped (R350). -/
def lowerStore (s : State) (n : Nat) : State :=
  match lookup s.stores n with
  | none => s
  | some st =>
    let s := { s with sec := { s.sec with keys := s.sec.keys.filter (fun k => !(k.kind = 1 && k.store = n)) } }
    let (h, s) := bindKey s n st.slice 0
    modStore s n (fun st => { st with key := h, level := 0, grants := [], map := [] })

/-- LEVEL_SET with TARGET 1 (R343, R349, R350): a lowering waits for the commands in flight on the store. -/
def execLevelSetStore (op : Nat) (s : State) : Host.Outcome State Fault Refusal :=
  .next (runRow s op 0x76 2 (fun o => o.f 8 1 = 1) (fun o s =>
    let n := o.f 10 2
    let lv := o.f 9 1
    let st := lookup s.stores n
    let now := (st.map Store.level).getD 0
    checks s op (levelFields o ++
        [(now = 2 && lv < 2, stLocked, 0), (deletedAhead s n op, stDenied, 0), (st.isNone, stBounds, 10),
         (lv < now && (st.any (fun x => x.index.isSome) || storeLocked s n), stBounds, 10)])
      (if lv ≥ now then finishOk (modStore s n (fun x => { x with level := lv })) op 0
       else if busyAhead s n op then s
       else finishOk (lowerStore s n) op 0)))

/-! ### SANITISE and the full erase (R345-R347) -/

/-- SANITISE (R345). -/
def execSanitise (op : Nat) (s : State) : Host.Outcome State Fault Refusal :=
  .next (runOp s op 0x78 4 (fun o s =>
    if o.f 8 4 ≠ 0x53414E00 then fail s op stBadDescriptor 8
    else if s.sec.erase.any (fun e => e.op = some op) then s
    else if s.sec.erase.isSome then fail s op stLocked 0
    else prepareErase s op false))

/-- Nothing but the command is in flight (R345). -/
def quietFor (s : State) (e : Erase) : Bool :=
  s.ops.all (fun o => some o.1 = e.op || !isOpen o.2) && s.jobs.isEmpty && s.card.queries.isEmpty && s.dst.current.isNone

/-- The erase in progress changed. -/
def modErase (s : State) (f : Erase → Erase) : State := { s with sec := { s.sec with erase := s.sec.erase.map f } }

/-- Step 1 begins: the marker is programmed, and every store key, park key and ML-KEM seed is destroyed (R346). -/
def eraseMarker (s : State) (e : Erase) : State :=
  let s := addRecord s 4 (b2n (!e.lowering)) 0 (leBytes 4 s.sec.srkGen)
  modErase { s with sec := { s.sec with keys := s.sec.keys.filter (fun k => k.kind = 2), sanKind := !e.lowering } } (fun e => { e with step := 1 })

/-- Step 1: the store-root sector of the key store is erased; no key record is live without its SRK (R346, R352). -/
def eraseRoot (s : State) : State :=
  let s := eraseWords s (0x3810000 / 65536)
  modErase { s with sec := { s.sec with keys := [] } } (fun e => { e with step := 2 })

/-- Step 2: the user area and the key-record sectors 2 to 10 of the key store are erased (R346). -/
def eraseDistaff (s : State) : State :=
  let user := (List.range 16).map (fun i => 0x3A00000 / 65536 + i)
  let recs := (List.range 9).map (fun i => 0x3820000 / 65536 + i)
  modErase ((user ++ recs).foldl eraseWords s) (fun e => { e with step := 3 })

/-- Dies fitted, spare dies included. -/
def nDies (s : State) : Nat := 9 * nBobbins s

/-- Every block of a die that is not retired is erased (R346 step 3). -/
def eraseDie (s : State) (i : Nat) : State :=
  let day := dayOf s.trd.beat
  modBob s (i / 9) (fun x =>
    ((List.range 10880).map (fun k => i % 9 * 10880 + k)).foldl (fun x k =>
      if (getBlock x k).st = .retired then x else eraseBlock x k day s.clock) { x with groups := [], moves := [], migrating := none })

/-- Step 3: the next dies, 8 at a time, each with its progress record (R346). -/
def eraseDies (s : State) (e : Erase) : State :=
  let dies := (List.range 8).filterMap (fun k => if e.dies + k < nDies s then some (e.dies + k) else none)
  let s := dies.foldl (fun s i => addRecord (eraseDie s i) 5 3 0 (leBytes 2 i)) s
  modErase s (fun e => { e with dies := e.dies + dies.length, step := if e.dies + dies.length ≥ nDies s then 4 else 3 })

/-- A port without slices' rings: only the admin rings are left, and no window (R346). -/
def bareMost (x : Port) : Port :=
  { x with sqs := x.sqs.filter (fun e => e.1 = 0), cqs := x.cqs.filter (fun e => e.1 = 0), window := none, lines := [], recalls := [] }

/-- What no slice is left to own (R346): slices, stores, indexes, handles, endpoints, windows, meter records, rings, the translation map, and the contents of
pool, commons and spindles. -/
def emptyDevice (s : State) : State :=
  let s := [0, 1, 2, 3].foldl (fun s p => modPort s p bareMost) s
  let s := scrubAll s
  { s with slices := [], sched := [], rotation := none, nextRotation := none, meterRing := none, meterQueue := [], meterGaps := [],
           skeins := [], drafts := [], plies := [], stores := [], fences := [],
           journal := { s.journal with records := [], pages := [] },
           strand := { s.strand with eps := [] }, card := { s.card with indexes := [], arriving := [], snaps := [] },
           trd := if s.plies.isEmpty then s.trd else { s.trd with plied := false, skewOk := false, skew := 0, hops := 0, skewBeats := 0 } }

/-- A new storage root: the keys under the old one are gone, and a lowering ends at level 0 (17 R347). -/
def renewRoot (s : State) (lowering : Bool) : State :=
  { s with sec := { s.sec with srkGen := (s.sec.srkGen + 1) % 2 ^ 32, poolKeys := [], levelRec := if lowering then 0 else s.sec.levelRec } }

/-- The erase is over, with what SEC_SAN then reads. -/
def closeErase (s : State) (e : Erase) : State :=
  { s with sec := { s.sec with erase := none, sanStep := 7, sanKind := !e.lowering, sanResumed := e.resumed, sanDies := e.dies } }

/-- A boot that an erase held goes on to stage 9. -/
def endHold (s : State) : State :=
  if s.glb.held && s.sec.upd ≠ 3 then raiseCounter { s with glb := { s.glb with held := false, stage := 9 } } else s

/-- Step 4 ends the erase: volatile state zeroed, a new store root key, for a lowering the level-0 record, the completion record, and the command completes;
ready is no longer withheld (R346, R347). -/
def eraseFinish (s : State) (e : Erase) : State :=
  let s := renewRoot (emptyDevice s) e.lowering
  let s := addRecord (if e.lowering then addRecord s 3 0 0 [] else s) 6 0 0 []
  let s := endHold (closeErase s e)
  match e.op with
  | some id => finishOk s id 0
  | none => s

/-- SANITISE_ERASE: the erase goes on by one part: the marker, the store root, the distaff, eight dies, or the end (R346, log entry 34). -/
def execSanitiseErase (s : State) : Host.Outcome State Fault Refusal :=
  match s.sec.erase with
  | none => .next s
  | some e =>
    if s.dst.current.isSome then .next s
    else if e.step = 0 then .next (if quietFor s e then eraseMarker s e else s)
    else if e.step = 1 then .next (eraseRoot s)
    else if e.step = 2 then .next (eraseDistaff s)
    else if e.step = 3 then .next (eraseDies s e)
    else .next (eraseFinish s e)

/-! ### KEY_IMPORT (R353) -/

/-- The CONFIG digest of a slice (15 R326). -/
def configDigest (x : Slice) : List Byte := shake32 x.conf.operands

/-- The ML-KEM seed of a slice. -/
def kemSeed (s : State) (q : Nat) : List Byte := ((s.sec.keys.find? (fun k => k.kind = 4 && k.slice = q)).map KeyRec.secret).getD []

/-- The 16 ASCII bytes "ATLOR KEY IMPORT". -/
def importLabel : List Byte := [0x41, 0x54, 0x4C, 0x4F, 0x52, 0x20, 0x4B, 0x45, 0x59, 0x20, 0x49, 0x4D, 0x50, 0x4F, 0x52, 0x54]

/-- The key a blob wraps: decapsulated, KEK derived, unwrapped (R353). -/
def importedKey (s : State) (q : Nat) (x : Slice) (blob : List Byte) : Option (List Byte) :=
  let ss := Config.kemDecap (kemSeed s q) (cut blob 0 1568)
  Config.kwUnwrap (shake32 (ss ++ configDigest x ++ importLabel)) (cut blob 1568 72)

/-- A KIND 2 record of an imported key. -/
def addImported (s : State) (q : Nat) (key : List Byte) : State :=
  let h := s.sec.nextHandle
  { s with sec := { s.sec with nextHandle := h + 1, keys := s.sec.keys ++ [{ kind := 2, slice := q, store := 0xFFFF, handle := h, gen := s.sec.srkGen, secret := key }] } }

/-- KEY_IMPORT (R353). -/
def execKeyImport (op : Nat) (s : State) : Host.Outcome State Fault Refusal :=
  .next (runOp s op 0x79 4 (fun o s =>
    let q := o.f 8 1
    checks s op [(o.f 9 1 ≠ 0, stBadDescriptor, 9), (o.f 16 8 % 64 ≠ 0, stBadDescriptor, 16), ((lookup s.slices q).isNone, stBounds, 8)]
      (withPartner s op o [(o.f 16 8, 1664, false)]
        (match lookup s.slices q with
         | none => fail s op stBounds 8
         | some x =>
           match importedKey s q x (readPartner s o.port (o.f 16 8) 1664) with
           | none => fail s op stDenied 1568
           | some key =>
             if key.take 32 = key.drop 32 then fail s op stBounds 1568
             else if (s.sec.keys.filter (fun k => k.kind = 2)).length ≥ 1024 then fail s op stBounds 0
             else finishOk (addImported s q key) op (s.sec.nextHandle % 2 ^ 32)))))

/-! ### ATTEST (R363) -/

/-- The DIGESTs of the loaded skeins of a slice, in handle order. -/
def skeinDigestsOf (s : State) (q : Nat) : List (List Byte) := (s.skeins.filter (fun k => k.2.slice = q)).map (fun k => k.2.digest)

/-- The DIGESTs of the loaded drafts of a slice, in handle order. -/
def draftDigestsOf (s : State) (q : Nat) : List (List Byte) := (s.drafts.filter (fun d => d.2.slice = q)).map (fun d => d.2.digest)

/-- A field of `n` bytes: cut or zero-filled. -/
def fill (n : Nat) (b : List Byte) : List Byte := b.take n ++ List.replicate (n - b.length) 0

/-- Bytes 0 to E − 1 of the report (17 "Attestation"). -/
def reportBody (s : State) (q : Nat) (x : Slice) (nonce : List Byte) : List Byte :=
  let sk := skeinDigestsOf s q
  let dr := draftDigestsOf s q
  [0x41, 0x54, 0x41, 0x54, 0x54, 0x45, 0x53, 0x54] ++ leBytes 1 1 ++ leBytes 1 q ++ leBytes 1 (level s) ++ leBytes 1 0 ++
  leBytes 2 sk.length ++ leBytes 2 dr.length ++ leBytes 8 s.trd.beat ++ leBytes 4 s.boot ++ leBytes 4 0 ++ fill 32 nonce ++
  fill 32 (shake32 Config.identityKey) ++ fill 32 (configDigest x) ++ fill 64 s.sec.fwDigest ++ leBytes 1 s.sec.svn ++ leBytes 1 s.sec.counter ++
  leBytes 6 0 ++ fill 1568 (Config.kemKey (kemSeed s q)) ++ leBytes 24 0 ++ sk.flatMap (fill 64) ++ dr.flatMap (fill 64)

/-- The whole report: body, SIG_LEN, signature (R356, R363). -/
def attestReport (s : State) (q : Nat) (x : Slice) (nonce : List Byte) : List Byte :=
  let b := reportBody s q x nonce
  let sig := (Config.sign b).take 1536
  b ++ leBytes 2 sig.length ++ leBytes 2 0 ++ fill 1536 sig

/-- E + 1,540. -/
def reportSize (s : State) (q : Nat) : Nat := 1792 + 64 * (skeinDigestsOf s q).length + 64 * (draftDigestsOf s q).length + 1540

/-- ATTEST (R363). -/
def execAttest (op : Nat) (s : State) : Host.Outcome State Fault Refusal :=
  .next (runOp s op 0x7A 4 (fun o s =>
    let q := o.f 8 1
    let oaddr := o.f 48 8
    let n := reportSize s q
    if oaddr % 64 ≠ 0 then fail s op stBadDescriptor 48
    else
      match lookup s.slices q with
      | none => fail s op stBounds 8
      | some x =>
        if o.f 56 4 < n then finish s op stBounds 56 n
        else withPartner s op o [(oaddr, n, true)] (finishOk (writePartner s o.port oaddr (attestReport s q x (cut o.bytes 16 32))) op n)))

end Sys2Proof.Machine
end

