-- ==== Sys2Proof/Machine/Flags.lean ====
section
/-! DEFINITION. The status and flag words of the control space, each computed from the state as its field table gives it (02, 03, 04, 08, 09, 11-13, 16-20). -/

namespace Sys2Proof.Machine

/-- A field of a register word: its value placed at bit `lo`, kept to `n` bits. -/
def fld (lo n v : Nat) : Nat := v % 2 ^ n * 2 ^ lo

/-- A one-bit field. -/
def flag (lo : Nat) (b : Bool) : Nat := b2n b * 2 ^ lo

/-! ### GLB and AHL (02, 20) -/

/-- GLB_CAP: BOBBINS and MAX_INFLIGHT. -/
def glbCap (s : State) : Nat := fld 0 5 (nBobbins s) + fld 8 13 0x1000

/-- GLB_CAP2 (20 R400). -/
def glbCap2 : Nat := fld 0 6 0x30 + fld 6 7 0x40 + fld 13 11 0x400 + fld 24 4 9

/-- GLB_CAP3 (20 R400). -/
def glbCap3 : Nat := fld 0 11 0x400 + fld 11 13 0x1000

/-- GLB_REV: the first stepping (log entry 4). -/
def glbRev : Nat := 0x010101

/-- GLB_BOOT. -/
def glbBoot (s : State) : Nat := fld 0 4 s.glb.stage + flag 4 s.glb.held

/-- GLB_SIDEBAND. -/
def glbSideband (s : State) : Nat := fld 0 7 s.glb.i3cSa.toNat + flag 7 s.glb.i2cEn + flag 8 s.glb.sbWrite

/-- GLB_ASIZE of a port. -/
def glbAsize (x : Port) : Nat := x.regs.asize.toNat

/-- GLB_ACTRL of a port. -/
def glbActrl (x : Port) : Nat := flag 0 x.regs.en + flag 1 x.regs.poll + fld 8 8 x.regs.admIvec.toNat + fld 16 8 x.regs.evtIvec.toNat

/-- GLB_ASTAT of a port. -/
def glbAstat (x : Port) : Nat := flag 0 x.regs.rdy + flag 1 x.regs.run + flag 2 x.regs.cfgErr + flag 3 x.regs.teardown

/-- AHL_LINK of a port. -/
def ahlLink (x : Port) : Nat := flag 0 x.link.up + flag 1 x.link.lowRate + fld 2 9 x.link.lanesOk.toNat + fld 11 4 x.link.spareFor.toNat

/-! ### PWR, TRD (19, 09) -/

/-- PWR_STAT. -/
def pwrStat (s : State) : Nat :=
  fld 0 3 s.pwr.state + fld 3 3 s.pwr.target + flag 6 s.pins.holdupOk + flag 7 s.pwr.flushOk + fld 8 3 s.pwr.lastReset

/-- TRD_STAT. -/
def trdStat (t : Trd) : Nat :=
  flag 0 t.locked + flag 1 t.holdover + flag 2 t.refA + flag 3 t.refB + flag 4 t.epochA + flag 5 t.epochB + flag 6 t.numbered + flag 7 t.plied +
  flag 8 (t.plied && t.skewOk)

/-- TRD_SKEW: OFFSET, 0 when not plied, and HOPS. -/
def trdSkew (t : Trd) : Nat := if t.plied then fld 0 16 t.skew.toNat + fld 16 8 t.hops else 0

/-! ### SEC (17): fields read 0 before boot loads them -/

/-- SEC_LEVEL. -/
def secLevel (s : State) : Nat := if s.sec.loaded then fld 0 2 (level s) + flag 2 s.sec.fused2 + flag 3 (erasing s) else 0

/-- SEC_SAN: of the erase in progress, or of the last one. -/
def secSan (s : State) : Nat :=
  if !s.sec.loaded then 0
  else
    match s.sec.erase with
    | some e => if e.step = 0 then fld 0 3 s.sec.sanStep + flag 3 s.sec.sanKind + flag 4 s.sec.sanResumed + fld 5 8 s.sec.sanDies
        else fld 0 3 e.step + flag 3 (!e.lowering) + flag 4 e.resumed + fld 5 8 e.dies
    | none => fld 0 3 s.sec.sanStep + flag 3 s.sec.sanKind + flag 4 s.sec.sanResumed + fld 5 8 s.sec.sanDies

/-- SEC_FW. -/
def secFw (s : State) : Nat :=
  if s.sec.loaded then fld 0 1 s.sec.slot + fld 1 8 s.sec.svn + fld 9 8 s.sec.counter + fld 17 2 s.sec.upd else 0

/-! ### DST (16) -/

/-- UNLOCKED: after a correct unlock, until the command starts or is abandoned (R336). -/
def dstUnlocked (d : Distaff) : Bool :=
  match d.seq with
  | .idle => false
  | .halfKey => false
  | _ => true

/-- BUSY and SUSPENDED of a path. -/
def pathBusy (d : Distaff) (byDst : Bool) : Bool := d.current.any (fun o => o.byDst = byDst && !o.suspended)
def pathSuspended (d : Distaff) (byDst : Bool) : Bool := d.current.any (fun o => o.byDst = byDst && o.suspended)

/-- The fields DST_STAT and DST_FSTAT share. -/
def pathWord (d : Distaff) (byDst : Bool) (p : PathStat) : Nat :=
  flag 0 (pathBusy d byDst) + flag 1 (pathSuspended d byDst) + flag 3 p.done + fld 4 2 p.op + fld 8 8 p.err

/-- DST_STAT. -/
def dstStat (d : Distaff) : Nat := pathWord d true d.stat + flag 2 (dstUnlocked d) + fld 16 4 d.keyFails + flag 20 d.keyLocked

/-- DST_FSTAT. -/
def dstFstat (d : Distaff) : Nat := pathWord d false d.fstat

/-- DST_EPROG. -/
def dstEprog (d : Distaff) : Nat := fld 0 16 d.pulses + fld 16 16 d.suspends

/-- DST_WDOG. -/
def dstWdog (d : Distaff) : Nat := fld 0 2 d.wdogKind + fld 2 20 d.wdogDefer + fld 22 10 d.wdogSector

/-! ### STR (11) -/

/-- STR_CTRL. -/
def strCtrlWord (x : Lane) : Nat := flag 0 x.en + flag 1 x.ctrlFec + fld 2 2 x.ctrlBond + flag 4 x.ctrlLoop

/-- STR_STAT of lane n: LOW_RATE in PS4, BONDED an up member of a plied link; the spare map is in force from the boot's fourth stage on. -/
def strStat (s : State) (n : Nat) : Nat :=
  let x := getLane s n
  let l := if s.glb.stage < 4 then 0x7F else linkOf s n
  flag 0 x.up + flag 1 (x.up && s.pwr.state = 4) + flag 2 x.fecLL + flag 3 x.cfgErr + flag 4 x.long + flag 5 (l = 0x7F && 4 ≤ s.glb.stage) + flag 6 (x.up && x.bond ≠ 0) +
  fld 7 7 l + fld 14 2 x.trainFails

/-- STR_PEER. -/
def strPeer (x : Lane) : Nat := fld 0 18 x.peer + fld 18 7 x.farLogical + flag 25 x.valid

/-! ### SPN (03, 04) -/

/-- SPN_STAT.STATE: FAILED, HALTED while the compute plane is halted, RUN while a rank's step is on it, else IDLE. -/
def spnState (s : State) (p : Nat) : Nat :=
  let x := getSpn s p
  if x.failed then 3
  else if s.ras.halted then 2
  else
    match x.rank with
    | some (j, r) => if (lookup s.jobs j).any (fun k => (match k.phase with | .running _ => true | _ => false) && k.rankStates[r]? = some .running) then 1 else 0
    | none => 0

/-- The mode of the matrix instruction in the array. -/
def spnMode (x : Spindle) : Nat :=
  match x.ctx.issued.find? (fun i => opcodeOf i.w = 1 || opcodeOf i.w = 2) with
  | some i => modeOf (mWfmt i.w)
  | none => 0

/-- SPN_STAT of physical spindle p. MAPPED and LOGICAL are set by boot stage 4 (19 R390). FROZEN and BAND_RX are of the cycle of the read: a block is received in one
step (log entry 6). -/
def spnStat (s : State) (p : Nat) : Nat :=
  let x := getSpn s p
  let l := if s.glb.stage < 4 then none else logicalOf s p
  flag 0 true + flag 1 l.isSome + fld 2 6 (l.getD 0x3F) + fld 8 2 (spnState s p) + flag 11 (shadowFull x.ctx) + fld 12 2 x.band +
  fld 15 2 (spnMode x)

/-- SPN_ACC_FLT. -/
def spnAccFlt (x : Spindle) : Nat :=
  match x.accFlt with
  | some f => 1 + fld 1 2 f.kind + fld 3 13 f.row + fld 16 7 f.column
  | none => 0

/-! ### BOB (12, 13) -/

/-- Open groups of a mode. -/
def openGroups (x : Bobbin) (bulk : Bool) : Nat := (x.groups.filter (fun g => g.bulk = bulk)).length

/-- BOB_STAT. -/
def bobStat (x : Bobbin) : Nat :=
  1 + flag 1 x.foreground + flag 2 x.readOnly + flag 3 x.migrating.isSome + fld 4 4 (openGroups x false) + fld 8 4 (openGroups x true)

/-- BOB_DIE_STAT. -/
def dieStat (d : Die) : Nat := fld 0 2 d.st + fld 2 4 d.role + fld 6 10 d.bad

/-- BOB_CARD_STAT: QUEUED; a pass runs within its command, so BUSY and BULK read 0 (log entry 31). -/
def cardStat (x : Bobbin) : Nat := fld 1 12 (min x.passes.length 4095)

/-- Units still to move in a migration. -/
def bobMigrate (s : State) (b : Nat) : Nat :=
  match (getBob s b).migrating with
  | some (d, _) => unitsOnDie s b d
  | none => 0

/-! ### MEM (08, 20) -/

/-- MEM_STK_STAT. -/
def stkStat (k : Stack) : Nat := flag 0 k.trained + flag 1 k.sref + fld 2 8 k.temp + flag 10 k.hot

/-- MEM_SL_RES of a slice. -/
def slRes (s : State) (q : Nat) : Nat :=
  match lookup s.slices q with
  | some x => fld 0 17 (residentPages s q) + flag 17 (isSealed x.conf) + flag 18 (residentPages s q = x.conf.ceiling)
  | none => 0

/-- MEM_SL_HELD of a slice. -/
def slHeld (s : State) (q : Nat) : Nat := if (lookup s.slices q).isSome then fld 0 17 (heldPages s q) else 0

/-! ### RAS (18) -/

/-- RAS_STAT. -/
def rasStat (s : State) : Nat :=
  flag 0 s.ras.halted + flag 1 s.ras.resuming + fld 2 6 s.ras.faultSpn + fld 8 3 s.ras.faultKind + fld 11 3 (coresRun s)

/-- Unmapped working spindles. -/
def spareSpindles (s : State) : Nat := ((List.range 52).filter (fun p => (logicalOf s p).isNone && !(getSpn s p).failed)).length

/-- Unmapped working cores. -/
def spareCores (s : State) : Nat :=
  ((List.range 6).filter (fun c => !(s.ras.mapCore.any (fun e => e.phys = c)) && !(s.ras.faultyCores.contains c))).length

/-- Unmapped lanes of a strand die: lanes 0 to 51 and 52 to 103. A lane that a REPAIR displaced counts with the spares, so the number is always 4; the spec does not say
whether it counts (DESIGN CHOICE, log entry 36). -/
def spareLanes (s : State) (die : Nat) : Nat := ((List.range 52).filter (fun i => linkOf s (52 * die + i) = 0x7F)).length

/-- RAS_SPARES. -/
def rasSpares (s : State) : Nat :=
  fld 0 3 (spareSpindles s) + fld 3 2 (spareCores s) + fld 5 3 (spareLanes s 0) + fld 8 3 (spareLanes s 1) +
  ([0, 1, 2, 3].map (fun p => flag (11 + p) ((getPort s p).link.spareFor = 0xF))).sum

/-- The spare die of a bobbin: present and unmapped. -/
def spareDie (x : Bobbin) : Option Nat := (List.range 9).find? (fun d => (getDie x d).st = 1)

/-- RAS_SPARES2. -/
def rasSpares2 (s : State) : Nat :=
  ((List.range 16).map (fun b => flag b (b < nBobbins s && (spareDie (getBob s b)).isSome))).sum +
  ((s.memStacks.zipIdx).map (fun e => fld (16 + 2 * e.2) 2 (b2n e.1.spare32.isNone + b2n e.1.spare33.isNone))).sum

/-- RAS_MAP_CORE of a logical core: withdrawn once its physical core has faulted (R373). -/
def coreWord (s : State) (c : Nat) : Nat :=
  let e := mapEntryAt s.ras.mapCore c
  mapWord (if s.ras.faultyCores.contains e.phys then { e with st := 2 } else e)

/-- RAS_MAP_MEM of a stack. -/
def memWord (k : Stack) : Nat :=
  fld 0 5 (k.spare32.getD 0) + flag 5 k.spare32.isSome + fld 6 5 (k.spare33.getD 0) + flag 11 k.spare33.isSome + fld 12 8 (min k.rowsLeft 255) +
  fld 20 11 k.uncorr.length

/-- RAS_MAP_REG of a rail. -/
def regWord (s : State) (r : Nat) : Nat :=
  match s.ras.rails[r]? with
  | some x => fld 0 16 x.out.toNat + fld 16 4 x.failed.length + fld 20 4 (railN r)
  | none => 0

/-- RAS log entry i of the ring (R379): entry numbers take the places in turn. -/
def logSlot (s : State) (i : Nat) : List Byte :=
  match s.ras.log.find? (fun e => e.seq % 1024 = i) with
  | some e => logBytes e
  | none => List.replicate 32 0

end Sys2Proof.Machine
end

