-- ==== Sys2Proof/Machine/Resets.lean ====
section
/-! DEFINITION. The warm reset and what causes it: WARM_RESET, the watchdog, a control-core fault (16 R339, R340; 18 R373; 19 R389, R390). -/

namespace Sys2Proof.Machine

/-- Cores on which firmware can run: mapped, in use and not faulted. -/
def coresLeft (s : State) : Nat :=
  (s.ras.mapCore.filter (fun e => e.phys < 6 && e.st ≠ 2 && !(s.ras.faultyCores.contains e.phys))).length

/-- Every job ends without a completion (R389). -/
def dropJobs (s : State) : State := (keys s.jobs).foldl dropJob s

/-- A self-test in progress ends without a record (14 R305). -/
def dropTest (s : State) : State :=
  match s.selfTest with
  | some t => { s with selfTest := none, ops := removeKey s.ops t.op }
  | none => s

/-- The DST path at a reset: a command unlocked and not started is abandoned with ERR SEQUENCE (16 R340). -/
def dropDst (s : State) : State := if dstUnlocked s.dst then refuseDst s errSequence else endSeq s

/-- A full erase at a reset: one in preparation is dropped, one past its marker goes on after it without its command (17 R347). -/
def resetErase (s : State) : State :=
  match s.sec.erase with
  | none => s
  | some e =>
    let s := match e.op with
      | some id => { s with ops := removeKey s.ops id }
      | none => s
    if e.step = 0 then { s with sec := { s.sec with erase := none } } else modErase s (fun e => { e with op := none, resumed := true })

/-- How far a boot comes once firmware is chosen: to stage 3 without a core, held at 8 by an erase, held at 1 without an image, else to 9, where the counter
rises to the image's SVN (R390, R391; 17 R347, R362; 18 R373). -/
def reachReady (s : State) : State :=
  let at_ : Nat → Bool → State := fun n h => { s with glb := { s.glb with stage := n, held := h } }
  let run : Nat → Bool → State := fun n h => { s with glb := { s.glb with stage := n, held := h, fwver := BitVec.ofNat 32 (field (imageHeader s s.sec.slot) 8 4) } }
  if (chooseSlot s).isNone then at_ 1 true
  else if coresLeft s = 0 then at_ 3 false
  else if erasing s then run 8 true
  else raiseCounter (run 9 false)

/-- The scope of a warm reset (R389), with what LAST_RESET then reads: jobs, port rings, spindle state, a running distaff operation, staging, firmware; everything
else is kept. -/
def warmReset (s : State) (why : Nat) : State :=
  let s := dropDst (abandonOp (resetErase (dropTest (dropJobs s))))
  let s := [0, 1, 2, 3].foldl portReset s
  let s := loadFirmware (scrubAll s)
  let s := { s with pwr := { s.pwr with lastReset := why }, dst := { s.dst with wdogPending := none } }
  noteAlert (reachReady s)

/-- WARM_RESET: no completion, because the rings end (R389). -/
def execWarmReset (op : Nat) (s : State) : Host.Outcome State Fault Refusal :=
  .next (runOp s op 0x71 4 (fun o s => if o.f 8 4 ≠ 0x57525354 then fail s op stBadDescriptor 8 else warmReset { s with ops := removeKey s.ops op } 3))

/-- LAST_RESET of the reset a watchdog expiry or a core fault brings. -/
def faultReset (s : State) : Nat := if s.ras.coreFault.any (fun f => f.2 ≠ 3) then 5 else 4

/-- Note how the watchdog met the distaff (DST_WDOG). -/
def noteWdog (s : State) (kind : Nat) (o : DistaffOp) (since : Option Nat) : State :=
  modDst s (fun d => { d with wdogKind := kind, wdogDefer := 0, wdogSector := sectorOf o.target, wdogPending := since })

/-- The watchdog reset: deferred by a program or erase that runs, at once otherwise; a suspended erase is abandoned (16 R340). -/
def watchdogReset (s : State) : State :=
  match s.dst.current with
  | none => warmReset s (faultReset s)
  | some o =>
    if !o.erase then noteWdog s 1 o (some s.clock)
    else if o.suspended then (let s := noteWdog s 3 o none; warmReset s (faultReset s))
    else noteWdog s 2 o (some s.clock)

/-- WATCHDOG_EXPIRY: while a reset is deferred already, nothing more happens. Without a detected core fault CORE_FAULT will say kind 3 (R373). -/
def execWatchdogExpiry (s : State) : Host.Outcome State Fault Refusal :=
  if s.dst.wdogPending.isSome || coresRun s = 0 then .next s
  else
    let s := logRas s 1 5 0 0 0
    .next (watchdogReset { s with ras := { s.ras with coreFault := some (7, 3) } })

/-- CONTROL_CORE_FAULT of a mapped core that runs: its logical core is withdrawn and the watchdog reset starts (R373). -/
def execControlCoreFault (core : Fin 6) (kind : Fin 3) (s : State) : Host.Outcome State Fault Refusal :=
  if s.dst.wdogPending.isSome || s.glb.stage < 4 || s.ras.faultyCores.contains core.val || !(s.ras.mapCore.any (fun e => e.phys = core.val)) then .next s
  else
    let s := logRas s 1 1 core.val 0 0
    let s := { s with ras := { s.ras with faultyCores := s.ras.faultyCores ++ [core.val], coreFault := some (core.val, kind.val),
                                          mapCore := s.ras.mapCore.map (fun e => if e.phys = core.val then { e with st := 2 } else e) } }
    .next (watchdogReset s)

/-- DISTAFF_OP_END: the program or erase ends; a watchdog reset that waited for it takes place (R332, R340). -/
def execDistaffOpEnd (s : State) : Host.Outcome State Fault Refusal :=
  let s := endDistaff s
  match s.dst.wdogPending, s.dst.current with
  | some t, none =>
    let s := modDst s (fun d => { d with wdogDefer := min (s.clock - t) 0xFFFFF })
    .next (warmReset s (faultReset s))
  | _, _ => .next s

end Sys2Proof.Machine
end

