-- ==== Sys2Proof/Machine/Faults.lean ====
section
/-! DEFINITION. Compute faults and the compute-plane halt, corrected errors, REPAIR, regulator phases (18 R366-R380; 11 R227; 13 R282). -/

namespace Sys2Proof.Machine

/-! ### The compute-plane halt (R370-R372) -/

/-- The RAS block changed. -/
def modRas (s : State) (f : Ras → Ras) : State := { s with ras := f s.ras }

/-- The physical spindle as RAS_STAT, COMPUTE_HALT and the log give it: 0x3F when none is attributed. -/
def faultSpindle (c : FaultSite) : Nat := (c.phys.map Fin.val).getD 0x3F

/-- The faulting spindle enters FAILED; SPN_ACC_FLT records a fault of its accumulation (03 R60, 04 R79). -/
def failSpindle (s : State) (c : FaultSite) : State :=
  match c.phys with
  | some p => modSpn s p.val (fun x =>
      { x with failed := true,
               accFlt := if c.kind.val ≤ 2 then some { kind := c.kind.val, row := c.row, column := c.column } else x.accFlt })
  | none => s

/-- Numbers in ascending order. -/
def ascending (l : List Nat) : List Nat := keys (l.foldl (fun t n => insertKey t n ()) [])

/-- Every resident job and every query that is re-ranking ends with LOST, in fetch order (R370 steps 2 and 4; 01 R14, 02 R38). -/
def loseWork (s : State) : State :=
  let jobs := (s.jobs.filter (fun j => j.2.place.isSome)).map Prod.fst
  (ascending (jobs ++ rerankingQueries s)).foldl (fun s id => if jobs.contains id then endJob s id stLost 0 0 else haltQuery s id) s

/-- A running job whose programs have all ended is folding its records: how many it has folded, and whether the next one is left in STATE 2 with how many of its channels
folded, are free values (05 R95; log entry 5). -/
def cutFold (s : State) (jid : Nat) : State :=
  match lookup s.jobs jid with
  | some j =>
    if (seatsOf s jid).isEmpty || !(seatsOf s jid).all (rankEnded s j) then s
    else
      let rs := (j.records.map Prod.snd).eraseDups
      let (n, s) := draw s
      let at_ := n % (2 * rs.length + 1)
      let s := (rs.take (at_ / 2)).foldl (fun s r => foldRecord s j.slice r.1 r.2) s
      match rs[at_ / 2]?, decide (at_ % 2 = 1) with
      | some r, true =>
        let (m, s) := draw s
        foldPartly s j.slice r.1 r.2 m
      | _, _ => s
  | none => s

/-- A fault finds the folds of the running steps where they stand. -/
def cutFolds (s : State) : State := (keys s.jobs).foldl cutFold s

/-- Spindle repairs that waited for a step boundary are choices now, and complete as recorded (R374). -/
def recordWaiting (s : State) : State :=
  (s.ras.pendingRepairs.filter (fun r => r.2.1 < 48)).foldl (fun s r =>
    let s := modRas s (fun k => { k with choices := insertKey k.choices r.2.1 (some r.2.2), pendingRepairs := removeKey k.pendingRepairs r.1 })
    finishOk s r.1 (repairResult (spnWord s r.2.1) true)) s

/-- COMPUTE_HALT's DETAIL (R378). -/
def haltDetail (c : FaultSite) : Nat := faultSpindle c + c.kind.val * 64

/-- COMPUTE_FAULT (R370): no second one while halted (R371), and none of a spindle that serves no logical one. -/
def execComputeFault (c : FaultSite) (s : State) : Host.Outcome State Fault Refusal :=
  if s.ras.halted || s.glb.stage = 0 || c.phys.any (fun p => (logicalOf s p.val).isNone) then .next s
  else
    let s := logRas (failSpindle (cutFolds s) c) (if c.kind.val = 5 then 7 else 0) 1 (faultSpindle c) 0 (Config.bankAddr c.kind.val c.row c.column)
    let s := modRas s (fun r => { r with halted := true, faultSpn := faultSpindle c, faultKind := c.kind.val })
    .next (noteAlert <| recordWaiting (loseWork (postEvent s 0x01 (haltDetail c))))

/-- A FAILED spindle without a recorded choice. -/
def unchosen (s : State) : Option Nat :=
  (List.range 52).find? (fun p => (getSpn s p).failed && !((logicalOf s p).any (fun l => (lookup s.ras.choices l).isSome)))

/-- A spindle to be reinstated that fails the test. -/
def testFailure (s : State) (fails : List (Fin 52)) : Option (Nat × Nat) :=
  (s.ras.choices.filterMap (fun c =>
    match c.2, physOf s c.1 with
    | none, some p => if fails.any (fun f => f.val = p) then some (c.1, p) else none
    | _, _ => none)).head?

/-- A recorded choice takes effect: the spare is bound, or the spindle is reinstated (R374); the change is logged (R375). -/
def applyChoice (s : State) (l : Nat) (dest : Option Nat) : State :=
  match dest with
  | some p => setSpnMap s l { phys := p, st := boundState l p, pend := 0x7F }
  | none => setSpnMap s l (mapEntryAt s.ras.mapSpn l)

/-- Every spindle works again: the fault record is clear and no spindle is FAILED. -/
def clearFaults (s : State) : State := (List.range 52).foldl (fun s p => modSpn s p (fun x => { x with failed := false, accFlt := none })) s

/-- The compute-plane reset (R372), whole in one step (log entry 6). -/
def computeReset (s : State) (id : Nat) : State :=
  let n := s.ras.choices.length
  let s := s.ras.choices.foldl (fun s c => applyChoice s c.1 c.2) s
  let s := clearFaults (scrubAll s)
  let s := noteAlert (modRas s (fun r => { r with halted := false, choices := [] }))
  finishOk (postEvent s 0x02 (n % 256)) id n

/-- RESUME_COMPUTE (R372); `testFails` is what its test finds when TEST is set. -/
def execResumeCompute (op : Nat) (testFails : List (Fin 52)) (s : State) : Host.Outcome State Fault Refusal :=
  .next (runOp s op 0x6D 4 (fun o s =>
    if !s.ras.halted || s.ras.resuming then fail s op stBounds 0
    else
      match unchosen s with
      | some p => fail s op stBounds (0x100 + p)
      | none =>
        match (if bit (o.f 8 1) 0 then testFailure s testFails else none) with
        | some (l, p) => fail (modRas s (fun r => { r with choices := removeKey r.choices l })) op stBounds (0x200 + p)
        | none => computeReset s op))

/-! ### Corrected errors (R368) -/

/-- The counters of a corrected error (R368; 04 R79, 11, 16, 20). -/
def countCorrected (s : State) (source index : Nat) (bank : Bool) : State :=
  if source = 0 then (if bank then modSpn s index (fun x => { x with ctr := { x.ctr with ce := x.ctr.ce + 1 } }) else s)
  else if source = 2 then modLane s index (fun x => { x with ctr := { x.ctr with fecCorr := x.ctr.fecCorr + 1 } })
  else if source = 4 then { s with memStacks := s.memStacks.zipIdx.map (fun k => if k.2 = index / 64 then { k.1 with ce := k.1.ce + 1 } else k.1) }
  else if source = 8 then { s with dst := { s.dst with ce := sat32 (s.dst.ce + 1) } }
  else s

/-- The element of a source exists: spindles, cores, strand lanes, AHL lanes, pseudo-channels (34 a stack), dies (9 a bobbin), rails, and one of each other kind
(R379). -/
def isElement (s : State) (source index : Nat) : Bool :=
  if source = 0 then index < 52 else if source = 1 then index < 6 else if source = 2 then index < 104 else if source = 3 then index < 36
  else if source = 4 then index / 64 < 4 && index % 64 < 34 else if source = 5 then index / 16 < nBobbins s && index % 16 < 9
  else if source = 6 then index < 16 else index = 0

/-- The treadle minute of a beat. -/
def minuteOf (beat : Nat) : Nat := beat / 60000000

/-- The treadle minute that runs: the even numbers are minutes of provisional beats, before NUMBERED, the odd ones minutes of the beat counter (09 R165). -/
def minuteNow (s : State) : Nat := if s.trd.numbered then 2 * minuteOf s.trd.beat + 1 else 2 * minuteOf s.clock

/-- CE_RATE's DETAIL (R378). -/
def ceDetail (source index n : Nat) : Nat := source + index % 256 * 16 + min n 0xFFFF * 4096

/-- CORRECTED_ERROR: counted and logged; CE_RATE once for the element and minute above the threshold (R368). `bank` says of a spindle's error that it was in the
accumulator bank. -/
def execCorrectedError (source : Fin 11) (index : Nat) (bank : Bool) (addr : Nat) (s : State) : Host.Outcome State Fault Refusal :=
  if !isElement s source.val index || s.glb.stage = 0 then .next s
  else
    let s := countCorrected (logRas s source.val 0 index (if source.val = 5 then 0xFFFF else 0) addr) source.val index bank
    let m := minuteNow s
    let s := if s.ras.minute = m then s else modRas s (fun r => { r with minute := m, ceMinute := [], cePosted := [] })
    let key := source.val * 1024 + index
    let n := readD 0 s.ras.ceMinute key + 1
    let s := modRas s (fun r => { r with ceMinute := insertKey r.ceMinute key n })
    .next (if n > s.ras.ceThresh && !s.ras.cePosted.contains key then
      postEvent (modRas s (fun r => { r with cePosted := r.cePosted ++ [key] })) 0x04 (ceDetail source.val index n)
    else s)

/-! ### REPAIR (R374, R375) -/

/-- REPAIR's first two checks for one KIND and OPT; a descriptor of another KIND or OPT is another row's (R375). -/
def repairRow (s : State) (op kind : Nat) (opt : Option Nat) (body : Op → State → State) : State :=
  runRow s op 0x6C 4 (fun o => o.f 8 1 > 7 || (o.f 8 1 = 0 && o.f 9 1 > 2) || (o.f 8 1 = kind && opt.all (fun n => n = o.f 9 1))) (fun o s =>
    let k := o.f 8 1
    if k > 7 then fail s op stBadDescriptor 8
    else if k = 0 && o.f 9 1 > 2 then fail s op stBadDescriptor 9
    else if o.phase = .fetched && s.sec.erase.isSome then fail s op stLocked 0
    else body o s)

/-- Another REPAIR of the same element has begun and has not completed (R375 check 4). -/
def repairOpen (s : State) (id : Nat) (o : Op) : Bool :=
  s.ops.any (fun e => e.1 ≠ id && e.2.opcode = 0x6C && isOpen e.2 && e.2.phase ≠ .fetched && e.2.f 8 1 = o.f 8 1 && e.2.f 10 2 = o.f 10 2 &&
    e.2.f 12 4 = o.f 12 4 && e.2.f 20 4 = o.f 20 4)

/-- A repair of the logical spindle is in progress. -/
def spindleBusy (s : State) (l : Nat) : Bool := s.ras.resuming || s.ras.pendingRepairs.any (fun r => r.2.1 = l)

/-- The spindle is an available spare for logical `l`: unmapped, not FAILED, named by no other choice or repair; of a withdrawn logical spindle its own counts too
(R374, R375). -/
def spareFor (s : State) (l dest : Nat) : Bool :=
  (withdrawn s l && physOf s l = some dest) ||
  (dest < 52 && (logicalOf s dest).isNone && !(getSpn s dest).failed &&
   !(s.ras.choices.any (fun c => c.1 ≠ l && c.2 = some dest)) && !(s.ras.pendingRepairs.any (fun r => r.2.1 < 48 && r.2.2 = dest)))

/-- A step of a job runs on the logical spindle. -/
def stepsOn (s : State) (l : Nat) : Bool := s.jobs.any (fun j => !jobIdle j.2 && j.2.spindles.contains l)

/-- REPAIR_SPINDLE_SPARE: recorded while halted; otherwise at the next step boundary of the job on the spindle, at once if idle (R374). -/
def execRepairSpindleSpare (op : Nat) (s : State) : Host.Outcome State Fault Refusal :=
  .next (repairRow s op 0 (some 0) (fun o s =>
    let l := o.f 12 4
    let dest := o.f 16 4
    if (lookup s.ras.pendingRepairs op).isSome then (if stepsOn s l then s else completeSpindleRepair s op l dest)
    else
      checks s op [(l ≥ 48, stBounds, 12), (spindleBusy s l, stBounds, 12), (!spareFor s l dest, stBounds, 16)]
        (if s.ras.halted then
           let s := modRas s (fun r => { r with choices := insertKey r.choices l (some dest) })
           finishOk s op (repairResult (spnWord s l) true)
         else if stepsOn s l then modRas s (fun r => { r with pendingRepairs := insertKey r.pendingRepairs op (l, dest) })
         else completeSpindleRepair s op l dest)))

/-- REPAIR_SPINDLE_REINSTATE: only while halted, of a FAILED spindle (R374, R375). -/
def execRepairSpindleReinstate (op : Nat) (s : State) : Host.Outcome State Fault Refusal :=
  .next (repairRow s op 0 (some 1) (fun o s =>
    let l := o.f 12 4
    checks s op [(l ≥ 48, stBounds, 12), (spindleBusy s l || !s.ras.halted || !((physOf s l).any (fun p => (getSpn s p).failed)), stBounds, 12)]
      (let s := modRas s (fun r => { r with choices := insertKey r.choices l none })
       finishOk s op (repairResult (spnWord s l) true))))

/-- A resident job runs on the logical spindle, or a draft is loaded in a slice that holds it (R375; log entry 35). -/
def usesSpindle (s : State) (l : Nat) : Bool :=
  s.jobs.any (fun j => j.2.place.isSome && j.2.spindles.contains l) ||
  s.drafts.any (fun d => (lookup s.slices d.2.slice).any (fun x => bit x.conf.spindles l))

/-- REPAIR_SPINDLE_WITHDRAW: at once; a choice recorded for the spindle is replaced (R374, R375). -/
def execRepairSpindleWithdraw (op : Nat) (s : State) : Host.Outcome State Fault Refusal :=
  .next (repairRow s op 0 (some 2) (fun o s =>
    let l := o.f 12 4
    checks s op [(l ≥ 48, stBounds, 12), (spindleBusy s l || (!s.ras.halted && usesSpindle s l), stBounds, 12)]
      (let s := modRas s (fun r => { r with choices := removeKey r.choices l })
       let s := setSpnMap s l { mapEntryAt s.ras.mapSpn l with st := 2 }
       finishOk s op (repairResult (spnWord s l) false))))

/-- REPAIR_CORE: an unmapped working core takes the logical core's role (R374). -/
def execRepairCore (op : Nat) (s : State) : Host.Outcome State Fault Refusal :=
  .next (repairRow s op 1 none (fun o s =>
    let c := o.f 12 4
    let dest := o.f 16 4
    checks s op [(c ≥ 4, stBounds, 12),
        (dest ≥ 6 || s.ras.mapCore.any (fun e => e.phys = dest) || s.ras.faultyCores.contains dest, stBounds, 16)]
      (let s := noteAlert (modRas s (fun r => { r with mapCore := r.mapCore.set c { phys := dest, st := 1, pend := 0x7F } }))
       finishOk (logRas s 1 4 dest 0 0) op (repairResult (coreWord s c) false))))

/-! ### Strand and AHL lanes (11 R227; 02 R18) -/

/-- The strand die of a physical lane. -/
def strandDie (n : Nat) : Nat := n / 52

/-- The spare lane serves the logical link: of the same die, unmapped, trained, and wired to the node last recorded for the link (R227). -/
def laneServes (s : State) (l dest : Nat) : Bool :=
  let old := getLane s ((laneOf s l).getD 0)
  dest < 104 && strandDie dest = (if l < 48 then 0 else 1) && linkOf s dest = 0x7F && (getLane s dest).trained && (getLane s dest).peer = old.peer

/-- A step of a running draft that has slots on the link. -/
def draftStepOn (s : State) (l : Nat) : Bool :=
  s.jobs.any (fun j => !jobIdle j.2 && (j.2.draft.bind (fun d => lookup s.drafts d.handle)).any (fun x => (draftLinks x).contains l))

/-- The link is mapped to the spare: sequence space and credits start afresh on both lanes, and the spare is to train (R227). -/
def mapLane (s : State) (op l dest : Nat) : State :=
  let fresh : Lane → Lane := fun x => { x with up := false, trained := false, retraining := false, trainFails := 0, link := LinkState.zero, sent := [], rxbuf := [] }
  let down := ((laneOf s l).map (fun n => (getLane s n).downSaid)).getD false
  let s := match laneOf s l with
    | some n => modLane s n (fun x => { fresh x with downSaid := false })
    | none => s
  let s := modLane s dest (fun x => { fresh x with downSaid := down })
  let s := modRas s (fun r => { r with mapStr := r.mapStr.set l { phys := dest, st := 1, pend := 0x7F }, pendingRepairs := removeKey r.pendingRepairs op })
  logRas s 2 4 dest 0 dest

/-- REPAIR_STRAND_LANE: at the step boundary of a draft that uses the link; it completes once the link is trained on the spare (R227, R374). -/
def execRepairStrandLane (op : Nat) (s : State) : Host.Outcome State Fault Refusal :=
  .next (repairRow s op 2 none (fun o s =>
    let l := o.f 12 4
    let dest := o.f 16 4
    if (lookup s.ras.pendingRepairs op).isSome then (if draftStepOn s l then s else mapLane s op l dest)
    else if o.phase = .started then
      (if (getLane s dest).up then finishOk s op (repairResult (mapWord (mapEntryAt s.ras.mapStr l)) false) else s)
    else
      checks s op [(l ≥ 96, stBounds, 12), (repairOpen s op o, stBounds, 12), (!laneServes s l dest, stBounds, 16)]
        (if draftStepOn s l then modRas s (fun r => { r with pendingRepairs := insertKey r.pendingRepairs op (1000 + l, dest) })
         else mapLane s op l dest)))

/-- REPAIR_AHL_LANE: the port's spare lane serves in the lane's place; the port retrains, and the command completes when it is up (R18, R374). -/
def execRepairAhlLane (op : Nat) (s : State) : Host.Outcome State Fault Refusal :=
  .next (repairRow s op 3 none (fun o s =>
    let p := o.f 10 2
    let lane := o.f 12 4
    if o.phase = .started then (if (getPort s p).link.up then finishOk s op (repairResult (ahlLink (getPort s p)) false) else s)
    else
      let k := (getPort s p).link
      checks s op [(p ≥ 4, stBounds, 10), (lane ≥ 8, stBounds, 12), (repairOpen s op o, stBounds, 12), (k.spareFor ≠ 0xF || k.failed.getLsbD 8, stBounds, 16)]
        (let s := modPort s p (fun x => loseLink { x with link := { x.link with spareFor := BitVec.ofNat 4 lane } } s.clock)
         logRas s 3 4 (p * 9 + lane) 0 lane)))

/-! ### DRAM (R374) -/

/-- A stack. -/
def getStack (s : State) (i : Nat) : Stack := (s.memStacks[i]?).getD Stack.zero

/-- A stack changed. -/
def modStack (s : State) (i : Nat) (f : Stack → Stack) : State := { s with memStacks := s.memStacks.set i (f (getStack s i)) }

/-- A copy starts, once the stack's copy before it has ended. -/
def startCopy (s : State) (op stack pos : Nat) (row : Option Nat) : State :=
  if (getStack s stack).copying.isSome then s else modStack s stack (fun k => { k with copying := some (op, pos, row) })

/-- REPAIR_PSEUDO_CHANNEL: the copy starts; REPAIR_COPY_DONE ends it. -/
def execRepairPseudoChannel (op : Nat) (s : State) : Host.Outcome State Fault Refusal :=
  .next (repairRow s op 4 none (fun o s =>
    let i := o.f 10 2
    let pos := o.f 12 4
    let dest := o.f 16 4
    let k := getStack s i
    if k.copying.any (fun c => c.1 = op) then s
    else
      checks s op [(i ≥ 4, stBounds, 10), (pos ≥ 32, stBounds, 12), (repairOpen s op o, stBounds, 12),
          (!((dest = 32 && k.spare32.isNone) || (dest = 33 && k.spare33.isNone)), stBounds, 16)]
        (startCopy s op i pos none)))

/-- REPAIR_DRAM_ROW: the copy starts; REPAIR_COPY_DONE ends it. -/
def execRepairDramRow (op : Nat) (s : State) : Host.Outcome State Fault Refusal :=
  .next (repairRow s op 5 none (fun o s =>
    let i := o.f 10 2
    let pos := o.f 12 4
    let row := o.f 20 4
    let k := getStack s i
    if k.copying.any (fun c => c.1 = op) then s
    else
      checks s op [(i ≥ 4, stBounds, 10), (pos ≥ 32, stBounds, 12), (repairOpen s op o, stBounds, 12), (k.rowsLeft = 0, stBounds, 16)]
        (startCopy s op i pos (some row))))

/-- The words that could not be copied read as zeros from the spare. -/
def zeroWords (s : State) (bad : List Nat) : State :=
  bad.foldl (fun s u => modSlice s (u / 2 ^ 40) (fun x => { x with pool := zeroRange x.pool (u % 2 ^ 40 / 64 * 64) 64 })) s

/-- The spare of a finished copy is in use. -/
def useSpare (k : Stack) (pos dest : Nat) (row : Option Nat) : Stack :=
  match row with
  | some _ => { k with rowsLeft := k.rowsLeft - 1 }
  | none => if dest = 32 then { k with spare32 := some pos } else { k with spare33 := some pos }

/-- REPAIR_COPY_DONE: the interleave uses the spare; words that could not be copied are listed, and a list that would overflow abandons the copy (R374). -/
def execRepairCopyDone (stack : Fin 4) (bad : List Nat) (s : State) : Host.Outcome State Fault Refusal :=
  let k := getStack s stack.val
  match k.copying with
  | none => .next s
  | some (op, pos, row) =>
    let s := modStack s stack.val (fun k => { k with copying := none })
    let new := (bad.filter (fun u => !k.uncorr.contains u)).eraseDups
    if k.uncorr.length + new.length > 1024 then .next (fail s op stBounds 12)
    else
      let dest := ((lookup s.ops op).map (fun o => o.f 16 4)).getD 32
      let s := zeroWords s new
      let s := modStack s stack.val (fun k => { useSpare k pos dest row with uncorr := k.uncorr ++ new })
      .next (finishOk (logRas s 4 4 (stack.val * 64 + pos) 0 (row.getD 0)) op (repairResult (memWord (getStack s stack.val)) false))

/-! ### NAND dies (13 R282) -/

/-- The open groups that include a die are closed at once; the copies that wait in a bulk-mode one are abandoned and made again from their sources (R282). -/
def closeOn (x : Bobbin) (d : Nat) : Bobbin :=
  let on : Group → Bool := fun g => g.blocks.any (fun e => dieOf e.1 = d)
  let left : Nat → Bool := fun k => x.groups.any (fun g => g.bulk && on g && g.blocks.any (fun e => e.1 = k))
  shutGroups { x with moves := x.moves.filter (fun m => !left (entryBlock m.new)) } on

/-- The spare die takes the failing die's place, and migration off the failing die begins (R282). -/
def startMigration (x : Bobbin) (d spare : Nat) : Bobbin :=
  let role := (getDie x d).role
  let x := closeOn x d
  let x := modDie (modDie x d (fun y => { y with st := 2, role := 0xF })) spare (fun y => { y with st := 0, role := role })
  { x with migrating := some (d, 0) }

/-- REPAIR_NAND_DIE: accepted at once; MIGRATE_DONE follows (R282, R374). -/
def execRepairNandDie (op : Nat) (s : State) : Host.Outcome State Fault Refusal :=
  .next (repairRow s op 6 none (fun o s =>
    let b := o.f 10 2
    let d := o.f 12 4
    let x := getBob s b
    checks s op [(b ≥ nBobbins s, stBounds, 10), (d ≥ 9 || (getDie x d).role ≥ 8, stBounds, 12), (x.migrating.isSome, stBounds, 12),
        ((spareDie x).isNone, stBounds, 16)]
      (let s := modBob s b (fun x => startMigration x d ((spareDie x).getD 8))
       finishOk (logRas s 5 4 (b * 16 + d) 0xFFFF 0xFFFFFFF) op (repairResult (dieStat (getDie (getBob s b) d)) false))))

/-! ### Regulator phases (R374, R380) -/

/-- A rail. -/
def getRail (s : State) (r : Nat) : Rail := (s.ras.rails[r]?).getD { out := 0, failed := [] }

/-- A rail changed. -/
def modRail (s : State) (r : Nat) (f : Rail → Rail) : State := modRas s (fun k => { k with rails := k.rails.set r (f (getRail s r)) })

/-- REPAIR_REG_PHASE: the phase leaves the rail's rotation (R374). -/
def execRepairRegPhase (op : Nat) (s : State) : Host.Outcome State Fault Refusal :=
  .next (repairRow s op 7 none (fun o s =>
    let r := o.f 10 2
    let k := o.f 12 4
    checks s op [(r ≥ 16, stBounds, 10), (k > railN r + 1, stBounds, 12)]
      (let s := noteAlert <| modRail s r (fun x => { out := x.out ||| (1#16 <<< k), failed := x.failed.filter (fun n => n ≠ k) })
       finishOk (logRas s 6 4 r 0 k) op (repairResult (regWord s r) false))))

/-- REG_PHASE_FAILURE: counted, logged and posted once for the phase; one that failed before and is still in the rotation is logged at each attempt (R374, R380). -/
def execRegPhaseFailure (rail phase : Fin 16) (s : State) : Host.Outcome State Fault Refusal :=
  let x := getRail s rail.val
  if phase.val > railN rail.val + 1 || x.out.getLsbD phase.val then .next s
  else if x.failed.contains phase.val then .next (logRas s 6 1 rail.val 0 phase.val)
  else
    let s := noteAlert <| modRail s rail.val (fun x => { x with failed := x.failed ++ [phase.val] })
    let s := logRas s 6 1 rail.val 0 phase.val
    .next (postEvent s 0x05 (rail.val + phase.val * 16 + workingPhases s rail.val % 16 * 256))

end Sys2Proof.Machine
end

