-- ==== Sys2Proof/Machine/Power.lean ====
section
/-! DEFINITION. Power states, the flush, cold reset and boot, the thermal throttle (19 R381-R393; 21 R405-R410). -/

namespace Sys2Proof.Machine

/-! ### Entering and leaving power states (R381-R385) -/

/-- PWR changed. -/
def modPwr (s : State) (f : Pwr → Pwr) : State := { s with pwr := f s.pwr }

/-- The device is in state n: the pool is in self-refresh from PS3 on, lanes run at the low rate in PS4, where full FEC alone is allowed; the rate change trains them (R381;
11 R201, R202). -/
def reachState (s : State) (n : Nat) : State :=
  let was := s.pwr.state
  let s := modPwr s (fun p => { p with state := n, target := n })
  let s : State := { s with memStacks := s.memStacks.map (fun k => { k with sref := decide (n ≥ 3) }) }
  let fec : Lane → Bool := fun x => if n = 4 then false else if was = 4 && x.up then x.ctrlFec else x.fecLL
  let s : State := { s with strand := { s.strand with lanes := s.strand.lanes.map (fun (e : Nat × Lane) => (e.1, { e.2 with fecLL := fec e.2 })) } }
  [0, 1, 2, 3].foldl (fun s p => if (getPort s p).link.up then modPort s p (fun x => { x with link := { x.link with lowRate := decide (n = 4) } }) else s) s

/-- A SET_POWER that waited for the state reached completes (R385). -/
def completeEntering (s : State) : State :=
  match s.pwr.entering with
  | some id => finishOk (modPwr s (fun p => { p with entering := none })) id 0
  | none => s

/-- POWER_STATE_ENTERED: STATE reaches TARGET. -/
def execPowerStateEntered (s : State) : Host.Outcome State Fault Refusal :=
  if s.pwr.target > s.pwr.state then .next (completeEntering (reachState s s.pwr.target)) else .next s

/-- PS_EXIT_LATE's DETAIL (18 R378). -/
def exitLateDetail (n overAt : Nat) : Nat := n + min overAt (2 ^ 29 - 1) * 8

/-- PS_EXIT_DONE: the exit ends after some beats; an overrun is counted, logged and posted (R384). -/
def execPsExitDone (beatsTaken : Nat) (s : State) : Host.Outcome State Fault Refusal :=
  let n := s.pwr.state
  if s.pwr.target ≥ n then .next s
  else
    let s := reachState s s.pwr.target
    let late := beatsTaken > exitLatency n
    let s := if late then
        let s := logRas (modPwr s (fun p => { p with exitLate := sat32 (p.exitLate + 1) })) (Config.exitLateSource % 11) (Config.exitLateType % 6) 0 0 0
        postEvent s 0x06 (exitLateDetail n (beatsTaken - exitLatency n))
      else s
    .next (completeEntering s)

/-- The checks of SET_POWER (R385, R307). -/
def powerChecks (s : State) (o : Op) : List (Bool × Nat × Nat) :=
  [(o.f 8 1 > 4, stBadDescriptor, 8), (o.f 9 1 > 1, stBadDescriptor, 9), (anyPly s && o.f 8 1 ≠ 0, stBounds, 0)]

/-- SET_POWER with MODE 0 (R385): it waits for the running steps, unless it asks for PS0. -/
def execSetPowerEnter (op : Nat) (s : State) : Host.Outcome State Fault Refusal :=
  .next (runRow s op 0x70 4 (fun o => o.f 9 1 ≠ 1) (fun o s =>
    let n := o.f 8 1
    checks s op (powerChecks s o)
      (let s := modPwr s (fun p => { p with heldPs0 := decide (n = 0) })
       let s := if n ≥ 3 then abortTest s else s
       if n ≠ 0 && stepsRun s then s
       else if s.pwr.state = n && s.pwr.target = n then finishOk s op 0
       else modPwr s (fun p => { p with target := n, entering := some op }))))

/-- SET_POWER with MODE 1: PWR_LIMIT is set (R385). -/
def execSetPowerLimit (op : Nat) (s : State) : Host.Outcome State Fault Refusal :=
  .next (runRow s op 0x70 4 (fun o => o.f 9 1 ≠ 0) (fun o s =>
    checks s op (powerChecks s o)
      (finishOk (modPwr s (fun p => { p with limit := o.f 8 1, pendLimit := none, heldPs0 := false })) op 0)))

/-- PWR_LIMIT_WRITE: from the next beat; 5 to 7 are ignored (R393). It ends a hold at PS0 (R385). -/
def writeLimit (s : State) (v : Word) : State :=
  let n := bits v.toNat 0 3
  if n > 4 then s else modPwr s (fun p => { p with pendLimit := some n, heldPs0 := false })

/-- PWR_LIMIT_WRITE. -/
def execPwrLimitWrite (who : Requester) (v : Word) (s : State) : Host.Outcome State Fault Refusal :=
  .next (ctlWrite s who 0x10004 (fun s => writeLimit s v))

/-- The idle time of a state. -/
def idleBeats (p : Pwr) (n : Nat) : Nat := if n = 1 then p.idle1 else if n = 2 then p.idle2 else if n = 3 then p.idle3 else p.idle4

/-- Idle timer n has expired (R382). -/
def timerExpired (s : State) (n : Nat) : Bool :=
  idleFor s n && idleBeats s.pwr n ≠ 0 && (lookup s.pwr.idleSince n).any (fun t => t + idleBeats s.pwr n ≤ s.clock)

/-- The drafts of this member allow state n now (10 R189): a gap between steps, no hold, no deeper than MAXPS, never PS4, and time for the exit. -/
def draftsAllow (s : State) (n : Nat) : Bool :=
  s.jobs.all (fun e =>
    match e.2.draft.bind (fun d => (lookup s.drafts d.handle).map (fun x => (d, x))) with
    | some (d, x) =>
      n ≤ x.maxps && d.holdsNow = 0 && d.frozen.isNone && exitLatency n ≤ draftRoom s e.2 d x
    | none => true) && (!(anyPly s) || n < 4)

/-- The deepest state the idle timers may enter now (R382, R385). -/
def deepestIdle (s : State) : Nat :=
  ([1, 2, 3, 4].filter (fun n => n ≤ s.pwr.limit && timerExpired s n && draftsAllow s n)).foldl max 0

/-- IDLE_TIMER_EXPIRY of timer n: the device begins to enter the deepest state whose timer has expired (R382). -/
def execIdleTimerExpiry (n : Fin 5) (s : State) : Host.Outcome State Fault Refusal :=
  let settled := s.pwr.state = s.pwr.target
  .next (if n.val ≠ 0 && settled && !s.pwr.heldPs0 && timerExpired s n.val && deepestIdle s = n.val && n.val > s.pwr.state then
    modPwr s (fun p => { p with target := n.val })
  else s)

/-! ### The flush and what a cold reset leaves (R387-R389, R392; 13 R264, R267, R274; 14 R298-R300; 12 R240) -/

/-- The units of an unfinished write fall into parts that are applied or not, each by itself: 64 sectors, or single units (14 R298). -/
def partsOf (atomic : Nat) : List Nat → List (List Nat)
  | [] => []
  | u :: us =>
    match partsOf atomic us with
    | (v :: g) :: rest => if atomic = 64 && u / 16 = v / 16 then (u :: v :: g) :: rest else [u] :: (v :: g) :: rest
    | rest => [u] :: rest

/-- One part of an unfinished WRITE or TRIM, applied when a free value says so. -/
def losePart (s : State) (o : Op) (us : List Nat) : State :=
  let (n, s) := draw s
  match lookup s.stores (o.f 8 2) with
  | none => s
  | some st =>
    if n % 2 = 0 then s
    else
      let src : Nat → Byte := if o.opcode = 0x04 then (fun _ => 0) else fromBuffers s o.port (buffersOf s o)
      match writeUnits s (o.f 8 2) st (atomicUnit s o) (decide (o.opcode = 0x04)) (o.f 16 8) (o.f 12 4) src us [] with
      | some (cs, s) => applyChanges s cs
      | none => s

/-- An unfinished WRITE or TRIM that no fence, no earlier command and no check holds back may have applied any of its parts (14 R300). -/
def loseWrite (s : State) (id : Nat) (o : Op) : State :=
  let n := o.f 8 2
  let us := unitsOf (o.f 16 8 * 4096) (o.f 12 4 * 4096)
  match lookup s.stores n with
  | none => s
  | some st =>
    let fails := us.any (fun u => !(coversUnit (o.f 16 8) (o.f 12 4) u) && unitFails s st u)
    if !isOpen o || !fenceAllows s o || fenceHolds s id o || waitsDurable s id || (storageChecks s id o).any (fun c => c.1) || overlapAhead s o || fails ||
        !awake s 2 || (o.opcode = 0x01 && ((listCheck s o).isSome || !(getPort s o.port).link.up)) then s
    else (partsOf (atomicUnit s o) us).foldl (fun s g => losePart s o g) s

/-- The items of a list that free values pick. -/
def pickItems {α : Type} (s : State) : List α → List α × State
  | [] => ([], s)
  | x :: xs =>
    let (n, s) := draw s
    let (l, s) := pickItems s xs
    (if n % 2 = 1 then x :: l else l, s)

/-- An unfinished change of an index: each item of an insert or delete present whole or absent, a publish done or not (12 R240). -/
def loseChange (s : State) (id : Nat) (o : Op) : State :=
  let h := o.f 8 4
  match ownIndex s o.slice h id with
  | none => s
  | some x =>
    if !isOpen o || !fenceAllows s o || !awake s 2 || !(getPort s o.port).link.up then s
    else if o.opcode = 0x41 then
      let b := readPartner s o.port (o.f 16 8) (o.f 12 4 * itemStride x)
      let items := (List.range (o.f 12 4)).map (itemAt x b)
      if o.f 12 4 = 0 || o.f 12 4 > 65536 || items.any (fun i => i.id = 0xFFFFFFFFFFFFFFFF || i.cluster ≥ x.ncluster) || noRoom s h x (o.f 12 4) then s
      else
        let (l, s) := pickItems s items
        modIndex s h (fun x => { x with pending := l.foldl putItem x.pending })
    else if o.opcode = 0x42 then
      if o.f 12 4 = 0 || o.f 12 4 > 65536 then s
      else
        let (l, s) := pickItems s ((List.range (o.f 12 4)).map (fun i => partnerNat s o.port (o.f 16 8 + 8 * i) 8))
        modIndex s h (fun x => { x with pending := (deleteIds x.pending l 0).1 })
    else if o.opcode = 0x43 then
      let (n, s) := draw s
      if n % 2 = 1 then modIndex s h (fun x => { x with epoch := (x.epoch + 1) % 2 ^ 32, current := x.pending }) else s
    else s

/-- What the commands in flight may have left in flash. -/
def loseOps (s : State) : State :=
  s.ops.foldl (fun s e => if e.2.opcode = 0x01 || e.2.opcode = 0x04 then loseWrite s e.1 e.2 else loseChange s e.1 e.2) s

/-- Changes of the map undone, newest first. -/
def undoChanges (s : State) (cs : List MapChange) : State :=
  cs.foldr (fun c s => if entryOf s c.store c.unit = c.new then setEntry s c.store c.unit c.old else s) s

/-- The journal at a loss: what is committed stays. Without hold-up energy the records not yet in a verified journal page are lost and their changes undone (13 R264, R274,
14 R300). -/
def flushJournal (s : State) (energy : Bool) : State :=
  let s := if energy then s else undoChanges s ((s.journal.records.filter (fun r => !r.committed)).flatMap JRecord.changes)
  { s with journal := { s.journal with records := [], checkpointAt := 0 } }

/-- An M or U program that the loss interrupts can destroy L and M of its pair set: a free value says whether it does (13 R257). -/
def losePair (s : State) (b d : Nat) : State :=
  match busyOp (getDie (getBob s b) d) s.clock with
  | none => s
  | some o =>
    let (n, s) := draw s
    if o.erase || n % 2 = 0 then s
    else
      let hit : Nat × FPage → Bool := fun e => e.1 = pageKey o.block (o.page / 3 * 3) || e.1 = pageKey o.block (o.page / 3 * 3 + 1)
      modBob s b (fun x => { x with pages := x.pages.map (fun e => if hit e then (e.1, { e.2 with uncorr := true }) else e) })

/-- The programs in progress at a loss. -/
def losePairs (s : State) : State := (List.range (9 * nBobbins s)).foldl (fun s i => losePair s (i / 9) (i % 9)) s

/-- The figures of a flush are free values within the limits of R387: 25 ms, 10 J. From the main input it draws nothing from the hold-up store. -/
def flushFigures (s : State) (energy mainInput : Bool) : State :=
  let (a, s) := draw s
  let (b, s) := draw s
  modPwr s (fun p => { p with flushOk := energy, flushUs := BitVec.ofNat 32 (a % 25001), flushMj := if mainInput then 0 else BitVec.ofNat 32 (b % 10001) })

/-- A hank after the loss of the pool: PARKED with its last durable copy, or NEW (08 R148). -/
def coldPage (p : Page) : Page := { p with kind := .hank (if p.parked.isEmpty then .new else .parked), lastUse := 0 }

/-- A slice as a cold boot restores it: its operands and hank mappings (R392), its meter record flagged RESTART (15 R326). -/
def coldSlice (s : State) (x : Slice) : Slice :=
  { newSlice s x.conf with pages := (x.pages.filter (fun p => isHank p.2)).map (fun p => (p.1, coldPage p.2)),
                           meter := { Meter.zero 0 0 with restart := true } }

/-- A bobbin after a cold reset: what is in flash stays, every group that was open is closed, with its parity reloaded where the flush had the energy to write it, movements
not committed start again, the counters start afresh (13 R267, R274, R280, R283). -/
def coldBobbin (energy : Bool) (x : Bobbin) : Bobbin :=
  let x := shutGroups x (fun _ => true)
  { Bobbin.zero with ctr := { Bobbin.zero.ctr with retired := x.ctr.retired, wearMax := x.ctr.wearMax },
                     readOnly := x.readOnly, migrating := x.migrating, dies := x.dies.map (fun d => (d.1, { d.2 with busy := none, suspends := 0 })),
                     pages := x.pages, refreshQ := x.refreshQ, blocks := x.blocks, groups := if energy then x.groups else [],
                     lifeLow := x.lifeLow, progDays := x.progDays, spares := x.spares }

/-- A port after a cold reset: only the partner's memory and the lanes that have failed are not the device's state. -/
def coldPort (x : Port) : Port := { Port.zero with link := { Port.zero.link with failed := x.link.failed }, mem := x.mem, homeErr := x.homeErr }

/-- SEC after a cold reset: level, fuse, counter, records and keys are in the distaff; a full erase past its marker resumes (17 R346, R347, R362). -/
def coldSec (x : Sec) : Sec :=
  { x with loaded := false, upd := 0, staging := none, poolKeys := [], jtagSession := false,
           erase := (x.erase.filter (fun e => e.step ≠ 0)).map (fun e => { e with op := none, resumed := true }) }

/-- The state a cold reset leaves: reset values, and what flash, distaff, fuses and the persisted configuration keep (R389, R392); what stands outside the device
stays (log entry 35). -/
def coldState (s : State) (energy : Bool) : State :=
  { State.reset with
    pending := s.pending, free := s.free, opSeq := s.opSeq,
    glb := { State.reset.glb with cz1200 := s.glb.cz1200 },
    ports := s.ports.map (fun e => (e.1, coldPort e.2)),
    pwr := { State.reset.pwr with flushOk := s.pwr.flushOk, flushUs := s.pwr.flushUs, flushMj := s.pwr.flushMj },
    pins := { s.pins with thermN := true, throttle := false },
    sec := coldSec s.sec,
    dst := { State.reset.dst with array := s.dst.array, changed := s.dst.changed, logA := s.dst.logA, logB := s.dst.logB },
    slices := s.slices.map (fun e => (e.1, coldSlice State.reset e.2)),
    boot := s.boot, nextHandle := s.nextHandle,
    bobbins := s.bobbins.map (fun e => (e.1, coldBobbin energy e.2)),
    journal := { s.journal with records := [], checkpointAt := 0 },
    stores := s.stores.map (fun e => (e.1, { e.2 with deleting := false })),
    card := { State.reset.card with indexes := s.card.indexes.map (fun e => (e.1, { e.2 with ep := none, key := 0, peer := 0, dropping := none })),
                                    nextHandle := s.card.nextHandle },
    ras := { State.reset.ras with logSeq := s.ras.logSeq, log := s.ras.log.filter LogEntry.copied },
    sideband := { State.reset.sideband with ibis := s.sideband.ibis },
    jtag := s.jtag }

/-- The flush, and the reset that follows it. `energy`: the flush has the energy to write the journal and the parity. -/
def flushAndReset (s : State) (energy mainInput : Bool) (why : Nat) : State :=
  let s := flushFigures (flushJournal (losePairs (loseOps (abandonOp s))) energy) energy mainInput
  modPwr (coldState s energy) (fun p => { p with lastReset := why })

/-- POWER_LOSS: the flush on hold-up energy, then the device holds itself in reset (R386-R388). -/
def execPowerLoss (s : State) : Host.Outcome State Fault Refusal :=
  if s.glb.stage = 0 then .next s
  else
    let s := flushAndReset s s.pins.holdupOk false 2
    .next { s with pins := { s.pins with pwrGood := false }, jtag := State.reset.jtag }

/-- COLD_RESET_ASSERT: COLD_RST_N falls; the flush runs from the main input, then the device holds in reset (R388). -/
def execColdResetAssert (s : State) : Host.Outcome State Fault Refusal :=
  if s.glb.stage = 0 then .next { s with pins := { s.pins with coldRstN := false } }
  else
    let s := flushAndReset s true true 1
    .next { s with pins := { s.pins with coldRstN := false } }

/-! ### Boot (R390-R392) -/

/-- I3C_SA of a slot: 0x08 + SLOT_ID, but 0x48 for slot 54 (21 R407). -/
def slotAddress (slot : BitVec 6) : BitVec 7 := if slot = 54 then 0x48 else 0x08 + slot.setWidth 7

/-- The dies of a bobbin as shipped: eight active, the ninth spare (01, 13 BOB_DIE_STAT). -/
def fitDies (x : Bobbin) : Bobbin :=
  if x.dies.any (fun d => d.2.role < 8) then x
  else modDie ((List.range 8).foldl (fun x d => modDie x d (fun y => { y with role := d })) x) 8 (fun y => { y with st := 1 })

/-- The bobbins fitted have their dies. -/
def fitBobbins (s : State) : State := (List.range (nBobbins s)).foldl (fun s b => modBob s b fitDies) s

/-- The links of the ports whose lanes train come up (stage 8; 02 R17, R18). -/
def trainPorts (s : State) (ps : List (Fin 4)) : State :=
  ps.foldl (fun s p => modPort s p.val (fun x =>
    if lanesServe x.link then { x with link := { x.link with up := true, lowRate := false, lanesOk := ~~~x.link.failed } } else x)) s

/-- COLD_BOOT: the stages of R390, as far as they come. -/
def execColdBoot (env : BootEnv) (s : State) : Host.Outcome State Fault Refusal :=
  if s.glb.stage ≠ 0 then .next s
  else
    let s := { s with pins := { s.pins with pwrGood := true, coldRstN := true }, boot := s.boot + 1,
                      glb := { s.glb with slotId := env.slotId, i3cSa := slotAddress env.slotId } }
    let s := loadFirmware s
    if (chooseSlot s).isNone then .next (noteAlert (reachReady s))
    else
      let s := { s with glb := { s.glb with subject := readDistaff s 0x1800010 32 }, sec := { s.sec with poolKeys := keys s.slices },
                        memStacks := s.memStacks.map (fun k => { k with trained := true }) }
      .next (noteAlert (reachReady (trainPorts (fitBobbins s) env.ports)))

/-! ### Heat (21 R410) -/

/-- THERMAL_THROTTLE: asserted at 100 °C, released below 95 °C; THERMAL at each change. -/
def execThermalThrottle (hottest : Int) (s : State) : Host.Outcome State Fault Refusal :=
  if s.glb.stage = 0 then .next s
  else if !s.pins.throttle && hottest ≥ 100 then .next (postEvent (noteAlert { s with pins := { s.pins with throttle := true } }) 0x07 1)
  else if s.pins.throttle && hottest < 95 then .next (postEvent (noteAlert { s with pins := { s.pins with throttle := false } }) 0x07 0)
  else .next s

/-- THERM_N_ALERT: low from 110 °C, released below 105 °C. -/
def execThermNAlert (hottest : Int) (s : State) : Host.Outcome State Fault Refusal :=
  if s.pins.thermN && hottest ≥ 110 then .next { s with pins := { s.pins with thermN := false } }
  else if !s.pins.thermN && hottest < 105 then .next { s with pins := { s.pins with thermN := true } }
  else .next s

end Sys2Proof.Machine
end

