-- ==== Sys2Proof/Machine/Registers.lean ====
section
/-! DEFINITION. The control space (20 R394-R399; 01 R15, R16): the map, reads with their latches, writes. -/

namespace Sys2Proof.Machine

/-! ### The map (R394) -/

/-- The bases of the blocks. -/
def pwrBase : Nat := 0x10000
def trdBase : Nat := 0x20000
def secBase : Nat := 0x30000
def dstBase : Nat := 0x40000
def ahlBase : Nat := 0x80000
def strBase : Nat := 0x100000
def spnBase : Nat := 0x200000
def bobBase : Nat := 0x300000
def memBase : Nat := 0x400000
def rasBase : Nat := 0x500000

/-- The offset lies in a block of the map. -/
def inBlock (off : Nat) : Bool :=
  off < 0x50000 || (ahlBase ≤ off && off < 0xC0000) || (strBase ≤ off && off < 0x168000) || (spnBase ≤ off && off < 0x234000) ||
  (bobBase ≤ off && off < 0x310000) || (memBase ≤ off && off < 0x600000)

/-- An access that R15 turns away. -/
def badShape (off width : Nat) : Bool := width ≠ 4 || off % 4 ≠ 0 || !inBlock off

/-! ### The registers -/

/-- An entry of a table of offsets. -/
def pick (l : List (Nat × Nat)) (r : Nat) : Option Nat := (l.find? (fun e => e.1 = r)).map Prod.snd

/-- The 64-bit registers of a port's admin set, by the offset of LO. -/
def portWide (x : Port) (r : Nat) : Option Nat :=
  pick [(0x00, x.regs.asq.toNat), (0x08, x.regs.acq.toNat), (0x10, x.regs.evt.toNat), (0x18, x.regs.adb.toNat)] r

/-- The 64-bit counters of a lane. -/
def laneWide (x : Lane) (r : Nat) : Option Nat := pick [(0x10, x.ctr.tx), (0x18, x.ctr.rx), (0x20, x.ctr.fecCorr)] r

/-- The 64-bit counters of a spindle. -/
def spnWide (x : Spindle) (r : Nat) : Option Nat :=
  pick [(0x08, x.ctr.busy), (0x10, x.ctr.frz), (0x18, x.ctr.feed), (0x20, x.ctr.drain), (0x28, x.ctr.weight), (0x30, x.ctr.mac), (0x38, x.ctr.blocks),
        (0x40, x.ctr.wrap), (0x48, x.ctr.ce), (0x58, x.ctr.sat), (0x60, x.ctr.req), (0x68, x.ctr.qnan), (0x70, x.ctr.finBusy)] r

/-- Beats in foreground so far (13 R272). -/
def throttleBeats (s : State) (x : Bobbin) : Nat := x.ctr.throttle + (if x.foreground then s.clock - x.since else 0)

/-- The 64-bit counters of a bobbin. -/
def bobWide (s : State) (x : Bobbin) (r : Nat) : Option Nat :=
  pick [(0x10, x.ctr.read), (0x18, x.ctr.prog), (0x20, x.ctr.move), (0x38, throttleBeats s x), (0x100, x.ctr.cardBytes), (0x108, x.ctr.cardCmp),
        (0x110, x.ctr.cardPass)] r

/-- The 64-bit counters of MEM. -/
def memWide (s : State) (r : Nat) : Option Nat :=
  if 0x60 ≤ r && r < 0x80 && r % 8 = 0 then some (getStack s ((r - 0x60) / 8)).ce
  else pick [(0x10, s.mem.evict), (0x18, s.mem.park), (0x20, s.mem.restore), (0x28, s.mem.pfSkip), (0x30, s.mem.demand)] r

/-- The quantity whose LO register stands at an offset. -/
def wide (s : State) (off : Nat) : Option Nat :=
  if 0x100 ≤ off && off < 0x200 then portWide (getPort s ((off - 0x100) / 0x40)) (off % 0x40)
  else if trdBase ≤ off && off < secBase then pick [(0x00, s.trd.beat), (0x20, s.trd.suspend)] (off - trdBase)
  else if strBase ≤ off && off < spnBase then laneWide (getLane s ((off - strBase) / 0x1000)) (off % 0x1000)
  else if spnBase ≤ off && off < bobBase then spnWide (getSpn s ((off - spnBase) / 0x1000)) (off % 0x1000)
  else if bobBase ≤ off && off < memBase then
    (if (off - bobBase) / 0x1000 < nBobbins s then bobWide s (getBob s ((off - bobBase) / 0x1000)) (off % 0x1000) else none)
  else if memBase ≤ off && off < rasBase then memWide s (off - memBase)
  else if off = rasBase + 0x08 then some s.ras.logSeq
  else none

/-- The 32-bit registers of GLB. -/
def glbNarrow (s : State) (r : Nat) : Nat :=
  if 0x20 ≤ r && r < 0x40 then field s.glb.subject (r - 0x20) 4
  else if 0x80 ≤ r && r < 0x90 then (readD 0#32 s.glb.scratch ((r - 0x80) / 4)).toNat
  else if 0x100 ≤ r && r < 0x200 then
    let x := getPort s ((r - 0x100) / 0x40)
    (pick [(0x20, glbAsize x), (0x24, glbActrl x), (0x28, glbAstat x)] (r % 0x40)).getD 0
  else
    (pick [(0x00, 0xC2E45658), (0x04, glbCap s), (0x08, glbCap2), (0x0C, glbCap3), (0x10, glbRev), (0x14, s.glb.fwver.toNat), (0x18, glbBoot s),
           (0x40, glbSideband s), (0xFC, b2n s.glb.lock)] r).getD 0

/-- The 32-bit registers of PWR. -/
def pwrNarrow (s : State) (r : Nat) : Nat :=
  (pick [(0x00, pwrStat s), (0x04, s.pwr.limit), (0x10, s.pwr.idle1), (0x14, s.pwr.idle2), (0x18, s.pwr.idle3), (0x1C, s.pwr.idle4),
         (0x20, s.pwr.exitLate), (0x24, s.pwr.flushUs.toNat), (0x28, s.pwr.flushMj.toNat)] r).getD 0

/-- The 32-bit registers of TRD. -/
def trdNarrow (t : Trd) (r : Nat) : Nat :=
  (pick [(0x0C, b2n t.refSel), (0x10, trdStat t), (0x14, trdSkew t), (0x18, t.switchCnt), (0x1C, t.epochSlip)] r).getD 0

/-- The 32-bit registers of SEC; SEC_ID is the digest of the device identity key, from boot on (17 R356). -/
def secNarrow (s : State) (r : Nat) : Nat :=
  if 0x10 ≤ r && r < 0x30 then (if s.sec.loaded then field (shake32 Config.identityKey) (r - 0x10) 4 else 0)
  else (pick [(0x00, secLevel s), (0x04, secSan s), (0x08, secFw s)] r).getD 0

/-- The 32-bit registers of DST; the write-only ones read zero. -/
def dstNarrow (d : Distaff) (r : Nat) : Nat :=
  if 0x10 ≤ r && r < 0x30 then field (wordBytes d.data) (r - 0x10) 4
  else (pick [(0x08, d.addr), (0x30, dstStat d), (0x34, dstFstat d), (0x38, dstEprog d), (0x3C, d.ce), (0x40, dstWdog d)] r).getD 0

/-- The registers of an AHL block. -/
def ahlNarrow (x : Port) (r : Nat) : Nat :=
  (pick [(0x00, ahlLink x), (0x04, x.link.holdBeats.toNat), (0x08, x.evtLost), (0x0C, (x.window.map Window.pages).getD 0), (0x10, x.winLost)] r).getD 0

/-- The 32-bit registers of a lane. -/
def laneNarrow (s : State) (n r : Nat) : Nat :=
  let x := getLane s n
  (pick [(0x00, strCtrlWord x), (0x04, strStat s n), (0x08, strPeer x), (0x0C, x.delay), (0x28, x.ctr.fecUncorr), (0x2C, x.ctr.crcErr),
         (0x30, x.ctr.replay), (0x34, x.ctr.retrain), (0x38, x.ctr.schedStall), (0x3C, x.ctr.drop), (0x40, x.ctr.lateAck)] r).getD 0

/-- The 32-bit registers of a bobbin. -/
def bobNarrow (s : State) (b r : Nat) : Nat :=
  let x := getBob s b
  if b ≥ nBobbins s then 0
  else if 0x80 ≤ r && r < 0xA4 then dieStat (getDie x ((r - 0x80) / 4))
  else
    (pick [(0x00, bobStat x), (0x04, freeBlocks x), (0x08, x.ctr.retired), (0x0C, bobMigrate s b), (0x28, x.ctr.pfail), (0x2C, x.ctr.efail),
           (0x30, x.ctr.uncorr), (0x34, x.ctr.refresh), (0x40, x.ctr.wearMax), (0x44, x.ctr.life), (0x118, cardStat x)] r).getD 0

/-- The 32-bit registers of MEM. -/
def memNarrow (s : State) (r : Nat) : Nat :=
  if 0x40 ≤ r && r < 0x50 then stkStat (getStack s ((r - 0x40) / 4))
  else if 0x80 ≤ r && r < 0x90 then (getStack s ((r - 0x80) / 4)).ue
  else if 0x100 ≤ r && r < 0x300 then (if r % 8 = 0 then slRes s ((r - 0x100) / 8) else slHeld s ((r - 0x100) / 8))
  else (pick [(0x00, 98304), (0x04, 94208), (0x08, freePages s), (0x0C, sealedReserve s)] r).getD 0

/-- The 32-bit registers of RAS. -/
def rasNarrow (s : State) (r : Nat) : Nat :=
  if 0x100 ≤ r && r < 0x1C0 then spnWord s ((r - 0x100) / 4)
  else if 0x200 ≤ r && r < 0x210 then coreWord s ((r - 0x200) / 4)
  else if 0x300 ≤ r && r < 0x480 then mapWord (mapEntryAt s.ras.mapStr ((r - 0x300) / 4))
  else if 0x500 ≤ r && r < 0x510 then memWord (getStack s ((r - 0x500) / 4))
  else if 0x600 ≤ r && r < 0x640 then regWord s ((r - 0x600) / 4)
  else if 0x8000 ≤ r && r < 0x10000 then field (logSlot s ((r - 0x8000) / 32)) (r % 32) 4
  else (pick [(0x00, rasStat s), (0x04, s.ras.badAcc), (0x10, s.ras.ceThresh), (0x20, rasSpares s), (0x24, rasSpares2 s)] r).getD 0

/-- A register that is no half of a pair; an unassigned offset reads zero (R394). -/
def narrowReg (s : State) (off : Nat) : Nat :=
  if off < pwrBase then glbNarrow s off
  else if off < trdBase then pwrNarrow s (off - pwrBase)
  else if off < secBase then trdNarrow s.trd (off - trdBase)
  else if off < dstBase then secNarrow s (off - secBase)
  else if off < ahlBase then dstNarrow s.dst (off - dstBase)
  else if off < strBase then ahlNarrow (getPort s ((off - ahlBase) / 0x10000)) (off % 0x10000)
  else if off < spnBase then laneNarrow s ((off - strBase) / 0x1000) (off % 0x1000)
  else if off < bobBase then
    (let n := (off - spnBase) / 0x1000
     if off % 0x1000 = 0 then spnStat s n else if off % 0x1000 = 0x50 then spnAccFlt (getSpn s n) else 0)
  else if off < memBase then bobNarrow s ((off - bobBase) / 0x1000) (off % 0x1000)
  else if off < rasBase then memNarrow s (off - memBase)
  else rasNarrow s (off - rasBase)

/-! ### Reads (R15, R174, R395) -/

/-- A requester's number. -/
def requesterNumber : Requester → Nat
  | .port p => p.val
  | .core c => 4 + c.val
  | .sideband => 10

/-- The key of a requester's latch of a HI register. -/
def latchKey (who : Requester) (off : Nat) : Nat := requesterNumber who * 2 ^ 24 + off

/-- A latch is set. -/
def setLatch (s : State) (who : Requester) (off v : Nat) : State :=
  { s with latch := writeD 0#32 s.latch (latchKey who off) (BitVec.ofNat 32 v) }

/-- The offset is that of a latched register: a HI half, or TRD_SUBBEAT. -/
def latched (s : State) (off : Nat) : Bool := off = trdBase + 8 || (off ≥ 4 && (wide s (off - 4)).isSome)

/-- The sub-beat count within the beat of a read is a free value; it stays 0 before NUMBERED (R163, R164; log entry 17). -/
def subBeat (s : State) : Nat × State :=
  if s.trd.numbered then
    let (n, s) := draw s
    (n % 2000, s)
  else (0, s)

/-- What a read of a register gives, and its latching (R395). -/
def readReg (s : State) (who : Requester) (off : Nat) : Nat × State :=
  if latched s off then ((readD 0#32 s.latch (latchKey who off)).toNat, s)
  else
    match wide s off with
    | some v =>
      let s := setLatch s who (off + 4) (v / 2 ^ 32)
      if off = trdBase then
        let (n, s) := subBeat s
        (v % 2 ^ 32, setLatch s who (trdBase + 8) n)
      else (v % 2 ^ 32, s)
    | none => (narrowReg s off % 2 ^ 32, s)

/-- A requester has its answer. -/
def answerRead (s : State) (who : Requester) (v : Nat) : State :=
  { s with readData := writeD 0#32 s.readData (requesterNumber who) (BitVec.ofNat 32 v) }

/-- The sensor of a stack is read: its temperature is a free value, HOT says that it is above 85 (20 MEM_STK_STAT; log entry 5). -/
def senseStack (s : State) (i : Nat) : State :=
  if s.glb.stage = 0 then s
  else
    let (n, s) := draw s
    modStack s i (fun k => { k with temp := n % 256, hot := decide (n % 256 > 85) })

/-- A read of MEM_STK_STAT reads the sensor of its stack. -/
def senseAt (s : State) (off : Nat) : State := if memBase + 0x40 ≤ off && off < memBase + 0x50 then senseStack s ((off - memBase - 0x40) / 4) else s

/-- A control-space read by a requester (R15). -/
def readControl (s : State) (who : Requester) (off width : Nat) : State :=
  if badShape off width then answerRead (badAccess s off) who 0
  else
    let (v, s) := readReg (senseAt s off) who off
    answerRead s who v

/-- LO_REGISTER_READ: a read of the control space. A LO register latches the rest of its quantity; every other register is read in the same way. -/
def execLoRegisterRead (who : Requester) (off : Nat) (width : Nat) (s : State) : Host.Outcome State Fault Refusal :=
  .next (readControl s who off width)

/-! ### Writes -/

/-- GLB changed. -/
def modGlb (s : State) (f : Glb → Glb) : State := { s with glb := f s.glb }

/-- LO or HI of a 64-bit field written; the low `r` bits are reserved. -/
def putHalf (q : BitVec 64) (hi : Bool) (r : Nat) (v : Word) : BitVec 64 :=
  if hi then BitVec.ofNat 64 (q.toNat % 2 ^ 32 + v.toNat * 2 ^ 32)
  else BitVec.ofNat 64 (q.toNat / 2 ^ 32 * 2 ^ 32 + v.toNat / 2 ^ r * 2 ^ r)

/-- A write of a port's set-up register (02 GLB_ASQ to GLB_ASIZE). -/
def writeSetup (x : Port) (r : Nat) (v : Word) : Port :=
  let hi := r % 8 = 4
  if r = 0x20 then { x with regs := { x.regs with asize := v.setWidth 12 } }
  else if r < 0x08 then { x with regs := { x.regs with asq := putHalf x.regs.asq hi 12 v } }
  else if r < 0x10 then { x with regs := { x.regs with acq := putHalf x.regs.acq hi 12 v } }
  else if r < 0x18 then { x with regs := { x.regs with evt := putHalf x.regs.evt hi 12 v } }
  else { x with regs := { x.regs with adb := putHalf x.regs.adb hi 6 v } }

/-- GLB_ACTRL written: EN decides between the two rows of R25. -/
def writeAdmin (s : State) (p : Nat) (v : Word) : State := if v.getLsbD 0 then enableRings s p v else disableRings s p v

/-- A write into a port's admin register set: set-up registers are ignored while its rings run (R25). -/
def writePortRegs (s : State) (p r : Nat) (v : Word) : State :=
  if r = 0x24 then writeAdmin s p v
  else if r > 0x20 || (getPort s p).regs.run then s
  else modPort s p (fun x => writeSetup x r v)

/-- GLB_LOCK written (R397). -/
def writeLock (s : State) (v : Word) : State := modGlb s (fun g => { g with lock := g.lock || v.getLsbD 0 })

/-- A write into GLB. -/
def writeGlb (s : State) (r : Nat) (v : Word) : State :=
  if r = 0x40 then
    (if s.glb.lock then s
     else modGlb s (fun g => { g with i3cSa := v.setWidth 7, i2cEn := v.getLsbD 7, sbWrite := v.getLsbD 8 }))
  else if 0x80 ≤ r && r < 0x90 then modGlb s (fun g => { g with scratch := writeD 0#32 g.scratch ((r - 0x80) / 4) v })
  else if r = 0xFC then writeLock s v
  else if 0x100 ≤ r && r < 0x200 then writePortRegs s ((r - 0x100) / 0x40) (r % 0x40) v
  else s

/-- A write into PWR: PWR_LIMIT and PWR_IDLEn take effect at the next beat (19 R393). -/
def writePwr (s : State) (r : Nat) (v : Word) : State :=
  if r = 0x04 then writeLimit s v
  else if 0x10 ≤ r && r < 0x20 then modPwr s (fun p => { p with pendIdle := insertKey p.pendIdle ((r - 0x10) / 4 + 1) (v.toNat % 2 ^ 24) })
  else s

/-- A write into DST, as its place in the sequence of 16 R336 makes it. -/
def writeDst (s : State) (r : Nat) (v : Word) : State :=
  if r = 0x00 then unlockDst s v
  else if r = 0x04 then writeCmd s v
  else if r = 0x08 then writeAddr s v
  else if 0x10 ≤ r && r < 0x30 then writeData s ((r - 0x10) / 4) v
  else if r = 0x30 then writeDstStat s v
  else s

/-- A write of a register; what takes no write changes nothing (20 "Complete map"). -/
def writeReg (s : State) (off : Nat) (v : Word) : State :=
  if off < pwrBase then writeGlb s off v
  else if off < trdBase then writePwr s (off - pwrBase) v
  else if off < secBase then (if off = trdBase + 0x0C then writeRefSel s v else s)
  else if off < dstBase then s
  else if off < ahlBase then writeDst s (off - dstBase) v
  else if off < strBase then
    (if off % 0x10000 = 4 then modPort s ((off - ahlBase) / 0x10000) (fun x => { x with link := { x.link with holdBeats := v.setWidth 24 } }) else s)
  else if off < spnBase then
    (let n := (off - strBase) / 0x1000
     if off % 0x1000 ≠ 0 then s else if v.getLsbD 0 then enableLane s n v else disableLane s n v)
  else if off = rasBase + 0x10 then modRas s (fun k => { k with ceThresh := v.toNat % 2 ^ 16 })
  else s

/-- A control-space write by a requester (R15, R398). -/
def writeControl (s : State) (who : Requester) (off width : Nat) (v : Word) : State :=
  if badShape off width then badAccess s off else ctlWrite s who off (fun s => writeReg s off v)

/-- REGISTER_WRITE. -/
def execRegisterWrite (who : Requester) (off : Nat) (width : Nat) (v : Word) (s : State) : Host.Outcome State Fault Refusal :=
  .next (writeControl s who off width v)

/-- GLB_LOCK_WRITE (R397). -/
def execGlbLockWrite (who : Requester) (v : Word) (s : State) : Host.Outcome State Fault Refusal :=
  .next (ctlWrite s who 0xFC (fun s => writeLock s v))

/-- The offset of a port's GLB_ACTRL. -/
def actrlOff (p : Nat) : Nat := 0x124 + 0x40 * p

/-- ADMIN_RINGS_ENABLE: a write of GLB_ACTRL with EN 1 (R25); with EN 0 it is ADMIN_RINGS_DISABLE's. -/
def execAdminRingsEnable (who : Requester) (p : Fin 4) (v : Word) (s : State) : Host.Outcome State Fault Refusal :=
  .next (ctlWrite s who (actrlOff p.val) (fun s => if v.getLsbD 0 then enableRings s p.val v else s))

/-- ADMIN_RINGS_DISABLE: a write of GLB_ACTRL with EN 0 (R25); with EN 1 it is ADMIN_RINGS_ENABLE's. -/
def execAdminRingsDisable (who : Requester) (p : Fin 4) (v : Word) (s : State) : Host.Outcome State Fault Refusal :=
  .next (ctlWrite s who (actrlOff p.val) (fun s => if v.getLsbD 0 then s else disableRings s p.val v))

end Sys2Proof.Machine
end

