-- ==== Sys2Proof/Machine/Sideband.lean ====
section
/-! DEFINITION. The sideband target and the JTAG port (21 R407-R409; 17 R342). -/

namespace Sys2Proof.Machine

/-! ### The sideband (R407, R408) -/

/-- The sideband target changed. -/
def modSb (s : State) (f : Sideband → Sideband) : State := { s with sideband := f s.sideband }

/-- The sideband is served from stage 2 of boot onward (R407). -/
def served (s : State) (k : State → State) : State := if s.glb.stage = 0 then s else k s

/-- Bytes of a number, most significant first. -/
def beBytes (n v : Nat) : List Byte := (leBytes n v).reverse

/-- PID, BCR and DCR as the target sends them (log entry 25). -/
def pidBytes : List Byte := beBytes 6 Config.i3cPid
def bcrBytes : List Byte := beBytes 1 Config.i3cBcr
def dcrBytes : List Byte := beBytes 1 Config.i3cDcr

/-- The target answers a directed CCC once it has a dynamic address. -/
def answerCcc (s : State) (b : List Byte) : State := if s.sideband.dynAddr.isSome then modSb s (fun x => { x with answer := b }) else s

/-- ENTDAA: a target without a dynamic address sends its identity and takes one. -/
def execEntdaa (addr : BitVec 7) (s : State) : Host.Outcome State Fault Refusal :=
  .next (served s (fun s =>
    if s.sideband.dynAddr.isSome then s
    else modSb s (fun x => { x with dynAddr := some addr, answer := pidBytes ++ bcrBytes ++ dcrBytes })))

/-- SETDASA: the target at its static address I3C_SA takes a dynamic address. -/
def execSetdasa (static addr : BitVec 7) (s : State) : Host.Outcome State Fault Refusal :=
  .next (served s (fun s =>
    if static = s.glb.i3cSa && s.sideband.dynAddr.isNone then modSb s (fun x => { x with dynAddr := some addr }) else s))

/-- RSTDAA: the dynamic address is dropped. -/
def execRstdaa (s : State) : Host.Outcome State Fault Refusal := .next (served s (fun s => modSb s (fun x => { x with dynAddr := none })))

/-- GETPID. -/
def execGetpid (s : State) : Host.Outcome State Fault Refusal := .next (served s (fun s => answerCcc s pidBytes))

/-- GETBCR. -/
def execGetbcr (s : State) : Host.Outcome State Fault Refusal := .next (served s (fun s => answerCcc s bcrBytes))

/-- GETDCR. -/
def execGetdcr (s : State) : Host.Outcome State Fault Refusal := .next (served s (fun s => answerCcc s dcrBytes))

/-- GETSTATUS: two status bytes, whose value is a free value (log entry 25). -/
def execGetstatus (s : State) : Host.Outcome State Fault Refusal :=
  .next (served s (fun s =>
    let (n, s) := draw s
    answerCcc s (leBytes 2 n)))

/-- ENEC: in-band interrupts are enabled. -/
def execEnec (s : State) : Host.Outcome State Fault Refusal := .next (served s (fun s => modSb s (fun x => { x with ibiEnabled := true })))

/-- DISEC: in-band interrupts are disabled. -/
def execDisec (s : State) : Host.Outcome State Fault Refusal := .next (served s (fun s => modSb s (fun x => { x with ibiEnabled := false })))

/-- SIDEBAND_READ_REQUEST: OP 0x01 and three offset bytes; any other OP or length is ignored (R408). -/
def execSidebandReadRequest (bytes : List Byte) (s : State) : Host.Outcome State Fault Refusal :=
  .next (served s (fun s =>
    if bytes.length = 4 && field bytes 0 1 = 1 then modSb s (fun x => { x with readOff := some (field bytes 1 3) }) else s))

/-- SIDEBAND_READ_DATA: the four bytes of the register asked for, or zeros without a request (R408). -/
def execSidebandReadData (s : State) : Host.Outcome State Fault Refusal :=
  .next (served s (fun s =>
    match s.sideband.readOff with
    | some off =>
      let s := readControl s .sideband off 4
      modSb s (fun x => { x with readOff := none, answer := leBytes 4 (readD 0#32 s.readData (requesterNumber .sideband)).toNat })
    | none => modSb s (fun x => { x with answer := leBytes 4 0 })))

/-- SIDEBAND_WRITE: OP 0x02, three offset bytes, four data bytes; any other OP or length is ignored (R408). -/
def execSidebandWrite (bytes : List Byte) (s : State) : Host.Outcome State Fault Refusal :=
  .next (served s (fun s =>
    if bytes.length = 8 && field bytes 0 1 = 2 then writeControl s .sideband (field bytes 1 3) 4 (BitVec.ofNat 32 (field bytes 4 4)) else s))

/-! ### JTAG (R409) -/

/-- The JTAG port changed. -/
def modJtag (s : State) (f : Jtag → Jtag) : State := { s with jtag := f s.jtag }

/-- What the lands do: 0 their function, 1 the boundary cells, 2 and 3 the pulses and trains of IEEE 1149.6, 4 high impedance. -/
def driveFunction : Nat := 0
def driveCells : Nat := 1
def drivePulse : Nat := 2
def driveTrain : Nat := 3
def driveOff : Nat := 4

/-- IDCODE: 0x1C2E4ACB, whose bits [31:28] follow GLB_REV.MAIN (R409). -/
def idcodeValue : Nat := 0xC2E4ACB + glbRev % 16 * 2 ^ 28

/-- The bypass register selected. -/
def toBypass (x : Jtag) (ir : JtagIr) (drive : Nat) : Jtag := { x with ir := ir, dr := [false], drive := drive }

/-- BYPASS. -/
def execBypass (s : State) : Host.Outcome State Fault Refusal := .next (modJtag s (fun x => toBypass x .bypass driveFunction))

/-- IDCODE. -/
def execIdcode (s : State) : Host.Outcome State Fault Refusal :=
  .next (modJtag s (fun x => { x with ir := .idcode, dr := (List.range 32).map (bit idcodeValue), drive := driveFunction }))

/-- Levels sampled on n lands: free values, since the cell order is not in the spec (log entry 26). -/
def sampleLands (s : State) : Nat → List Bool × State
  | 0 => ([], s)
  | n + 1 =>
    let (k, s) := draw s
    let (l, s) := sampleLands s n
    (bit k 0 :: l, s)

/-- SAMPLE/PRELOAD: the lands are sampled and the cells preloaded; the lands keep their function. -/
def execSamplePreload (cells : List Bool) (s : State) : Host.Outcome State Fault Refusal :=
  let (l, s) := sampleLands s cells.length
  .next (modJtag s (fun x => { x with ir := .sample, dr := l, cells := cells, drive := driveFunction }))

/-- A test that drives the lands from the cells; the lands it captures are free values. -/
def driveTest (s : State) (ir : JtagIr) (drive : Nat) (cells : List Bool) : State :=
  let (l, s) := sampleLands s cells.length
  modJtag s (fun x => { x with ir := ir, dr := l, cells := cells, drive := drive })

/-- EXTEST. -/
def execExtest (cells : List Bool) (s : State) : Host.Outcome State Fault Refusal := .next (driveTest s .extest driveCells cells)

/-- EXTEST_PULSE (IEEE 1149.6). -/
def execExtestPulse (cells : List Bool) (s : State) : Host.Outcome State Fault Refusal := .next (driveTest s .extestPulse drivePulse cells)

/-- EXTEST_TRAIN (IEEE 1149.6). -/
def execExtestTrain (cells : List Bool) (s : State) : Host.Outcome State Fault Refusal := .next (driveTest s .extestTrain driveTrain cells)

/-- HIGHZ: the lands are released, the bypass register is selected. -/
def execHighz (s : State) : Host.Outcome State Fault Refusal := .next (modJtag s (fun x => toBypass x .highz driveOff))

/-- CLAMP: the lands hold the preloaded cells, the bypass register is selected. -/
def execJtagClamp (s : State) : Host.Outcome State Fault Refusal := .next (modJtag s (fun x => toBypass x .clamp driveCells))

/-- A byte a debugger reads at level 0: anything but the key store (17 R342, R337; log entry 26). -/
def debugRead (s : State) (t : DebugTarget) : List Byte :=
  match t with
  | .scratch p a => [readByte (getSpn s p.val).ctx.scratch a]
  | .pool q a => [((lookup s.slices q.val).map (fun x => readByte x.pool a)).getD 0]
  | .commons q a => [((lookup s.slices q.val).map (fun x => readByte x.commons a)).getD 0]
  | .distaff a => if regionOf (a % 0x4000000) = .keyStore then [] else readDistaff s (a % 0x4000000) 1

/-- A vendor debug instruction: at levels 1 and 2 it acts as BYPASS (17 R342). -/
def execVendorDebugInstruction (target : DebugTarget) (s : State) : Host.Outcome State Fault Refusal :=
  .next (if level s ≠ 0 then modJtag s (fun x => toBypass x .bypass driveFunction)
  else
    let s := { s with sec := { s.sec with jtagSession := true } }
    modJtag s (fun x => { x with ir := .debug, drive := driveFunction, debugOut := debugRead s target }))

end Sys2Proof.Machine
end

