-- ==== Sys2Proof/Machine/StrandOps.lean ====
section
/-! DEFINITION. The strand descriptors (11 R222, R223). -/

namespace Sys2Proof.Machine

/-- TIMEOUT in strides; 0 means 125. -/
def strides (t : Nat) : Nat := if t = 0 then 125 else t

/-- The strand packets' OP of an opcode. -/
def packetOp (opcode : Nat) : Nat := if opcode = 0x80 then 1 else if opcode = 0x81 then 2 else if opcode = 0x82 then 4 else 5

/-- The local buffer lies in the slice's commons share, its mapped pool pages, or the port's address space (R222). -/
def localBad (s : State) (o : Op) (tier addr n : Nat) : Bool := if tier = 0 then decide (addr + n > 2 ^ 64) else !inSlice s o.slice tier addr n

/-- The checks of STR_WRITE, STR_READ, STR_MSG and STR_REDUCE (R222). -/
def strChecks (s : State) (o : Op) : List (Bool × Nat × Nat) :=
  let len := o.f 32 4
  [(o.opcode = 0x83 && (o.f 14 1 = 0 || o.f 14 1 > 3), stBadDescriptor, 0), (o.f 15 1 > 2, stBadDescriptor, 0),
   (len = 0 || len > 16777216 || (o.opcode = 0x82 && len > 4096) || (o.opcode = 0x83 && len % 4 ≠ 0), stBadDescriptor, 0),
   (localBad s o (o.f 15 1) (o.f 16 8) len, stBounds, 0)]

/-- The operation has transactions outstanding. -/
def hasTxns (s : State) (id : Nat) : Bool := s.strand.txns.any (fun t => posts t && t.op = id)

/-- The transaction of a strand descriptor. -/
def strTxn (id : Nat) (o : Op) (data : List Byte) : Txn :=
  { kind := .single, op := id, entry := 0, slice := o.slice, node := o.f 8 4 % 2 ^ 18, opc := packetOp o.opcode, ep := o.f 12 2, key := o.f 40 4,
    rop := if o.opcode = 0x83 then o.f 14 1 else 0, roff := o.f 24 8, pkts := splitPackets (o.f 32 4) data, port := o.port, ltier := o.f 15 1,
    laddr := o.f 16 8, leftAt := none, timeout := strides (o.f 36 2), ended := none }

/-- The local buffer is reached, then `ok`: another slice's window denies it, lines the partner holds and hanks are waited for. -/
def withLocal (s : State) (id : Nat) (o : Op) (tier addr n : Nat) (wr : Bool) (ok : State → State) : State :=
  if tier = 0 && partnerDenied s o.port o.slice addr n then fail s id stDenied 0
  else
    match reach s o.port o.slice tier addr n wr (fun s => .done stOk (ok s)) with
    | .done st s' => if st = stOk then s' else fail s' id st 0
    | .wait s => s

/-- A strand descriptor that sends its local buffer. -/
def sendBuffer (s : State) (id : Nat) (o : Op) : State :=
  if hasTxns s id then s
  else
    checks s id (strChecks s o)
      (withLocal s id o (o.f 15 1) (o.f 16 8) (o.f 32 4) false (fun s =>
        issueTxn s (strTxn id o (bufBytes s o.port o.slice (o.f 15 1) (o.f 16 8) (o.f 32 4)))))

/-- STR_WRITE (R222). -/
def execStrWrite (op : Nat) (s : State) : Host.Outcome State Fault Refusal := .next (runOp s op 0x80 3 (fun o s => sendBuffer s op o))

/-- STR_READ: requests go out; the bytes come with the responses (R221, R222). -/
def execStrRead (op : Nat) (s : State) : Host.Outcome State Fault Refusal :=
  .next (runOp s op 0x81 3 (fun o s =>
    if hasTxns s op then s
    else
      checks s op (strChecks s o)
        (if o.f 15 1 = 0 && partnerDenied s o.port o.slice (o.f 16 8) (o.f 32 4) then fail s op stDenied 0 else issueTxn s (strTxn op o []))))

/-- STR_MSG (R222). -/
def execStrMsg (op : Nat) (s : State) : Host.Outcome State Fault Refusal := .next (runOp s op 0x82 3 (fun o s => sendBuffer s op o))

/-- STR_REDUCE (R222). -/
def execStrReduce (op : Nat) (s : State) : Host.Outcome State Fault Refusal := .next (runOp s op 0x83 3 (fun o s => sendBuffer s op o))

/-! ### STR_GATHER (R223) -/

/-- Entry j of a gather list. -/
def gatherEntry (b : List Byte) (j : Nat) : List Byte := cut b (32 * j) 32

/-- A gather entry has a non-zero reserved field or a LEN out of range. -/
def gatherBad (e : List Byte) : Bool := field e 0 4 ≥ 2 ^ 18 || field e 6 2 ≠ 0 || field e 12 4 = 0 || field e 12 4 > 16777216

/-- The transaction of entry j. -/
def gatherTxn (id : Nat) (o : Op) (e : List Byte) (j : Nat) : Txn :=
  { kind := .gather, op := id, entry := j, slice := o.slice, node := field e 0 4 % 2 ^ 18, opc := 2, ep := field e 4 2, key := field e 8 4, rop := 0,
    roff := field e 16 8, pkts := splitPackets (field e 12 4) [], port := o.port, ltier := o.f 17 1, laddr := o.f 24 8 + field e 24 8, leftAt := none,
    timeout := strides (o.f 18 2), ended := none }

/-- STR_GATHER: one transaction per entry, in list order. -/
def execStrGather (op : Nat) (s : State) : Host.Outcome State Fault Refusal :=
  .next (runOp s op 0x84 3 (fun o s =>
    let n := o.f 16 1
    let list := o.f 8 8
    let tier := o.f 17 1
    if hasTxns s op then s
    else
      checks s op [(list % 64 ≠ 0, stBadDescriptor, 0), (n = 0 || n > 64, stBadDescriptor, 0), (tier > 2, stBadDescriptor, 0)]
        (withPartner s op o [(list, 32 * n, false)]
          (let es := (List.range n).map (gatherEntry (readPartner s o.port list (32 * n)))
           let at_ : List Byte → Nat := fun e => o.f 24 8 + field e 24 8
           checks s op
             [(homeFails s o.port list (32 * n), stBadDescriptor, 0), (es.any gatherBad, stBadDescriptor, 0),
              (es.any (fun e => localBad s o tier (at_ e) (field e 12 4)), stBounds, 0),
              (tier = 0 && es.any (fun e => partnerDenied s o.port o.slice (at_ e) (field e 12 4)), stDenied, 0)]
             ((es.zipIdx).foldl (fun s e => issueTxn s (gatherTxn op o e.1 e.2)) s)))))

end Sys2Proof.Machine
end

