-- ==== Sys2Proof/Machine/Dispatch.lean ====
section
/-! DEFINITION. One arm per command: a direct call of its meaning. -/

namespace Sys2Proof.Machine

/-- The effect of a command on everything but the queue (log entries 1, 2). -/
def exec (i : Instr) (s : State) : Host.Outcome State Fault Refusal :=
  match i with
  | .registerWrite who off width v => Sys2Proof.Machine.execRegisterWrite who off width v s
  | .loRegisterRead who off width => Sys2Proof.Machine.execLoRegisterRead who off width s
  | .glbLockWrite who v => Sys2Proof.Machine.execGlbLockWrite who v s
  | .adminRingsEnable who p v => Sys2Proof.Machine.execAdminRingsEnable who p v s
  | .adminRingsDisable who p v => Sys2Proof.Machine.execAdminRingsDisable who p v s
  | .portReady p => Sys2Proof.Machine.execPortReady p s
  | .doorbellInvalidate p line stores => Sys2Proof.Machine.execDoorbellInvalidate p line stores s
  | .doorbellPoll p stores => Sys2Proof.Machine.execDoorbellPoll p stores s
  | .descriptorFetch p sq => Sys2Proof.Machine.execDescriptorFetch p sq s
  | .heldEntryPost p => Sys2Proof.Machine.execHeldEntryPost p s
  | .interruptCoalesceTimeout p cq => Sys2Proof.Machine.execInterruptCoalesceTimeout p cq s
  | .coherentRead p addr => Sys2Proof.Machine.execCoherentRead p addr s
  | .readForOwnership p addr => Sys2Proof.Machine.execReadForOwnership p addr s
  | .nonAllocatingWrite p addr data => Sys2Proof.Machine.execNonAllocatingWrite p addr data s
  | .recallTimeout p => Sys2Proof.Machine.execRecallTimeout p s
  | .ahlLinkLost p => Sys2Proof.Machine.execAhlLinkLost p s
  | .ahlLinkRestored p => Sys2Proof.Machine.execAhlLinkRestored p s
  | .holdBeatsExpiry p => Sys2Proof.Machine.execHoldBeatsExpiry p s
  | .partnerLinkReset p => Sys2Proof.Machine.execPartnerLinkReset p s
  | .teardownComplete p => Sys2Proof.Machine.execTeardownComplete p s
  | .ahlLaneFailure p lane => Sys2Proof.Machine.execAhlLaneFailure p lane s
  | .cqCreate op => Sys2Proof.Machine.execCqCreate op s
  | .sqCreate op => Sys2Proof.Machine.execSqCreate op s
  | .ringDelete op => Sys2Proof.Machine.execRingDelete op s
  | .ringDeleteComplete op => Sys2Proof.Machine.execRingDeleteComplete op s
  | .windowMap op => Sys2Proof.Machine.execWindowMap op s
  | .windowUnmap op => Sys2Proof.Machine.execWindowUnmap op s
  | .matmul sp w => Sys2Proof.Machine.execMatmul sp w s
  | .conv sp w => Sys2Proof.Machine.execConv sp w s
  | .bandRecv sp w => Sys2Proof.Machine.execBandRecv sp w s
  | .broadcastStart sp => Sys2Proof.Machine.execBroadcastStart sp s
  | .load sp w => Sys2Proof.Machine.execLoad sp w s
  | .store sp w => Sys2Proof.Machine.execStore sp w s
  | .drain sp w => Sys2Proof.Machine.execDrain sp w s
  | .requant sp w => Sys2Proof.Machine.execRequant sp w s
  | .vld sp w => Sys2Proof.Machine.execVld sp w s
  | .vst sp w => Sys2Proof.Machine.execVst sp w s
  | .add sp w => Sys2Proof.Machine.execAdd sp w s
  | .sub sp w => Sys2Proof.Machine.execSub sp w s
  | .mul sp w => Sys2Proof.Machine.execMul sp w s
  | .fma sp w => Sys2Proof.Machine.execFma sp w s
  | .max sp w => Sys2Proof.Machine.execMax sp w s
  | .min sp w => Sys2Proof.Machine.execMin sp w s
  | .abs sp w => Sys2Proof.Machine.execAbs sp w s
  | .neg sp w => Sys2Proof.Machine.execNeg sp w s
  | .relu sp w => Sys2Proof.Machine.execRelu sp w s
  | .clamp sp w => Sys2Proof.Machine.execClamp sp w s
  | .select sp w => Sys2Proof.Machine.execSelect sp w s
  | .cvt sp w => Sys2Proof.Machine.execCvt sp w s
  | .qcvt sp w => Sys2Proof.Machine.execQcvt sp w s
  | .deq sp w => Sys2Proof.Machine.execDeq sp w s
  | .recip sp w => Sys2Proof.Machine.execRecip sp w s
  | .sqrt sp w => Sys2Proof.Machine.execSqrt sp w s
  | .rsqrt sp w => Sys2Proof.Machine.execRsqrt sp w s
  | .exp2 sp w => Sys2Proof.Machine.execExp2 sp w s
  | .log2 sp w => Sys2Proof.Machine.execLog2 sp w s
  | .exp sp w => Sys2Proof.Machine.execExp sp w s
  | .sigmoid sp w => Sys2Proof.Machine.execSigmoid sp w s
  | .tanh sp w => Sys2Proof.Machine.execTanh sp w s
  | .silu sp w => Sys2Proof.Machine.execSilu sp w s
  | .gelu sp w => Sys2Proof.Machine.execGelu sp w s
  | .redsum sp w => Sys2Proof.Machine.execRedsum sp w s
  | .redmax sp w => Sys2Proof.Machine.execRedmax sp w s
  | .softmax sp w => Sys2Proof.Machine.execSoftmax sp w s
  | .rmsnorm sp w => Sys2Proof.Machine.execRmsnorm sp w s
  | .layernorm sp w => Sys2Proof.Machine.execLayernorm sp w s
  | .frowRedsum sp w => Sys2Proof.Machine.execFrowRedsum sp w s
  | .frowRedmax sp w => Sys2Proof.Machine.execFrowRedmax sp w s
  | .l2sq sp w => Sys2Proof.Machine.execL2sq sp w s
  | .ip sp w => Sys2Proof.Machine.execIp sp w s
  | .cos sp w => Sys2Proof.Machine.execCos sp w s
  | .signal sp w => Sys2Proof.Machine.execSignal sp w s
  | .signalEffect sp => Sys2Proof.Machine.execSignalEffect sp s
  | .wait sp w => Sys2Proof.Machine.execWait sp w s
  | .rankResume job rank => Sys2Proof.Machine.execRankResume job rank s
  | .workLocal sp w => Sys2Proof.Machine.execWorkLocal sp w s
  | .workCounter sp w => Sys2Proof.Machine.execWorkCounter sp w s
  | .workInit sp w => Sys2Proof.Machine.execWorkInit sp w s
  | .shape sp w => Sys2Proof.Machine.execShape sp w s
  | .fence sp w => Sys2Proof.Machine.execFence sp w s
  | .stepEnd job => Sys2Proof.Machine.execStepEnd job s
  | .jobSubmit op => Sys2Proof.Machine.execJobSubmit op s
  | .jobIssue op => Sys2Proof.Machine.execJobIssue op s
  | .jobDispatch job => Sys2Proof.Machine.execJobDispatch job s
  | .jobStepTimeLimit job => Sys2Proof.Machine.execJobStepTimeLimit job s
  | .jobAbort op => Sys2Proof.Machine.execJobAbort op s
  | .poolMap op => Sys2Proof.Machine.execPoolMap op s
  | .skeinLoad op => Sys2Proof.Machine.execSkeinLoad op s
  | .skeinRelease op => Sys2Proof.Machine.execSkeinRelease op s
  | .skeinPin op => Sys2Proof.Machine.execSkeinPin op s
  | .skeinUnpin op => Sys2Proof.Machine.execSkeinUnpin op s
  | .hankPark op => Sys2Proof.Machine.execHankPark op s
  | .hankRestore op => Sys2Proof.Machine.execHankRestore op s
  | .demandRestore slice page => Sys2Proof.Machine.execDemandRestore slice page s
  | .prefetchDirectiveIssue job idx => Sys2Proof.Machine.execPrefetchDirectiveIssue job idx s
  | .lateLimitExpiry job => Sys2Proof.Machine.execLateLimitExpiry job s
  | .beat => Sys2Proof.Machine.execBeat s
  | .referenceQualified ref => Sys2Proof.Machine.execReferenceQualified ref s
  | .referenceLost ref => Sys2Proof.Machine.execReferenceLost ref s
  | .pllLock => Sys2Proof.Machine.execPllLock s
  | .epochPulse ref offset => Sys2Proof.Machine.execEpochPulse ref offset s
  | .epochMissing ref => Sys2Proof.Machine.execEpochMissing ref s
  | .refSelWrite who v => Sys2Proof.Machine.execRefSelWrite who v s
  | .beatMarker n m offset => Sys2Proof.Machine.execBeatMarker n m offset s
  | .skewLost => Sys2Proof.Machine.execSkewLost s
  | .draftLoad op => Sys2Proof.Machine.execDraftLoad op s
  | .draftRelease op => Sys2Proof.Machine.execDraftRelease op s
  | .draftStart op => Sys2Proof.Machine.execDraftStart op s
  | .stepStart job => Sys2Proof.Machine.execStepStart job s
  | .voteSend job => Sys2Proof.Machine.execVoteSend job s
  | .voteRecord n slice v => Sys2Proof.Machine.execVoteRecord n slice v s
  | .voteDecide job => Sys2Proof.Machine.execVoteDecide job s
  | .slotOpen job idx => Sys2Proof.Machine.execSlotOpen job idx s
  | .scheduledTransfer job link hdr data => Sys2Proof.Machine.execScheduledTransfer job link hdr data s
  | .markerTimeout slice n => Sys2Proof.Machine.execMarkerTimeout slice n s
  | .freezeStopTimeout job => Sys2Proof.Machine.execFreezeStopTimeout job s
  | .plyReformForm op found => Sys2Proof.Machine.execPlyReformForm op found s
  | .plyReformResume op found => Sys2Proof.Machine.execPlyReformResume op found s
  | .plyReformDissolve op => Sys2Proof.Machine.execPlyReformDissolve op s
  | .laneTrainingComplete n far => Sys2Proof.Machine.execLaneTrainingComplete n far s
  | .dataFlit n f => Sys2Proof.Machine.execDataFlit n f s
  | .markerFlit n f => Sys2Proof.Machine.execMarkerFlit n f s
  | .voteFlit n f => Sys2Proof.Machine.execVoteFlit n f s
  | .nakFlit n f => Sys2Proof.Machine.execNakFlit n f s
  | .ackFlit n f => Sys2Proof.Machine.execAckFlit n f s
  | .trainFlit n f => Sys2Proof.Machine.execTrainFlit n f s
  | .idleFlit n f => Sys2Proof.Machine.execIdleFlit n f s
  | .ackTimer n => Sys2Proof.Machine.execAckTimer n s
  | .ackseqTimeout n => Sys2Proof.Machine.execAckseqTimeout n s
  | .retrainComplete r => Sys2Proof.Machine.execRetrainComplete r s
  | .retrainFail n => Sys2Proof.Machine.execRetrainFail n s
  | .packetRoute n onVc1 arrivedDim k => Sys2Proof.Machine.execPacketRoute n onVc1 arrivedDim k s
  | .writePacket n k => Sys2Proof.Machine.execWritePacket n k s
  | .readRequestPacket n k => Sys2Proof.Machine.execReadRequestPacket n k s
  | .readResponsePacket n k => Sys2Proof.Machine.execReadResponsePacket n k s
  | .messagePacket n k => Sys2Proof.Machine.execMessagePacket n k s
  | .reducePacket n k => Sys2Proof.Machine.execReducePacket n k s
  | .acknowledgementPacket n k => Sys2Proof.Machine.execAcknowledgementPacket n k s
  | .managementPacket n k => Sys2Proof.Machine.execManagementPacket n k s
  | .fabricSet op => Sys2Proof.Machine.execFabricSet op s
  | .strOpen op => Sys2Proof.Machine.execStrOpen op s
  | .strClose op => Sys2Proof.Machine.execStrClose op s
  | .strWrite op => Sys2Proof.Machine.execStrWrite op s
  | .strRead op => Sys2Proof.Machine.execStrRead op s
  | .strMsg op => Sys2Proof.Machine.execStrMsg op s
  | .strReduce op => Sys2Proof.Machine.execStrReduce op s
  | .strGather op => Sys2Proof.Machine.execStrGather op s
  | .transactionTimeout op => Sys2Proof.Machine.execTransactionTimeout op s
  | .laneDisable who n v => Sys2Proof.Machine.execLaneDisable who n v s
  | .laneEnable who n v => Sys2Proof.Machine.execLaneEnable who n v s
  | .filterScan op => Sys2Proof.Machine.execFilterScan op s
  | .cardCreate op => Sys2Proof.Machine.execCardCreate op s
  | .cardDrop op => Sys2Proof.Machine.execCardDrop op s
  | .cardInsert op => Sys2Proof.Machine.execCardInsert op s
  | .cardDelete op => Sys2Proof.Machine.execCardDelete op s
  | .cardPublish op => Sys2Proof.Machine.execCardPublish op s
  | .cardQuery op => Sys2Proof.Machine.execCardQuery op s
  | .cardPass b => Sys2Proof.Machine.execCardPass b s
  | .rerankUnit op => Sys2Proof.Machine.execRerankUnit op s
  | .shardRequest n k => Sys2Proof.Machine.execShardRequest n k s
  | .shardReply n k => Sys2Proof.Machine.execShardReply n k s
  | .queryDeadline op => Sys2Proof.Machine.execQueryDeadline op s
  | .programRefused b block page => Sys2Proof.Machine.execProgramRefused b block page s
  | .nandProgramFailure b block atClose => Sys2Proof.Machine.execNandProgramFailure b block atClose s
  | .nandEraseFailure b block => Sys2Proof.Machine.execNandEraseFailure b block s
  | .gcMove b block => Sys2Proof.Machine.execGcMove b block s
  | .landingFold b block => Sys2Proof.Machine.execLandingFold b block s
  | .gcRegimeChange b => Sys2Proof.Machine.execGcRegimeChange b s
  | .readSuspend b die => Sys2Proof.Machine.execReadSuspend b die s
  | .journalPageProgram => Sys2Proof.Machine.execJournalPageProgram s
  | .journalTimer => Sys2Proof.Machine.execJournalTimer s
  | .mapCheckpoint => Sys2Proof.Machine.execMapCheckpoint s
  | .lifeProjection => Sys2Proof.Machine.execLifeProjection s
  | .flashReport op => Sys2Proof.Machine.execFlashReport op s
  | .migrateDone b => Sys2Proof.Machine.execMigrateDone b s
  | .read op => Sys2Proof.Machine.execRead op s
  | .write op => Sys2Proof.Machine.execWrite op s
  | .trim op => Sys2Proof.Machine.execTrim op s
  | .flush op => Sys2Proof.Machine.execFlush op s
  | .storageFence op => Sys2Proof.Machine.execStorageFence op s
  | .storeCreate op => Sys2Proof.Machine.execStoreCreate op s
  | .storeDelete op => Sys2Proof.Machine.execStoreDelete op s
  | .selfTestShort op => Sys2Proof.Machine.execSelfTestShort op s
  | .selfTestExtended op => Sys2Proof.Machine.execSelfTestExtended op s
  | .selfTestAbort op => Sys2Proof.Machine.execSelfTestAbort op s
  | .selfTestDone found => Sys2Proof.Machine.execSelfTestDone found s
  | .holdupOkFall => Sys2Proof.Machine.execHoldupOkFall s
  | .holdupOkRise => Sys2Proof.Machine.execHoldupOkRise s
  | .sliceCreate op => Sys2Proof.Machine.execSliceCreate op s
  | .storeShareGrant op => Sys2Proof.Machine.execStoreShareGrant op s
  | .storeShareRevoke op => Sys2Proof.Machine.execStoreShareRevoke op s
  | .sliceDelete op => Sys2Proof.Machine.execSliceDelete op s
  | .schedSet op => Sys2Proof.Machine.execSchedSet op s
  | .sliceBoundary => Sys2Proof.Machine.execSliceBoundary s
  | .sliceSwitch sp => Sys2Proof.Machine.execSliceSwitch sp s
  | .meterRecordCut => Sys2Proof.Machine.execMeterRecordCut s
  | .meterSet op => Sys2Proof.Machine.execMeterSet op s
  | .meterRecordWrite => Sys2Proof.Machine.execMeterRecordWrite s
  | .dstUnlock who v => Sys2Proof.Machine.execDstUnlock who v s
  | .distaffRead who addr => Sys2Proof.Machine.execDistaffRead who addr s
  | .distaffProgram path => Sys2Proof.Machine.execDistaffProgram path s
  | .distaffErase path => Sys2Proof.Machine.execDistaffErase path s
  | .distaffSuspend path => Sys2Proof.Machine.execDistaffSuspend path s
  | .distaffResume path => Sys2Proof.Machine.execDistaffResume path s
  | .erasePulse verified => Sys2Proof.Machine.execErasePulse verified s
  | .distaffOpEnd => Sys2Proof.Machine.execDistaffOpEnd s
  | .dstStatWrite who v => Sys2Proof.Machine.execDstStatWrite who v s
  | .watchdogExpiry => Sys2Proof.Machine.execWatchdogExpiry s
  | .logCopy => Sys2Proof.Machine.execLogCopy s
  | .levelSetDevice op => Sys2Proof.Machine.execLevelSetDevice op s
  | .levelSetStore op => Sys2Proof.Machine.execLevelSetStore op s
  | .sanitise op => Sys2Proof.Machine.execSanitise op s
  | .sanitiseErase => Sys2Proof.Machine.execSanitiseErase s
  | .keyImport op => Sys2Proof.Machine.execKeyImport op s
  | .fwStage op => Sys2Proof.Machine.execFwStage op s
  | .fwCommit op => Sys2Proof.Machine.execFwCommit op s
  | .attest op => Sys2Proof.Machine.execAttest op s
  | .computeFault c => Sys2Proof.Machine.execComputeFault c s
  | .resumeCompute op testFails => Sys2Proof.Machine.execResumeCompute op testFails s
  | .controlCoreFault core kind => Sys2Proof.Machine.execControlCoreFault core kind s
  | .correctedError source index bank addr => Sys2Proof.Machine.execCorrectedError source index bank addr s
  | .repairSpindleSpare op => Sys2Proof.Machine.execRepairSpindleSpare op s
  | .repairSpindleReinstate op => Sys2Proof.Machine.execRepairSpindleReinstate op s
  | .repairSpindleWithdraw op => Sys2Proof.Machine.execRepairSpindleWithdraw op s
  | .repairCore op => Sys2Proof.Machine.execRepairCore op s
  | .repairStrandLane op => Sys2Proof.Machine.execRepairStrandLane op s
  | .repairAhlLane op => Sys2Proof.Machine.execRepairAhlLane op s
  | .repairPseudoChannel op => Sys2Proof.Machine.execRepairPseudoChannel op s
  | .repairDramRow op => Sys2Proof.Machine.execRepairDramRow op s
  | .repairNandDie op => Sys2Proof.Machine.execRepairNandDie op s
  | .repairRegPhase op => Sys2Proof.Machine.execRepairRegPhase op s
  | .repairCopyDone stack bad => Sys2Proof.Machine.execRepairCopyDone stack bad s
  | .regPhaseFailure rail phase => Sys2Proof.Machine.execRegPhaseFailure rail phase s
  | .setPowerEnter op => Sys2Proof.Machine.execSetPowerEnter op s
  | .setPowerLimit op => Sys2Proof.Machine.execSetPowerLimit op s
  | .pwrLimitWrite who v => Sys2Proof.Machine.execPwrLimitWrite who v s
  | .idleTimerExpiry n => Sys2Proof.Machine.execIdleTimerExpiry n s
  | .psExitDone beatsTaken => Sys2Proof.Machine.execPsExitDone beatsTaken s
  | .powerLoss => Sys2Proof.Machine.execPowerLoss s
  | .coldResetAssert => Sys2Proof.Machine.execColdResetAssert s
  | .coldBoot env => Sys2Proof.Machine.execColdBoot env s
  | .warmReset op => Sys2Proof.Machine.execWarmReset op s
  | .thermalThrottle hottest => Sys2Proof.Machine.execThermalThrottle hottest s
  | .thermNAlert hottest => Sys2Proof.Machine.execThermNAlert hottest s
  | .entdaa addr => Sys2Proof.Machine.execEntdaa addr s
  | .setdasa static addr => Sys2Proof.Machine.execSetdasa static addr s
  | .rstdaa => Sys2Proof.Machine.execRstdaa s
  | .getpid => Sys2Proof.Machine.execGetpid s
  | .getbcr => Sys2Proof.Machine.execGetbcr s
  | .getdcr => Sys2Proof.Machine.execGetdcr s
  | .getstatus => Sys2Proof.Machine.execGetstatus s
  | .enec => Sys2Proof.Machine.execEnec s
  | .disec => Sys2Proof.Machine.execDisec s
  | .sidebandReadRequest bytes => Sys2Proof.Machine.execSidebandReadRequest bytes s
  | .sidebandReadData => Sys2Proof.Machine.execSidebandReadData s
  | .sidebandWrite bytes => Sys2Proof.Machine.execSidebandWrite bytes s
  | .bypass => Sys2Proof.Machine.execBypass s
  | .idcode => Sys2Proof.Machine.execIdcode s
  | .samplePreload cells => Sys2Proof.Machine.execSamplePreload cells s
  | .extest cells => Sys2Proof.Machine.execExtest cells s
  | .extestPulse cells => Sys2Proof.Machine.execExtestPulse cells s
  | .extestTrain cells => Sys2Proof.Machine.execExtestTrain cells s
  | .highz => Sys2Proof.Machine.execHighz s
  | .jtagClamp => Sys2Proof.Machine.execJtagClamp s
  | .vendorDebugInstruction target => Sys2Proof.Machine.execVendorDebugInstruction target s
  | .recallResponse p addr answer => Sys2Proof.Machine.execRecallResponse p addr answer s
  | .powerStateEntered => Sys2Proof.Machine.execPowerStateEntered s
  | .dieStopsAnswering b die => Sys2Proof.Machine.execDieStopsAnswering b die s

end Sys2Proof.Machine
end

