-- ==== Sys2Proof/Safety.lean ====
section
/-! DEFINITION. What counts as a sound state of the block, and what may only move one way. -/

namespace Sys2Proof.Machine

/-- The figures that every command keeps in range: the recorded level is 0 to 2 (17 R342), LIMIT and a pending LIMIT are power levels 0 to 4
(19 R381, 20 "PWR_LIMIT"), the boot stage is one a boot can rest at, and the device's maps keep their sizes: 48 logical spindles,
4 logical cores and 96 logical links (01 R8), 16 rails and 4 stacks (18 R374). -/
def sound (s : State) : Prop :=
  s.sec.levelRec ≤ 2 ∧ s.pwr.limit ≤ 4 ∧ (∀ n ∈ s.pwr.pendLimit, n ≤ 4) ∧ s.glb.stage ∈ [0, 1, 3, 8, 9] ∧
    s.ras.mapSpn.length = 48 ∧ s.ras.mapCore.length = 4 ∧ s.ras.mapStr.length = 96 ∧ s.ras.rails.length = 16 ∧ s.memStacks.length = 4

/-- The level fuse is never unblown and the anti-rollback counter never falls (17 R347, R362). -/
def oneWay (s t : State) : Prop := (s.sec.fused2 = true → t.sec.fused2 = true) ∧ s.sec.counter ≤ t.sec.counter

/-! ### When a command may act -/

/-- Operation `id` may be given to a row of `opcode`: in flight as `o`, not ended, let start by FENCE_BEFORE (02 R38) and, of a storage command, by the FENCEs before it
(14 R294), and the device awake enough for work that needs PSn (19 R383). -/
abbrev Ready (s : State) (id opcode need : Nat) (o : Op) : Prop :=
  lookup s.ops id = some o ∧ o.opcode = opcode ∧ isOpen o = true ∧ fenceAllows s o = true ∧ awake s need = true ∧ (isStorage opcode && fenceHolds s id o) = false

/-- The state in which a ready operation does its work: it is started, and idle timers of deeper states than PSn start afresh (19 R382). -/
def started (s : State) (id need : Nat) : State := startOp (wake s need) id

/-- A requester's control-space write takes effect: it is not the sideband with SB_WRITE clear, and no resumed erase runs (20 R398, 17 R347). -/
abbrev mayWrite (s : State) (who : Requester) : Prop := ¬(who = .sideband ∧ s.glb.sbWrite = false) ∧ eraseResumed s = false

/-- The partner ranges (address, bytes, written) of an operation are within its reach now: no other slice's window, no line to recall first (02 R22). -/
abbrev Reaches (s : State) (o : Op) (rs : List (Nat × Nat × Bool)) : Prop :=
  rs.any (fun r => partnerDenied s o.port o.slice r.1 r.2.1) = false ∧
    (rs.flatMap (fun r => (partnerLines s o.port r.1 r.2.1 r.2.2).map (fun l => (l, r.2.2)))).isEmpty = true

/-- None of an operation's checks fails. -/
abbrev Clear (cs : List (Bool × Nat × Nat)) : Prop := cs.find? (fun c => c.1) = none

/-- A packet for this node comes in on lane `n`, its flow accepts it and none of its flow waits before it; `t` is the state it is then served in (11 R217, R220). -/
abbrev Arrives (s : State) (n : Nat) (k : Packet) (t : State) : Prop :=
  routeOf s k none false = .here ∧ s.strand.waiting.find? (fun w => w.1 = k) = none ∧ accepts (takenOff s n k) k = true ∧ t = acceptPacket (takenOff s n k) k ∧
    behindWaiting t k = false

/-- A buffer answers now, leaving `u`: partner memory with no line to recall, or slice memory whose pages are there, the device in PS2 or shallower (02 R22, 08 R149,
19 R383). -/
abbrev BufferReady (s : State) (port slice tier addr n : Nat) (wr : Bool) (u : State) : Prop :=
  (tier = 0 ∧ (partnerLines s port addr n wr).isEmpty = true ∧ u = s) ∨ (tier ≠ 0 ∧ s.pwr.state ≤ 2 ∧ touch s slice tier addr n wr = .ready u)

/-- An image of a store passes its checks up to its digest (R140, 10 R180), leaving `u`, its reads counted and charged: the sectors it needs are readable, its
header is good, so are the tables the header places, where those can be read, and the digest agrees. -/
abbrev VerifiedImage (t : State) (o : Op) (st : Store) (bad : List Byte → Option Nat) (entry : List Byte → Nat) (tables : List Byte → List Byte → Option Nat)
    (image : List Byte) (u : State) : Prop :=
  lookup t.stores (o.f 8 2) = some st ∧ badSector t st (o.f 16 8 * 4096) 128 = none ∧ bad (readStore t st (o.f 16 8 * 4096) 128) = none ∧
    (badSector t st (o.f 16 8 * 4096 + entry (readStore t st (o.f 16 8 * 4096) 128)) 32 = none →
      tables (readStore t st (o.f 16 8 * 4096) 128)
        (readStore t st (o.f 16 8 * 4096 + entry (readStore t st (o.f 16 8 * 4096) 128)) 32) = none) ∧
    badSector t st (o.f 16 8 * 4096) (field (readStore t st (o.f 16 8 * 4096) 128) 16 8) = none ∧
    image = readStore t st (o.f 16 8 * 4096) (field (readStore t st (o.f 16 8 * 4096) 128) 16 8) ∧ digestGood image = true ∧
    u = charge (countReads t (o.f 8 2) (unitsOf (o.f 16 8 * 4096) (field (readStore t st (o.f 16 8 * 4096) 128) 16 8))) o.slice
      (fun m => { m with flashRead := m.flashRead + field (readStore t st (o.f 16 8 * 4096) 128) 16 8 })

/-- READ, WRITE or TRIM `id` runs: ready and started in `t`, waiting for nothing, past its checks and the commands ahead of it on its sectors
(R285, R290, R292, R294), with store `st`; a READ or WRITE also with the buffers `bufs` that its buffer list gives, all in its reach. -/
abbrev StorageRuns (s : State) (id opcode : Nat) (o : Op) (st : Store) (bufs : List (Nat × Nat)) (t : State) : Prop :=
  Ready s id opcode 2 o ∧ t = started s id 2 ∧ waitsDurable t id = false ∧ Clear (storageChecks t id o) ∧
    overlapAhead t o = false ∧ lookup t.stores (o.f 8 2) = some st ∧
    (opcode ≠ 0x04 → Reaches t o (if bit (o.f 10 1) 0 then [(o.f 24 8, 16 * o.f 32 2, false)] else []) ∧ listCheck t o = none ∧
      bufs = buffersOf t o ∧ Reaches t o (bufs.map (fun b => (b.1, b.2, decide (opcode = 0x02)))))

/-- The term list of card command `id` is `b`, its terms `ts`: it has no term; or its fetch read them; or they and their bitmaps are in reach now; and none is at fault
(12 R230). -/
abbrev TermsRead (t : State) (id : Nat) (o : Op) (addr n len : Nat) (b : List Byte) (ts : List Term) : Prop :=
  (n = 0 ∧ b = [] ∧ ts = []) ∨ (n ≠ 0 ∧ termsFault b n len = none ∧
    (snapTerms t id = some (b, ts) ∨
      (snapTerms t id = none ∧ Reaches t o [(addr, 32 * n, false)] ∧ b = readPartner t o.port addr (32 * n) ∧ Reaches t o (bitmapRanges b n) ∧
        ts = readTerms t o.port b n)))

/-- The sequencer of logical spindle `sp` takes `w` next: the spindle seats `e`, and once what was issued before has started (06 R112), in `t`, the job `j` still
runs there, has met no program error, and `w` is the instruction at its position. -/
abbrev Issues (s : State) (sp : Nat) (w : IWord) (e : Seat) (j : Job) (t : State) : Prop :=
  seatOf s sp = some e ∧ t = settle s e ∧ (seatOf t sp).isSome = true ∧ lookup t.jobs e.job = some j ∧ j.failing = none ∧
    (progOf t j e.rank)[(getCtx t e.phys).pos]? = some w

/-- Nothing issued before keeps a unit instruction from starting: no conflicting access, no broadcast to come, its blocks in the queue (06 R105, R112). -/
abbrev Unhindered (t : State) (e : Seat) (w : IWord) : Prop :=
  countBad (getCtx t e.phys) w = false ∧ blocksReady (getCtx t e.phys) w = true ∧
    blockedBy w (accesses w (readX (getCtx t e.phys).x (rowReg w)).toNat) (getCtx t e.phys).issued = false ∧
    (getCtx t e.phys).bandq.any (fun b => anyConflict (accesses w (readX (getCtx t e.phys).x (rowReg w)).toNat) (reqAccess b)) = false

/-- The state after an elementwise FVEC: each active lane of VD holds `f` of the lanes of VA, operand b and VC, the marks of the rows left out go with the lanes (07 R124),
and the rank goes on (06, FVEC). -/
def lanesGiven (t : State) (e : Seat) (w : IWord) (f : Word → Word → Word → Word) : State :=
  advance (countFin (modCtx t e.phys (fun c => vecMarks w (setLanes c (vVd w) ((List.range (vLn w)).map (fun l =>
    f (lane (getCtx t e.phys) (vVa w) l) (operandB (getCtx t e.phys) w l) (lane (getCtx t e.phys) (vVc w) l)))))) e.phys (min 1 (vLn w))) e

/-- The state after an FROW: its live rows in order, each read before what `f` makes of it is written, and the rank goes on (06 R109). -/
def rowsGiven (t : State) (e : Seat) (w : IWord) (f : Ctx → Nat → Nat × List Byte) : State :=
  advance (countFin (modCtx t e.phys (fun c => (liveRows (getCtx t e.phys).x (wXi w) (wXn w) (wRows w)).foldl (fun c r =>
    setScr c (f c r).1 (f c r).2) c)) e.phys (min 1 (liveRows (getCtx t e.phys).x (wXi w) (wXn w) (wRows w)).length)) e

end Sys2Proof.Machine
end

