-- ==== Sys2Proof/Certificates/Slice0/Obligations.lean ====
section
/-! DEFINITION. The statements for the provers. -/

open Sys2Proof Sys2Proof.Machine

/-- A step takes the command at the front of the queue and is `exec` of it on the state with the queue's rest (log entry 1: the queue is the model's).
-/
def Obligations.StepRunsFront : Prop :=
  ∀ (s : State) (c : Instr), step { s with pending := c :: s.pending } = exec c s

/-- On an empty queue the block idles (log entry 1, the model's choice). -/
def Obligations.EmptyQueueIdles : Prop :=
  ∀ (s : State), s.pending = [] → step s = .next s

/-- No command adds to, reorders or drops the commands that wait (log entry 1). -/
def Obligations.QueueUntouched : Prop :=
  ∀ (c : Instr) (s t : State), exec c s = .next t → t.pending = s.pending

/-- No command of the table ends in a fault or a refusal: the spec gives every one an effect, in every state. -/
def Obligations.EveryCommandAnswers : Prop :=
  ∀ (c : Instr) (s : State), ∃ t, exec c s = .next t

/-- The state after reset is sound. -/
def Obligations.ResetSound : Prop :=
  sound State.reset

/-- Every step keeps a sound state sound: the recorded level, the power limits and the boot stage stay in range, and the device's maps keep their
sizes. -/
def Obligations.StepKeepsSound : Prop :=
  ∀ (s t : State), sound s → step s = .next t → sound t

/-- What is fused stays fused: no step, a reset or an erase included, clears the level-2 fuse or lowers the anti-rollback counter. -/
def Obligations.FuseAndCounterOneWay : Prop :=
  ∀ (s t : State), step s = .next t → oneWay s t

/-- What a sparse table or a memory reads after a write, and that the operations on byte memories keep the canonical form. -/
def Obligations.TablesReadBack : Prop :=
  (∀ (d : Nat) (t : Tbl Nat) (n m x : Nat), readD d (writeD d t n x) m = if m = n then x else readD d t m) ∧
  (∀ (m : Mem) (a : Nat) (bs : List Byte) (c : Nat),
    readByte (writeBytes m a bs) c = if a ≤ c ∧ c < a + bs.length then bs.getD (c - a) 0#8 else readByte m c) ∧
  (∀ (m : Mem) (a : Nat) (bs : List Byte), Memory.wf m = true → Memory.wf (writeBytes m a bs) = true) ∧
  (∀ (m : Mem) (a n : Nat), Memory.wf m = true → Memory.wf (zeroRange m a n) = true ∧ Memory.wf (sliceRange m a n) = true) ∧
  (∀ (m src : Mem) (a n : Nat), Memory.wf m = true → Memory.wf src = true → Memory.wf (pasteRange m a n src) = true) ∧
  (∀ (m : Mem) (a n c : Nat), readByte (zeroRange m a n) c = if a ≤ c ∧ c < a + n then 0#8 else readByte m c)

/-- Writes and reads of the control space: what R15 turns away, the sideband's write right (20 R398), the scratch registers, the latch of a LO
register (20 R395), GLB_LOCK (20 R397). It rests on choices of the model: log entry 1. -/
def Obligations.ControlSpaceAccess : Prop :=
  (∀ (who : Requester) (off width : Nat) (v : Word) (s : State), badShape off width = true →
    exec (.registerWrite who off width v) s = .next (badAccess s off)) ∧
  (∀ (who : Requester) (off width : Nat) (s : State), badShape off width = true →
    exec (.loRegisterRead who off width) s = .next (answerRead (badAccess s off) who 0)) ∧
  (∀ (off width : Nat) (v : Word) (s : State), badShape off width = false → s.glb.sbWrite = false →
    exec (.registerWrite .sideband off width v) s = .next (badAccess s off)) ∧
  (∀ (who : Requester) (k : Fin 4) (v : Word) (s : State), mayWrite s who → exec (.registerWrite who (0x80 + 4 * k.val) 4 v) s =
      .next { s with glb := { s.glb with scratch := writeD 0#32 s.glb.scratch k.val v } }) ∧
  (∀ (who : Requester) (k : Fin 4) (s : State), exec (.loRegisterRead who (0x80 + 4 * k.val) 4) s =
      .next { s with readData := writeD 0#32 s.readData (requesterNumber who) (readD 0#32 s.glb.scratch k.val) }) ∧
  (∀ (who : Requester) (s : State), s.ras.logSeq < 2 ^ 64 →
    ∃ t u, exec (.loRegisterRead who (rasBase + 8) 4) s = .next t ∧ exec (.loRegisterRead who (rasBase + 12) 4) t = .next u ∧
      readD 0#32 t.readData (requesterNumber who) = BitVec.ofNat 32 s.ras.logSeq ∧
      readD 0#32 u.readData (requesterNumber who) = BitVec.ofNat 32 (s.ras.logSeq / 2 ^ 32)) ∧
  (∀ (who : Requester) (v : Word) (s : State), mayWrite s who →
    exec (.glbLockWrite who v) s = .next { s with glb := { s.glb with lock := s.glb.lock || v.getLsbD 0 } })

/-- EN starts the admin rings and the event ring of a port or finds the set-up illegal; clearing it is a port reset (02 R25, R26, R39). -/
def Obligations.AdminRings : Prop :=
  (∀ (who : Requester) (p : Fin 4) (v : Word) (s : State), mayWrite s who → v.getLsbD 0 = true → s.ras.coreFault = none →
    (getPort s p.val).regs.en = false → (getPort s p.val).regs.rdy = true → exec (.adminRingsEnable who p v) s =
      .next (modPort s p.val (fun x => actOnEn { writeActrl x v with regs := { (writeActrl x v).regs with en := true } }))) ∧
  (∀ (x : Port), setupIllegal x = true → actOnEn x = { x with regs := { x.regs with cfgErr := true, run := false } }) ∧
  (∀ (x : Port), setupIllegal x = false → actOnEn x =
      { x with
        regs := { x.regs with cfgErr := false, run := true },
        sqs := [(0, newSubRing x.regs.asq.toNat (2 ^ bits x.regs.asize.toNat 0 4) x.regs.adb.toNat 0 0xFF 0 0)],
        cqs := [(0, newCompRing x.regs.acq.toNat (2 ^ bits x.regs.asize.toNat 4 4) x.regs.adb.toNat 1 (some x.regs.admIvec.toNat) 1 0)],
        evtRing := some (newCompRing x.regs.evt.toNat (2 ^ bits x.regs.asize.toNat 8 4) x.regs.adb.toNat 2 (some x.regs.evtIvec.toNat) 1 0),
        held := [], dropped := 0 }) ∧
  (∀ (p : Fin 4) (s : State), s.ras.coreFault = none → s.glb.stage = 9 → s.glb.held = false → (getPort s p.val).regs.rdy = false →
    (getPort s p.val).regs.teardown = false → (getPort s p.val).link.up = true → exec (.portReady p) s = .next (modPort s p.val (fun x =>
      if x.regs.en then actOnEn { x with regs := { x.regs with rdy := true } } else { x with regs := { x.regs with rdy := true } }))) ∧
  (∀ (who : Requester) (p : Fin 4) (v : Word) (s : State), mayWrite s who → v.getLsbD 0 = false → (getPort s p.val).regs.en = true →
    exec (.adminRingsDisable who p v) s = .next (portReset (modPort s p.val (fun x => writeActrl x v)) p.val)) ∧
  (∀ (s : State) (p : Nat), (getPort (portReset s p) p).regs.en = false ∧ (getPort (portReset s p) p).regs.run = false ∧
      (getPort (portReset s p) p).regs.rdy = false ∧ (getPort (portReset s p) p).sqs = [] ∧ (getPort (portReset s p) p).cqs = [] ∧
      (getPort (portReset s p) p).evtRing = none ∧ (getPort (portReset s p) p).held = [] ∧ (getPort (portReset s p) p).recalls = []) ∧
  (∀ (p : Fin 4) (s : State), (getPort s p.val).regs.teardown = true → s.ops.any (fun e => e.2.port = p.val) = false →
    exec (.teardownComplete p) s = .next (modPort s p.val (fun x => { x with regs := { x.regs with teardown := false } }))) ∧
  (∀ (p : Fin 4) (s : State),
    exec (.partnerLinkReset p) s = .next (modPort (portReset s p.val) p.val (fun x => { x with link := { x.link with up := false } })))

/-- Doorbells are read when their line is invalidated, or polled, and descriptors are fetched (02 R33, R34, R36, R37). It rests on choices of the
model: log entries 3, 15, 16 and 36. -/
def Obligations.DoorbellsAndFetch : Prop :=
  (∀ (p : Fin 4) (line : Nat) (stores : List (Nat × Byte)) (s : State), (getPort s p.val).regs.run = true → (getPort s p.val).link.up = true →
    (watched s p.val).contains line = true → exec (.doorbellInvalidate p line stores) s =
      .next (rereadLines (modPort s p.val (fun x => partnerStores x stores)) p.val [line])) ∧
  (∀ (p : Fin 4) (line : Nat) (stores : List (Nat × Byte)) (s : State), (watched s p.val).contains line = false →
    exec (.doorbellInvalidate p line stores) s = .next (modPort s p.val (fun x => partnerStores x stores))) ∧
  (∀ (p : Fin 4) (stores : List (Nat × Byte)) (s : State), (getPort s p.val).regs.run = true → (getPort s p.val).link.up = true →
    (getPort s p.val).regs.poll = true → s.pwr.state ≤ 3 → exec (.doorbellPoll p stores) s =
      .next (rereadLines (modPort s p.val (fun x => partnerStores x stores)) p.val (watched s p.val))) ∧
  (∀ (v : Nat) (r : SubRing), v < r.size → readTail v r = { r with tail := v, fault := false }) ∧
  (∀ (v : Nat) (r : SubRing), r.size ≤ v → readTail v r = { r with fault := true }) ∧
  (∀ (v : Nat) (r : CompRing), v < r.size → readHead v r = { r with head := v, fault := false }) ∧
  (∀ (v : Nat) (r : CompRing), r.size ≤ v → readHead v r = { r with fault := true }) ∧
  (∀ (p : Fin 4) (sq : Fin 256) (s : State) (r : SubRing), fetchable s p.val (getPort s p.val) sq.val = true → s.pwr.state ≤ 3 →
    lookup (getPort (refillCredits s) p.val).sqs sq.val = some r → mayFetch (refillCredits s) p.val sq.val = true →
    exec (.descriptorFetch p sq) s = .next (fetchOne (refillCredits s) p.val sq.val r)) ∧
  (∀ (s : State) (p sq : Nat) (r : SubRing), headerCheck (readBytes (getPort s p).mem (r.base + 64 * r.fetch) 64) sq r.slice = none →
    s.sec.erase = none → field (readBytes (getPort s p).mem (r.base + 64 * r.fetch) 64) 0 1 ≠ 0x08 →
    ∃ o : Op, lookup (fetchOne s p sq r).ops s.opSeq = some o ∧ o.phase = .fetched ∧ o.port = p ∧ o.sq = sq ∧ o.cq = r.cq ∧
      o.slice = r.slice ∧ o.bytes = readBytes (getPort s p).mem (r.base + 64 * r.fetch) 64 ∧ o.opcode = field o.bytes 0 1 ∧
      o.tag = field o.bytes 4 2 ∧ (fetchOne s p sq r).opSeq = s.opSeq + 1 ∧
      lookup (getPort (fetchOne s p sq r) p).sqs sq =
        some { r with fetch := (r.fetch + 1) % r.size, fetched := r.fetched + 1, credit := r.credit - 1 })

/-- Entries of completion rings: their bytes, the slot and PHASE that follow (02 R30), where they are written, how an operation leaves flight (R34,
R38, R39), and interrupts (R31). It rests on choices of the model: log entries 3 and 36. -/
def Obligations.CompletionRings : Prop :=
  (∀ (r : CompRing), r.slot + 1 < r.size → ringNext r = { r with slot := r.slot + 1 }) ∧
  (∀ (r : CompRing), r.size ≤ r.slot + 1 → ringNext r = { r with slot := 0, phase := !r.phase }) ∧
  (∀ (tag status detail result : Nat) (phase : Bool), (compBytes tag status phase detail result).length = 16) ∧
  (∀ (x : Port) (cq : Nat) (r : CompRing) (tag status detail result clock a : Nat), readByte (writeComp x cq r tag status detail result clock).mem a =
      if r.base + 16 * r.slot ≤ a ∧ a < r.base + 16 * r.slot + 16
      then (compBytes tag status r.phase detail result).getD (a - (r.base + 16 * r.slot)) 0#8 else readByte x.mem a) ∧
  (∀ (s : State) (id : Nat) (o : Op) (status detail result : Nat) (r : CompRing), lookup (getPort s o.port).cqs o.cq = some r →
    postComp s id o status detail result =
      { modPort s o.port (fun x => { writeComp x o.cq r o.tag status detail result s.clock with held := x.held.filter (fun h => h ≠ .comp id) }) with
        ops := removeKey s.ops id }) ∧
  (∀ (s t : State) (id : Nat) (o : Op) (status detail result : Nat), lookup s.ops id = some o → o.silent = false → (getPort s o.port).held = [] →
    (getPort s o.port).dropped = 0 →
    t = modPort { s with ops := insertKey s.ops id { o with phase := .done status detail result } } o.port (fun x => { x with held := [.comp id] }) →
    mayPost t { o with phase := .done status detail result } status = true →
    finish s id status detail result = postComp t id { o with phase := .done status detail result } status detail result) ∧
  (∀ (s : State) (id : Nat) (o : Op) (status detail result : Nat), lookup s.ops id = some o → o.silent = true →
    finish s id status detail result = { s with ops := removeKey s.ops id }) ∧
  (∀ (p : Fin 4) (s : State), (getPort s p.val).dropped = 0 → exec (.heldEntryPost p) s = .next (postHeld s p.val (getPort s p.val).held.length)) ∧
  (∀ (p : Fin 4) (s u : State), (getPort s p.val).regs.run = true → (getPort s p.val).link.lostAt = none → (getPort s p.val).dropped ≠ 0 →
    (getPort s p.val).evtRing.any ringRoom = true →
    u = spreadEvent (modPort s p.val (fun x => { x with dropped := 0 })) []
      { code := 0x13, slice := 0xFF, detail := sat32 (getPort s p.val).dropped, beat := s.trd.beat } →
    exec (.heldEntryPost p) s = .next (postHeld u p.val (getPort u p.val).held.length)) ∧
  (∀ (s : State) (p : Nat), (getPort s p).dropped = 0 → postOne s p (getPort s p).held = none → flushPort s p = s) ∧
  (∀ (p : Fin 4) (cq : Fin 256) (s : State) (r : CompRing) (vec : Nat), lookup (getPort s p.val).cqs cq.val = some r →
    (getPort s p.val).link.lostAt = none → r.unsig ≠ 0 → r.unsigAt + r.coalBeats ≤ s.clock → r.ivec = some vec →
    exec (.interruptCoalesceTimeout p cq) s =
      .next (modPort s p.val (fun x => { x with cqs := insertKey x.cqs cq.val { r with unsig := 0 }, irqs := x.irqs ++ [vec] }))) ∧
  (∀ (p : Fin 4) (cq : Fin 256) (s : State), (getPort s p.val).link.lostAt ≠ none → exec (.interruptCoalesceTimeout p cq) s = .next s)

/-- The shared window: the partner's reads, takings and writes of its lines, and its answers to recalls (02 R20, R21, R22); each access is the last
use of its page (08 R151). It rests on choices of the model: log entries 3 and 21. -/
def Obligations.WindowLines : Prop :=
  (∀ (p : Fin 4) (addr : Nat) (s : State) (w : Window) (off : Nat), inWindow (getPort s p.val) addr = some (w, off) → (getPort s p.val).link.up = true →
    underRecall (getPort s p.val) (off / 64) = false → s.pwr.state ≤ 2 → lookup (getPort s p.val).lines (off / 64) ≠ some .exclusive →
    exec (.coherentRead p addr) s = .next (useWindow (modPort s p.val (fun x =>
      { x with lines := insertKey x.lines (off / 64) .shared, served := lineBytes s w (off / 64) })) w (off / 64))) ∧
  (∀ (p : Fin 4) (addr : Nat) (s : State) (w : Window) (off : Nat), inWindow (getPort s p.val) addr = some (w, off) → (getPort s p.val).link.up = true →
    underRecall (getPort s p.val) (off / 64) = false → s.pwr.state ≤ 2 →
    exec (.readForOwnership p addr) s = .next (useWindow (modPort s p.val (fun x =>
      { x with lines := insertKey x.lines (off / 64) .exclusive, served := lineBytes s w (off / 64) })) w (off / 64))) ∧
  (∀ (p : Fin 4) (addr : Nat) (data : List Byte) (s : State) (w : Window) (off : Nat), inWindow (getPort s p.val) addr = some (w, off) →
    (getPort s p.val).link.up = true → data ≠ [] → off / 64 = (off + data.length - 1) / 64 → underRecall (getPort s p.val) (off / 64) = false →
    s.pwr.state ≤ 2 → exec (.nonAllocatingWrite p addr data) s =
      .next (useWindow (writeTier (modPort s p.val (fun x => { x with lines := removeKey x.lines (off / 64) })) w.slice 2
        (pageBytes * w.first + off) data) w (off / 64))) ∧
  (∀ (p : Fin 4) (addr : Nat) (data : List Byte) (s : State) (w : Window) (off : Nat), inWindow (getPort s p.val) addr = some (w, off) →
    (getPort s p.val).recalls.any (fun r => r.line = off / 64) = true →
    (getPort s p.val).recalls.any (fun r => r.line = off / 64 && r.forWrite) = false → data.length = 64 →
    lookup (getPort s p.val).lines (off / 64) = some .exclusive → exec (.recallResponse p addr (.writeBack data)) s =
      .next (useWindow (writeTier (modPort s p.val (fun x =>
          { x with lines := insertKey x.lines (off / 64) .shared, recalls := x.recalls.filter (fun r => r.line ≠ off / 64) }))
        w.slice 2 (pageBytes * w.first + 64 * (off / 64)) data) w (off / 64))) ∧
  (∀ (s : State) (w : Window) (l n : Nat) (x : Slice) (q : Page), lookup s.slices w.slice = some x → lookup x.pages n = some q →
    n = w.first + 64 * l / pageBytes →
    ∃ y, lookup (useWindow s w l).slices w.slice = some y ∧ lookup y.pages n = some { q with lastUse := s.trd.beat }) ∧
  (∀ (p : Fin 4) (addr : Nat) (s : State) (w : Window) (off : Nat), inWindow (getPort s p.val) addr = some (w, off) →
    (getPort s p.val).recalls.any (fun r => r.line = off / 64) = true → exec (.recallResponse p addr .drop) s =
      .next (modPort s p.val (fun x => { x with lines := removeKey x.lines (off / 64), recalls := x.recalls.filter (fun r => r.line ≠ off / 64) }))) ∧
  (∀ (p : Fin 4) (addr : Nat) (s : State) (w : Window) (off : Nat), inWindow (getPort s p.val) addr = some (w, off) →
    (getPort s p.val).recalls.any (fun r => r.line = off / 64) = true → exec (.recallResponse p addr .keepS) s =
      .next (modPort s p.val (fun x =>
        { x with lines := if (getPort s p.val).recalls.any (fun r => r.line = off / 64 && r.forWrite) then removeKey x.lines (off / 64)
                          else insertKey x.lines (off / 64) .shared,
                 recalls := x.recalls.filter (fun r => r.line ≠ off / 64) }))) ∧
  (∀ (p : Fin 4) (s : State), (getPort s p.val).recalls.any (fun r => r.at_ + 10 ≤ s.clock) = true → exec (.recallTimeout p) s =
      .next (postSliceEvent (modPort s p.val (fun x =>
          { loseLink x s.clock with
            lines := [], recalls := [],
            winLost := sat32 (x.winLost + ((getPort s p.val).lines.filter (fun l => l.2 = .exclusive)).length) }))
        0x11 (((getPort s p.val).window.map Window.slice).getD 0xFF) ((getPort s p.val).lines.filter (fun l => l.2 = .exclusive)).length))

/-- AHL lanes and links: loss, restoration within HOLD_BEATS, the port reset after it, and lane failures (02 R18, R39; 21 R412). It rests on choices
of the model: log entries 2 and 36. -/
def Obligations.HostLinkFailures : Prop :=
  (∀ (p : Fin 4) (s : State), (getPort s p.val).link.up = true → exec (.ahlLinkLost p) s = .next (modPort s p.val (fun x =>
      { x with link := { x.link with up := false, lostAt := if (getPort s p.val).link.lostAt.isNone then some s.clock else x.link.lostAt } }))) ∧
  (∀ (p : Fin 4) (s : State), (getPort s p.val).link.up = false → lanesServe (getPort s p.val).link = true → 8 ≤ s.glb.stage →
    (∀ t, (getPort s p.val).link.lostAt = some t → s.clock ≤ t + (getPort s p.val).link.holdBeats.toNat) →
    exec (.ahlLinkRestored p) s = .next (flushPort (modPort s p.val (fun x =>
      { x with link := { x.link with up := true, lowRate := s.pwr.state = 4, lostAt := none, lanesOk := ~~~x.link.failed } })) p.val)) ∧
  (∀ (p : Fin 4) (s : State) (t : Nat), (getPort s p.val).link.lostAt = some t → t + (getPort s p.val).link.holdBeats.toNat ≤ s.clock →
    exec (.holdBeatsExpiry p) s = .next (postEventBut (portReset s p.val) [p.val] 0x10 0xFF (p.val + 4 + 0xF0))) ∧
  (∀ (p : Fin 4) (lane : Fin 9) (s u : State),
    u = (logRas (modPort s p.val (fun x => { x with link := { x.link with failed := x.link.failed ||| (1#9 <<< lane.val), lanesOk := x.link.lanesOk &&& ~~~(1#9 <<< lane.val) } })) 3 1 (p.val * 9 + lane.val) 0 lane.val) →
    lanesServe (getPort u p.val).link = true → exec (.ahlLaneFailure p lane) s = .next u) ∧
  (∀ (p : Fin 4) (lane : Fin 9) (s u : State),
    u = (logRas (modPort s p.val (fun x => { x with link := { x.link with failed := x.link.failed ||| (1#9 <<< lane.val), lanesOk := x.link.lanesOk &&& ~~~(1#9 <<< lane.val) } })) 3 1 (p.val * 9 + lane.val) 0 lane.val) →
    lanesServe (getPort u p.val).link = false → exec (.ahlLaneFailure p lane) s =
      .next (postEventBut (modPort u p.val (fun x => loseLink x s.clock)) [p.val] 0x10 0xFF (p.val + lane.val * 16)))

/-- CQ_CREATE, SQ_CREATE and RING_DELETE (02 R24, R27, R28). It rests on choices of the model: log entries 16 and 36. -/
def Obligations.RingsCreatedAndDeleted : Prop :=
  (∀ (op : Nat) (o : Op) (s : State) (x : Port), Ready s op 0x62 4 o → x = getPort s o.port → o.f 8 8 % 4096 = 0 →
    hitsRing x (o.f 8 8) (2 ^ o.f 18 1 * 16) = false → hitsLine x (o.f 8 8) (2 ^ o.f 18 1 * 16) = false → 1 ≤ o.f 16 2 → o.f 16 2 ≤ 255 →
    lookup x.cqs (o.f 16 2) = none → 4 ≤ o.f 18 1 → o.f 18 1 ≤ 14 → o.f 19 1 ≠ 0 → badLine x (o.f 20 8) (o.f 8 8) (2 ^ o.f 18 1 * 16) = false →
    badWord x (o.f 20 8) (o.f 28 1) = false → (o.f 30 2 ≤ 255 ∨ o.f 30 2 = 0xFFFF) →
    exec (.cqCreate op) s = .next (finishOk (modPort (started s op 4) o.port (fun x =>
      { x with cqs := insertKey x.cqs (o.f 16 2) (newCompRing (o.f 8 8) (2 ^ o.f 18 1) (o.f 20 8) (o.f 28 1)
                        (if o.f 30 2 = 0xFFFF then none else some (o.f 30 2)) (o.f 19 1) (o.f 29 1)) })) op 0)) ∧
  (∀ (op : Nat) (o : Op) (s : State) (x : Port), Ready s op 0x63 4 o → x = getPort s o.port → o.f 8 8 % 4096 = 0 →
    hitsRing x (o.f 8 8) (2 ^ o.f 18 1 * 64) = false → hitsLine x (o.f 8 8) (2 ^ o.f 18 1 * 64) = false → 1 ≤ o.f 16 2 → o.f 16 2 ≤ 255 →
    lookup x.sqs (o.f 16 2) = none → 4 ≤ o.f 18 1 → o.f 18 1 ≤ 12 → o.f 19 1 ≤ 3 → badLine x (o.f 20 8) (o.f 8 8) (2 ^ o.f 18 1 * 64) = false →
    badWord x (o.f 20 8) (o.f 28 1) = false → (lookup s.slices (o.f 29 1)).isSome = true → o.f 30 2 ≠ 0 → (lookup x.cqs (o.f 30 2)).isSome = true →
    exec (.sqCreate op) s = .next (finishOk (modPort (started s op 4) o.port (fun x =>
      { x with sqs := insertKey x.sqs (o.f 16 2) (newSubRing (o.f 8 8) (2 ^ o.f 18 1) (o.f 20 8) (o.f 28 1) (o.f 29 1) (o.f 30 2) (o.f 19 1)) })) op 0)) ∧
  (∀ (op : Nat) (o : Op) (s : State) (r : SubRing), Ready s op 0x64 4 o → o.phase = .fetched → o.f 8 1 = 0 → 1 ≤ o.f 10 2 → o.f 10 2 ≤ 255 →
    lookup (getPort s o.port).sqs (o.f 10 2) = some r → r.deleting = false → exec (.ringDelete op) s =
      .next (modPort (started s op 4) o.port (fun x => { x with sqs := insertKey x.sqs (o.f 10 2) { r with deleting := true } }))) ∧
  (∀ (op : Nat) (o : Op) (s : State), Ready s op 0x64 4 o → o.phase = .fetched → o.f 8 1 = 1 → 1 ≤ o.f 10 2 → o.f 10 2 ≤ 255 →
    (lookup (getPort s o.port).cqs (o.f 10 2)).isSome = true → (getPort s o.port).sqs.any (fun e => e.2.cq = o.f 10 2) = false →
    exec (.ringDelete op) s =
      .next (finishOk (modPort (started s op 4) o.port (fun x => { x with cqs := removeKey x.cqs (o.f 10 2) })) op 0)) ∧
  (∀ (op : Nat) (o : Op) (s : State), Ready s op 0x64 4 o → o.phase = .started → o.f 8 1 = 0 →
    (started s op 4).ops.any (fun e => e.2.port = o.port && e.2.sq = o.f 10 2) = false → exec (.ringDeleteComplete op) s =
      .next (finishOk (modPort (started s op 4) o.port (fun x => { x with sqs := removeKey x.sqs (o.f 10 2) })) op 0))

/-- WINDOW_MAP (02 R22, R28). It rests on choices of the model: log entries 16 and 36. -/
def Obligations.WindowMapping : Prop :=
  (∀ (op : Nat) (o : Op) (s t : State), Ready s op 0x66 2 o → o.f 16 4 ≠ 0 → o.f 8 8 % pageBytes = 0 → (getPort s o.port).window = none →
    (lookup s.slices (o.f 20 1)).isSome = true → mayHold (started s op 2) (o.f 20 1) (o.f 16 4) = true → windowTotal s + o.f 16 4 ≤ 32768 →
    o.f 24 4 + o.f 16 4 ≤ slicePages →
    (∀ x, lookup s.slices (o.f 20 1) = some x → x.pages.any (fun p => o.f 24 4 ≤ p.1 && p.1 < o.f 24 4 + o.f 16 4) = false) →
    mapPages (started s op 2) (o.f 20 1) (o.f 24 4) (.window o.port) (o.f 16 4) = .got t →
    exec (.windowMap op) s = .next (finishOk (modPort t o.port (fun x =>
      { x with window := some { caddr := o.f 8 8, pages := o.f 16 4, slice := o.f 20 1, first := o.f 24 4 }, lines := [], recalls := [] })) op 0)) ∧
  (∀ (op : Nat) (o : Op) (s : State) (w : Window), Ready s op 0x66 2 o → o.f 16 4 = 0 → o.f 8 8 % pageBytes = 0 → (getPort s o.port).window = some w →
    linesToRecall (getPort s o.port) 0 (pageBytes * w.pages) false = [] →
    exec (.windowUnmap op) s = .next (finishOk (modPort (modSlice (started s op 2) w.slice (fun y =>
        { y with pages := y.pages.filter (fun p => !(w.first ≤ p.1 && p.1 < w.first + w.pages)),
                 pool := zeroRange y.pool (pageBytes * w.first) (pageBytes * w.pages) })) o.port
      (fun x => { x with window := none, lines := [], recalls := [] })) op 0)) ∧
  (∀ (op : Nat) (o : Op) (s : State), Ready s op 0x66 2 o → o.f 16 4 = 0 → o.f 8 8 % pageBytes = 0 → (getPort s o.port).window = none →
    exec (.windowUnmap op) s = .next (finishOk (started s op 2) op 0))

/-- The elementwise FVEC operations give every active lane of VD their result of the lanes of VA, operand b and VC and change nothing else of the rank
but its position and the marks of the rows left out (05 R80-R83, 06 "FVEC", 07 R124). It rests on choices of the model: log entries 6, 8 and 14. -/
def Obligations.ElementwiseLanes : Prop :=
  ∀ (sp : Fin 48) (w : IWord) (s t : State) (e : Seat) (j : Job), Issues s sp.val w e j t → Unhindered t e w →
    (isFvec w 0x08 = true → exec (.add sp w) s = .next (lanesGiven t e w (fun a b _ => vAdd a b))) ∧
    (isFvec w 0x09 = true → exec (.sub sp w) s = .next (lanesGiven t e w (fun a b _ => vSub a b))) ∧
    (isFvec w 0x0A = true → exec (.mul sp w) s = .next (lanesGiven t e w (fun a b _ => vMul a b))) ∧
    (isFvec w 0x0B = true → exec (.fma sp w) s = .next (lanesGiven t e w (vFma))) ∧
    (isFvec w 0x0C = true → exec (.max sp w) s = .next (lanesGiven t e w (fun a b _ => vMax a b))) ∧
    (isFvec w 0x0D = true → exec (.min sp w) s = .next (lanesGiven t e w (fun a b _ => vMin a b))) ∧
    (isFvec w 0x0E = true → exec (.abs sp w) s = .next (lanesGiven t e w (fun a _ _ => vAbs a))) ∧
    (isFvec w 0x0F = true → exec (.neg sp w) s = .next (lanesGiven t e w (fun a _ _ => vNeg a))) ∧
    (isFvec w 0x10 = true → exec (.relu sp w) s = .next (lanesGiven t e w (fun a _ _ => vRelu a))) ∧
    (isFvec w 0x11 = true → exec (.clamp sp w) s = .next (lanesGiven t e w (vClamp))) ∧
    (isFvec w 0x12 = true → exec (.select sp w) s = .next (lanesGiven t e w (vSelect))) ∧
    (isFvec w 0x18 = true → exec (.cvt sp w) s = .next (lanesGiven t e w (fun a _ _ => vCvt (vFmt w) a))) ∧
    (isFvec w 0x1A = true → exec (.deq sp w) s = .next (lanesGiven t e w (vDeq))) ∧
    (isFvec w 0x20 = true → exec (.recip sp w) s = .next (lanesGiven t e w (fun a _ _ => vRecip a))) ∧
    (isFvec w 0x21 = true → exec (.sqrt sp w) s = .next (lanesGiven t e w (fun a _ _ => vSqrt a))) ∧
    (isFvec w 0x22 = true → exec (.rsqrt sp w) s = .next (lanesGiven t e w (fun a _ _ => vRsqrt a))) ∧
    (isFvec w 0x23 = true → exec (.exp2 sp w) s = .next (lanesGiven t e w (fun a _ _ => vExp2 a))) ∧
    (isFvec w 0x24 = true → exec (.log2 sp w) s = .next (lanesGiven t e w (fun a _ _ => vLog2 a))) ∧
    (isFvec w 0x28 = true → exec (.exp sp w) s = .next (lanesGiven t e w (fun a _ _ => vExp a))) ∧
    (isFvec w 0x29 = true → exec (.sigmoid sp w) s = .next (lanesGiven t e w (fun a _ _ => vSigmoid a))) ∧
    (isFvec w 0x2A = true → exec (.tanh sp w) s = .next (lanesGiven t e w (fun a _ _ => vTanh a))) ∧
    (isFvec w 0x2B = true → exec (.silu sp w) s = .next (lanesGiven t e w (fun a _ _ => vSilu a))) ∧
    (isFvec w 0x2C = true → exec (.gelu sp w) s = .next (lanesGiven t e w (fun a _ _ => vGelu a))) ∧
    (isFvec w 0x19 = true → exec (.qcvt sp w) s = .next (lanesGiven
      (modCtr t e.phys (fun k =>
        { k with qnan := k.qnan + ((List.range (vLn w)).filter (fun l => isNaN (lane (getCtx t e.phys) (vVa w) l))).length })) e w (fun a _ _ => vQcvt (vF w) a)))

/-- VLD, VST and the reductions of FVEC (05 R77, R84; 06 "FVEC"). It rests on choices of the model: log entries 8 and 14. -/
def Obligations.VectorMemoryAndReductions : Prop :=
  ∀ (sp : Fin 48) (w : IWord) (s t : State) (e : Seat) (j : Job), Issues s sp.val w e j t → Unhindered t e w →
    (isFvec w 0x00 = true → exec (.vld sp w) s = .next (advance (countFin (modCtx t e.phys (fun c => vecMarks w (setLanes c (vVd w)
      ((List.range (vLn w)).map (fun l => widen (vFmt w) (readNat (getCtx t e.phys).scratch (vAddr w * 16 + l * fmtBytes (vFmt w)) (fmtBytes (vFmt w))))))))
      e.phys (min 1 (vLn w))) e)) ∧
    (isFvec w 0x01 = true → exec (.vst sp w) s = .next (advance (countFin (modCtx t e.phys (fun c => setScr c (vAddr w * 16)
      ((List.range (vLn w)).flatMap (fun l => leBytes (fmtBytes (vFmt w)) (narrow (vFmt w) (lane (getCtx t e.phys) (vVa w) l))))))
      e.phys (min 1 (vLn w))) e)) ∧
    (∀ v, isFvec w 0x30 = true → tree vAdd ((List.range (vLn w)).map (fun l => some (lane (getCtx t e.phys) (vVa w) l))) = some v →
      exec (.redsum sp w) s = .next (advance (countFin (modCtx t e.phys (fun c =>
        setLane { c with masked := setMark (halfMark (vVd w) 0) false c.masked } (vVd w) 0 v)) e.phys (min 1 (vLn w))) e)) ∧
    (∀ v, isFvec w 0x31 = true → tree vMax ((List.range (vLn w)).map (fun l => some (lane (getCtx t e.phys) (vVa w) l))) = some v →
      exec (.redmax sp w) s = .next (advance (countFin (modCtx t e.phys (fun c =>
        setLane { c with masked := setMark (halfMark (vVd w) 0) false c.masked } (vVd w) 0 v)) e.phys (min 1 (vLn w))) e)) ∧
    (isFvec w 0x30 = true → vLn w = 0 → exec (.redsum sp w) s = .next (advance (countFin t e.phys 0) e)) ∧
    (isFvec w 0x31 = true → vLn w = 0 → exec (.redmax sp w) s = .next (advance (countFin t e.phys 0) e))

/-- The FROW operations, row by row (05 R83-R85, 06 R109). It rests on choices of the model: log entries 6, 8 and 14. -/
def Obligations.RowOperations : Prop :=
  ∀ (sp : Fin 48) (w : IWord) (s t : State) (e : Seat) (j : Job), Issues s sp.val w e j t → Unhindered t e w →
    (isFrow w 0 = true → exec (.softmax sp w) s = .next (rowsGiven t e w (fun c r => (wDst w * 64 + r * wRstride w * fmtBytes (wDfmt w), (rowSoftmax (rowAt c (wSfmt w) (wSrc w * 64 + r * wRstride w * fmtBytes (wSfmt w)) (wN w))).flatMap (fun y => leBytes (fmtBytes (wDfmt w)) (narrowF (wDfmt w) y)))))) ∧
    (isFrow w 1 = true → exec (.rmsnorm sp w) s = .next (rowsGiven t e w (fun c r => (wDst w * 64 + r * wRstride w * fmtBytes (wDfmt w),
      (rowRmsnorm (rowAt c (wSfmt w) (wSrc w * 64 + r * wRstride w * fmtBytes (wSfmt w)) (wN w)) (rowAt c 0 (wAux w * 64) (wN w)) (readX (getCtx t e.phys).x (wXe w))).flatMap (fun y => leBytes (fmtBytes (wDfmt w)) (narrowF (wDfmt w) y)))))) ∧
    (isFrow w 2 = true → exec (.layernorm sp w) s = .next (rowsGiven t e w (fun c r => (wDst w * 64 + r * wRstride w * fmtBytes (wDfmt w),
      (rowLayernorm (rowAt c (wSfmt w) (wSrc w * 64 + r * wRstride w * fmtBytes (wSfmt w)) (wN w)) (rowAt c 0 (wAux w * 64) (wN w)) (rowAt c 0 (auxB w) (wN w)) (readX (getCtx t e.phys).x (wXe w))).flatMap (fun y => leBytes (fmtBytes (wDfmt w)) (narrowF (wDfmt w) y)))))) ∧
    (isFrow w 3 = true → exec (.frowRedsum sp w) s = .next (rowsGiven t e w (fun c r => (wDst w * 64 + 4 * r, leBytes 4 (redSum (rowAt c (wSfmt w) (wSrc w * 64 + r * wRstride w * fmtBytes (wSfmt w)) (wN w))).toNat)))) ∧
    (isFrow w 4 = true → exec (.frowRedmax sp w) s = .next (rowsGiven t e w (fun c r => (wDst w * 64 + 4 * r, leBytes 4 (redMax (rowAt c (wSfmt w) (wSrc w * 64 + r * wRstride w * fmtBytes (wSfmt w)) (wN w))).toNat)))) ∧
    (isFrow w 8 = true → exec (.l2sq sp w) s = .next (rowsGiven t e w (fun c r => (wDst w * 64 + 4 * r,
      leBytes 4 (distanceOf c 8 (wSfmt w) (wSrc w * 64 + r * wRstride w * fmtBytes (wSfmt w)) (wAux w * 64) (wN w)).toNat)))) ∧
    (isFrow w 9 = true → exec (.ip sp w) s = .next (rowsGiven t e w (fun c r => (wDst w * 64 + 4 * r,
      leBytes 4 (distanceOf c 9 (wSfmt w) (wSrc w * 64 + r * wRstride w * fmtBytes (wSfmt w)) (wAux w * 64) (wN w)).toNat)))) ∧
    (isFrow w 10 = true → exec (.cos sp w) s = .next (rowsGiven t e w (fun c r => (wDst w * 64 + 4 * r,
      leBytes 4 (distanceOf c 10 (wSfmt w) (wSrc w * 64 + r * wRstride w * fmtBytes (wSfmt w)) (wAux w * 64) (wN w)).toNat))))

/-- MATMUL and CONV (03 R49-R58, 04 R67-R69, 06 R101, R103, R105; 07 R129). It rests on choices of the model: log entries 6, 8 and 37. -/
def Obligations.MatrixInstructions : Prop :=
  ∀ (sp : Fin 48) (w : IWord) (s t : State) (e : Seat) (j : Job), Issues s sp.val w e j t → Unhindered t e w →
    (∀ rows, opcodeOf w = opMatmul → matmulRows (getCtx t e.phys) w (getCtx t e.phys).x = some rows →
      exec (.matmul sp w) s = .next (advance (
        let r := rows.foldl (fun st row => streamRow (mAccf w) (mAfmt w) (if mAfmt w ≤ 3 then mZa w else 0) (mAdd w) (bankRowOf w row.1) (mNt w)
          (takeBlocks (getCtx t e.phys) w) (rowActs (getCtx t e.phys) w row.2.1 row.2.2) st) ((getCtx t e.phys), 0)
        retireMatrix t e.phys (markRows r.1 w (rows.map Prod.fst)) (mNb w) rows.length (cellStep (mWfmt w)) 0 (rows.length * mNt w * ((mNb w - 1) * blockK (mWfmt w) + mKc w)) r.2) e)) ∧
    (opcodeOf w = opMatmul → matmulRows (getCtx t e.phys) w (getCtx t e.phys).x = none →
      exec (.matmul sp w) s = .next (programError t e.job stBounds e.rank (getCtx t e.phys).pos 2)) ∧
    (∀ g sz rows, opcodeOf w = opConv → g = readGeom (getCtx t e.phys) (cGeom w * 64) → sz = elemBits (mAfmt w) / 8 → geomBad g sz = false →
      rows = (liveRows (getCtx t e.phys).x (mXi w) (mXn w) (mH w)).map (fun i => (i, convAddrs g w ((readX (getCtx t e.phys).x (mXi w)).toNat + i))) →
      rows.any (fun r => r.2.any (fun b => b.any (fun a => pastScratch (a.2 + sz)))) = false →
      exec (.conv sp w) s = .next (advance (
        let r := rows.foldl (fun st row =>
          let acts : RowActs := row.2.map (fun b => b.map (fun a => (a.1, (readNat (getCtx t e.phys).scratch a.2 sz, 0))))
          streamRow (mAccf w) (mAfmt w) (if mAfmt w ≤ 1 then cZa w else 0) (mAdd w) (bankRowOf w row.1) (mNt w) (takeBlocks (getCtx t e.phys) w) acts st) ((getCtx t e.phys), 0)
        retireMatrix t e.phys (markRows r.1 w (rows.map Prod.fst)) (mNb w) rows.length (cellStep (mWfmt w)) (rows.map (fun r => (r.2.map (gatherFreezes sz)).sum)).sum
          (rows.map (fun r => mNt w * (r.2.map List.length).sum)).sum r.2) e)) ∧
    (opcodeOf w = opConv → geomBad (readGeom (getCtx t e.phys) (cGeom w * 64)) (elemBits (mAfmt w) / 8) = true →
      exec (.conv sp w) s = .next (programError t e.job stBounds e.rank (getCtx t e.phys).pos 2))

/-- What an issue does that cannot start at once (06 R97, R105, R112, R121). It rests on choices of the model: log entries 8 and 37. -/
def Obligations.IssueRules : Prop :=
  (∀ (w : IWord) (e : Seat) (t : State), countBad (getCtx t e.phys) w = true →
    issueUnit w e t = programError t e.job stBounds e.rank (getCtx t e.phys).pos 1) ∧
  (∀ (w : IWord) (e : Seat) (t : State), countBad (getCtx t e.phys) w = false →
    (blockedBy w (accesses w (readX (getCtx t e.phys).x (rowReg w)).toNat) (getCtx t e.phys).issued || (getCtx t e.phys).bandq.any (fun b => anyConflict (accesses w (readX (getCtx t e.phys).x (rowReg w)).toNat) (reqAccess b)) || !blocksReady (getCtx t e.phys) w) = true →
    queueFull (getCtx t e.phys) w = false →
    issueUnit w e t = advance (modCtx t e.phys (fun c => { c with issued := c.issued ++ [{ at_ := c.pos, w := w, x := c.x, serial := c.serial }] })) e) ∧
  (∀ (w : IWord) (e : Seat) (t : State), countBad (getCtx t e.phys) w = false →
    (blockedBy w (accesses w (readX (getCtx t e.phys).x (rowReg w)).toNat) (getCtx t e.phys).issued || (getCtx t e.phys).bandq.any (fun b => anyConflict (accesses w (readX (getCtx t e.phys).x (rowReg w)).toNat) (reqAccess b)) || !blocksReady (getCtx t e.phys) w) = true →
    queueFull (getCtx t e.phys) w = true → issueUnit w e t = t)

/-- LOAD, STORE, DRAIN and REQUANT (04 R74-R77, 05 R86-R91, 06 R99, R106-R108). It rests on choices of the model: log entry 8. -/
def Obligations.MoverAndPort : Prop :=
  ∀ (sp : Fin 48) (w : IWord) (s t : State) (e : Seat) (j : Job), Issues s sp.val w e j t → Unhindered t e w →
    (∀ u, opcodeOf w = opLoad → (liveRows (getCtx t e.phys).x (lXi w) (lXn w) (lRows w)).any (fun i => tierOutside t e (lTier w) (lFar w) (farOf w (getCtx t e.phys).x i) (lRb w)) = false →
      runAll (reachLoad e w (getCtx t e.phys).x) (liveRows (getCtx t e.phys).x (lXi w) (lXn w) (lRows w)) t = .done u →
      exec (.load sp w) s = .next (advance ((liveRows (getCtx t e.phys).x (lXi w) (lXn w) (lRows w)).foldl (copyLoad e w (getCtx t e.phys).x) u) e)) ∧
    (opcodeOf w = opLoad → (liveRows (getCtx t e.phys).x (lXi w) (lXn w) (lRows w)).any (fun i => tierOutside t e (lTier w) (lFar w) (farOf w (getCtx t e.phys).x i) (lRb w)) = true →
      exec (.load sp w) s = .next (programError t e.job stBounds e.rank (getCtx t e.phys).pos 2)) ∧
    (∀ u, opcodeOf w = opStore → (liveRows (getCtx t e.phys).x (lXi w) (lXn w) (lRows w)).any (fun i => tierOutside t e (lTier w) (lFar w) (farOf w (getCtx t e.phys).x i) (lRb w)) = false →
      runAll (fun s i => prepareWrite s e (lTier w) (farOf w (getCtx t e.phys).x i) (lRb w)) (liveRows (getCtx t e.phys).x (lXi w) (lXn w) (lRows w)) t = .done u →
      exec (.store sp w) s = .next (advance ((liveRows (getCtx t e.phys).x (lXi w) (lXn w) (lRows w)).foldl (fun s i =>
        writeTierFor s e (lTier w) (farOf w (getCtx t e.phys).x i) (scr (getCtx s e.phys) (scrOf w i) (lRb w))) u) e)) ∧
    (∀ u, opcodeOf w = opStore → (liveRows (getCtx t e.phys).x (lXi w) (lXn w) (lRows w)).any (fun i => tierOutside t e (lTier w) (lFar w) (farOf w (getCtx t e.phys).x i) (lRb w)) = false →
      runAll (fun s i => prepareWrite s e (lTier w) (farOf w (getCtx t e.phys).x i) (lRb w)) (liveRows (getCtx t e.phys).x (lXi w) (lXn w) (lRows w)) t = .wait u → exec (.store sp w) s = .next (enqueueUnit w e u)) ∧
    (opcodeOf w = opDrain → exec (.drain sp w) s = .next (advance (modCtx t e.phys (fun _ => carryMarks
      (((liveRows (getCtx t e.phys).x (dXi w) (dXn w) (dH w)).filter (fun i => !(getCtx t e.phys).masked.contains (drainRow w i))).foldl (fun c i => (List.range (dNt w)).foldl (fun c n =>
        if dFmt w = 7 then setLane c (dVreg w + i / 2) (128 * (i % 2) + n) (finWord (getCtx t e.phys) (dAccf w) (drainRow w i) n)
        else setScr c (dDst w * 16 + (i * dStride w + n) * drainBytes (dFmt w)) (drainEntry (getCtx t e.phys) (dAccf w) (dFmt w) (drainRow w i) n)) c) (getCtx t e.phys)) w
      (liveRows (getCtx t e.phys).x (dXi w) (dXn w) (dH w)))) e)) ∧
    (∀ u, opcodeOf w = opRequant → openRecord t e (rTier w) (rRec w) (rCh0 w) (rNt w) = .done u →
      pastScratch (rDst w * 64 + (rH w - 1) * rStride w * 64 + outSpan (recField u e.slice (rTier w) (rRec w) 15 1) (rNt w)) = false →
      exec (.requant sp w) s = .next (advance (countFin
        (((liveRows (getCtx t e.phys).x (rXi w) (rXn w) (rH w)).filter (fun i => !(getCtx u e.phys).masked.contains (requantMark w i))).foldl (fun s i =>
          (List.range (rNt w)).foldl (fun s n => requantCell e w (recField u e.slice (rTier w) (rRec w) 15 1) i n s) s) u) e.phys
        (min 1 (((liveRows (getCtx t e.phys).x (rXi w) (rXn w) (rH w)).filter (fun i => !(getCtx u e.phys).masked.contains (requantMark w i))).length * rNt w))) e))

/-- BAND_RECV and the broadcast it asks for (03 R11, 06 R104, R105). It rests on choices of the model: log entries 2, 8 and 37. -/
def Obligations.TheBand : Prop :=
  (∀ (sp : Fin 48) (w : IWord) (s t : State) (e : Seat) (j : Job), Issues s sp.val w e j t → opcodeOf w = opBandRecv →
    (getCtx t e.phys).bandq.length < 8 → exec (.bandRecv sp w) s = .next (advance (modCtx t e.phys (fun c =>
      { c with bandq := c.bandq ++ [{ at_ := (getCtx t e.phys).pos, band := bBand w, wfmt := bWfmt w, set := bSet w, tier := bTier w, src := bSrc w, nb := bNb w,
                                      first := (readX (getCtx t e.phys).x (bXi w)).toNat, got := 0, serial := (getCtx t e.phys).serial, since := t.clock,
                                      stamp := nextStamp t }] })) e)) ∧
  (∀ (sp : Fin 48) (w : IWord) (s t : State) (e : Seat) (j : Job), Issues s sp.val w e j t → opcodeOf w = opBandRecv →
    8 ≤ (getCtx t e.phys).bandq.length → exec (.bandRecv sp w) s = .next t) ∧
  (∀ (sp : Fin 48) (s t : State) (e : Seat) (r : BandReq) (rest : List BandReq) (es : List Seat), seatOf s sp.val = some e →
    (getCtx s e.phys).bandq = r :: rest → r.got = 0 → t = (seatsOf s e.job).foldl settleSeat s → receivers t e.job r = some es →
    isFailing t e.job = false → bandBusy t e.job r (completedAt t es) = false →
    (List.range r.nb).any (fun n => tierOutside t e r.tier r.src (blockAt r n) (blockStride r.wfmt)) = false →
    exec (.broadcastStart sp) s = .next (endFailed (deliver ((es.head?).getD e) r es r.nb 0 t) e.job)) ∧
  (∀ (sp : Fin 48) (s t : State) (e : Seat) (r : BandReq) (rest : List BandReq), seatOf s sp.val = some e → (getCtx s e.phys).bandq = r :: rest →
    r.got ≠ 0 → t = (seatsOf s e.job).foldl settleSeat s → exec (.broadcastStart sp) s = .next (endFailed
      (deliver (((receiving t e.job r).head?).getD e) r (receiving t e.job r) (r.nb - r.got) r.got t) e.job)) ∧
  (∀ (s u : State) (e : Seat) (r : BandReq) (es : List Seat) (n k : Nat) (bs : List Byte), isFailing s e.job = false →
    es.any (fun d => shadowFull (getCtx s d.phys)) = false → readTierFor s e r.tier r.src (blockAt r k) (blockStride r.wfmt) = .bytes u bs →
    deliver e r es (n + 1) k s = deliver e r es n (k + 1) (es.foldl settleSeat (charge
      (es.foldl (fun s d => receive s d { wfmt := r.wfmt, data := bs.take (blockBytes r.wfmt) }) u) e.slice
      (fun m => { m with band := m.band + weightBytes r.wfmt })))) ∧
  (∀ (s : State) (e : Seat) (r : BandReq) (es : List Seat) (n k : Nat), isFailing s e.job = false →
    es.any (fun d => shadowFull (getCtx s d.phys)) = true → deliver e r es (n + 1) k s = s) ∧
  (∀ (s : State) (e : Seat) (k : Block) (b : BandReq) (rest : List BandReq), (getCtx s e.phys).bandq = b :: rest →
    (getCtx (receive s e k) e.phys).blocks = (getCtx s e.phys).blocks ++ [(b.at_, k)] ∧
      (getCtx (receive s e k) e.phys).bandq = (if b.got + 1 < b.nb then { b with got := b.got + 1 } :: rest else rest) ∧
      (getCtx (receive s e k) e.phys).bank = (getCtx s e.phys).bank ∧ (getCtx (receive s e k) e.phys).scratch = (getCtx s e.phys).scratch) ∧
  (∀ (sp : Fin 48) (s t : State) (e : Seat) (r : BandReq) (rest : List BandReq), seatOf s sp.val = some e → (getCtx s e.phys).bandq = r :: rest →
    r.got = 0 → t = (seatsOf s e.job).foldl settleSeat s → receivers t e.job r = none → isFailing t e.job = false →
    exec (.broadcastStart sp) s = .next t) ∧
  (∀ (sp : Fin 48) (s t : State) (e : Seat) (r : BandReq) (rest : List BandReq) (es : List Seat), seatOf s sp.val = some e →
    (getCtx s e.phys).bandq = r :: rest → r.got = 0 → t = (seatsOf s e.job).foldl settleSeat s → receivers t e.job r = some es →
    isFailing t e.job = false → bandBusy t e.job r (completedAt t es) = true → exec (.broadcastStart sp) s = .next t) ∧
  (∀ (sp : Fin 48) (s t : State) (e l : Seat) (r r' : BandReq) (rest q : List BandReq) (es : List Seat), seatOf s sp.val = some e →
    (getCtx s e.phys).bandq = r :: rest → r.got = 0 → t = (seatsOf s e.job).foldl settleSeat s → receivers t e.job r = some (l :: es) →
    (getCtx t l.phys).bandq = r' :: q → isFailing t e.job = false → bandBusy t e.job r (completedAt t (l :: es)) = false →
    (List.range r.nb).any (fun n => tierOutside t e r.tier r.src (blockAt r n) (blockStride r.wfmt)) = true →
    exec (.broadcastStart sp) s = .next (programError t e.job stBounds l.rank r'.at_ 2))

/-- SIGNAL, its effect, and WAIT (06 R114-R117, 15 R324); a rank that yields ends its part of the step: its records are folded (05 R93, 06 R116). It
rests on choices of the model: log entries 2 and 8. -/
def Obligations.Semaphores : Prop :=
  (∀ (sp : Fin 48) (w : IWord) (s t : State) (e : Seat) (j : Job), Issues s sp.val w e j t → opcodeOf w = opSignal →
    (getCtx t e.phys).sigs.length < 64 → exec (.signal sp w) s = .next (advance (modCtx t e.phys (fun c =>
      { c with sigs := c.sigs ++ [{ at_ := (getCtx t e.phys).pos, sem := sSem w, n := sN w, hold := sHold w, rel := sRel w, serial := (getCtx t e.phys).serial }] })) e)) ∧
  (∀ (sp : Fin 48) (w : IWord) (s t : State) (e : Seat) (j : Job), Issues s sp.val w e j t → opcodeOf w = opSignal →
    64 ≤ (getCtx t e.phys).sigs.length → exec (.signal sp w) s = .next t) ∧
  (∀ (sp : Fin 48) (s t : State) (e : Seat) (g : PendSig) (rest : List PendSig), seatOf s sp.val = some e → t = settle s e →
    (seatOf t sp.val).isSome = true → (getCtx t e.phys).sigs = g :: rest → isFailing t e.job = false → sigReady (getCtx t e.phys) g = true →
    sigBad t e g = false → exec (.signalEffect sp) s = .next (applySig (modCtx t e.phys (fun c => { c with sigs := rest })) e g)) ∧
  (∀ (sp : Fin 48) (s t : State) (e : Seat) (g : PendSig) (rest : List PendSig), seatOf s sp.val = some e → t = settle s e →
    (seatOf t sp.val).isSome = true → (getCtx t e.phys).sigs = g :: rest → isFailing t e.job = false → sigReady (getCtx t e.phys) g = true →
    sigBad t e g = true → exec (.signalEffect sp) s = .next (programError t e.job stBounds e.rank g.at_ 2)) ∧
  (∀ (s : State) (e : Seat) (g : PendSig) (n : Nat), (lookup s.slices e.slice).isSome = true →
    semValue (applySig s e g) e.slice n = if n = g.sem then semValue s e.slice n + g.n else semValue s e.slice n) ∧
  (∀ (sp : Fin 48) (w : IWord) (s t : State) (e : Seat) (j : Job), Issues s sp.val w e j t → opcodeOf w = opWait → sN w ≤ semValue t e.slice (sSem w) →
    exec (.wait sp w) s = .next (advance
      (let u := if sKeep w then t else modSlice t e.slice (fun x => { x with sems := writeD 0 x.sems (sSem w) (semValue t e.slice (sSem w) - sN w) })
       if sHold w then modJob u e.job (fun j => { j with holds := writeD 0 j.holds (sSem w) (readD 0 j.holds (sSem w) + 1) }) else u) e)) ∧
  (∀ (sp : Fin 48) (w : IWord) (s t : State) (e : Seat) (j : Job), Issues s sp.val w e j t → opcodeOf w = opWait → semValue t e.slice (sSem w) < sN w →
    j.draft.isSome = true → exec (.wait sp w) s = .next t) ∧
  (∀ (sp : Fin 48) (w : IWord) (s t : State) (e : Seat) (j : Job), Issues s sp.val w e j t → opcodeOf w = opWait → semValue t e.slice (sSem w) < sN w →
    j.draft = none → exec (.wait sp w) s = .next (yieldRank t e (sSem w))) ∧
  (∀ (t u : State) (e : Seat) (sem : Nat), (getCtx t e.phys).issued = [] → (getCtx t e.phys).bandq = [] → (getCtx t e.phys).sigs = [] →
    mayHold t e.slice 6 = true → obtainPages t e.slice 6 = .got u → (getSpn (yieldRank t e sem) e.phys).rank = none ∧
      (∀ j, lookup (foldRank u e.job e.rank).jobs e.job = some j →
        lookup (yieldRank t e sem).jobs e.job =
          some { j with saved := insertKey j.saved e.rank (getCtx t e.phys), rankStates := j.rankStates.set e.rank .yielded, touched := j.touched.filter (fun t => t.1 ≠ e.rank) }))

/-- WORK, SHAPE and FENCE (06 R110, R111, R118, R119). It rests on choices of the model: log entry 8. -/
def Obligations.LoopsShapesFences : Prop :=
  (∀ (sp : Fin 48) (w : IWord) (s t : State) (e : Seat) (j : Job) (i : Nat), Issues s sp.val w e j t → opcodeOf w = opWork → kMode w = 0 →
    i = ((getCtx t e.phys).loop.map Loop.t).getD (readX (getCtx t e.phys).x (kXs w)).toNat →
    i * kScale w < (readX (getCtx t e.phys).x (kXl w)).toNat → exec (.workLocal sp w) s = .next (enterLoop w i (i + kStride w) e t)) ∧
  (∀ (sp : Fin 48) (w : IWord) (s t : State) (e : Seat) (j : Job) (i : Nat), Issues s sp.val w e j t → opcodeOf w = opWork → kMode w = 0 →
    i = ((getCtx t e.phys).loop.map Loop.t).getD (readX (getCtx t e.phys).x (kXs w)).toNat →
    (readX (getCtx t e.phys).x (kXl w)).toNat ≤ i * kScale w → exec (.workLocal sp w) s = .next (leaveLoop w e t)) ∧
  (∀ (sp : Fin 48) (w : IWord) (s t : State) (e : Seat) (j : Job) (x : Slice), Issues s sp.val w e j t → opcodeOf w = opWork → kMode w = 1 →
    lookup t.slices e.slice = some x → readD 0 x.ctrValue (kCtr w) < readD 0 x.ctrLimit (kCtr w) →
    exec (.workCounter sp w) s = .next (enterLoop w (readD 0 x.ctrValue (kCtr w)) 0 e (modSlice t e.slice (fun y =>
      { y with ctrValue := writeD 0 y.ctrValue (kCtr w) (readD 0 x.ctrValue (kCtr w) + 1) })))) ∧
  (∀ (sp : Fin 48) (w : IWord) (s t : State) (e : Seat) (j : Job) (x : Slice), Issues s sp.val w e j t → opcodeOf w = opWork → kMode w = 1 →
    lookup t.slices e.slice = some x → readD 0 x.ctrLimit (kCtr w) ≤ readD 0 x.ctrValue (kCtr w) →
    exec (.workCounter sp w) s = .next (leaveLoop w e t)) ∧
  (∀ (sp : Fin 48) (w : IWord) (s t : State) (e : Seat) (j : Job), Issues s sp.val w e j t → opcodeOf w = opWork → kMode w = 2 →
    exec (.workInit sp w) s = .next (advance (modSlice t e.slice (fun x =>
      { x with ctrValue := writeD 0 x.ctrValue (kCtr w) 0,
               ctrLimit := writeD 0 x.ctrLimit (kCtr w) (ceilDiv (readX (getCtx t e.phys).x (kXl w)).toNat (kScale w)) })) e)) ∧
  (∀ (w : IWord) (i n : Nat) (e : Seat) (t : State), let c := getCtx (enterLoop w i n e t) e.phys
      c.x = writeX (getCtx t e.phys).x (kXd w) (BitVec.ofNat 32 (i * kScale w)) ∧ c.pos = (getCtx t e.phys).pos + 1 ∧ c.loop = some { at_ := (getCtx t e.phys).pos, body := kBody w, t := n } ∧
      c.scratch = (getCtx t e.phys).scratch ∧ c.bank = (getCtx t e.phys).bank ∧ c.vreg = (getCtx t e.phys).vreg) ∧
  (∀ (w : IWord) (e : Seat) (t : State), let c := getCtx (leaveLoop w e t) e.phys
      c.x = writeX (getCtx t e.phys).x (kXd w) 0xFFFFFFFF ∧ c.pos = (getCtx t e.phys).pos + 1 + kBody w ∧ c.loop = none ∧
      c.scratch = (getCtx t e.phys).scratch ∧ c.bank = (getCtx t e.phys).bank ∧ c.vreg = (getCtx t e.phys).vreg) ∧
  (∀ (sp : Fin 48) (w : IWord) (s t : State) (e : Seat) (j : Job), Issues s sp.val w e j t → opcodeOf w = opShape → 0 ≤ shapeValue j e.rank w →
    shapeValue j e.rank w < 2 ^ 32 →
    exec (.shape sp w) s = .next (advance (modCtx t e.phys (fun c => { c with x := writeX c.x (hXd w) (BitVec.ofInt 32 (shapeValue j e.rank w)) })) e)) ∧
  (∀ (sp : Fin 48) (w : IWord) (s t : State) (e : Seat) (j : Job), Issues s sp.val w e j t → opcodeOf w = opShape →
    (shapeValue j e.rank w < 0 ∨ 2 ^ 32 ≤ shapeValue j e.rank w) →
    exec (.shape sp w) s = .next (programError t e.job stBounds e.rank (getCtx t e.phys).pos 1)) ∧
  (∀ (sp : Fin 48) (w : IWord) (s t : State) (e : Seat) (j : Job), Issues s sp.val w e j t → opcodeOf w = opFence →
    classesDone (getCtx t e.phys) (fClass w) (getCtx t e.phys).serial = true → exec (.fence sp w) s = .next (advance t e)) ∧
  (∀ (sp : Fin 48) (w : IWord) (s t : State) (e : Seat) (j : Job), Issues s sp.val w e j t → opcodeOf w = opFence →
    classesDone (getCtx t e.phys) (fClass w) (getCtx t e.phys).serial = false → exec (.fence sp w) s = .next t)

/-- JOB_SUBMIT to JOB_ABORT and the resumption of a rank (07 R125-R127; 15 R310, R319-R322, R324). It rests on choices of the model: log entries 2, 16
and 37. -/
def Obligations.JobsOutsideDrafts : Prop :=
  (∀ (op : Nat) (o : Op) (s t : State) (b : List Byte), Ready s op 0x20 2 o → t = started s op 2 → lookup s.jobs op = none → (o.f 8 8) % 64 = 0 →
    1 ≤ o.f 16 1 → o.f 16 1 ≤ 48 → o.f 17 1 ≤ 7 → o.f 20 4 ≠ 0 → Reaches t o [((o.f 8 8), 256, true)] → homeFails t o.port (o.f 8 8) 192 = false →
    b = readPartner t o.port (o.f 8 8) 192 → jobBlockBad b = none →
    Reaches t o [(field b 8 8, 16 * field b 16 2, false), (field b 24 8, 32 * field b 18 2, false)] →
    homeFails t o.port (field b 8 8) (16 * field b 16 2) = false → homeFails t o.port (field b 24 8) (32 * field b 18 2) = false →
    exec (.jobSubmit op) s = .next (submitChecked t op o b (readPartner t o.port (field b 8 8) (16 * field b 16 2))
      (readPartner t o.port (field b 24 8) (32 * field b 18 2)))) ∧
  (∀ (op : Nat) (o : Op) (t : State) (b pb : List Byte), field b 18 2 = 0 → o.f 16 1 ≤ (usable t o.slice).length →
    badSlot t o.slice ((List.range 32).map (slotHandle b 32)) [] = none →
    checkProgramFrom (progCtx t o.slice (o.f 16 1) (List.range (o.f 16 1)) (field b 16 2)) ((List.range (field b 16 2)).map (readInstr pb)) 0 0 = none →
    submitChecked t op o b pb [] = { t with jobs := insertKey t.jobs op (newJob o t b ((List.range (field b 16 2)).map (readInstr pb)) []) }) ∧
  (∀ (op : Nat) (s t u : State) (j : Job) (vals : List Nat), lookup s.jobs op = some j → j.phase = .submitted → j.draft = none → starved s j = false →
    j.place = none → mayIssue s op j = true → awake s 2 = true → statusLines s j = [] → t = takePlace s op →
    shapeDecision t j.port j.slice j.shapesAddr = .run u vals →
    exec (.jobIssue op) s = .next (modJob u op (fun j => { j with shapes := vals, phase := .ready, waitSince := u.clock }))) ∧
  (∀ (op : Nat) (s : State), takePlace s op = writeJobStatus (modJob s op (fun j =>
      { j with place := some (freePlace s), issuedAt := s.trd.beat,
               skeins := j.skeins.map (fun h => if (lookup s.skeins h).any (fun k => !k.releasing) then h else 0xFFFFFFFF) })) op none) ∧
  (∀ (op : Nat) (s t u : State) (j : Job) (st d r : Nat), lookup s.jobs op = some j → j.phase = .submitted → j.draft = none → starved s j = false →
    j.place = none → mayIssue s op j = true → awake s 2 = true → statusLines s j = [] → t = takePlace s op →
    shapeDecision t j.port j.slice j.shapesAddr = .ends u st d r → exec (.jobIssue op) s = .next (endJob u op st d r)) ∧
  (∀ (op : Nat) (s t u : State) (j : Job), lookup s.jobs op = some j → j.phase = .submitted → j.draft = none → starved s j = false → j.place = none →
    mayIssue s op j = true → awake s 2 = true → statusLines s j = [] → t = takePlace s op → shapeDecision t j.port j.slice j.shapesAddr = .wait u →
    exec (.jobIssue op) s = .next u) ∧
  (∀ (op : Nat) (s : State) (j : Job), lookup s.jobs op = some j → j.phase = .submitted → j.draft = none → starved s j = true →
    exec (.jobIssue op) s = .next (endJob s op stBounds 16 0)) ∧
  (∀ (job : Nat) (s : State) (j : Job) (sps : List Nat), lookup s.jobs job = some j → j.phase = .ready → j.draft = none → s.ras.halted = false →
    s.pins.throttle = false → powerPending s = false → starved s j = false → awake s 0 = true → requiredDone j j.step = true →
    mayDispatch s job j = true → placementOf s j = some sps → statusLines s j = [] →
    (j.saved.isEmpty || s.memStacks.all (fun k => k.uncorr.isEmpty)) = true →
    exec (.jobDispatch job) s = .next (writeJobStatus (startStep s job j sps) job (some j.step))) ∧
  (∀ (job since : Nat) (s : State) (j : Job), lookup s.jobs job = some j → j.phase = .running since → j.draft = none → since + 64 ≤ s.clock →
    j.failing = none → j.rankStates.any (fun r => r = .running) = true →
    exec (.jobStepTimeLimit job) s = .next (endJob (foldRecords s job) job stStepLong (0x20000000 + j.step % 2 ^ 28) 0)) ∧
  (∀ (op jid : Nat) (o : Op) (s u : State), Ready s op 0x21 4 o → o.phase = .fetched → abortTarget (started s op 4) o = some jid →
    u = abortJob (started s op 4) jid → exec (.jobAbort op) s = .next (if (lookup u.jobs jid).isNone then finishOk u op 0 else u)) ∧
  (∀ (op : Nat) (o : Op) (s : State), Ready s op 0x21 4 o → o.phase = .fetched → abortTarget (started s op 4) o = none →
    abortUnissued (started s op 4) op o = none → exec (.jobAbort op) s = .next (fail (started s op 4) op stBounds 8)) ∧
  (∀ (op id : Nat) (o : Op) (s : State), Ready s op 0x21 4 o → o.phase = .fetched → abortTarget (started s op 4) o = none →
    abortUnissued (started s op 4) op o = some id → exec (.jobAbort op) s = .next (finishOk (fail (started s op 4) id stAborted 0) op 0)) ∧
  (∀ (op : Nat) (o : Op) (s : State), Ready s op 0x21 4 o → o.phase ≠ .fetched → abortTarget (started s op 4) o = none →
    exec (.jobAbort op) s = .next (finishOk (started s op 4) op 0)) ∧
  (∀ (s : State) (jid : Nat) (j : Job), lookup s.jobs jid = some j → jobIdle j = true → j.phase ≠ .frozen → abortJob s jid = endJob s jid stAborted 0 0) ∧
  (∀ (s : State) (jid : Nat) (j : Job), lookup s.jobs jid = some j → jobIdle j = false →
    abortJob s jid = modJob s jid (fun j => { j with abortAtEnd := some (stAborted, 0) })) ∧
  (∀ (job since l : Nat) (rank : Fin 48) (s : State) (j : Job) (c : Ctx) (w : IWord), lookup s.jobs job = some j → lookup j.saved rank.val = some c →
    j.phase = .running since → j.rankStates[rank.val]? = some .yielded → j.prog[c.pos]? = some w → sN w ≤ semValue s j.slice (sSem w) →
    s.ras.halted = false → j.abortAtEnd = none → j.failing = none → awake s 0 = true → bestSpindle s j (freeFor s j.slice) = some l →
    s.memStacks.all (fun k => k.uncorr.isEmpty) = true →
    exec (.rankResume job rank) s = .next (modJob (seatRank s job rank.val l (fun _ => c)) job (fun j =>
      { j with saved := removeKey j.saved rank.val, switchSaved := j.switchSaved.filter (fun k => k ≠ rank.val),
               rankStates := j.rankStates.set rank.val .running, spindles := j.spindles.set rank.val l,
               phase := .running (if jobIdle j then s.clock else since) })))

/-- PLY_REFORM (10 R185, R197-R199). It rests on choices of the model: log entries 2, 16, 36 and 37. -/
def Obligations.Plies : Prop :=
  (∀ (op d hops beat : Nat) (o : Op) (s t u : State) (b : List Byte) (p : Ply), Ready s op 0x7C 2 o → o.f 20 1 = 0 → t = started s op 2 →
    o.left = none → Clear (reformChecks t o) → Reaches t o [(o.f 8 8, 4 * o.f 16 2, false)] → homeFails t o.port (o.f 8 8) (4 * o.f 16 2) = false →
    b = (readPartner t o.port (o.f 8 8) (4 * o.f 16 2)) → membershipBad t b (o.f 16 2) (o.f 18 2) = false → d ≤ 48 → hops ≤ 24 →
    p = newPly t o b d hops →
    u = { adoptNumbering t (memberAnchor b p.self) hops beat with plies := insertKey (adoptNumbering t (memberAnchor b p.self) hops beat).plies (o.f 21 1) p } →
    u.trd.load = none → exec (.plyReformForm op (.formed d hops beat)) s = .next (finishOk u op (reformResult p.v p.d p.hops))) ∧
  (∀ (op d hops beat : Nat) (o : Op) (s t u : State) (b : List Byte) (p : Ply), Ready s op 0x7C 2 o → o.f 20 1 = 0 → t = started s op 2 →
    o.left = none → Clear (reformChecks t o) → Reaches t o [(o.f 8 8, 4 * o.f 16 2, false)] → homeFails t o.port (o.f 8 8) (4 * o.f 16 2) = false →
    b = (readPartner t o.port (o.f 8 8) (4 * o.f 16 2)) → membershipBad t b (o.f 16 2) (o.f 18 2) = false → d ≤ 48 → hops ≤ 24 →
    p = newPly t o b d hops →
    u = { adoptNumbering t (memberAnchor b p.self) hops beat with plies := insertKey (adoptNumbering t (memberAnchor b p.self) hops beat).plies (o.f 21 1) p } →
    u.trd.load ≠ none → exec (.plyReformForm op (.formed d hops beat)) s = .next (markFormed u op)) ∧
  (∀ (op : Nat) (found : PlyExchange) (o : Op) (s t : State) (l : List Nat) (p : Ply), Ready s op 0x7C 2 o → o.f 20 1 = 0 → t = started s op 2 →
    o.left = some l → lookup s.plies (o.f 21 1) = some p → s.trd.load = none →
    exec (.plyReformForm op found) s = .next (finishOk t op (reformResult p.v p.d p.hops))) ∧
  (∀ (op : Nat) (o : Op) (s t : State) (b : List Byte), Ready s op 0x7C 2 o → o.f 20 1 = 0 → t = started s op 2 → o.left = none →
    Clear (reformChecks t o) → Reaches t o [(o.f 8 8, 4 * o.f 16 2, false)] → homeFails t o.port (o.f 8 8) (4 * o.f 16 2) = false →
    b = (readPartner t o.port (o.f 8 8) (4 * o.f 16 2)) → membershipBad t b (o.f 16 2) (o.f 18 2) = false →
    exec (.plyReformForm op .digestDiffers) s = .next (fail t op stSplit 1)) ∧
  (∀ (op : Nat) (o : Op) (s t : State) (b : List Byte), Ready s op 0x7C 2 o → o.f 20 1 = 0 → t = started s op 2 → o.left = none →
    Clear (reformChecks t o) → Reaches t o [(o.f 8 8, 4 * o.f 16 2, false)] → homeFails t o.port (o.f 8 8) (4 * o.f 16 2) = false →
    b = (readPartner t o.port (o.f 8 8) (4 * o.f 16 2)) → membershipBad t b (o.f 16 2) (o.f 18 2) = false →
    exec (.plyReformForm op .unreachable) s = .next (fail t op stSplit 2)) ∧
  (∀ (op d hops beat : Nat) (o : Op) (s t : State) (b : List Byte), Ready s op 0x7C 2 o → o.f 20 1 = 0 → t = started s op 2 → o.left = none →
    Clear (reformChecks t o) → Reaches t o [(o.f 8 8, 4 * o.f 16 2, false)] → homeFails t o.port (o.f 8 8) (4 * o.f 16 2) = false →
    b = (readPartner t o.port (o.f 8 8) (4 * o.f 16 2)) → membershipBad t b (o.f 16 2) (o.f 18 2) = false → (48 < d ∨ 24 < hops) →
    exec (.plyReformForm op (.formed d hops beat)) s = .next (fail t op stSplit 3)) ∧
  (∀ (op d hops beat jid total : Nat) (o : Op) (s t u v : State) (b : List Byte) (p : Ply) (j : Job) (r : DraftRun), Ready s op 0x7C 2 o →
    o.f 20 1 = 1 → t = started s op 2 → o.left = none → Clear (reformChecks t o) → Reaches t o [(o.f 8 8, 4 * o.f 16 2, false)] →
    homeFails t o.port (o.f 8 8) (4 * o.f 16 2) = false → b = (readPartner t o.port (o.f 8 8) (4 * o.f 16 2)) →
    membershipBad t b (o.f 16 2) (o.f 18 2) = false → d ≤ 48 → hops ≤ 24 → p = newPly t o b d hops →
    u = adoptNumbering t (memberAnchor b p.self) hops beat → v = { u with plies := insertKey u.plies (o.f 21 1) p } → v.trd.load = none →
    frozenDraft v (o.f 21 1) = some (jid, j, r) → total = ((lookup v.drafts (o.f 24 4)).map (resumedTotal v r)).getD 0 →
    resumeBad v (o.f 21 1) p r (o.f 24 4) = false → o.f 32 8 < total → v.trd.beat + p.v + 8 ≤ o.f 40 8 →
    exec (.plyReformResume op (.formed d hops beat)) s =
      .next (finishOk (writeStartBlock (bindDraft v jid o (o.f 24 4) total) jid) op (reformResult p.v p.d p.hops))) ∧
  (∀ (op jid total : Nat) (found : PlyExchange) (o : Op) (s v : State) (l : List Nat) (p : Ply) (j : Job) (r : DraftRun), Ready s op 0x7C 2 o →
    o.f 20 1 = 1 → v = started s op 2 → o.left = some l → lookup s.plies (o.f 21 1) = some p → s.trd.load = none →
    frozenDraft v (o.f 21 1) = some (jid, j, r) → total = ((lookup v.drafts (o.f 24 4)).map (resumedTotal v r)).getD 0 →
    resumeBad v (o.f 21 1) p r (o.f 24 4) = false → o.f 32 8 < total → v.trd.beat + p.v + 8 ≤ o.f 40 8 → exec (.plyReformResume op found) s =
      .next (finishOk (writeStartBlock (bindDraft v jid o (o.f 24 4) total) jid) op (reformResult p.v p.d p.hops))) ∧
  (∀ (op : Nat) (o : Op) (s : State) (p : Ply), Ready s op 0x7C 4 o → o.f 20 1 = 2 → o.f 21 1 ≤ 63 → lookup s.plies (o.f 21 1) = some p →
    p.id = o.f 22 2 → plyJob (started s op 4) (o.f 21 1) = none →
    exec (.plyReformDissolve op) s = .next (finishOk (leavePly (started s op 4) (o.f 21 1)) op 0))

/-- Scheduled slots of a running step (10 R184, R191; 11 R211). It rests on choices of the model: log entries 2 and 28. -/
def Obligations.ScheduledSlots : Prop :=
  (∀ (job idx : Nat) (s u v : State) (j : Job) (d : DraftRun) (r : StepRec) (e : SlotEnt), lookup s.jobs job = some j → runningStep s j = some (d, r) →
    s.ras.halted = false → j.failing = none → r.slots[idx]? = some e → d.slots[idx]? = some .waiting → d.start + e.beat ≤ s.trd.beat → e.kind = 1 →
    (e.sem = 0xFFFF ∨ semValue s j.slice e.sem ≠ 0) → touch s j.slice e.tier (e.addr * 64) e.bytes false = .ready u →
    v = noteTouched u job 48 e.tier (e.addr * 64) e.bytes → exec (.slotOpen job idx) s = .next (setSlot (sendTransfer
      (if e.sem = 0xFFFF then v else modSlice v j.slice (fun x => { x with sems := writeD 0 x.sems e.sem (readD 0 x.sems e.sem - 1) }))
      j.slice e.link none (slotHeader j r e idx e.bytes) (readTier v j.slice e.tier (e.addr * 64) e.bytes)) job idx .sent)) ∧
  (∀ (job idx : Nat) (s : State) (j : Job) (d : DraftRun) (r : StepRec) (e : SlotEnt), lookup s.jobs job = some j → runningStep s j = some (d, r) →
    s.ras.halted = false → j.failing = none → r.slots[idx]? = some e → d.slots[idx]? = some .waiting → d.start + e.beat ≤ s.trd.beat → e.kind = 1 →
    e.sem ≠ 0xFFFF → semValue s j.slice e.sem = 0 → exec (.slotOpen job idx) s = .next s) ∧
  (∀ (job idx k : Nat) (s : State) (j : Job) (d : DraftRun) (r : StepRec) (e : SlotEnt) (red : RedEnt) (x : RedState) (acc : List Byte),
    lookup s.jobs job = some j → runningStep s j = some (d, r) → s.ras.halted = false → j.failing = none → r.slots[idx]? = some e →
    d.slots[idx]? = some .waiting → d.start + e.beat ≤ s.trd.beat → e.kind = 4 → redOf r e = some (k, red) → redRole r e idx = some .giveResult →
    d.reds[k]? = some x → x.written = true → x.acc = some acc →
    exec (.slotOpen job idx) s = .next (setSlot (sendTransfer s j.slice e.link none (slotHeader j r e idx acc.length) acc) job idx .sent)) ∧
  (∀ (job idx : Nat) (s : State) (j : Job) (d : DraftRun) (r : StepRec) (e : SlotEnt), lookup s.jobs job = some j → runningStep s j = some (d, r) →
    s.ras.halted = false → r.slots[idx]? = some e → s.trd.beat < d.start + e.beat → exec (.slotOpen job idx) s = .next s) ∧
  (∀ (job i : Nat) (link : Fin 96) (hdr : SlotHeader) (data : List Byte) (s : State) (j : Job) (d : DraftRun) (r : StepRec) (e : SlotEnt) (u : State),
    lookup s.jobs job = some j → runningStep s j = some (d, r) → s.ras.halted = false → j.failing = none → hdr.step = j.step →
    (r.slots.zipIdx).find? (fun f => takesOn s j.slice r link.val f.1 f.2 && ordOf r (takesOn s j.slice r link.val) f.1 f.2 = hdr.ord) = some (e, i) →
    d.slots[i]? = some .waiting → e.kind = 2 → hdr.bytes = e.bytes → data.length = e.bytes →
    touch s j.slice e.tier (e.addr * 64) e.bytes true = .ready u →
    exec (.scheduledTransfer job link hdr data) s = .next (transferTaken (setSlot (slotSignal
      (writeTier (noteTouched u job 48 e.tier (e.addr * 64) e.bytes) j.slice e.tier (e.addr * 64) data) j.slice e.sem) job i .received)
      job j.slice link.val i e data.length)) ∧
  (∀ (job i : Nat) (link : Fin 96) (hdr : SlotHeader) (data : List Byte) (s : State) (j : Job) (d : DraftRun) (r : StepRec) (e : SlotEnt),
    lookup s.jobs job = some j → runningStep s j = some (d, r) → s.ras.halted = false → j.failing = none → hdr.step = j.step →
    (r.slots.zipIdx).find? (fun f => takesOn s j.slice r link.val f.1 f.2 && ordOf r (takesOn s j.slice r link.val) f.1 f.2 = hdr.ord) = some (e, i) →
    d.slots[i]? = some .waiting → e.kind = 3 → data.length = hdr.bytes → exec (.scheduledTransfer job link hdr data) s =
      .next (transferTaken (setSlot (sendTransfer s j.slice e.link (some link.val) (slotHeader j r e i data.length) data) job i .sent)
        job j.slice link.val i e data.length)) ∧
  (∀ (job i : Nat) (link : Fin 96) (hdr : SlotHeader) (data : List Byte) (s : State) (j : Job) (d : DraftRun) (r : StepRec) (e : SlotEnt) (k : Nat) (red : RedEnt),
    lookup s.jobs job = some j → runningStep s j = some (d, r) → s.ras.halted = false → j.failing = none → hdr.step = j.step →
    (r.slots.zipIdx).find? (fun f => takesOn s j.slice r link.val f.1 f.2 && ordOf r (takesOn s j.slice r link.val) f.1 f.2 = hdr.ord) = some (e, i) →
    d.slots[i]? = some .waiting → e.kind = 4 → redOf r e = some (k, red) → redRole r e i = some .takeValue → hdr.bytes = red.e * redElem red.op →
    data.length = hdr.bytes → exec (.scheduledTransfer job link hdr data) s = .next (transferTaken
      (joinChain s job j.slice k i red (some data) (fun s => setSlot s job i .received)) job j.slice link.val i e data.length)) ∧
  (∀ (job i : Nat) (link : Fin 96) (hdr : SlotHeader) (data : List Byte) (s : State) (j : Job) (d : DraftRun) (r : StepRec) (e : SlotEnt) (k : Nat) (red : RedEnt) (u : State),
    lookup s.jobs job = some j → runningStep s j = some (d, r) → s.ras.halted = false → j.failing = none → hdr.step = j.step →
    (r.slots.zipIdx).find? (fun f => takesOn s j.slice r link.val f.1 f.2 && ordOf r (takesOn s j.slice r link.val) f.1 f.2 = hdr.ord) = some (e, i) →
    d.slots[i]? = some .waiting → e.kind = 4 → redOf r e = some (k, red) → redRole r e i = some .takeResult → hdr.bytes = red.e * redElem red.op →
    data.length = hdr.bytes → touch s j.slice red.tier red.base (segSpan red 1) true = .ready u →
    exec (.scheduledTransfer job link hdr data) s = .next (transferTaken
      (setSlot (writeResult (noteTouched u job 48 red.tier red.base (segSpan red 1)) job j.slice k i red data) job i .received)
      job j.slice link.val i e data.length)) ∧
  (∀ (s : State) (job q link i n : Nat) (e : SlotEnt) (d : DraftRun), (lookup s.jobs job).bind Job.draft = some d → d.slots[i]? ≠ some .waiting →
    transferTaken s job q link i e n =
      charge (if e.kind = 3 then s else freeBuffers s link 3 (flitsOf (n + 16))) q (fun m => { m with strandRx := m.strandRx + n })) ∧
  (∀ (s : State) (job q link i n : Nat) (e : SlotEnt) (d : DraftRun), (lookup s.jobs job).bind Job.draft = some d → d.slots[i]? = some .waiting →
    transferTaken s job q link i e n = s) ∧
  (∀ (job : Nat) (link : Fin 96) (hdr : SlotHeader) (data : List Byte) (s : State) (j : Job) (d : DraftRun) (r : StepRec), lookup s.jobs job = some j →
    runningStep s j = some (d, r) → s.ras.halted = false → j.failing = none → hdr.step ≠ j.step →
    ∃ n, exec (.scheduledTransfer job link hdr data) s = .next (endSlot { s with free := s.free + 1 } job stBounds (n % 4096))) ∧
  (∀ (job i : Nat) (link : Fin 96) (hdr : SlotHeader) (data : List Byte) (s : State) (j : Job) (d : DraftRun) (r : StepRec) (e : SlotEnt),
    lookup s.jobs job = some j → runningStep s j = some (d, r) → s.ras.halted = false → j.failing = none → hdr.step = j.step →
    (r.slots.zipIdx).find? (fun f => takesOn s j.slice r link.val f.1 f.2 && ordOf r (takesOn s j.slice r link.val) f.1 f.2 = hdr.ord) = some (e, i) →
    d.slots[i]? = some .waiting → (hdr.bytes ≠ expectedBytes r e hdr ∨ data.length ≠ hdr.bytes) →
    exec (.scheduledTransfer job link hdr data) s = .next (endSlot s job stBounds i))

/-- Training, retraining and STR_CTRL.EN of the strand lanes (11 R202-R205, R208, R209, R213). It rests on choices of the model: log entries 2 and 22.
-/
def Obligations.Lanes : Prop :=
  (∀ (n : Fin 104) (far : FarEnd) (s : State), (getLane s n.val).en = true → (getLane s n.val).up = false → (getLane s n.val).trainFails < 3 →
    far.fecLL = (getLane s n.val).ctrlFec → far.bond = (getLane s n.val).ctrlBond →
    exec (.laneTrainingComplete n far) s = .next (reportUp (laneComesUp
      (modLane (modLane s n.val (fun x => noteTraining x far)) n.val (adoptCtrl (decide (s.pwr.state = 4)))) n.val) n.val (getLane s n.val).downSaid)) ∧
  (∀ (n : Fin 104) (far : FarEnd) (s : State), (getLane s n.val).en = true → (getLane s n.val).up = false → (getLane s n.val).trainFails < 3 →
    (far.fecLL ≠ (getLane s n.val).ctrlFec ∨ far.bond ≠ (getLane s n.val).ctrlBond) →
    exec (.laneTrainingComplete n far) s = .next (modLane (modLane s n.val (fun x => noteTraining x far)) n.val (fun x => { x with cfgErr := true, retraining := false }))) ∧
  (∀ (n : Fin 104) (far : FarEnd) (s : State), 3 ≤ (getLane s n.val).trainFails → exec (.laneTrainingComplete n far) s = .next s) ∧
  (∀ (n : Fin 104) (far : FarEnd) (s : State), (getLane s n.val).retraining = true → far.fecLL = (getLane s n.val).ctrlFec →
    far.bond = (getLane s n.val).ctrlBond → exec (.retrainComplete { lane := n, far := far }) s = .next (reportUp (laneComesUp
      (modLane (modLane s n.val (fun x => noteTraining x far)) n.val (adoptCtrl (decide (s.pwr.state = 4)))) n.val) n.val (getLane s n.val).downSaid)) ∧
  (∀ (n : Fin 104) (far : FarEnd) (s : State), (getLane s n.val).retraining = true →
    (far.fecLL ≠ (getLane s n.val).ctrlFec ∨ far.bond ≠ (getLane s n.val).ctrlBond) →
    exec (.retrainComplete { lane := n, far := far }) s = .next (modLane (modLane s n.val (fun x => noteTraining x far)) n.val (fun x => { x with cfgErr := true, retraining := false }))) ∧
  (∀ (n : Fin 104) (s : State), (getLane s n.val).retraining = true → (getLane s n.val).trainFails < 2 →
    exec (.retrainFail n) s = .next (modLane s n.val (fun x =>
      { x with trainFails := x.trainFails + 1, ctr := { x.ctr with retrain := sat32 (x.ctr.retrain + 1) } }))) ∧
  (∀ (n : Fin 104) (s u : State), (getLane s n.val).retraining = true → 2 ≤ (getLane s n.val).trainFails →
    u = modLane s n.val (fun x => { x with trainFails := 3, retraining := false, up := false, downSaid := true }) → exec (.retrainFail n) s =
      .next (let v := if linkUp u (linkOf s n.val) || !(retrainingLanes u (linkOf s n.val)).isEmpty then u else discardLink u (linkOf s n.val)
             postEvent v 0x40 (linkDetail v n.val false))) ∧
  (∀ (who : Requester) (n : Fin 104) (v : Word) (s u : State), mayWrite s who → v.getLsbD 0 = false →
    u = modLane s n.val (fun x => { writeCtrl x v with up := false, trained := false, retraining := false }) →
    exec (.laneDisable who n v) s = .next (if (getLane s n.val).up then afterLaneLoss u (linkOf u n.val) else u)) ∧
  (∀ (who : Requester) (n : Fin 104) (v : Word) (s : State), mayWrite s who → v.getLsbD 0 = true → (getLane s n.val).en = false →
    exec (.laneEnable who n v) s =
      .next (beginRetrain (modLane (modLane s n.val (fun x => writeCtrl x v)) n.val (fun x => { x with trainFails := 0 })) n.val)) ∧
  (∀ (who : Requester) (n : Fin 104) (v : Word) (s : State), mayWrite s who → v.getLsbD 0 = true → (getLane s n.val).en = true →
    exec (.laneEnable who n v) s = .next (modLane s n.val (fun x => writeCtrl x v))) ∧
  (∀ (n : Fin 104) (s : State), linkOf s n.val ≠ 0x7F → linkUp s (linkOf s n.val) = true → exec (.ackTimer n) s = .next (sendAcks s (linkOf s n.val) 8)) ∧
  (∀ (n : Fin 104) (s : State) (h : Nat), headOf s (linkOf s n.val) = some h → (getLane s n.val).up = true → (getLane s h).link.replayBuf ≠ [] →
    (getLane s h).link.ackAt + 10 ≤ s.clock → exec (.ackseqTimeout n) s = .next (retrainLink s (linkOf s n.val))) ∧
  (∀ (s : State) (n : Nat), beginRetrain s n =
      postEvent (modLane s n (fun x =>
        { x with up := false, trained := false, retraining := true, downSaid := true, ctr := { x.ctr with retrain := sat32 (x.ctr.retrain + 1) } })) 0x40
        (linkDetail s n true))

/-- Flits received (11 R206-R210, R212, R213). It rests on choices of the model: log entries 11, 22 and 38. -/
def Obligations.Flits : Prop :=
  (∀ (n : Fin 104) (f : Flit) (s t u v : State) (h : Nat), f.hdr.toNat % 16 = 1 → (getLane s n.val).up = true → crcGood f = true →
    t = modLane s n.val (fun x => { x with ctr := { x.ctr with rx := x.ctr.rx + 1 } }) → headOf t (linkOf s n.val) = some h →
    u = modLink t h (fun k => takeStall k f) → bits f.hdr.toNat 8 12 = (getLane t h).link.expect → v = acceptFlit u (linkOf s n.val) h f →
    exec (.dataFlit n f) s = .next (sendAllFlows (pump (takeAhead (linkOf s n.val) h (getLane v h).link.ahead.length v) (linkOf s n.val)))) ∧
  (∀ (n : Fin 104) (f : Flit) (s t u v : State) (h : Nat), f.hdr.toNat % 16 = 3 → (getLane s n.val).up = true → crcGood f = true →
    t = modLane s n.val (fun x => { x with ctr := { x.ctr with rx := x.ctr.rx + 1 } }) → headOf t (linkOf s n.val) = some h →
    u = modLink t h (fun k => takeStall k f) → bits f.hdr.toNat 8 12 = (getLane t h).link.expect → v = acceptFlit u (linkOf s n.val) h f →
    exec (.voteFlit n f) s = .next (sendAllFlows (pump (takeAhead (linkOf s n.val) h (getLane v h).link.ahead.length v) (linkOf s n.val)))) ∧
  (∀ (n : Fin 104) (f : Flit) (s t u v : State) (h : Nat), f.hdr.toNat % 16 = 4 → (getLane s n.val).up = true → crcGood f = true →
    t = modLane s n.val (fun x => { x with ctr := { x.ctr with rx := x.ctr.rx + 1 } }) → headOf t (linkOf s n.val) = some h →
    u = modLink t h (fun k => takeStall k f) → bits f.hdr.toNat 8 12 = (getLane t h).link.expect → v = acceptFlit u (linkOf s n.val) h f →
    exec (.nakFlit n f) s = .next (sendAllFlows (pump (takeAhead (linkOf s n.val) h (getLane v h).link.ahead.length v) (linkOf s n.val)))) ∧
  (∀ (n : Fin 104) (f : Flit) (s t u v : State) (h : Nat), f.hdr.toNat % 16 = 2 → (getLane s n.val).up = true → crcGood f = true →
    t = modLane s n.val (fun x => { x with ctr := { x.ctr with rx := x.ctr.rx + 1 } }) → headOf t (linkOf s n.val) = some h →
    u = modLink t h (fun k => takeStall k f) → v = acceptFlit u (linkOf s n.val) h f →
    exec (.markerFlit n f) s = .next (sendAllFlows (pump (takeAhead (linkOf s n.val) h (getLane v h).link.ahead.length v) (linkOf s n.val)))) ∧
  (∀ (n : Fin 104) (f : Flit) (s t u v : State) (h : Nat), f.hdr.toNat % 16 = 5 → (getLane s n.val).up = true → crcGood f = true →
    t = modLane s n.val (fun x => { x with ctr := { x.ctr with rx := x.ctr.rx + 1 } }) → headOf t (linkOf s n.val) = some h →
    u = modLink t h (fun k => takeStall k f) → v = acceptFlit u (linkOf s n.val) h f →
    exec (.ackFlit n f) s = .next (sendAllFlows (pump (takeAhead (linkOf s n.val) h (getLane v h).link.ahead.length v) (linkOf s n.val)))) ∧
  (∀ (n : Fin 104) (f : Flit) (s t u v : State) (h : Nat), f.hdr.toNat % 16 = 0 → (getLane s n.val).up = true → crcGood f = true →
    t = modLane s n.val (fun x => { x with ctr := { x.ctr with rx := x.ctr.rx + 1 } }) → headOf t (linkOf s n.val) = some h →
    u = modLink t h (fun k => takeStall k f) → v = acceptFlit u (linkOf s n.val) h f →
    exec (.idleFlit n f) s = .next (sendAllFlows (pump (takeAhead (linkOf s n.val) h (getLane v h).link.ahead.length v) (linkOf s n.val)))) ∧
  (∀ (u : State) (l h : Nat) (f : Flit), f.hdr.toNat % 16 = 1 →
    acceptFlit u l h f = modLane (takeSequenced (modLink u h (fun k => takeHeader k f u.clock)) l h) h (fun x =>
      { gather x f with link := bufferFlit x.link f })) ∧
  (∀ (u : State) (l h : Nat) (f : Flit), f.hdr.toNat % 16 = 3 → acceptFlit u l h f = takeSequenced (modLink u h (fun k => takeHeader k f u.clock)) l h) ∧
  (∀ (u : State) (l h : Nat) (f : Flit), f.hdr.toNat % 16 = 4 →
    acceptFlit u l h f = takeNak (takeSequenced (modLink u h (fun k => takeHeader k f u.clock)) l h) l h (bits f.hdr.toNat 20 12)) ∧
  (∀ (u : State) (l h : Nat) (f : Flit), (f.hdr.toNat % 16 = 0 ∨ f.hdr.toNat % 16 = 2 ∨ f.hdr.toNat % 16 = 5) →
    acceptFlit u l h f = modLink u h (fun k => takeHeader k f u.clock)) ∧
  (∀ (n : Fin 104) (f : Flit) (s t u : State) (h : Nat), f.hdr.toNat % 16 = 1 → (getLane s n.val).up = true → crcGood f = true →
    t = modLane s n.val (fun x => { x with ctr := { x.ctr with rx := x.ctr.rx + 1 } }) → headOf t (linkOf s n.val) = some h →
    u = modLink t h (fun k => takeStall k f) → bits f.hdr.toNat 8 12 ≠ (getLane t h).link.expect →
    withinSkew u (linkOf s n.val) (getLane t h).link f = true →
    exec (.dataFlit n f) s = .next (sendAllFlows (modLink u h (fun k => { k with ahead := k.ahead ++ [f] })))) ∧
  (∀ (n : Fin 104) (f : Flit) (s t u : State) (h : Nat), f.hdr.toNat % 16 = 1 → (getLane s n.val).up = true → crcGood f = true →
    t = modLane s n.val (fun x => { x with ctr := { x.ctr with rx := x.ctr.rx + 1 } }) → headOf t (linkOf s n.val) = some h →
    u = modLink t h (fun k => takeStall k f) → bits f.hdr.toNat 8 12 ≠ (getLane t h).link.expect →
    withinSkew u (linkOf s n.val) (getLane t h).link f = false →
    exec (.dataFlit n f) s = .next (sendAllFlows (if (getLane t h).link.waiting then pump u (linkOf s n.val) else pump (sendNak u (linkOf s n.val)) (linkOf s n.val)))) ∧
  (∀ (n : Fin 104) (f : Flit) (s t : State), (getLane s n.val).up = true → crcGood f = false →
    t = sendAllFlows (sendNak (modLane (draw s).2 n.val (fun x => { x with ctr := { x.ctr with crcErr := sat32 (x.ctr.crcErr + 1), fecUncorr := sat32 (x.ctr.fecUncorr + (draw s).1 % 2) } })) (linkOf s n.val)) →
    exec (.dataFlit n f) s = .next t ∧ exec (.markerFlit n f) s = .next t ∧ exec (.voteFlit n f) s = .next t ∧
      exec (.nakFlit n f) s = .next t ∧ exec (.ackFlit n f) s = .next t ∧ exec (.idleFlit n f) s = .next t) ∧
  (∀ (n : Fin 104) (f : Flit) (s : State), (getLane s n.val).en = true → exec (.trainFlit n f) s = .next (modLane s n.val (fun x =>
      { x with ctr := if crcGood f then { x.ctr with rx := x.ctr.rx + 1 } else { x.ctr with crcErr := sat32 (x.ctr.crcErr + 1) } })))

/-- FABRIC_SET, routing, endpoints, requests and acknowledgements (11 R214-R221). It rests on choices of the model: log entries 16 and 22. -/
def Obligations.FabricAndEndpoints : Prop :=
  (∀ (op : Nat) (o : Op) (s t : State) (sides : List Nat), Ready s op 0x7D 2 o → o.f 12 1 = 0 → (o.f 8 4 % 2 ^ 18 = s.strand.node ∨ anyPly s = false) →
    t = started s op 2 → sides = (List.range 6).map (fun d => bits (o.f 13 3) (3 * d) 3 + 1) → exec (.fabricSet op) s =
      .next (finishOk { t with strand := { t.strand with node := o.f 8 4 % 2 ^ 18, table := false, sides := sides } } op 0)) ∧
  (∀ (op : Nat) (o : Op) (s t : State) (routes : Tbl Nat), Ready s op 0x7D 2 o → t = started s op 2 → o.f 12 1 = 1 → o.f 16 8 % 4096 = 0 →
    (o.f 8 4 % 2 ^ 18 = s.strand.node ∨ anyPly s = false) → Reaches t o [(o.f 16 8, 524288, false)] → homeFails t o.port (o.f 16 8) 524288 = false →
    routes = routeTable (readPartner t o.port (o.f 16 8) 524288) 0 262144 → exec (.fabricSet op) s =
      .next (finishOk { t with strand := { t.strand with node := o.f 8 4 % 2 ^ 18, table := true, routes := routes } } op 0)) ∧
  (∀ (op : Nat) (o : Op) (s : State), Ready s op 0x7D 2 o → o.f 12 1 = 0 → o.f 8 4 % 2 ^ 18 ≠ s.strand.node → anyPly s = true →
    exec (.fabricSet op) s = .next (fail (started s op 2) op stBounds 8)) ∧
  (∀ (n : Fin 104) (vc1 : Bool) (dim : Option (Fin 6)) (k : Packet) (s : State) (l vc : Nat), routeOf s k (dim.map Fin.val) vc1 = .go l vc →
    exec (.packetRoute n vc1 dim k) s =
      .next (sendAllFlows (sendOnLink s l vc (some (groupBase s (linkOf s n.val), if k.op = 7 then 2 else b2n vc1)) none k))) ∧
  (∀ (n : Fin 104) (vc1 : Bool) (dim : Option (Fin 6)) (k : Packet) (s : State), routeOf s k (dim.map Fin.val) vc1 = .drop →
    exec (.packetRoute n vc1 dim k) s = .next (sendAllFlows (releaseBuffers (countDrop s n.val) n.val k))) ∧
  (∀ (n : Fin 104) (vc1 : Bool) (dim : Option (Fin 6)) (k : Packet) (s : State), routeOf s k (dim.map Fin.val) vc1 = .here →
    exec (.packetRoute n vc1 dim k) s = .next s) ∧
  (∀ (op : Nat) (o : Op) (s t : State), Ready s op 0x88 3 o → t = started s op 3 → Clear (openChecks t o) →
    (o.f 10 1 = 0 → partnerDenied t o.port o.slice (o.f 16 8) (o.f 24 8) = false) →
    exec (.strOpen op) s = .next (finishOk { t with strand := { t.strand with eps := insertKey t.strand.eps (o.f 8 2) (newEndpoint o) } } op 0)) ∧
  (∀ (op : Nat) (o : Op) (s : State) (e : Endpoint), Ready s op 0x89 3 o → lookup s.strand.eps (o.f 8 2) = some e → e.slice = o.slice →
    admittedTo (started s op 3) (o.f 8 2) = false → exec (.strClose op) s =
      .next (let t := started s op 3; finishOk { t with strand := { t.strand with eps := removeKey t.strand.eps (o.f 8 2) } } op 0)) ∧
  (∀ (op : Nat) (o : Op) (s : State) (e : Endpoint), Ready s op 0x89 3 o → lookup s.strand.eps (o.f 8 2) = some e → e.slice = o.slice →
    admittedTo (started s op 3) (o.f 8 2) = true → exec (.strClose op) s =
      .next (let t := started s op 3; { t with strand := { t.strand with eps := insertKey t.strand.eps (o.f 8 2) { e with closing := true } } })) ∧
  (∀ (n : Fin 104) (k : Packet) (s t u : State) (e : Endpoint), k.op = 1 → Arrives s n.val k t → lookup t.strand.eps k.ep = some e →
    admission s k 0 k.data.length = stOk → BufferReady t e.port e.slice e.tier (e.base + k.offset) k.data.length true u →
    exec (.writePacket n k) s = .next (acknowledge (unqueue (putBytes u e.port e.slice e.tier (e.base + k.offset) k.data) k) k stOk)) ∧
  (∀ (n : Fin 104) (k : Packet) (s t u : State) (e : Endpoint), k.op = 4 → Arrives s n.val k t → lookup t.strand.eps k.ep = some e →
    admission s k 3 k.data.length = stOk → BufferReady t e.port e.slice e.tier (e.base + k.offset) k.data.length true u →
    exec (.messagePacket n k) s = .next (acknowledge (unqueue (announce (putBytes u e.port e.slice e.tier (e.base + k.offset) k.data) e) k) k stOk)) ∧
  (∀ (n : Fin 104) (k : Packet) (s t u : State) (e : Endpoint), k.op = 5 → Arrives s n.val k t → lookup t.strand.eps k.ep = some e →
    admission s k 2 k.data.length = stOk → 1 ≤ k.rop → k.rop ≤ 3 → BufferReady t e.port e.slice e.tier (e.base + k.offset) k.data.length true u →
    exec (.reducePacket n k) s = .next (acknowledge (unqueue (putBytes u e.port e.slice e.tier (e.base + k.offset)
      (combineBytes k.rop (bufBytes u e.port e.slice e.tier (e.base + k.offset) k.data.length) k.data)) k) k stOk)) ∧
  (∀ (n : Fin 104) (k : Packet) (s t u : State) (e : Endpoint), k.op = 2 → Arrives s n.val k t → lookup t.strand.eps k.ep = some e →
    admission s k 1 k.len = stOk → BufferReady t e.port e.slice e.tier (e.base + k.offset) k.len false u →
    exec (.readRequestPacket n k) s = .next (acknowledge (unqueue (issueTxn u (answerTxn k e.slice 3
      [{ fseq := none, offset := 0, bytes := k.len, data := bufBytes u e.port e.slice e.tier (e.base + k.offset) k.len, acked := false, got := false,
         status := 0 }])) k) k stOk)) ∧
  (∀ (n : Fin 104) (k : Packet) (s t : State), Arrives s n.val k t →
    (k.op = 1 → admission s k 0 k.data.length ≠ stOk → exec (.writePacket n k) s = .next (acknowledge (unqueue t k) k (admission s k 0 k.data.length))) ∧
      (k.op = 2 → admission s k 1 k.len ≠ stOk → exec (.readRequestPacket n k) s = .next (acknowledge (unqueue t k) k (admission s k 1 k.len))) ∧
      (k.op = 4 → admission s k 3 k.data.length ≠ stOk → exec (.messagePacket n k) s = .next (acknowledge (unqueue t k) k (admission s k 3 k.data.length))) ∧
      (k.op = 5 → 1 ≤ k.rop → k.rop ≤ 3 → admission s k 2 k.data.length ≠ stOk →
        exec (.reducePacket n k) s = .next (acknowledge (unqueue t k) k (admission s k 2 k.data.length)))) ∧
  (∀ (n : Fin 104) (k : Packet) (s : State), k.op = 1 → routeOf s k none false = .here → s.strand.waiting.find? (fun w => w.1 = k) = none →
    accepts (takenOff s n.val k) k = false → exec (.writePacket n k) s = .next (countDrop (takenOff s n.val k) n.val)) ∧
  (∀ (n : Fin 104) (k : Packet) (s t : State), k.op = 7 → Arrives s n.val k t →
    exec (.managementPacket n k) s = .next (acknowledge (unqueue { t with strand := { t.strand with mgmt := t.strand.mgmt ++ [k] } } k) k stOk)) ∧
  (∀ (n op admitted : Nat) (k : Packet) (s t : State) (serve : State → Served), k.op = op → routeOf s k none false = .here →
    s.strand.waiting.find? (fun w => w.1 = k) = none → accepts (takenOff s n k) k = true → t = acceptPacket (takenOff s n k) k →
    behindWaiting t k = true →
    servePacket s n op k admitted serve = { t with strand := { t.strand with waiting := t.strand.waiting ++ [(k, admitted)] } }) ∧
  (∀ (n op : Nat) (k : Packet) (s : State) (w : Packet × Nat) (serve : State → Served), k.op = op → routeOf s k none false = .here →
    s.strand.waiting.find? (fun w => w.1 = k) = some w → behindWaiting s k = false → servePacket s n op k 0 serve = applyPacket s k w.2 serve) ∧
  (∀ (s u : State) (k : Packet) (serve : State → Served), serve s = .wait u → u.strand.waiting.any (fun w => w.1 = k) = false →
    applyPacket s k stOk serve = { u with strand := { u.strand with waiting := u.strand.waiting ++ [(k, stOk)] } })

/-- The strand descriptors, what answers them and their time-outs (11 R220-R225). It rests on choices of the model: log entries 16, 22 and 38. -/
def Obligations.StrandTransactions : Prop :=
  (∀ (op : Nat) (o : Op) (s t u : State), Ready s op 0x80 3 o → t = started s op 3 → hasTxns t op = false → Clear (strChecks t o) →
    (o.f 15 1 = 0 → partnerDenied t o.port o.slice (o.f 16 8) (o.f 32 4) = false) →
    BufferReady t o.port o.slice (o.f 15 1) (o.f 16 8) (o.f 32 4) false u →
    exec (.strWrite op) s = .next (issueTxn u (strTxn op o (bufBytes u o.port o.slice (o.f 15 1) (o.f 16 8) (o.f 32 4))))) ∧
  (∀ (op : Nat) (o : Op) (s t u : State), Ready s op 0x82 3 o → t = started s op 3 → hasTxns t op = false → Clear (strChecks t o) →
    (o.f 15 1 = 0 → partnerDenied t o.port o.slice (o.f 16 8) (o.f 32 4) = false) →
    BufferReady t o.port o.slice (o.f 15 1) (o.f 16 8) (o.f 32 4) false u →
    exec (.strMsg op) s = .next (issueTxn u (strTxn op o (bufBytes u o.port o.slice (o.f 15 1) (o.f 16 8) (o.f 32 4))))) ∧
  (∀ (op : Nat) (o : Op) (s t u : State), Ready s op 0x83 3 o → t = started s op 3 → hasTxns t op = false → Clear (strChecks t o) →
    (o.f 15 1 = 0 → partnerDenied t o.port o.slice (o.f 16 8) (o.f 32 4) = false) →
    BufferReady t o.port o.slice (o.f 15 1) (o.f 16 8) (o.f 32 4) false u →
    exec (.strReduce op) s = .next (issueTxn u (strTxn op o (bufBytes u o.port o.slice (o.f 15 1) (o.f 16 8) (o.f 32 4))))) ∧
  (∀ (op : Nat) (o : Op) (s t : State), Ready s op 0x81 3 o → t = started s op 3 → hasTxns t op = false → Clear (strChecks t o) →
    (o.f 15 1 = 0 → partnerDenied t o.port o.slice (o.f 16 8) (o.f 32 4) = false) → exec (.strRead op) s = .next (issueTxn t (strTxn op o []))) ∧
  (∀ (op : Nat) (o : Op) (s t : State) (es : List (List Byte)), Ready s op 0x84 3 o → t = started s op 3 → hasTxns t op = false → o.f 8 8 % 64 = 0 →
    1 ≤ o.f 16 1 → o.f 16 1 ≤ 64 → o.f 17 1 ≤ 2 → Reaches t o [(o.f 8 8, 32 * o.f 16 1, false)] →
    homeFails t o.port (o.f 8 8) (32 * o.f 16 1) = false →
    es = (List.range (o.f 16 1)).map (gatherEntry (readPartner t o.port (o.f 8 8) (32 * o.f 16 1))) → es.any gatherBad = false →
    es.any (fun e => localBad t o (o.f 17 1) (o.f 24 8 + field e 24 8) (field e 12 4)) = false →
    (o.f 17 1 = 0 → es.any (fun e => partnerDenied t o.port o.slice (o.f 24 8 + field e 24 8) (field e 12 4)) = false) →
    exec (.strGather op) s = .next ((es.zipIdx).foldl (fun s e => issueTxn s (gatherTxn op o e.1 e.2)) t)) ∧
  (∀ (n : Fin 104) (k : Packet) (s r u : State) (i j : Nat) (t : Txn), k.op = 3 → Arrives s n.val k r → answeredBy r k = some (i, j) →
    r.strand.txns[i]? = some t → BufferReady r t.port t.slice t.ltier (t.laddr + (k.offset - t.roff)) k.data.length true u →
    exec (.readResponsePacket n k) s = .next (settleTxns (acknowledge (unqueue (modPkt
      (charge (putBytes u t.port t.slice t.ltier (t.laddr + (k.offset - t.roff)) k.data) t.slice (fun m => { m with strandRx := m.strandRx + k.data.length }))
      i j (fun p => { p with got := true })) k) k stOk))) ∧
  (∀ (n : Fin 104) (k : Packet) (s : State) (i j : Nat), k.op = 6 → routeOf s k none false = .here → ackedBy (takenOff s n.val k) k = some (i, j) →
    exec (.acknowledgementPacket n k) s =
      .next (concludeAll (settleTxns (modPkt (takenOff s n.val k) i j (fun p => { p with acked := true, status := k.status }))))) ∧
  (∀ (n : Fin 104) (k : Packet) (s : State), k.op = 6 → routeOf s k none false = .here → ackedBy (takenOff s n.val k) k = none →
    exec (.acknowledgementPacket n k) s = .next (modLane (takenOff s n.val k) n.val (fun x => { x with ctr := { x.ctr with lateAck := sat32 (x.ctr.lateAck + 1) } }))) ∧
  (∀ (op : Nat) (s : State), exec (.transactionTimeout op) s = .next (expireTxns s (fun t => t.kind ≠ .answer && t.op = op))) ∧
  (∀ (s : State) (l : List (Nat × Nat × Txn × TxPkt)) (c : Nat × Nat × Txn × TxPkt), arbitrate s l = some c →
    c ∈ l ∧ ∀ d ∈ l, startTag s c.2.2.1.slice ≤ startTag s d.2.2.1.slice) ∧
  (∀ (s : State) (q bytes : Nat), startTag (injected s q bytes) q = startTag s q + (32 + bytes) * 4800 / strandWeight s q) ∧
  (∀ (len : Nat) (data : List Byte), (splitPackets len data).length = ceilDiv len 4096 ∧
      (∀ (i : Nat) (p : TxPkt), (splitPackets len data)[i]? = some p → p.offset = 4096 * i ∧ p.bytes = min 4096 (len - 4096 * i)))

/-- DRAFT_LOAD of a member's part and the release of a draft (10 R176-R180). It rests on choices of the model: log entries 12 and 16. -/
def Obligations.DraftImages : Prop :=
  (∀ (op n : Nat) (o : Op) (s t u v : State) (st : Store) (image : List Byte) (steps : List StepRec) (progs : Tbl (List IWord)), Ready s op 0x24 2 o →
    o.f 10 2 ≠ 0xFFFF → t = started s op 2 → Clear (imageChecks t op o) →
    VerifiedImage t o st (draftHeaderBad (o.f 24 8) (o.f 10 2)) (fun h => field h 24 8 + 32 * o.f 10 2) memberTablesBad image u →
    ((List.range (field image 12 4)).map (fun k => stepRecordAt image (stepOffset image (o.f 10 2) k))).findIdx? (stepBad image (o.f 10 2)) = none →
    steps = ((List.range (field image 12 4)).map (fun k => stepRecordAt image (stepOffset image (o.f 10 2) k))).map (readStep (field image 32 1)) →
    gapBad (field image 49 1) (field image 36 4) (bit (field image 33 1) 1) steps = none → progs = progsOf image (o.f 10 2) steps →
    steps.findSome? (stepProgramError u o.slice (field image 32 1) progs) = none →
    (bit (field image 33 1) 0 = true → steps.findIdx? (fun r => r.reds.any (fun e => e.op = 2)) = none) →
    n = ceilDiv (copyBytes image (o.f 10 2) progs) pageBytes → mayHold u o.slice n = true → obtainPages u o.slice n = .got v →
    exec (.draftLoad op) s = .next (finishOk
      { v with drafts := insertKey v.drafts v.nextHandle (newDraft o image steps progs n), nextHandle := v.nextHandle + 1 } op (v.nextHandle % 2 ^ 32))) ∧
  (∀ (op k : Nat) (o : Op) (s t u : State) (st : Store) (image : List Byte), Ready s op 0x24 2 o → o.f 10 2 ≠ 0xFFFF → t = started s op 2 →
    Clear (imageChecks t op o) →
    VerifiedImage t o st (draftHeaderBad (o.f 24 8) (o.f 10 2)) (fun h => field h 24 8 + 32 * o.f 10 2) memberTablesBad image u →
    ((List.range (field image 12 4)).map (fun k => stepRecordAt image (stepOffset image (o.f 10 2) k))).findIdx? (stepBad image (o.f 10 2)) = some k →
    exec (.draftLoad op) s = .next (fail u op stBadDescriptor (0x1000000 + k))) ∧
  (∀ (op : Nat) (o : Op) (s : State), Ready s op 0x24 2 o → o.f 10 2 = 0xFFFF →
    (o.phase = .fetched → (lookup s.drafts (o.f 12 4)).any (fun d => d.slice = o.slice && !d.releasing) = true) → draftInUse s (o.f 12 4) = false →
    exec (.draftRelease op) s = .next (let t := started s op 2; finishOk { t with drafts := removeKey t.drafts (o.f 12 4) } op 0)) ∧
  (∀ (op : Nat) (o : Op) (s : State), Ready s op 0x24 2 o → o.f 10 2 = 0xFFFF →
    (o.phase = .fetched → (lookup s.drafts (o.f 12 4)).any (fun d => d.slice = o.slice && !d.releasing) = true) → draftInUse s (o.f 12 4) = true →
    exec (.draftRelease op) s =
      .next (let t := started s op 2; { t with drafts := adjust t.drafts (o.f 12 4) (fun d => { d with releasing := true }) }))

/-- SKEIN_LOAD and SKEIN_PIN, loads and releases, pins and unpins (08 R137-R144; 05 R90). It rests on choices of the model: log entries 12, 16 and 20.
-/
def Obligations.Skeins : Prop :=
  (∀ (op : Nat) (o : Op) (s t u : State) (st : Store) (image : List Byte) (layers : List (List Byte)) (k : Skein), Ready s op 0x22 2 o → o.f 10 1 = 0 →
    t = started s op 2 → Clear (imageChecks t op o) → VerifiedImage t o st (skeinHeaderBad (o.f 24 8)) (fun _ => 0) (fun _ _ => none) image u →
    layers = (List.range (field image 12 4)).map (fun i => cut image (field image 24 8 + 128 * i) 128) →
    layers.findIdx? (fun l => layerBad l (field image 16 8)) = none → seedCheck image layers = none →
    k = { slice := o.slice, store := o.f 8 2, sector := o.f 16 8, sectors := o.f 24 8, size := field image 16 8, nlayers := field image 12 4, digest := cut image 64 64, releasing := false } →
    exec (.skeinLoad op) s = .next (finishOk { u with skeins := insertKey u.skeins u.nextHandle k, nextHandle := u.nextHandle + 1 } op
      (u.nextHandle % 2 ^ 32 + field image 12 4 * 2 ^ 32))) ∧
  (∀ (op i : Nat) (o : Op) (s t u : State) (st : Store) (image : List Byte) (layers : List (List Byte)), Ready s op 0x22 2 o → o.f 10 1 = 0 →
    t = started s op 2 → Clear (imageChecks t op o) → VerifiedImage t o st (skeinHeaderBad (o.f 24 8)) (fun _ => 0) (fun _ _ => none) image u →
    layers = (List.range (field image 12 4)).map (fun i => cut image (field image 24 8 + 128 * i) 128) →
    layers.findIdx? (fun l => layerBad l (field image 16 8)) = some i → exec (.skeinLoad op) s = .next (fail u op stBadDescriptor (0x10000 + i))) ∧
  (∀ (op : Nat) (o : Op) (s : State), Ready s op 0x22 2 o → o.f 10 1 = 1 → (o.phase = .fetched → ownSkein s o.slice (o.f 12 4) = true) →
    skeinInUse s (o.f 12 4) = false → exec (.skeinRelease op) s = .next (finishOk (dropSkein (started s op 2) (o.f 12 4)) op 0)) ∧
  (∀ (op : Nat) (o : Op) (s : State), Ready s op 0x22 2 o → o.f 10 1 = 1 → (o.phase = .fetched → ownSkein s o.slice (o.f 12 4) = true) →
    skeinInUse s (o.f 12 4) = true → exec (.skeinRelease op) s =
      .next (let t := started s op 2; { t with skeins := adjust t.skeins (o.f 12 4) (fun k => { k with releasing := true }) })) ∧
  (∀ (op : Nat) (o : Op) (s t u : State) (k : Skein) (bs : List Byte), Ready s op 0x23 2 o → o.f 12 1 = 0 → t = started s op 2 → Clear (pinChecks t o) →
    lookup t.skeins (o.f 8 4) = some k → pinOutside t o k = false → o.f 13 1 = 1 → pinAll o.slice (o.f 8 4) k (pinPages o) t = .bytes u bs →
    exec (.skeinPin op) s = .next (finishOk u op 0)) ∧
  (∀ (op : Nat) (o : Op) (s t u : State) (k : Skein) (bs : List Byte) (pin : CommonsPin), Ready s op 0x23 2 o → o.f 12 1 = 0 → t = started s op 2 →
    Clear (pinChecks t o) → lookup t.skeins (o.f 8 4) = some k → pinOutside t o k = false → o.f 13 1 = 0 →
    readSkein t o.slice (o.f 8 4) k (o.f 16 8) (o.f 24 8) = .bytes u bs →
    pin = { handle := o.f 8 4, offset := o.f 16 8, length := o.f 24 8, caddr := o.f 32 8 } → exec (.skeinPin op) s =
      .next (finishOk (modSlice (writeTier u o.slice 1 (o.f 32 8) bs) o.slice (fun x => { x with pins := x.pins ++ [pin] })) op 0)) ∧
  (∀ (op : Nat) (o : Op) (s t : State) (k : Skein), Ready s op 0x23 2 o → o.f 12 1 = 0 → t = started s op 2 → Clear (pinChecks t o) →
    lookup t.skeins (o.f 8 4) = some k → pinOutside t o k = true → exec (.skeinPin op) s = .next (fail t op stBounds 0)) ∧
  (∀ (s : State) (q h page : Nat) (k : Skein) (x : Slice) (p : SkeinPage), lookup s.slices q = some x → poolCopy x h page = some p →
    pinPage s q h k page = .bytes (modSlice s q (fun x =>
      { x with skeinPages := x.skeinPages.map (fun p => if p.handle = h && p.page = page then { p with pinned := true } else p) })) []) ∧
  (∀ (op : Nat) (o : Op) (s t : State), Ready s op 0x23 2 o → o.f 12 1 = 1 → t = started s op 2 → Clear (pinChecks t o) → o.f 13 1 = 1 →
    exec (.skeinUnpin op) s = .next (finishOk (modSlice t o.slice (fun x => { x with skeinPages := x.skeinPages.map (fun p =>
      if p.handle = o.f 8 4 && (pinPages o).contains p.page then { p with pinned := false } else p) })) op 0)) ∧
  (∀ (op : Nat) (o : Op) (s t : State), Ready s op 0x23 2 o → o.f 12 1 = 1 → t = started s op 2 → Clear (pinChecks t o) → o.f 13 1 = 0 →
    exec (.skeinUnpin op) s = .next (finishOk (modSlice t o.slice (fun x => { x with pins := x.pins.flatMap (fun p =>
      if p.handle = o.f 8 4 then cutPin (o.f 16 8) (o.f 24 8) p else [p]) })) op 0))

/-- POOL_MAP, HANK_PARK, HANK_RESTORE and demand restores (08 R135, R136, R145-R149, R154). It rests on choices of the model: log entries 2, 16 and
18. -/
def Obligations.PoolPagesAndHanks : Prop :=
  (∀ (op : Nat) (o : Op) (s t : State) (x : Slice), Ready s op 0x28 2 o → t = started s op 2 → o.f 8 4 < slicePages → 1 ≤ o.f 12 4 →
    o.f 8 4 + o.f 12 4 ≤ slicePages → lookup t.slices o.slice = some x → o.f 16 1 = 0 → mapOffence t o.slice x 0 (o.f 8 4) (o.f 12 4) = none →
    firstPage (o.f 8 4) (o.f 12 4) (pageProtected t o.slice) = none →
    exec (.poolMap op) s = .next (finishOk (unmapPages t o.slice (o.f 8 4) (o.f 12 4)) op 0)) ∧
  (∀ (op : Nat) (o : Op) (s t u : State) (x : Slice), Ready s op 0x28 2 o → t = started s op 2 → o.f 8 4 < slicePages → 1 ≤ o.f 12 4 →
    o.f 8 4 + o.f 12 4 ≤ slicePages → lookup t.slices o.slice = some x → o.f 16 1 = 1 → mapOffence t o.slice x 1 (o.f 8 4) (o.f 12 4) = none →
    mapPages t o.slice (o.f 8 4) .work (o.f 12 4) = .got u → exec (.poolMap op) s = .next (finishOk (clearPages u o.slice (o.f 8 4) (o.f 12 4)) op 0)) ∧
  (∀ (op : Nat) (o : Op) (s t : State) (x : Slice), Ready s op 0x28 2 o → t = started s op 2 → o.f 8 4 < slicePages → 1 ≤ o.f 12 4 →
    o.f 8 4 + o.f 12 4 ≤ slicePages → lookup t.slices o.slice = some x → o.f 16 1 = 2 → mapOffence t o.slice x 2 (o.f 8 4) (o.f 12 4) = none →
    exec (.poolMap op) s = .next (finishOk (mapHanks t o.slice (o.f 8 4) (o.f 12 4)) op 0)) ∧
  (∀ (op p : Nat) (o : Op) (s t : State) (x : Slice), Ready s op 0x28 2 o → t = started s op 2 → o.f 8 4 < slicePages → 1 ≤ o.f 12 4 →
    o.f 8 4 + o.f 12 4 ≤ slicePages → lookup t.slices o.slice = some x → o.f 16 1 ≤ 2 →
    mapOffence t o.slice x (o.f 16 1) (o.f 8 4) (o.f 12 4) = some p → exec (.poolMap op) s = .next (fail t op stBounds p)) ∧
  (∀ (op : Nat) (o : Op) (s t : State), Ready s op 0x26 2 o → t = started s op 2 → Clear (hankChecks t o) → o.left = none →
    exec (.hankPark op) s = .next (parkHanks t op o ((List.range (o.f 12 4)).map (fun i => o.f 8 4 + i)))) ∧
  (∀ (op : Nat) (o : Op) (s : State) (todo : List Nat), Ready s op 0x26 2 o → o.left = some todo →
    exec (.hankPark op) s = .next (parkHanks (started s op 2) op o todo)) ∧
  (∀ (op : Nat) (o : Op) (s t : State) (todo : List Nat), (todo.any (fun p => pageProtected s o.slice p)) = false →
    parkEach s o.slice (bit (o.f 16 1) 0) todo = (t, true) →
    parkHanks s op o todo = finishOk t op (o.sofar + (todo.map (fun p => dirtyIn s o.slice p 1)).sum)) ∧
  (∀ (op : Nat) (o : Op) (s : State) (todo : List Nat), todo ≠ [] → (todo.all (fun p => pageProtected s o.slice p)) = true →
    parkHanks s op o todo = { s with ops := adjust s.ops op (fun e => { e with left := some todo, sofar := o.sofar }) }) ∧
  (∀ (op : Nat) (o : Op) (s t : State) (todo : List Nat),
    parkEach s o.slice (bit (o.f 16 1) 0) (todo.filter (fun p => !pageProtected s o.slice p)) = (t, false) →
    parkHanks s op o todo = fail (clearRefused t) op (placeStatus t) 0) ∧
  (∀ (q page : Nat) (s : State) (x : Slice) (p : Page), lookup s.slices q = some x → lookup x.pages page = some p → p.kind = .hank .dirty →
    parkCopy s q page = (writePark s q page (pageData x page)).map (fun t =>
      charge { (modSlice t q (fun x => { x with pages := adjust x.pages page (fun p => { p with kind := .hank .clean }) })) with
        mem := { t.mem with park := t.mem.park + 1 } } q (fun m => { m with flashWrite := m.flashWrite + pageBytes }))) ∧
  (∀ (op : Nat) (o : Op) (s t : State), Ready s op 0x27 2 o → t = started s op 2 → Clear (hankChecks t o) →
    exec (.hankRestore op) s = .next (restoreAll op o.slice ((List.range (o.f 12 4)).map (fun i => o.f 8 4 + i)) t)) ∧
  (∀ (op q page : Nat) (l : List Nat) (s t : State), restoreHank s q page = .done t →
    restoreAll op q (page :: l) s = restoreAll op q l t ∧ restoreAll op q [] s = finishOk s op 0) ∧
  (∀ (s t u : State) (q page : Nat) (p : Page) (m : Mem), (lookup s.slices q).bind (fun x => lookup x.pages page) = some p → pageResident p = false →
    parkData s q page = some m → obtainPage s q = .got t →
    u = clearPages (modSlice t q (fun x => { x with pages := adjust x.pages page (fun p => { p with kind := .hank .clean, lastUse := t.trd.beat }), pool := pasteRange x.pool (pageBytes * page) pageBytes m })) q page 1 →
    restoreHank s q page = .done (if p.parked.isEmpty then u else
      charge { (countReads u (parkOwner q) (parkUnits page p)) with mem := { u.mem with restore := u.mem.restore + 1 } } q
        (fun m => { m with flashRead := m.flashRead + pageBytes }))) ∧
  (∀ (s : State) (q page : Nat) (p : Page), (lookup s.slices q).bind (fun x => lookup x.pages page) = some p → pageResident p = false →
    parkData s q page = none →
    restoreHank s q page = .bad (setPage (countReads s (parkOwner q) (parkUnits page p)) q page (fun p => { p with kind := .hank .parked }))) ∧
  (∀ (slice : Fin 64) (page : Nat) (s t : State) (p : Page), (lookup s.slices slice.val).bind (fun x => lookup x.pages page) = some p →
    p.kind = .hank .restoring → restoreHank s slice.val page = .done t → exec (.demandRestore slice page) s = .next (settleSlice t slice.val)) ∧
  (∀ (slice : Fin 64) (page : Nat) (s : State) (p : Page), (lookup s.slices slice.val).bind (fun x => lookup x.pages page) = some p →
    p.kind = .hank .restoring → restoreHank s slice.val page = .noPage → exec (.demandRestore slice page) s =
      .next (endWaiting (setPage s slice.val page (fun p => { p with kind := .hank .parked })) slice.val page stBounds)) ∧
  (∀ (slice : Fin 64) (page : Nat) (s t : State) (p : Page), (lookup s.slices slice.val).bind (fun x => lookup x.pages page) = some p →
    p.kind = .hank .restoring → restoreHank s slice.val page = .bad t →
    exec (.demandRestore slice page) s = .next (endWaiting t slice.val page stMedia))

/-- Prefetch directives and the late limit (08 R155-R159). It rests on choices of the model: log entry 2. -/
def Obligations.PrefetchDirectives : Prop :=
  (∀ (job idx : Nat) (s : State) (j : Job) (d : Directive) (st : DirState), lookup s.jobs job = some j → s.ras.halted = false → j.draft = none →
    j.dirs[idx]? = some d → j.dirStates[idx]? = some st → directiveDue j d = true →
    exec (.prefetchDirectiveIssue job idx) s = .next (issueDirective s job idx j d st)) ∧
  (∀ (job idx : Nat) (s : State) (j : Job) (d : Directive) (st : DirState), lookup s.jobs job = some j → j.draft = none → j.dirs[idx]? = some d →
    j.dirStates[idx]? = some st → directiveDue j d = false → exec (.prefetchDirectiveIssue job idx) s = .next s) ∧
  (∀ (job idx : Nat) (s : State) (j : Job) (d : Directive) (r : DraftRun) (x : Draft), lookup s.jobs job = some j → s.ras.halted = false →
    j.draft = some r → lookup s.drafts r.handle = some x → (stepDirectives x (idx / 1024))[idx % 1024]? = some d → j.dirs = [] →
    nextStep j ≤ idx / 1024 → idx / 1024 < r.total → j.phase ≠ .frozen → beatOf x j r (idx / 1024) ≤ s.trd.beat + d.lead →
    exec (.prefetchDirectiveIssue job idx) s =
      .next (issueDirective (modJob s job (fun j => { j with dirs := j.dirs ++ [d], dirStates := j.dirStates ++ [.waiting] })) job 0
        { j with dirs := [d] } d .waiting)) ∧
  (∀ (job i : Nat) (s u : State) (j : Job) (d : Directive), u = setDir s job i (.issued 0 (nextIssue s)) →
    issueDirective s job i j d .waiting = if servedBefore u (nextIssue s) then u else serve u job i (nextIssue s) j.slice j d 0 d.count) ∧
  (∀ (job i k n : Nat) (s : State) (j : Job) (d : Directive),
    issueDirective s job i j d (.issued k n) = if servedBefore s n then s else serve s job i n j.slice j d k (d.count - k)) ∧
  (∀ (jid i n q k m : Nat) (s t : State) (j : Job) (d : Directive),
    (prefetchPage s q j d (d.first + k) = .done t ∨ prefetchPage s q j d (d.first + k) = .bad t) →
    serve s jid i n q j d k (m + 1) = serve t jid i n q j d (k + 1) m) ∧
  (∀ (jid i n q k m : Nat) (s : State) (j : Job) (d : Directive), prefetchPage s q j d (d.first + k) = .noPage → d.required = false →
    serve s jid i n q j d k (m + 1) = serve { s with mem := { s.mem with pfSkip := s.mem.pfSkip + 1 } } jid i n q j d (k + 1) m) ∧
  (∀ (jid i n q k m : Nat) (s : State) (j : Job) (d : Directive), prefetchPage s q j d (d.first + k) = .noPage → d.required = true →
    serve s jid i n q j d k (m + 1) = setDir s jid i (.issued k n)) ∧
  (∀ (jid i n q k : Nat) (s : State) (j : Job) (d : Directive), serve s jid i n q j d k 0 = setDir s jid i .complete) ∧
  (∀ (job since idx rank : Nat) (s : State) (j : Job), lookup s.jobs job = some j → j.late ≠ 0 → j.draft = none → j.place.isSome = true →
    (lateSince s job j).find? (fun t => s.clock > t.1 + 8 * j.late) = some (since, idx, rank) →
    exec (.lateLimitExpiry job) s = .next (programError s job stLate rank idx 0)) ∧
  (∀ (job : Nat) (s : State) (j : Job), lookup s.jobs job = some j → (lateSince s job j).find? (fun t => s.clock > t.1 + 8 * j.late) = none →
    exec (.lateLimitExpiry job) s = .next s)

/-- Running drafts: the start, votes and holds, steps, freezes (10 R182-R187, R195, R196, R200; 06 R105). It rests on choices of the model: log
entries 2, 29 and 37. -/
def Obligations.DraftRuns : Prop :=
  (∀ (op : Nat) (o : Op) (s t u : State) (x : Draft) (vals : List Nat), Ready s op 0x25 2 o → t = started s op 2 → lookup t.jobs op = none →
    t.ras.halted = false → t.trd.load = none → o.f 24 8 % 64 = 0 → lookup t.drafts (o.f 8 4) = some x → x.slice = o.slice → x.releasing = false →
    t.jobs.any (fun j => j.2.slice = o.slice && j.2.draft.isSome) = false → x.ranks ≤ (usable t o.slice).length → o.f 14 2 = 0 → x.members = 1 →
    t.trd.numbered = true → t.trd.beat + 8 ≤ o.f 16 8 + ((x.steps.head?).map StepRec.start).getD 0 → Reaches t o [(o.f 24 8, 256, true)] →
    mayPlace t o.slice = true → skeinSlotBad t o.slice (readPartner t o.port (o.f 24 8) 192) x = none →
    shapeDecision t o.port o.slice (field (readPartner t o.port (o.f 24 8) 192) 0 8) = .run u vals → totalSteps x vals ≠ 0 → exec (.draftStart op) s =
      .next (issueDraft u op o (readPartner t o.port (o.f 24 8) 192) x (newRun o x (totalSteps x vals) 0 0 0 0) vals)) ∧
  (∀ (job : Nat) (s : State) (j : Job) (d : DraftRun) (x : Draft), lookup s.jobs job = some j → j.draft = some d → lookup s.drafts d.handle = some x →
    s.plies.find? (fun e => (e.2.ended.map Prod.fst) = some job) = none → d.voted = false → d.go = false → (j.phase = .frozen → d.stopped = false) →
    j.phase ≠ .submitted → nextStep j < d.total → nextBeat x j d ≤ s.trd.beat + leadOf s j d → awake s 0 = true → plyOfDraft s j d = none →
    exec (.voteSend job) s = .next (modDraft s job (fun d => { d with voted := true }))) ∧
  (∀ (job : Nat) (s t : State) (j : Job) (d : DraftRun) (x : Draft) (p : Ply), lookup s.jobs job = some j → j.draft = some d →
    lookup s.drafts d.handle = some x → s.plies.find? (fun e => (e.2.ended.map Prod.fst) = some job) = none → d.voted = false → d.go = false →
    (j.phase = .frozen → d.stopped = false) → j.phase ≠ .submitted → nextStep j < d.total → nextBeat x j d ≤ s.trd.beat + leadOf s j d →
    awake s 0 = true → plyOfDraft s j d = some p → t = modDraft s job (fun d => { d with voted := true }) → exec (.voteSend job) s =
      .next (sendVote (modPly t j.slice (fun q => { q with votes := q.votes ++ [ownVote s job j d x p] })) j.slice (ownVote s job j d x p) none)) ∧
  (∀ (job : Nat) (s : State) (j : Job) (d : DraftRun) (x : Draft), lookup s.jobs job = some j → j.draft = some d → lookup s.drafts d.handle = some x →
    s.plies.find? (fun e => (e.2.ended.map Prod.fst) = some job) = none → s.trd.beat + leadOf s j d < nextBeat x j d →
    exec (.voteSend job) s = .next s) ∧
  (∀ (job : Nat) (s : State) (e : Nat × Ply), s.plies.find? (fun e => (e.2.ended.map Prod.fst) = some job) = some e →
    exec (.voteSend job) s = .next (voteEnd s e.1)) ∧
  (∀ (q jid : Nat) (s : State) (p : Ply) (v w : Vote), lookup s.plies q = some p → p.ended = some (jid, v) → v.decide + 8 ≤ s.trd.beat + p.v →
    (List.range p.nodes.length).all (endHeard p) = false →
    w = { v with decide := s.trd.beat + p.v, notice := p.notice.isSome, noticeAt := (p.notice.map Notice.beat).getD 0 } →
    voteEnd s q = sendVote (modPly s q (fun p => { p with ended := some (jid, w) })) q w none) ∧
  (∀ (job : Nat) (s : State) (j : Job) (d : DraftRun) (x : Draft), lookup s.jobs job = some j → j.draft = some d → lookup s.drafts d.handle = some x →
    d.voted = true → d.go = false → j.phase ≠ .frozen → s.ras.halted = false → nextBeat x j d = s.trd.beat → plyOfDraft s j d = none →
    s.trd.holdover = false → s.trd.locked = true → causeOf s job j x = 0 →
    exec (.voteDecide job) s = .next (modDraft s job (fun d => { d with go := true }))) ∧
  (∀ (job : Nat) (s : State) (j : Job) (d : DraftRun) (x : Draft), lookup s.jobs job = some j → j.draft = some d → lookup s.drafts d.handle = some x →
    d.voted = true → d.go = false → j.phase ≠ .frozen → s.ras.halted = false → nextBeat x j d = s.trd.beat → plyOfDraft s j d = none →
    s.trd.holdover = false → s.trd.locked = true → causeOf s job j x ≠ 0 → (causeOf s job j x ≠ 1 ∨ d.late = 0 ∨ d.lateNow + 1 ≤ d.late) →
    exec (.voteDecide job) s =
      .next (freezeIfDue (charge (modDraft s job (fun d => countHold d (causeOf s job j x) 0)) j.slice (fun m => { m with holds := m.holds + 1 })) j.slice)) ∧
  (∀ (job : Nat) (s : State) (j : Job) (d : DraftRun) (x : Draft), lookup s.jobs job = some j → j.draft = some d → lookup s.drafts d.handle = some x →
    d.voted = true → d.go = false → j.phase ≠ .frozen → s.ras.halted = false → nextBeat x j d = s.trd.beat → plyOfDraft s j d = none →
    s.trd.holdover = false → s.trd.locked = true → causeOf s job j x = 1 → d.late ≠ 0 → d.late < d.lateNow + 1 →
    exec (.voteDecide job) s = .next (endLate s job)) ∧
  (∀ (job : Nat) (s : State) (j : Job) (d : DraftRun) (x : Draft), lookup s.jobs job = some j → j.draft = some d → lookup s.drafts d.handle = some x →
    d.voted = true → d.go = false → j.phase ≠ .frozen → s.ras.halted = false → nextBeat x j d < s.trd.beat → plyOfDraft s j d = none →
    s.trd.holdover = false → s.trd.locked = true → exec (.voteDecide job) s =
      .next (modDraft s job (fun e => { e with start := e.start + ceilDiv (s.trd.beat - nextBeat x j d) 8 * 8, voted := false }))) ∧
  (∀ (job : Nat) (s : State) (j : Job) (d : DraftRun) (x : Draft), lookup s.jobs job = some j → j.draft = some d → lookup s.drafts d.handle = some x →
    plyOfDraft s j d = none → (s.trd.holdover = true ∨ s.trd.locked = false) → exec (.voteDecide job) s = .next s) ∧
  (∀ (job : Nat) (s : State) (j : Job) (d : DraftRun) (x : Draft) (p : Ply), lookup s.jobs job = some j → j.draft = some d →
    lookup s.drafts d.handle = some x → d.voted = true → d.go = false → j.phase ≠ .frozen → s.ras.halted = false → nextBeat x j d ≤ s.trd.beat →
    plyOfDraft s j d = some p → p.votes.filter (fun v => v.isEnd && v.status ≠ stOk && v.member ≠ p.self) = [] →
    (d.first = true → shapeVerdict d p.self ((List.range p.nodes.length).filterMap (voteOf p (nextBeat x j d))) = none) → p.notice = none →
    p.silent = false → (∀ m < p.nodes.length, ∃ v, voteOf p (nextBeat x j d) m = some v ∧ v.cause = 0) → exec (.voteDecide job) s = .next (modDraft
      (modPly s j.slice (fun p => { p with votes := p.votes.filter (fun v => v.isEnd || nextBeat x j d ≤ v.decide) })) job (fun d => { d with go := true }))) ∧
  (∀ (job m : Nat) (s t : State) (j : Job) (d : DraftRun) (x : Draft) (p : Ply), lookup s.jobs job = some j → j.draft = some d →
    lookup s.drafts d.handle = some x → d.voted = true → d.go = false → j.phase ≠ .frozen → s.ras.halted = false → nextBeat x j d ≤ s.trd.beat →
    plyOfDraft s j d = some p → p.votes.filter (fun v => v.isEnd && v.status ≠ stOk && v.member ≠ p.self) = [] → d.first = false → p.notice = none →
    p.silent = false → (List.range p.nodes.length).find? (fun m => (voteOf p (nextBeat x j d) m).isNone && !(endHeard p m)) = some m →
    t = modPly s j.slice (fun p => { p with votes := p.votes.filter (fun v => v.isEnd || nextBeat x j d ≤ v.decide) }) →
    exec (.voteDecide job) s = .next (takeNotice t j.slice { beat := s.trd.beat, member := p.self, cause := 3 })) ∧
  (∀ (job : Nat) (s t u : State) (j : Job) (d : DraftRun) (x : Draft) (r : StepRec), lookup s.jobs job = some j → j.draft = some d →
    lookup s.drafts d.handle = some x → x.steps[j.step % x.nsteps]? = some r → d.go = true → j.phase = .ready → s.ras.halted = false →
    s.trd.holdover = false → s.trd.locked = true → spindleTaken s job j = false → awake s 0 = true → s.trd.beat = nextBeat x j d →
    t = modJob (startStep s job j j.spindles) job (fun j => { j with rankStates := r.progs.map (fun i => if i = 0xFFFF then RankState.ended else .running) }) →
    u = writeStartBlock (modDraft t job (fun e => startRun e (nextBeat x j d) j.step r)) job →
    exec (.stepStart job) s = .next (if d.holdsNow ≠ 0 then postSliceEvent u 0x30 j.slice (holdDetail d) else u)) ∧
  (∀ (job : Nat) (s : State) (j : Job) (d : DraftRun) (x : Draft), lookup s.jobs job = some j → j.draft = some d → lookup s.drafts d.handle = some x →
    s.trd.beat ≠ nextBeat x j d → exec (.stepStart job) s = .next s) ∧
  (∀ (job since : Nat) (s t : State) (k j : Job), lookup s.jobs job = some k → k.phase = .running since →
    t = (seatsOf s job).foldl (fun s e => if (lookup s.jobs job).isSome then settle s e else s) s → lookup t.jobs job = some j → j.failing = none →
    leftover t j (seatsOf t job) = none → (seatsOf t job).any (fun e => !rankEnded t j e) = false → j.draft.any (fun d => !slotsDone t j d) = false →
    j.rankStates.any (fun r => r = .yielded) = false → exec (.stepEnd job) s =
      .next (completeDraft (stepBoundary (modJob t job (fun j => { j with rankStates := j.rankStates.map (fun _ => .ended) })) job j) job)) ∧
  (∀ (job since : Nat) (s t : State) (k j : Job), lookup s.jobs job = some k → k.phase = .running since →
    t = (seatsOf s job).foldl (fun s e => if (lookup s.jobs job).isSome then settle s e else s) s → lookup t.jobs job = some j → j.failing = none →
    leftover t j (seatsOf t job) = none → (seatsOf t job).any (fun e => !rankEnded t j e) = false → j.draft.any (fun d => !slotsDone t j d) = false →
    j.rankStates.any (fun r => r = .yielded) = true → j.abortAtEnd = none → exec (.stepEnd job) s = .next (modJob (foldRecords t job) job (fun j =>
      { j with rankStates := j.rankStates.map (fun r => if r = .running then .ended else r), touched := [] }))) ∧
  (∀ (job since rank idx : Nat) (s t : State) (k j : Job), lookup s.jobs job = some k → k.phase = .running since →
    t = (seatsOf s job).foldl (fun s e => if (lookup s.jobs job).isSome then settle s e else s) s → lookup t.jobs job = some j → j.failing = none →
    leftover t j (seatsOf t job) = some (rank, idx) → exec (.stepEnd job) s = .next (programError t job stBounds rank idx 3)) ∧
  (∀ (job since : Nat) (s t : State) (k j : Job), lookup s.jobs job = some k → k.phase = .running since →
    t = (seatsOf s job).foldl (fun s e => if (lookup s.jobs job).isSome then settle s e else s) s → lookup t.jobs job = some j → j.failing = none →
    leftover t j (seatsOf t job) = none → (seatsOf t job).any (fun e => !rankEnded t j e) = true → exec (.stepEnd job) s = .next t) ∧
  (∀ (job since : Nat) (s : State) (j : Job) (d : DraftRun) (x : Draft) (p : Ply) (r : StepRec), lookup s.jobs job = some j → j.draft = some d →
    lookup s.drafts d.handle = some x → j.phase = .running since → plyOfDraft s j d = some p → x.steps[j.step % x.nsteps]? = some r →
    p.notice.isSome = true → d.start + r.length + 8 ≤ s.trd.beat → exec (.freezeStopTimeout job) s =
      .next (freezeStopped (endFailed (modJob (startReady job (bandsIssued s job) s) job (fun j => { j with failing := some (j.failing.getD (stSplit, 0)) })) job) job)) ∧
  (∀ (job since : Nat) (s : State) (j : Job) (d : DraftRun) (x : Draft) (p : Ply) (r : StepRec), lookup s.jobs job = some j → j.draft = some d →
    lookup s.drafts d.handle = some x → j.phase = .running since → plyOfDraft s j d = some p → x.steps[j.step % x.nsteps]? = some r →
    s.trd.beat < d.start + r.length + 8 → exec (.freezeStopTimeout job) s = .next s) ∧
  (∀ (job det : Nat) (s : State) (j : Job) (p : Ply) (n : Notice), lookup s.jobs job = some j → j.failing = some (stSplit, det) →
    lookup s.plies j.slice = some p → p.notice = some n → drained s job = true →
    freezeStopped s job = freezeDraft (modJob s job (fun j => { j with records := [], touched := [] })) job n true) ∧
  (∀ (n : Fin 104) (slice : Fin 64) (v : Vote) (s t : State) (p : Ply), lookup s.plies slice.val = some p →
    p.links.contains (groupBase s (linkOf s n.val)) = true → v.member ≠ p.self → v.member < p.nodes.length → p.votes.contains v = false →
    v.notice = false →
    t = sendVote (modPly s slice.val (fun p => { p with votes := p.votes.filter (fun w => !(v.isEnd && w.isEnd && w.member = v.member)) ++ [v] })) slice.val v (some (groupBase s (linkOf s n.val))) →
    exec (.voteRecord n slice v) s = .next (((plyJob t slice.val).map (fun e => completeDraft t e.1)).getD t)) ∧
  (∀ (n : Fin 104) (slice : Fin 64) (v : Vote) (s t u : State) (p : Ply), lookup s.plies slice.val = some p →
    p.links.contains (groupBase s (linkOf s n.val)) = true → v.member ≠ p.self → v.member < p.nodes.length → p.votes.contains v = false →
    v.notice = true →
    t = sendVote (modPly s slice.val (fun p => { p with votes := p.votes.filter (fun w => !(v.isEnd && w.isEnd && w.member = v.member)) ++ [v] })) slice.val v (some (groupBase s (linkOf s n.val))) →
    u = takeNotice t slice.val { beat := v.noticeAt, member := v.member, cause := 1 } →
    exec (.voteRecord n slice v) s = .next (((plyJob u slice.val).map (fun e => completeDraft u e.1)).getD u)) ∧
  (∀ (n : Fin 104) (slice : Fin 64) (v : Vote) (s : State) (p : Ply), lookup s.plies slice.val = some p → p.votes.contains v = true →
    exec (.voteRecord n slice v) s = .next s) ∧
  (∀ (n : Fin 104) (slice : Fin 64) (s : State) (p : Ply), lookup s.plies slice.val = some p → p.links.contains (groupBase s (linkOf s n.val)) = true →
    4 ≤ readD 0 p.quiet (groupBase s (linkOf s n.val)) →
    exec (.markerTimeout slice n) s = .next (takeNotice s slice.val { beat := s.trd.beat, member := p.self, cause := 0 })) ∧
  (∀ (n : Fin 104) (slice : Fin 64) (s : State) (p : Ply), lookup s.plies slice.val = some p → readD 0 p.quiet (groupBase s (linkOf s n.val)) < 4 →
    exec (.markerTimeout slice n) s = .next s) ∧
  (∀ (s : State) (q : Nat) (n : Notice) (p : Ply), lookup s.plies q = some p → takeNotice s q n =
      freezeIfDue (modPly s q (fun p => { p with notice := some (earlierNotice p.notice n) })) q)

/-- Beats and beat markers (09 R163, R167-R171; 10 R195; 19 R382, R393). It rests on choices of the model: log entries 1, 6 and 37. -/
def Obligations.BeatsAndMarkers : Prop :=
  (∀ (s u : State), u = finishBeat s → u.trd.load = none → ∃ t, exec .beat s = .next t ∧ t.clock = u.clock + 1 ∧ t.trd.subbeat = 0 ∧
      t.trd.beat = (if u.trd.numbered then u.trd.beat + 1 else u.trd.beat) ∧ t.pwr.limit = u.pwr.pendLimit.getD u.pwr.limit ∧ t.pwr.pendLimit = none ∧
      t.jobs = u.jobs ∧ t.ops = u.ops ∧ t.ports = u.ports ∧ t.stores = u.stores ∧ t.bobbins = u.bobbins ∧ t.spindles = u.spindles ∧ t.sec = u.sec ∧
      t.dst = u.dst ∧ t.ras = u.ras) ∧
  (∀ (s : State) (b h : Nat), (finishBeat s).trd.load = some (b, h) →
    ∃ t, exec .beat s = .next t ∧ t.trd.beat = b ∧ t.trd.subbeat = 0 ∧ t.trd.numbered = true ∧ t.trd.plied = true ∧ t.trd.load = none) ∧
  (∀ (s : State), s.jobs = [] → s.plies = [] → finishBeat s = s) ∧
  (∀ (s : State) (jid : Nat), draftBeat s jid = openSlots (stepStart (voteDecide (voteSend s jid) jid) jid) jid) ∧
  (∀ (s t : State) (q l : Nat) (p : Ply), exec .beat s = .next t → lookup (finishBeat s).plies q = some p → p.links.Nodup → l ∈ p.links →
    (lookup t.plies q).map (fun p => readD 0 p.quiet l) = some (readD 0 p.quiet l + 1)) ∧
  (∀ (n : Fin 104) (m : Marker) (offset : Int) (s : State) (q : Nat) (p : Ply), s.plies = [(q, p)] → p.links = [groupBase s (linkOf s n.val)] →
    p.self ≠ (p.nodes.findIdx? (fun k => k = p.anchor)).getD 512 → m.anchor = p.anchor → p.timing = none → s.trd.plied = true →
    exec (.beatMarker n m offset) s =
      .next (modTrd { s with plies := [(q, { p with quiet := removeKey p.quiet (groupBase s (linkOf s n.val)), timing := some (groupBase s (linkOf s n.val)), hops := m.hops + 1 })] }
        (fun t => { t with skew := BitVec.ofInt 16 offset, hops := m.hops + 1, skewOk := decide (offset.natAbs ≤ 2560),
                           skewBeats := if offset.natAbs > 2560 then t.skewBeats + 1 else 0 }))) ∧
  (∀ (n : Fin 104) (m : Marker) (offset : Int) (s : State), (∀ e ∈ s.plies, e.2.links.contains (groupBase s (linkOf s n.val)) = false) →
    exec (.beatMarker n m offset) s = .next s) ∧
  (∀ (s : State), s.trd.plied = true → 8 ≤ s.trd.skewBeats → s.pwr.state ≤ 3 → s.trd.holdover = false →
    exec .skewLost s = .next (enterHoldover (modTrd s (fun t => { t with skewBeats := 0 })) 1)) ∧
  (∀ (s : State), s.trd.skewBeats < 8 → exec .skewLost s = .next s)

/-- References, the PLL, epochs, TRD_REF_SEL (09 R162, R164-R166, R172, R173, R175). It rests on choices of the model: log entries 2 and 37. -/
def Obligations.ReferencesAndEpochs : Prop :=
  (∀ (s : State), s.trd.holdover = false → exec (.referenceQualified .A) s = .next (modTrd s (fun t => { t with refA := true }))) ∧
  (∀ (s : State), s.trd.holdover = false → exec (.referenceQualified .B) s = .next (modTrd s (fun t => { t with refB := true }))) ∧
  (∀ (s : State), s.trd.holdover = true → s.trd.lockTo = none →
    exec (.referenceQualified .B) s = .next (modTrd s (fun t => { t with lockTo := some true, refB := true }))) ∧
  (∀ (s : State), s.trd.refSel = false → s.trd.lockTo = none → exec (.referenceLost .B) s = .next (modTrd s (fun t => { t with refB := false }))) ∧
  (∀ (s : State), s.trd.refSel = false → s.trd.lockTo = none → s.trd.holdover = false → s.trd.refB = true →
    exec (.referenceLost .A) s = .next (switchRef (modTrd s (fun t => { t with refA := false })) true false)) ∧
  (∀ (s : State), s.trd.refSel = false → s.trd.lockTo = none → s.trd.holdover = false → s.trd.locked = true → s.trd.refB = false →
    exec (.referenceLost .A) s = .next (enterHoldover (modTrd s (fun t => { t with refA := false })) 0)) ∧
  (∀ (s : State), s.trd.refSel = false → s.trd.lockTo = none → s.trd.holdover = false → s.trd.locked = false → s.trd.refB = false →
    exec (.referenceLost .A) s = .next (modTrd s (fun t => { t with refA := false }))) ∧
  (∀ (s : State), s.trd.holdover = false → s.trd.locked = false → s.trd.refSel = false → s.trd.refA = true →
    exec .pllLock s = .next (modTrd s (fun t => { t with locked := true, lastEpochA := some s.clock, lastEpochB := some s.clock }))) ∧
  (∀ (s : State), s.trd.holdover = false → refOk s.trd s.trd.refSel = false → exec .pllLock s = .next s) ∧
  (∀ (s t : State) (b : Bool) (n : Nat), s.trd.holdover = true → s.trd.lockTo = some b → s.trd.holdoverAt = some n → anyPly s = true →
    t = (if b ≠ s.trd.refSel then switchRef s b false else s) → exec .pllLock s = .next (postEvent
      (modTrd t (fun x => { x with locked := true, holdover := false, holdoverAt := none, lockTo := none })) 0x22 (sat32 (t.clock - n)))) ∧
  (∀ (who : Requester) (v : Word) (s : State), mayWrite s who → v.getLsbD 0 ≠ s.trd.refSel → refOk s.trd (v.getLsbD 0) = true →
    exec (.refSelWrite who v) s = .next (switchRef s (v.getLsbD 0) true)) ∧
  (∀ (who : Requester) (v : Word) (s : State), mayWrite s who → (v.getLsbD 0 = s.trd.refSel ∨ refOk s.trd (v.getLsbD 0) = false) →
    exec (.refSelWrite who v) s = .next s) ∧
  (∀ (offset : Int) (s t : State), s.trd.numbered = false → s.trd.locked = true → s.trd.refSel = false →
    t = modTrd s (fun t => { t with beat := 0, subbeat := 0, numbered := true, lastEpochA := some s.clock, lastEpochB := some s.clock }) →
    exec (.epochPulse .A offset) s = .next (noteEpoch t false true s.clock)) ∧
  (∀ (offset : Int) (s : State), s.trd.numbered = false → s.trd.refSel = false → exec (.epochPulse .B offset) s = .next s) ∧
  (∀ (i : TreadleInput) (offset : Int) (s : State), s.trd.numbered = true → (epochOffset s.trd.beat offset).natAbs ≤ 13 →
    exec (.epochPulse i offset) s = .next (noteEpoch s (inputBit i) true s.clock)) ∧
  (∀ (i : TreadleInput) (offset : Int) (s t : State), s.trd.numbered = true → 13 < (epochOffset s.trd.beat offset).natAbs →
    t = modTrd (noteEpoch s (inputBit i) false s.clock) (fun t => { t with epochSlip := sat32 (t.epochSlip + 1) }) →
    exec (.epochPulse i offset) s = .next (postEvent t 0x23 (slipDetail (inputBit i) false (epochOffset s.trd.beat offset)))) ∧
  (∀ (n : Nat) (s t : State), s.trd.numbered = true → s.trd.lastEpochB = some n → n + 1000010 ≤ s.clock →
    t = modTrd (noteEpoch s true false (n + 1000000)) (fun t => { t with epochSlip := sat32 (t.epochSlip + 1) }) →
    exec (.epochMissing .B) s = .next (postEvent t 0x23 (slipDetail true true 0))) ∧
  (∀ (n : Nat) (s t : State), s.trd.numbered = false → s.trd.refSel = true → s.trd.lastEpochB = some n → n + 1000010 ≤ s.clock →
    t = modTrd (noteEpoch s true false s.clock) (fun t => { t with epochSlip := sat32 (t.epochSlip + 1) }) →
    exec (.epochMissing .B) s = .next (postEvent t 0x23 (slipDetail true true 0))) ∧
  (∀ (n : Nat) (s : State), s.trd.lastEpochA = some n → s.clock < n + 1000010 → exec (.epochMissing .A) s = .next s)

/-- READ, WRITE, TRIM, FLUSH and the storage FENCE (14 R285, R289-R297, R301, R302). It rests on choices of the model: log entries 3, 16, 18, 19, 39
and 40. -/
def Obligations.StorageCommands : Prop :=
  (∀ (op : Nat) (o : Op) (st : Store) (bufs : List (Nat × Nat)) (s t u : State), StorageRuns s op 0x02 o st bufs t →
    (unitsOf (o.f 16 8 * 4096) (o.f 12 4 * 4096)).any (unitFails t st) = false →
    u = (List.range (o.f 12 4)).foldl (fun x i => toBuffers x o.port bufs (4096 * i) (readStore t st ((o.f 16 8 + i) * 4096) 4096)) t →
    exec (.read op) s = .next (finishOk (charge (countReads u (o.f 8 2) (unitsOf (o.f 16 8 * 4096) (o.f 12 4 * 4096))) st.slice
      (fun m => { m with flashRead := m.flashRead + (unitsOf (o.f 16 8 * 4096) (o.f 12 4 * 4096)).length * unitBytes })) op 0)) ∧
  (∀ (op b : Nat) (o : Op) (st : Store) (bufs : List (Nat × Nat)) (bad : List Nat) (s t u : State), StorageRuns s op 0x02 o st bufs t →
    (unitsOf (o.f 16 8 * 4096) (o.f 12 4 * 4096)).filter (unitFails t st) = b :: bad →
    u = ((List.range (o.f 12 4)).filter (fun i => !((b :: bad).contains ((o.f 16 8 + i) / 4)))).foldl (fun x i => toBuffers x o.port bufs (4096 * i) (readStore t st ((o.f 16 8 + i) * 4096) 4096)) t →
    exec (.read op) s = .next (finish (charge (countReads u (o.f 8 2) (unitsOf (o.f 16 8 * 4096) (o.f 12 4 * 4096))) st.slice
      (fun m => { m with flashRead := m.flashRead + (unitsOf (o.f 16 8 * 4096) (o.f 12 4 * 4096)).length * unitBytes })) op stMedia (bad.length + 1) (max (4 * b) (o.f 16 8)))) ∧
  (∀ (op : Nat) (o : Op) (st : Store) (bufs : List (Nat × Nat)) (s t u v w : State) (ps : List Nat) (cs : List MapChange),
    StorageRuns s op 0x01 o st bufs t → ps = (unitsOf (o.f 16 8 * 4096) (o.f 12 4 * 4096)).filter (fun u => !coversUnit (o.f 16 8) (o.f 12 4) u) →
    ps.find? (unitFails t st) = none → w = countReads t (o.f 8 2) ps →
    writeUnits w (o.f 8 2) ((lookup w.stores (o.f 8 2)).getD st) (atomicUnit t o) false (o.f 16 8) (o.f 12 4) (fromBuffers t o.port bufs) (unitsOf (o.f 16 8 * 4096) (o.f 12 4 * 4096)) [] = some (cs, u) →
    v = charge ((recordsOf (atomicUnit t o) cs).foldl journalRecord u) st.slice (fun m => { m with flashWrite := m.flashWrite + cs.length * unitBytes, flashRead := m.flashRead + ps.length * unitBytes }) →
    bit o.flags 1 = false → exec (.write op) s = .next (finishOk v op (atomicUnit t o))) ∧
  (∀ (op : Nat) (o : Op) (st : Store) (bufs : List (Nat × Nat)) (s t u v w : State) (ps : List Nat) (cs : List MapChange),
    StorageRuns s op 0x01 o st bufs t → ps = (unitsOf (o.f 16 8 * 4096) (o.f 12 4 * 4096)).filter (fun u => !coversUnit (o.f 16 8) (o.f 12 4) u) →
    ps.find? (unitFails t st) = none → w = countReads t (o.f 8 2) ps →
    writeUnits w (o.f 8 2) ((lookup w.stores (o.f 8 2)).getD st) (atomicUnit t o) false (o.f 16 8) (o.f 12 4) (fromBuffers t o.port bufs) (unitsOf (o.f 16 8 * 4096) (o.f 12 4 * 4096)) [] = some (cs, u) →
    v = awaitRecords (charge ((recordsOf (atomicUnit t o) cs).foldl journalRecord u) st.slice (fun m => { m with flashWrite := m.flashWrite + cs.length * unitBytes, flashRead := m.flashRead + ps.length * unitBytes })) (o.f 8 2) (unitsOf (o.f 16 8 * 4096) (o.f 12 4 * 4096)) op →
    bit o.flags 1 = true → exec (.write op) s = .next (if waitsDurable v op then v else finishOk v op (atomicUnit t o))) ∧
  (∀ (op : Nat) (o : Op) (st : Store) (bufs : List (Nat × Nat)) (s t w : State) (ps : List Nat), StorageRuns s op 0x01 o st bufs t →
    ps = (unitsOf (o.f 16 8 * 4096) (o.f 12 4 * 4096)).filter (fun u => !coversUnit (o.f 16 8) (o.f 12 4) u) → ps.find? (unitFails t st) = none →
    w = countReads t (o.f 8 2) ps →
    writeUnits w (o.f 8 2) ((lookup w.stores (o.f 8 2)).getD st) (atomicUnit t o) false (o.f 16 8) (o.f 12 4) (fromBuffers t o.port bufs) (unitsOf (o.f 16 8 * 4096) (o.f 12 4 * 4096)) [] = none →
    exec (.write op) s = .next (fail (clearRefused w) op (placeStatus w) 0)) ∧
  (∀ (s : State), placeStatus s = if s.bobbins.any (fun e => e.2.refused) then stReprogram else stWriteFault) ∧
  (∀ (op b : Nat) (o : Op) (st : Store) (bufs : List (Nat × Nat)) (s t : State), StorageRuns s op 0x01 o st bufs t →
    ((unitsOf (o.f 16 8 * 4096) (o.f 12 4 * 4096)).filter (fun u => !coversUnit (o.f 16 8) (o.f 12 4) u)).find? (unitFails t st) = some b →
    exec (.write op) s = .next (finish (countReads t (o.f 8 2) [b]) op stMedia 0 (max (4 * b) (o.f 16 8)))) ∧
  (∀ (op : Nat) (o : Op) (st : Store) (s t u v w : State) (ps : List Nat) (cs : List MapChange), StorageRuns s op 0x04 o st [] t →
    ps = (unitsOf (o.f 16 8 * 4096) (o.f 12 4 * 4096)).filter (fun u => !coversUnit (o.f 16 8) (o.f 12 4) u) → ps.find? (unitFails t st) = none →
    w = countReads t (o.f 8 2) ps →
    writeUnits w (o.f 8 2) ((lookup w.stores (o.f 8 2)).getD st) (atomicUnit t o) true (o.f 16 8) (o.f 12 4) (fun _ => 0) (unitsOf (o.f 16 8 * 4096) (o.f 12 4 * 4096)) [] = some (cs, u) →
    v = charge ((recordsOf (atomicUnit t o) cs).foldl journalRecord u) st.slice (fun m => { m with flashWrite := m.flashWrite + cs.length * unitBytes, flashRead := m.flashRead + ps.length * unitBytes }) →
    bit o.flags 1 = false → exec (.trim op) s = .next (finishOk v op (atomicUnit t o))) ∧
  (∀ (op : Nat) (o : Op) (st : Store) (s t u v w : State) (ps : List Nat) (cs : List MapChange), StorageRuns s op 0x04 o st [] t →
    ps = (unitsOf (o.f 16 8 * 4096) (o.f 12 4 * 4096)).filter (fun u => !coversUnit (o.f 16 8) (o.f 12 4) u) → ps.find? (unitFails t st) = none →
    w = countReads t (o.f 8 2) ps →
    writeUnits w (o.f 8 2) ((lookup w.stores (o.f 8 2)).getD st) (atomicUnit t o) true (o.f 16 8) (o.f 12 4) (fun _ => 0) (unitsOf (o.f 16 8 * 4096) (o.f 12 4 * 4096)) [] = some (cs, u) →
    v = awaitRecords (charge ((recordsOf (atomicUnit t o) cs).foldl journalRecord u) st.slice (fun m => { m with flashWrite := m.flashWrite + cs.length * unitBytes, flashRead := m.flashRead + ps.length * unitBytes })) (o.f 8 2) (unitsOf (o.f 16 8 * 4096) (o.f 12 4 * 4096)) op →
    bit o.flags 1 = true → exec (.trim op) s = .next (if waitsDurable v op then v else finishOk v op (atomicUnit t o))) ∧
  (∀ (s : State) (n a u sector count : Nat) (st : Store) (src : Nat → Byte) (us : List Nat) (acc : List MapChange), coversUnit sector count u = true →
    unitEntry st u ≠ unmapped → writeUnits s n st a true sector count src (u :: us) acc =
      writeUnits s n st a true sector count src us (acc ++ [{ store := n, unit := u, new := unmapped, old := unitEntry st u }])) ∧
  (∀ (s t : State) (n a u e sector count : Nat) (st : Store) (src : Nat → Byte) (us : List Nat) (acc : List MapChange),
    placeUnit s n u (commitSeq s acc a u) (mergeUnit ((unitData s st u).getD []) u sector count src) = some (e, t) →
    writeUnits s n st a false sector count src (u :: us) acc =
      writeUnits t n st a false sector count src us (acc ++ [{ store := n, unit := u, new := e, old := unitEntry st u }])) ∧
  (∀ (op : Nat) (o : Op) (s t : State), Ready s op 0x00 2 o → t = started s op 2 → o.f 8 2 ≤ 1023 → deletedAhead t (o.f 8 2) op = false →
    (lookup t.stores (o.f 8 2)).any (fun st => st.slice = o.slice && st.index.isNone) = true →
    exec (.flush op) s = .next (finishOk (commitRecords t) op 0)) ∧
  (∀ (op : Nat) (o : Op) (s t : State), Ready s op 0x00 2 o → t = started s op 2 → o.f 8 2 = 0xFFFF →
    exec (.flush op) s = .next (finishOk (commitRecords t) op 0)) ∧
  (∀ (op : Nat) (o : Op) (s t : State), Ready s op 0x00 2 o → t = started s op 2 → o.f 8 2 ≤ 1023 →
    (lookup t.stores (o.f 8 2)).any (fun st => st.slice = o.slice && st.index.isNone) = false → exec (.flush op) s = .next (fail t op stDenied 0)) ∧
  (∀ (op : Nat) (o : Op) (s t : State) (f : StorageFence), Ready s op 0x08 2 o → t = started s op 2 → o.f 8 1 = 0 →
    t.fences.find? (fun f => f.op = op) = some f → fenceDone t f = true → exec (.storageFence op) s = .next (finishOk (dropFence t op) op 0)) ∧
  (∀ (op : Nat) (o : Op) (s t : State) (f : StorageFence), Ready s op 0x08 2 o → t = started s op 2 → o.f 8 1 = 0 →
    t.fences.find? (fun f => f.op = op) = some f → fenceDone t f = false → exec (.storageFence op) s = .next t) ∧
  (∀ (s : State) (st : Store) (u : Nat) (p : FPage), unitEntry st u ≠ unmapped → unitEntry st u ≠ lostEntry →
    lookup (getBob s (entryBob (unitEntry st u))).pages (pageKey (entryBlock (unitEntry st u)) (entryPage (unitEntry st u))) = some p →
    p.uncorr = false → (getDie (getBob s (entryBob (unitEntry st u))) (dieOf (entryBlock (unitEntry st u)))).answering = true → p.key = st.key →
    unitData s st u = some p.data) ∧
  (∀ (s : State) (st : Store) (u : Nat) (p : FPage), unitEntry st u ≠ unmapped → unitEntry st u ≠ lostEntry →
    lookup (getBob s (entryBob (unitEntry st u))).pages (pageKey (entryBlock (unitEntry st u)) (entryPage (unitEntry st u))) = some p →
    p.uncorr = true →
    unitData s st u = (rebuilt (getBob s (entryBob (unitEntry st u))) (entryBlock (unitEntry st u)) (entryPage (unitEntry st u))).map (decrypted st.key p))

/-- STORE_CREATE, STORE_DELETE, SELF_TEST and HOLDUP_OK (14 R264, R286, R287, R298, R299, R303-R305). It rests on choices of the model: log entries 10
and 16. -/
def Obligations.StoresAndSelfTests : Prop :=
  (∀ (op : Nat) (o : Op) (s t : State) (c : SliceConf), Ready s op 0x61 2 o → t = started s op 2 → o.f 8 2 ≤ 1023 →
    (lookup t.slices (o.f 10 1)).map Slice.conf = some c → o.f 11 1 ≤ 1 → 4 ≤ o.f 16 8 → o.f 16 8 ≤ 2 ^ 33 → o.f 16 8 % 4 = 0 →
    lookup t.stores (o.f 8 2) = none → o.f 12 4 = 0 →
    capacityUsed t (o.f 10 1) (o.f 11 1 = 1) + capacityOf (o.f 11 1 = 1) (o.f 16 8) ≤ (if o.f 11 1 = 1 then c.bulk else c.fast) →
    exec (.storeCreate op) s = .next (let u := (bindKey t (o.f 8 2) (o.f 10 1) 0).2
      finishOk { u with stores := insertKey u.stores (o.f 8 2) (newStore (o.f 10 1) (o.f 11 1 = 1) (o.f 16 8) t.sec.nextHandle) } op
        (capacityOf (o.f 11 1 = 1) (o.f 16 8)))) ∧
  (∀ (op : Nat) (o : Op) (s t : State) (c : SliceConf), Ready s op 0x61 2 o → t = started s op 2 → o.f 8 2 ≤ 1023 →
    (lookup t.slices (o.f 10 1)).map Slice.conf = some c → o.f 11 1 ≤ 1 → 4 ≤ o.f 16 8 → o.f 16 8 ≤ 2 ^ 33 → o.f 16 8 % 4 = 0 →
    lookup t.stores (o.f 8 2) = none → o.f 12 4 ≠ 0 → t.sec.keys.any (fun k => k.handle = o.f 12 4 && k.kind = 2 && k.slice = o.f 10 1) = true →
    capacityUsed t (o.f 10 1) (o.f 11 1 = 1) + capacityOf (o.f 11 1 = 1) (o.f 16 8) ≤ (if o.f 11 1 = 1 then c.bulk else c.fast) →
    exec (.storeCreate op) s = .next (let u := (bindKey t (o.f 8 2) (o.f 10 1) (o.f 12 4)).2
      finishOk { u with stores := insertKey u.stores (o.f 8 2) (newStore (o.f 10 1) (o.f 11 1 = 1) (o.f 16 8) (o.f 12 4)) } op
        (capacityOf (o.f 11 1 = 1) (o.f 16 8)))) ∧
  (∀ (op : Nat) (o : Op) (s t : State) (st : Store), Ready s op 0x65 2 o → t = started s op 2 → o.f 8 2 ≤ 1023 → lookup t.stores (o.f 8 2) = some st →
    deletedAhead t (o.f 8 2) op = false → st.index = none → storeLocked t (o.f 8 2) = false → busyAhead t (o.f 8 2) op = false →
    exec (.storeDelete op) s = .next (finishOk (removeStore t (o.f 8 2)) op 0)) ∧
  (∀ (op : Nat) (o : Op) (s t : State) (st : Store), Ready s op 0x65 2 o → t = started s op 2 → o.f 8 2 ≤ 1023 → lookup t.stores (o.f 8 2) = some st →
    deletedAhead t (o.f 8 2) op = false → st.index = none → storeLocked t (o.f 8 2) = false → busyAhead t (o.f 8 2) op = true →
    exec (.storeDelete op) s = .next t) ∧
  (∀ (op : Nat) (o : Op) (s t : State), Ready s op 0x68 2 o → o.f 8 1 = 0 → o.phase = .fetched → t = started s op 2 → o.f 16 8 % 64 = 0 →
    t.selfTest = none → (bobbinsOf t (o.f 10 2)).any (fun b => b ≥ nBobbins t) = false → Reaches t o [(o.f 16 8, 64, true)] →
    exec (.selfTestShort op) s = .next
      { t with selfTest := some { op := op, extended := false, bobbins := bobbinsOf t (o.f 10 2), raddr := o.f 16 8, port := o.port, begin_ := t.trd.beat,
                                  active := t.clock } }) ∧
  (∀ (op : Nat) (o : Op) (s t : State), Ready s op 0x68 2 o → o.f 8 1 = 1 → o.phase = .fetched → t = started s op 2 → o.f 16 8 % 64 = 0 →
    t.selfTest = none → (bobbinsOf t (o.f 10 2)).any (fun b => b ≥ nBobbins t) = false → Reaches t o [(o.f 16 8, 64, true)] →
    exec (.selfTestExtended op) s = .next
      { t with selfTest := some { op := op, extended := true, bobbins := bobbinsOf t (o.f 10 2), raddr := o.f 16 8, port := o.port, begin_ := t.trd.beat,
                                  active := t.clock } }) ∧
  (∀ (op : Nat) (o : Op) (s t : State), Ready s op 0x68 2 o → o.f 8 1 = 0 → o.phase = .fetched → t = started s op 2 → o.f 16 8 % 64 = 0 →
    t.selfTest.isSome = true → exec (.selfTestShort op) s = .next (fail t op stBounds 8)) ∧
  (∀ (op : Nat) (o : Op) (s : State), Ready s op 0x68 4 o → o.f 8 1 = 2 → exec (.selfTestAbort op) s = .next (abortTest (finishOk (started s op 4) op 0))) ∧
  (∀ (s : State) (x : SelfTest), s.selfTest = some x → abortTest s = endTest (partFindings s).2 x 2 stAborted (partFindings s).1) ∧
  (∀ (found : TestFindings) (s : State) (x : SelfTest), s.selfTest = some x → exec (.selfTestDone found) s =
      .next (endTest (x.bobbins.foldl (fun s b => applyFindings s found b) s) x (if found.fails = 0 then 0 else 1) stOk found)) ∧
  (∀ (s t : State), s.pins.holdupOk = true →
    t = { s with pins := { s.pins with holdupOk := false }, ops := s.ops.map (fun e => (e.1, { e.2 with lowHoldup := true })) } →
    exec .holdupOkFall s = .next (postEvent (noteAlert (programJournal t)) 0x60 0)) ∧
  (∀ (s t : State), s.pins.holdupOk = false → t = { s with pins := { s.pins with holdupOk := true } } →
    exec .holdupOkRise s = .next (postEvent (noteAlert (commitAll t)) 0x61 0)) ∧
  (∀ (s : State), (s.pins.holdupOk = false → exec .holdupOkFall s = .next s) ∧ (s.pins.holdupOk = true → exec .holdupOkRise s = .next s))

/-- SLICE_CREATE, SLICE_DELETE and STORE_SHARE (15 R309, R312, R313). It rests on choices of the model: log entries 10 and 16. -/
def Obligations.SlicesAndGrants : Prop :=
  (∀ (op : Nat) (o : Op) (s t u : State), Ready s op 0x60 4 o → t = started s op 4 → Clear (createChecks t o (sliceConf o)) →
    isSealed (sliceConf o) = false →
    u = { t with slices := insertKey t.slices (o.f 8 1) (newSlice t (sliceConf o)), sec := { t.sec with poolKeys := t.sec.poolKeys ++ [o.f 8 1] } } →
    exec (.sliceCreate op) s = .next (finishOk (makeKey (makeKey u 3 (o.f 8 1)) 4 (o.f 8 1)) op 0)) ∧
  (∀ (op : Nat) (o : Op) (s t u v : State), Ready s op 0x60 4 o → t = started s op 4 → Clear (createChecks t o (sliceConf o)) →
    isSealed (sliceConf o) = true → makeFree (sliceConf o).floor (sliceConf o).floor t = (v, true) →
    u = { v with slices := insertKey v.slices (o.f 8 1) (newSlice v (sliceConf o)), sec := { v.sec with poolKeys := v.sec.poolKeys ++ [o.f 8 1] } } →
    exec (.sliceCreate op) s = .next (finishOk (makeKey (makeKey u 3 (o.f 8 1)) 4 (o.f 8 1)) op 0)) ∧
  (∀ (op : Nat) (o : Op) (s t v : State), Ready s op 0x60 4 o → t = started s op 4 → Clear (createChecks t o (sliceConf o)) →
    isSealed (sliceConf o) = true → makeFree (sliceConf o).floor (sliceConf o).floor t = (v, false) → exec (.sliceCreate op) s = .next v) ∧
  (∀ (op : Nat) (o : Op) (s t : State) (b : Bool) (st d : Nat), Ready s op 0x60 4 o → t = started s op 4 →
    (createChecks t o (sliceConf o)).find? (fun c => c.1) = some (b, st, d) → exec (.sliceCreate op) s = .next (fail t op st d)) ∧
  (∀ (s : State) (o : Op) (q : Nat) (x : Slice), lookup s.slices q = some x → setsMeet (sliceConf o).spindles x.conf.spindles = true →
    ((sliceConf o).shared = false ∨ x.conf.shared = false) → ¬ Clear (createChecks s o (sliceConf o))) ∧
  (∀ (op : Nat) (o : Op) (s t : State) (x : Slice), Ready s op 0x69 2 o → t = started s op 2 → lookup t.slices (o.f 8 1) = some x →
    sliceHolds t (o.f 8 1) = false → exec (.sliceDelete op) s = .next (finishOk (removeSlice t (o.f 8 1)) op 0)) ∧
  (∀ (op : Nat) (o : Op) (s t : State), Ready s op 0x69 2 o → t = started s op 2 → (lookup t.slices (o.f 8 1) = none ∨ sliceHolds t (o.f 8 1) = true) →
    exec (.sliceDelete op) s = .next (fail t op stBounds 8)) ∧
  (∀ (op : Nat) (o : Op) (s t : State), Ready s op 0x67 4 o → o.f 11 1 = 0 → t = started s op 4 → Clear (shareChecks t op o true) →
    exec (.storeShareGrant op) s = .next (finishOk (modStore t (o.f 8 2)
      (fun st => if st.slice = o.f 10 1 || st.grants.contains (o.f 10 1) then st else { st with grants := st.grants ++ [o.f 10 1] })) op 0)) ∧
  (∀ (op : Nat) (o : Op) (s t : State) (st : Store), Ready s op 0x67 4 o → o.f 11 1 = 1 → t = started s op 4 → Clear (shareChecks t op o false) →
    lookup t.stores (o.f 8 2) = some st → st.slice ≠ o.f 10 1 → st.grants.contains (o.f 10 1) = true → sliceBusy t (o.f 8 2) (o.f 10 1) op = false →
    exec (.storeShareRevoke op) s =
      .next (finishOk (modStore t (o.f 8 2) (fun st => { st with grants := st.grants.filter (fun g => g ≠ o.f 10 1) })) op 0)) ∧
  (∀ (op : Nat) (o : Op) (s t : State) (st : Store), Ready s op 0x67 4 o → o.f 11 1 = 1 → t = started s op 4 → Clear (shareChecks t op o false) →
    lookup t.stores (o.f 8 2) = some st → st.slice ≠ o.f 10 1 → st.grants.contains (o.f 10 1) = true → sliceBusy t (o.f 8 2) (o.f 10 1) op = true →
    exec (.storeShareRevoke op) s = .next t) ∧
  (∀ (op : Nat) (o : Op) (s t : State) (st : Store), Ready s op 0x67 4 o → o.f 11 1 = 1 → t = started s op 4 → Clear (shareChecks t op o false) →
    lookup t.stores (o.f 8 2) = some st → st.grants.contains (o.f 10 1) = false → exec (.storeShareRevoke op) s = .next (finishOk t op 0))

/-- SCHED_SET, time slices and slice switches (15 R314-R318). It rests on choices of the model: log entries 2 and 30. -/
def Obligations.RotationAndSwitches : Prop :=
  (∀ (op : Nat) (o : Op) (s t : State) (table : List Byte) (es : List RotEntry), Ready s op 0x6B 4 o → t = started s op 4 → o.f 8 8 % 64 = 0 →
    o.f 16 2 ≤ 256 → o.f 20 4 % 1000 = 0 → 1000 ≤ o.f 20 4 → o.f 20 4 ≤ minuteBeats → Reaches t o [(o.f 8 8, 16 * o.f 16 2, false)] →
    (o.f 16 2 ≠ 0 → homeFails t o.port (o.f 8 8) (16 * o.f 16 2) = false) → table = readPartner t o.port (o.f 8 8) (16 * o.f 16 2) →
    (∀ i < o.f 16 2, field (cut table (16 * i) 16) 9 7 = 0 ∧ 1000 ≤ field (cut table (16 * i) 16) 4 4 ∧ field (cut table (16 * i) 16) 0 4 + field (cut table (16 * i) 16) 4 4 ≤ o.f 20 4) →
    o.f 24 8 % o.f 20 4 = 0 → t.trd.beat + 1000 ≤ o.f 24 8 → es = (List.range (o.f 16 2)).map (fun i => readRotEntry (cut table (16 * i) 16)) →
    rotationBad t es = none →
    exec (.schedSet op) s = .next (finishOk { t with nextRotation := some { entries := es, period := o.f 20 4, effect := o.f 24 8 } } op 0)) ∧
  (∀ (s t : State), t = (keys (turnRotation s).slices).foldl turnSlice (turnRotation s) →
    exec .sliceBoundary s = .next ((List.range 48).foldl turnSpindle t)) ∧
  (∀ (s : State) (r : Rotation), s.nextRotation = some r → s.trd.numbered = true → r.effect ≤ s.trd.beat →
    turnRotation s = { s with rotation := some r, nextRotation := none, slices := s.slices.map (fun e => (e.1, { e.2 with timeSlice := none })) }) ∧
  (∀ (s t : State) (q b : Nat) (x : Slice) (e : RotEntry), t = planOverrun s q → lookup t.slices q = some x → x.timeSlice = none →
    entryNow t q = some (b, e) → turnSlice s q = modSlice t q (fun y =>
      { y with timeSlice := some (b + e.length - min x.owed e.length, b + e.length), owed := y.owed - min x.owed e.length,
               meter := { y.meter with deducted := y.meter.deducted + min x.owed e.length } })) ∧
  (∀ (s t : State) (q a b : Nat) (x : Slice), t = planOverrun s q → lookup t.slices q = some x → x.timeSlice = some (a, b) → t.trd.beat < b →
    turnSlice s q = modSlice t q (fun x => { x with timeSlice := some (a, b) })) ∧
  (∀ (s : State) (l : Nat) (c : SpindleSched), lookup s.sched l = some c → c.boundary = none → c.running ≠ coverOf s l →
    (sharedSpindle s l = true ∨ c.running.isSome = true) →
    turnSpindle s l = { s with sched := insertKey s.sched l { c with boundary := some (boundaryBeat s c.running, coverOf s l) } }) ∧
  (∀ (sp : Fin 48) (s u z : State) (b p : Nat) (c : SpindleSched), schedOf s sp.val = c → c.boundary = some (b, none) → s.ras.halted = false →
    stepOn s sp.val = false → c.running ≠ none → saveOutgoing s sp.val = some z → u = chargeSwitch z c.running → physOf u sp.val = some p →
    exec (.sliceSwitch sp) s =
      .next { scrubSpn u p with sched := insertKey (scrubSpn u p).sched sp.val { running := none, boundary := none } }) ∧
  (∀ (sp : Fin 48) (s u v w z : State) (b p q : Nat) (c : SpindleSched), schedOf s sp.val = c → c.boundary = some (b, some q) → s.ras.halted = false →
    stepOn s sp.val = false → c.running ≠ some q → saveOutgoing s sp.val = some z → u = chargeSwitch z c.running → physOf u sp.val = some p →
    v = scrubSpn u p → w = (if (switchedOut v q sp.val).isSome then chargeSwitch (restoreIncoming v q sp.val) (some q) else v) →
    exec (.sliceSwitch sp) s = .next { w with sched := insertKey w.sched sp.val { running := some q, boundary := none } }) ∧
  (∀ (sp : Fin 48) (s : State) (c : SpindleSched) (b : Nat) (want : Option Nat), schedOf s sp.val = c → c.boundary = some (b, want) → c.running ≠ want →
    saveOutgoing s sp.val = none → exec (.sliceSwitch sp) s = .next s) ∧
  (∀ (sp : Fin 48) (s : State), stepOn s sp.val = true → exec (.sliceSwitch sp) s = .next s)

/-- Meter records and the meter ring (15 R326, R327). It rests on choices of the model: log entries 2 and 30. -/
def Obligations.MeterRecords : Prop :=
  (∀ (s : State), s.trd.numbered = true → s.trd.beat % minuteBeats = 0 → exec .meterRecordCut s =
      .next ((s.slices.filter (fun e => e.2.meter.begin_ < s.trd.beat)).foldl (fun s e => cutMeter s e.1 e.2.meter.restart false) s)) ∧
  (∀ (s : State), (s.trd.numbered = false ∨ s.trd.beat % minuteBeats ≠ 0) → exec .meterRecordCut s = .next s) ∧
  (∀ (s : State) (q : Nat) (x : Slice) (short final : Bool), lookup s.slices q = some x →
    cutMeter s q short final = trimQueue (modSlice { s with meterQueue := s.meterQueue ++ [(q, meterBody s q x s.trd.beat short final)] } q
      (fun x => { x with meter := { Meter.zero (x.meter.seq + 1) s.trd.beat with
        holdover := s.trd.holdover, spindle := x.meter.spindle % 2000, switch_ := x.meter.switch_ % 2000 } })) q) ∧
  (∀ (s : State) (q : Nat), 1440 < (s.meterQueue.filter (fun r => r.1 = q)).length → s.meterGaps.contains q = false →
    trimQueue s q = postSliceEvent { s with meterQueue := s.meterQueue.eraseIdx (s.meterQueue.findIdx (fun r => r.1 = q)), meterGaps := s.meterGaps ++ [q] } 0x71 q q) ∧
  (∀ (op : Nat) (o : Op) (s t : State), Ready s op 0x6E 4 o → t = started s op 4 → o.f 8 8 % 4096 = 0 → 4 ≤ o.f 16 1 → o.f 16 1 ≤ 12 →
    hitsRing (getPort t o.port) (o.f 8 8) (2 ^ o.f 16 1 * 2048) = false → hitsLine (getPort t o.port) (o.f 8 8) (2 ^ o.f 16 1 * 2048) = false →
    badWord (getPort t o.port) (o.f 20 8) (o.f 17 1) = false → (o.f 18 2 ≤ 255 ∨ o.f 18 2 = 0xFFFF) →
    badLine (getPort t o.port) (o.f 20 8) (o.f 8 8) (2 ^ o.f 16 1 * 2048) = false → exec (.meterSet op) s = .next (finishOk
      { t with meterRing := some { port := o.port, ring := newCompRing (o.f 8 8) (2 ^ o.f 16 1) (o.f 20 8) (o.f 17 1) (vecOf (o.f 18 2)) 1 0 } } op 0)) ∧
  (∀ (s t : State) (m : MeterRing) (q : Nat) (body : List Byte) (l : List (Nat × List Byte)) (ring : CompRing) (send : Bool), s.meterRing = some m →
    s.meterQueue = (q, body) :: l → (getPort s m.port).regs.run = true → (getPort s m.port).link.lostAt = none → ringRoom m.ring = true →
    ringSignal (ringNext m.ring) s.clock = (ring, send) →
    t = modPort s m.port (fun x => sendIrq { x with mem := writeBytes x.mem (m.ring.base + 2048 * m.ring.slot) (signedRecord body (s.meterGaps.contains q) m.ring.phase) } ring send) →
    exec .meterRecordWrite s =
      .next { t with meterRing := some { m with ring := ring }, meterQueue := l, meterGaps := s.meterGaps.filter (fun k => k ≠ q) }) ∧
  (∀ (s : State) (m : MeterRing), s.meterRing = some m → ringRoom m.ring = false → exec .meterRecordWrite s = .next s)

/-- FILTER_SCAN, the index commands and CARD_QUERY (12 R228, R230-R241). It rests on choices of the model: log entries 16 and 31. -/
def Obligations.CardCommands : Prop :=
  (∀ (op : Nat) (o : Op) (s t : State) (b : List Byte) (ts : List Term), Ready s op 0x48 2 o → t = started s op 2 → getQuery t op = none →
    Clear (scanFields o) → Clear (scanStore t op o) → TermsRead t op o (o.f 32 8) (o.f 11 1) (o.f 12 2) b ts →
    Reaches t o [(o.f 40 8, scanOutBytes o, true)] → exec (.filterScan op) s = .next (startQuery t (newScan t op o ts))) ∧
  (∀ (op : Nat) (o : Op) (s t u : State) (cs : List (List Byte)), Ready s op 0x44 2 o → t = started s op 2 → Clear (cardCreateFields o) →
    Clear (cardCreateChecks t op o) → Reaches t o [(o.f 32 8, o.f 16 4 * sketchBytes (o.f 10 1), false)] → busyAhead t (o.f 8 2) op = false →
    cs = (List.range (o.f 16 4)).map (fun i => readPartner t o.port (o.f 32 8 + i * sketchBytes (o.f 10 1)) (sketchBytes (o.f 10 1))) →
    u = modStore (trimStore t (o.f 8 2)) (o.f 8 2) (fun st => { st with index := some t.card.nextHandle }) → o.f 20 2 = 0xFFFF →
    exec (.cardCreate op) s = .next (finishOk { u with card := { u.card with
      indexes := insertKey u.card.indexes t.card.nextHandle (newIndex o cs), nextHandle := t.card.nextHandle + 1 } } op (t.card.nextHandle % 2 ^ 32))) ∧
  (∀ (op : Nat) (o : Op) (s t u : State) (cs : List (List Byte)), Ready s op 0x44 2 o → t = started s op 2 → Clear (cardCreateFields o) →
    Clear (cardCreateChecks t op o) → Reaches t o [(o.f 32 8, o.f 16 4 * sketchBytes (o.f 10 1), false)] → busyAhead t (o.f 8 2) op = false →
    cs = (List.range (o.f 16 4)).map (fun i => readPartner t o.port (o.f 32 8 + i * sketchBytes (o.f 10 1)) (sketchBytes (o.f 10 1))) →
    u = modStore (trimStore t (o.f 8 2)) (o.f 8 2) (fun st => { st with index := some t.card.nextHandle }) → o.f 20 2 ≠ 0xFFFF →
    exec (.cardCreate op) s = .next (finishOk { u with
      card := { u.card with indexes := insertKey u.card.indexes t.card.nextHandle (newIndex o cs), nextHandle := t.card.nextHandle + 1 },
      strand := { u.strand with eps := insertKey u.strand.eps (o.f 20 2) (cardEndpoint o t.card.nextHandle) } } op (t.card.nextHandle % 2 ^ 32))) ∧
  (∀ (op : Nat) (o : Op) (s t : State) (x : Index), Ready s op 0x45 2 o → t = started s op 2 → lookup t.card.indexes (o.f 8 4) = some x →
    x.slice = o.slice → x.dropping.any (fun d => d ≠ op) = false → indexBusy t (o.f 8 4) op = false →
    exec (.cardDrop op) s = .next (finishOk (removeIndex t (o.f 8 4) x) op 0)) ∧
  (∀ (op : Nat) (o : Op) (s t : State) (x : Index), Ready s op 0x45 2 o → t = started s op 2 → lookup t.card.indexes (o.f 8 4) = some x →
    x.slice = o.slice → x.dropping.any (fun d => d ≠ op) = false → indexBusy t (o.f 8 4) op = true →
    exec (.cardDrop op) s = .next { t with card := { t.card with indexes := insertKey t.card.indexes (o.f 8 4) { x with dropping := some op } } }) ∧
  (∀ (op : Nat) (o : Op) (s t : State) (x : Index) (items : List Item), Ready s op 0x41 2 o → t = started s op 2 →
    ownIndex t o.slice (o.f 8 4) op = some x → 1 ≤ o.f 12 4 → o.f 12 4 ≤ 65536 → Reaches t o [(o.f 16 8, o.f 12 4 * itemStride x, false)] →
    items = (List.range (o.f 12 4)).map (itemAt x (readPartner t o.port (o.f 16 8) (o.f 12 4 * itemStride x))) →
    (∀ i ∈ items, i.id ≠ 0xFFFFFFFFFFFFFFFF ∧ i.cluster < x.ncluster) → noRoom t (o.f 8 4) x (o.f 12 4) = false →
    items.any (fun i => (getBob t (bobbinOfItem t i.id)).readOnly) = false →
    exec (.cardInsert op) s = .next (finishOk (charge (modIndex t (o.f 8 4) (fun x => { x with pending := items.foldl putItem x.pending })) o.slice
      (fun m => { m with flashWrite := m.flashWrite + itemSpace x (o.f 12 4) })) op (o.f 12 4 + (x.epoch + 1) % 2 ^ 32 * 2 ^ 32))) ∧
  (∀ (op : Nat) (o : Op) (s t : State) (x : Index) (items : List Item), Ready s op 0x41 2 o → t = started s op 2 →
    ownIndex t o.slice (o.f 8 4) op = some x → 1 ≤ o.f 12 4 → o.f 12 4 ≤ 65536 → Reaches t o [(o.f 16 8, o.f 12 4 * itemStride x, false)] →
    items = (List.range (o.f 12 4)).map (itemAt x (readPartner t o.port (o.f 16 8) (o.f 12 4 * itemStride x))) →
    (∀ i ∈ items, i.id ≠ 0xFFFFFFFFFFFFFFFF ∧ i.cluster < x.ncluster) → noRoom t (o.f 8 4) x (o.f 12 4) = false →
    items.any (fun i => (getBob t (bobbinOfItem t i.id)).readOnly) = true → exec (.cardInsert op) s = .next (fail t op stWriteFault 0)) ∧
  (∀ (op i : Nat) (o : Op) (s t : State) (x : Index) (items : List Item), Ready s op 0x41 2 o → t = started s op 2 →
    ownIndex t o.slice (o.f 8 4) op = some x → 1 ≤ o.f 12 4 → o.f 12 4 ≤ 65536 → Reaches t o [(o.f 16 8, o.f 12 4 * itemStride x, false)] →
    items = (List.range (o.f 12 4)).map (itemAt x (readPartner t o.port (o.f 16 8) (o.f 12 4 * itemStride x))) →
    items.findIdx? (fun i => i.id = 0xFFFFFFFFFFFFFFFF || i.cluster ≥ x.ncluster) = some i → exec (.cardInsert op) s = .next (fail t op stBounds i)) ∧
  (∀ (op : Nat) (o : Op) (s t : State) (x : Index) (ids : List Nat), Ready s op 0x42 2 o → t = started s op 2 →
    ownIndex t o.slice (o.f 8 4) op = some x → 1 ≤ o.f 12 4 → o.f 12 4 ≤ 65536 → Reaches t o [(o.f 16 8, 8 * o.f 12 4, false)] →
    ids = (List.range (o.f 12 4)).map (fun i => partnerNat t o.port (o.f 16 8 + 8 * i) 8) → (∀ i ∈ ids, i ≠ 0xFFFFFFFFFFFFFFFF) →
    exec (.cardDelete op) s = .next (finishOk (modIndex t (o.f 8 4) (fun y => { y with pending := (deleteIds x.pending ids 0).1 })) op
      ((deleteIds x.pending ids 0).2 + (x.epoch + 1) % 2 ^ 32 * 2 ^ 32))) ∧
  (∀ (op : Nat) (o : Op) (s t : State) (x : Index), Ready s op 0x43 2 o → t = started s op 2 → ownIndex t o.slice (o.f 8 4) op = some x →
    exec (.cardPublish op) s = .next (finishOk (modIndex t (o.f 8 4) (fun y => { y with epoch := (x.epoch + 1) % 2 ^ 32, current := y.pending })) op
      ((x.epoch + 1) % 2 ^ 32))) ∧
  (∀ (op : Nat) (o : Op) (s t : State) (x : Index) (b : List Byte) (ts : List Term), Ready s op 0x40 2 o → t = started s op 2 →
    ownIndex t o.slice (o.f 8 4) op = some x → getQuery t op = none → Clear (queryFields o) →
    (o.f 13 1 ≠ 0 → x.vfmt ≠ 0 ∧ usable t o.slice ≠ [] ∧ t.ras.halted = false) →
    (bit (o.f 20 1) 1 = true → x.ep.any (fun ep => (lookup t.strand.eps ep).any (fun e => e.card = some (o.f 8 4))) = true) →
    TermsRead t op o (o.f 40 8) (o.f 21 1) x.rb b ts → exec (.cardQuery op) s = .next (beginQuery t op o x b ts)) ∧
  (∀ (op len : Nat) (o : Op) (t : State) (x : Index) (b : List Byte) (ts : List Term) (block : List Byte),
    len = o.f 12 1 * queryStride x (o.f 13 1) (o.f 18 2) (bit (o.f 20 1) 0) → bit (o.f 20 1) 1 = false →
    Reaches t o [(o.f 24 8, len, false), (o.f 48 8, 0, false), (o.f 32 8, outputBytes (o.f 12 1) (o.f 14 2) 0, true)] →
    block = readPartner t o.port (o.f 24 8) len →
    (bit (o.f 20 1) 0 = true → ∀ q < o.f 12 1, ∀ c ∈ listedClusters x (o.f 13 1) (o.f 18 2) block q, c < x.ncluster) →
    beginQuery t op o x b ts = startQuery t (newQuery t op x (o.f 8 4) (o.f 13 1) (o.f 14 2) (o.f 16 2) (o.fetchedAt + deadlineBeats (o.f 22 2))
      ((List.range (o.f 12 1)).map (querySpec x (o.f 13 1) (o.f 18 2) (bit (o.f 20 1) 0) block)) ts none [] (o.f 32 8)))

/-- Passes, re-ranking, shard messages and the deadline of queries (12 R228, R229, R241-R247). It rests on choices of the model: log entries 2, 31, 32
and 38. -/
def Obligations.CardPassesAndShards : Prop :=
  (∀ (b : Fin 16) (s u : State) (p : CardPass) (ps : List CardPass) (q : Query), (getBob s b.val).passes = p :: ps → passAhead s p.op = false →
    awake s 2 = true → u = modBob s b.val (fun x => { x with passes := ps }) → getQuery u p.op = some q → q.scan = none →
    exec (.cardPass b) s = .next (passDone (sketchPass u b.val q) b.val p.op)) ∧
  (∀ (b : Fin 16) (s u : State) (p : CardPass) (ps : List CardPass) (q : Query) (c : Scan), (getBob s b.val).passes = p :: ps →
    passAhead s p.op = false → awake s 2 = true → u = modBob s b.val (fun x => { x with passes := ps }) → getQuery u p.op = some q →
    q.scan = some c → exec (.cardPass b) s = .next (passDone (scanPass u b.val q c) b.val p.op)) ∧
  (∀ (b : Fin 16) (s : State) (p : CardPass) (ps : List CardPass), (getBob s b.val).passes = p :: ps → passAhead s p.op = false → awake s 2 = false →
    exec (.cardPass b) s = .next (wake s 2)) ∧
  (∀ (b : Fin 16) (s : State) (p : CardPass) (ps : List CardPass), (getBob s b.val).passes = p :: ps → passAhead s p.op = true →
    exec (.cardPass b) s = .next s) ∧
  (∀ (b : Fin 16) (s : State), (getBob s b.val).passes = [] → exec (.cardPass b) s = .next s) ∧
  (∀ (op : Nat) (p : CardPass) (ps : List CardPass), insertPass op (p :: ps) = if op < p.op then { op := op } :: p :: ps else p :: insertPass op ps) ∧
  (∀ (s : State) (op : Nat) (q : Query), getQuery s op = some q → q.scan = none → q.metric = 0 →
    afterScan s op = endLocal (modQuery s op (fun q => { q with ranked := q.cands.map (fun l =>
      (bestCands id q.k l).map (fun c => { c with dist := (w32 (ofInt (c.dist : Int))).toNat })) })) op stOk 0) ∧
  (∀ (s u : State) (op : Nat) (q : Query) (todo : List (Nat × Cand)), getQuery s op = some q → q.scan = none → q.metric ≠ 0 →
    todo = (q.cands.zipIdx).flatMap (fun e => e.1.map (fun c => (e.2, c))) → todo ≠ [] → rerankLate s q = false →
    u = modQuery s op (fun q => { q with todo := todo, ranked := q.cands.map (fun _ => []) }) → afterScan s op = u) ∧
  (∀ (op : Nat) (s : State) (q : Query), getQuery s op = some q → q.scan = none → q.todo ≠ [] → q.localStatus = none → s.ras.halted = false →
    (usable s q.slice).any (runningOn s q.slice) = true → rerankLate s q = false → awake s 0 = true → exec (.rerankUnit op) s = .next (rerank s q)) ∧
  (∀ (s t : State) (q : Query) (lost : Option Nat), vectorsLost ((q.todo.take 256).map (fun e => bobbinOfItem s e.2.id)).eraseDups s = (lost, t) →
    rerank s q = lost.elim (rerankSome t q) (fun b => endLocal t q.op stMedia b)) ∧
  (∀ (op : Nat) (s : State), s.ras.halted = true → exec (.rerankUnit op) s = .next s) ∧
  (∀ (s : State) (op : Nat) (q : Query), getQuery s op = some q → q.localStatus = some stOk → q.remote = none → q.scan = none → shardsIn s q = true →
    concludeQuery s op = answerQuery s q) ∧
  (∀ (s : State) (op : Nat) (q : Query) (c : Scan), getQuery s op = some q → q.localStatus = some stOk → q.remote = none → q.scan = some c →
    concludeQuery s op = answerScan s q c) ∧
  (∀ (n : Fin 104) (k : Packet) (s t u : State) (e : Endpoint) (h st : Nat), Arrives s n.val k t → k.op = 4 → lookup t.strand.eps k.ep = some e →
    e.card = some h → e.key = k.key → (bit e.peer 31 || e.peer % 2 ^ 18 = k.src) = true → k.last = true → k.offset = 0 → field k.data 0 1 = 1 →
    admitShard t k h k.data = .done st u → exec (.shardRequest n k) s =
      .next (acknowledge (unqueue { u with card := { u.card with arriving := removeKey u.card.arriving (k.src * 4096 + k.ep) } } k) k st)) ∧
  (∀ (n : Fin 104) (k : Packet) (s t u : State) (e : Endpoint) (h : Nat), Arrives s n.val k t → k.op = 4 → lookup t.strand.eps k.ep = some e →
    e.card = some h → e.key = k.key → (bit e.peer 31 || e.peer % 2 ^ 18 = k.src) = true → k.last = true → k.offset = 0 → field k.data 0 1 = 1 →
    admitShard t k h k.data = .wait u → exec (.shardRequest n k) s =
      .next (if u.strand.waiting.any (fun w => w.1 = k) then u else { u with strand := { u.strand with waiting := u.strand.waiting ++ [(k, stOk)] } })) ∧
  (∀ (n : Fin 104) (k : Packet) (s t : State) (e : Endpoint) (h : Nat), Arrives s n.val k t → k.op = 4 → lookup t.strand.eps k.ep = some e →
    e.card = some h → e.key = k.key → (bit e.peer 31 || e.peer % 2 ^ 18 = k.src) = true → k.last = false → k.offset = 0 → exec (.shardRequest n k) s =
      .next (acknowledge (unqueue { t with card := { t.card with arriving := writeD [] t.card.arriving (k.src * 4096 + k.ep) k.data } } k) k stOk)) ∧
  (∀ (n : Fin 104) (k : Packet) (s t u : State) (e : Endpoint) (h : Nat), Arrives s n.val k t → k.op = 4 → lookup t.strand.eps k.ep = some e →
    e.card = some h → e.key = k.key → (bit e.peer 31 || e.peer % 2 ^ 18 = k.src) = true → k.last = true → k.offset = 0 → field k.data 0 1 = 2 →
    u = takeReply t k.data → exec (.shardReply n k) s =
      .next (concludeAll (acknowledge (unqueue { u with card := { u.card with arriving := removeKey u.card.arriving (k.src * 4096 + k.ep) } } k) k stOk))) ∧
  (∀ (op : Nat) (s u : State) (q : Query), getQuery s op = some q → q.scan = none → q.deadline ≤ s.clock →
    u = modQuery s op (fun q => { q with expired := true }) → exec (.queryDeadline op) s =
      .next (if q.waiting.isEmpty && q.localStatus.isNone && rerankLate u q then endLocal u op stFlowTimeout 0 else concludeQuery u op)) ∧
  (∀ (op : Nat) (s : State) (q : Query), getQuery s op = some q → s.clock < q.deadline → exec (.queryDeadline op) s = .next s)

/-- NAND failures, garbage collection, folding, migration (13 R256, R258, R260, R265, R270-R277, R282). It rests on choices of the model: log entries
2, 18, 19, 39 and 40. -/
def Obligations.FlashLife : Prop :=
  (∀ (b : Fin 16) (block page : Nat) (s : State), (lookup (getBob s b.val).pages (pageKey block page)).isSome = true →
    exec (.programRefused b block page) s =
      .next (modBob (logRas s 5 2 (b.val * 16 + dieOf block) 0xFFFF (block + page * 2 ^ 17)) b.val (fun x => { x with refused := true }))) ∧
  (∀ (b : Fin 16) (block : Nat) (s : State) (avoid : List Nat), (getBlock (getBob s b.val) block).st = .opened →
    (getBlock (getBob s b.val) block).mode = 1 → avoid = ((parityGroup (getBob s b.val) block).map (fun g => g.blocks.map Prod.fst)).getD [block] →
    exec (.nandProgramFailure b block false) s = .next (retireBlock (moveOut s b.val (fun _ => false) avoid (validUnits s b.val block)) b.val block 0)) ∧
  (∀ (b : Fin 16) (block : Nat) (s : State), (getBlock (getBob s b.val) block).st = .opened → (getBlock (getBob s b.val) block).mode = 2 →
    validUnits s b.val block = [] → exec (.nandProgramFailure b block false) s = .next (failBulk s b.val block 0)) ∧
  (∀ (b : Fin 16) (block : Nat) (s : State), (getBlock (getBob s b.val) block).st = .closed → (getBlock (getBob s b.val) block).mode = 2 →
    validUnits s b.val block = [] → exec (.nandProgramFailure b block true) s = .next (failBulk s b.val block 2)) ∧
  (∀ (s t u v : State) (b block cause : Nat) (again : List (Nat × Nat)),
    again = (((getBob s b).moves.filter (fun m => entryBlock m.new = block)).filter (fun m => entryOf s m.owner m.unit = m.old)).map (fun m => (m.owner, m.unit)) →
    t = modBob s b (fun x => { x with moves := x.moves.filter (fun m => !decide (entryBlock m.new = block)) }) →
    u = modBob (retireBlock t b block cause) b (fun x => refillGroup x b block) → v = copyUnits u b (fun _ => true) [block] again →
    failBulk s b block cause = postLost v b (lostSince u v b)) ∧
  (∀ (b : Fin 16) (block : Nat) (s : State),
    (erasing_ s b.val block = true ∨ ((getBlock (getBob s b.val) block).st = .closed ∧ validUnits s b.val block = [] ∧ (getBob s b.val).moves.any (fun m => entryBlock m.old = block) = false)) →
    exec (.nandEraseFailure b block) s = .next (retireBlock s b.val block 1)) ∧
  (∀ (b : Fin 16) (block : Nat) (s : State), s.pwr.state < 3 → (getBlock (getBob s b.val) block).st = .closed → onActive (getBob s b.val) block = true →
    ((getBob s b.val).refreshQ.contains block = true ∨ (freeBlocks (getBob s b.val) < 4096 ∧ victimOf (closedWith s b.val (fun _ _ => true)) = some block)) →
    exec (.gcMove b block) s = .next (moveBlock s b.val block (fun _ => (getBlock (getBob s b.val) block).mode = 2))) ∧
  (∀ (b : Fin 16) (block n : Nat) (s : State), s.pwr.state < 3 → (getBob s b.val).migrating = some (dieOf block, n) →
    exec (.gcMove b block) s = .next (moveBlock s b.val block (fun _ => (getBlock (getBob s b.val) block).mode = 2))) ∧
  (∀ (b : Fin 16) (block : Nat) (s : State), 3 ≤ s.pwr.state → exec (.gcMove b block) s = .next s) ∧
  (∀ (b : Fin 16) (block : Nat) (s : State), s.pwr.state < 3 → victimOf (closedWith s b.val (fun k _ => isLanding s b.val k)) = some block →
    exec (.landingFold b block) s = .next (moveBlock s b.val block (bulkOwner s))) ∧
  (∀ (s : State) (b block : Nat) (f : Nat → Bool), (getBob s b).moves.filter (fun m => entryBlock m.old = block) = [] →
    moveBlock s b block f = eraseSource (commitRecords (moveOut (settleMoves s b (fun _ _ => true)) b f [] (validUnits s b block))) b block) ∧
  (∀ (s : State) (b block : Nat) (f : Nat → Bool) (m : BlockMove) (ms : List BlockMove),
    (getBob s b).moves.filter (fun m => entryBlock m.old = block) = m :: ms →
    moveBlock s b block f = eraseSource (commitRecords (settleMoves (modBob s b (fun x => shutGroups x (fun g => g.bulk && g.blocks.any (fun e =>
      ((m :: ms).map (fun m => entryBlock m.new)).contains e.1)))) b (fun _ _ => true))) b block) ∧
  (∀ (s : State) (b block : Nat), (getBlock (getBob s b) block).st = .closed → onActive (getBob s b) block = true → validUnits s b block = [] →
    (getBob s b).moves.any (fun m => entryBlock m.old = block) = false →
    eraseSource s b block = modBob s b (fun x => eraseBlock x block (dayOf s.trd.beat) s.clock)) ∧
  (∀ (s : State) (b block : Nat), validUnits s b block ≠ [] → eraseSource s b block = s) ∧
  (∀ (b : Fin 16) (s : State), (getBob s b.val).foreground = false → freeBlocks (getBob s b.val) < 1024 →
    exec (.gcRegimeChange b) s = .next (postEvent (modBob s b.val (fun x => { x with foreground := true, since := s.clock })) 0x50 (b.val + 256))) ∧
  (∀ (b : Fin 16) (s : State), (getBob s b.val).foreground = true → 1536 ≤ freeBlocks (getBob s b.val) →
    exec (.gcRegimeChange b) s = .next (postEvent (modBob s b.val (fun x =>
      { x with foreground := false, ctr := { x.ctr with throttle := x.ctr.throttle + (s.clock - x.since) } })) 0x50 b.val)) ∧
  (∀ (b : Fin 16) (s : State), (getBob s b.val).foreground = false → 1024 ≤ freeBlocks (getBob s b.val) →
    exec (.gcRegimeChange b) s = .next (liftReadOnly s b.val)) ∧
  (∀ (b : Fin 16) (die : Fin 9) (s : State), (busyOp (getDie (getBob s b.val) die.val) s.clock).isSome = true →
    (getDie (getBob s b.val) die.val).suspends < 4 →
    exec (.readSuspend b die) s = .next (modBob s b.val (fun x => modDie x die.val (fun d => { d with suspends := d.suspends + 1 })))) ∧
  (∀ (b : Fin 16) (die : Fin 9) (s : State), 4 ≤ (getDie (getBob s b.val) die.val).suspends → exec (.readSuspend b die) s = .next s) ∧
  (∀ (b : Fin 16) (die : Fin 9) (s : State), busyOp (getDie (getBob s b.val) die.val) s.clock = none → exec (.readSuspend b die) s = .next s) ∧
  (∀ (b : Fin 16) (d n : Nat) (s u : State), (getBob s b.val).migrating = some (d, n) → unitsOnDie s b.val d = 0 →
    u = modBob s b.val (fun x => { modDie x d (fun y => { y with st := 3, role := 0xF }) with migrating := none }) → exec (.migrateDone b) s =
      .next (checkReadOnly (postEvent u 0x56 (b.val + d * 16 + n % 2 ^ 24 * 256)) b.val)) ∧
  (∀ (b : Fin 16) (d n : Nat) (s : State), (getBob s b.val).migrating = some (d, n) → unitsOnDie s b.val d ≠ 0 → exec (.migrateDone b) s = .next s) ∧
  (∀ (b : Fin 16) (die : Fin 9) (s : State), b.val < nBobbins s → (getDie (getBob s b.val) die.val).answering = true →
    exec (.dieStopsAnswering b die) s = .next (postEvent
      (modBob s b.val (fun x => modDie x die.val (fun d => { d with answering := false, st := if d.role < 8 then 2 else d.st }))) 0x53 (b.val + die.val * 16 + 256))) ∧
  (∀ (b : Fin 16) (die : Fin 9) (s : State), (getDie (getBob s b.val) die.val).answering = false → exec (.dieStopsAnswering b die) s = .next s)

/-- The journal, checkpoints, life projections and FLASH_REPORT (13 R264, R279, R281; 14 R295). It rests on choices of the model: log entries 2, 18
and 39. -/
def Obligations.JournalAndReports : Prop :=
  (∀ (s : State), pageFill s.journal.records unitBytes < s.journal.records.length →
    exec .journalPageProgram s = .next (programRecords s (pageFill s.journal.records unitBytes))) ∧
  (∀ (s : State), pageFill s.journal.records unitBytes = s.journal.records.length → exec .journalPageProgram s = .next s) ∧
  (∀ (s : State) (r : JRecord) (rs : List JRecord), s.journal.records = r :: rs → r.made + 200 ≤ s.clock →
    exec .journalTimer s = .next (programRecords s (pageFill s.journal.records unitBytes))) ∧
  (∀ (s : State) (r : JRecord) (rs : List JRecord), s.journal.records = r :: rs → s.clock < r.made + 200 → exec .journalTimer s = .next s) ∧
  (∀ (s : State), (s.journal.checkpointAt = 0 ∨ s.journal.checkpointAt + 10000000 ≤ s.clock) → exec .mapCheckpoint s = .next { s with journal :=
      { s.journal with wseq := s.journal.wseq + 1, checkpointAt := s.clock, pages := [],
                       checkpoint := (s.journal.pages.getLast?.map DevPage.jseq).getD s.journal.checkpoint } }) ∧
  (∀ (s : State), s.journal.checkpointAt ≠ 0 → s.clock < s.journal.checkpointAt + 10000000 → exec .mapCheckpoint s = .next s) ∧
  (∀ (r : JRecord) (rs : List JRecord) (room : Nat),
    pageFill (r :: rs) room = if 32 + 16 * r.changes.length ≤ room then 1 + pageFill rs (room - (32 + 16 * r.changes.length)) else 0) ∧
  (∀ (s t : State) (id : Nat) (o : Op) (r : JRecord), s.journal.records = [r] → r.ops = [id] → lookup s.ops id = some o →
    t = { s with journal := { (addPages s.journal (packPages [r] unitBytes none)) with records := [] } } →
    programRecords s 1 = finishOk t id (durableResult t o)) ∧
  (∀ (s : State), s.glb.cz1200 = false → exec .lifeProjection s = .next ((List.range 16).foldl (fun t b =>
      if daysLeft (getBob t b) (dayOf s.trd.beat) < 180 && !(getBob t b).lifeLow then
        postEvent (modBob t b (fun x => { x with lifeLow := daysLeft (getBob t b) (dayOf s.trd.beat) < 180,
                                                 ctr := { x.ctr with life := daysLeft (getBob t b) (dayOf s.trd.beat) } })) 0x55 (b + daysLeft (getBob t b) (dayOf s.trd.beat) * 16)
      else modBob t b (fun x => { x with lifeLow := daysLeft (getBob t b) (dayOf s.trd.beat) < 180,
                                         ctr := { x.ctr with life := daysLeft (getBob t b) (dayOf s.trd.beat) } })) s)) ∧
  (∀ (op : Nat) (o : Op) (s t : State), Ready s op 0x6A 4 o → t = started s op 4 → (o.f 8 1 < nBobbins t ∨ o.f 8 1 = 0xFF) → o.f 9 1 ≤ 1 →
    o.f 16 8 % 64 = 0 → reportBytes t (o.f 8 1) (o.f 9 1) ≤ o.f 24 4 → Reaches t o [(o.f 16 8, reportBytes t (o.f 8 1) (o.f 9 1), true)] →
    exec (.flashReport op) s = .next (finishOk (writePartner t o.port (o.f 16 8) (flashReport t (o.f 8 1) (o.f 9 1))) op (reportBytes t (o.f 8 1) (o.f 9 1)))) ∧
  (∀ (op : Nat) (o : Op) (s t : State), Ready s op 0x6A 4 o → t = started s op 4 → (o.f 8 1 < nBobbins t ∨ o.f 8 1 = 0xFF) → o.f 9 1 ≤ 1 →
    o.f 16 8 % 64 = 0 → o.f 24 4 < reportBytes t (o.f 8 1) (o.f 9 1) → exec (.flashReport op) s = .next (fail t op stBounds 24))

/-- DST_UNLOCK, the DST command sequence and the core path of the distaff (16 R329-R338, R341). It rests on choices of the model: log entries 2 and
33. -/
def Obligations.DistaffPath : Prop :=
  (∀ (who : Requester) (s : State), mayWrite s who → s.dst.keyLocked = false → s.dst.seq = .idle →
    exec (.dstUnlock who 0x4C9E2A17) s = .next { s with dst := { s.dst with seq := .halfKey } }) ∧
  (∀ (who : Requester) (s : State), mayWrite s who → s.dst.keyLocked = false → s.dst.seq = .halfKey →
    exec (.dstUnlock who 0xB361D5E8) s = .next { s with dst := { s.dst with seq := .unlocked, keyFails := 0 } }) ∧
  (∀ (who : Requester) (v : Word) (s : State), mayWrite s who → s.dst.keyLocked = false →
    ((s.dst.seq = .idle ∧ v ≠ 0x4C9E2A17) ∨ (s.dst.seq = .halfKey ∧ v ≠ 0xB361D5E8)) → exec (.dstUnlock who v) s = .next { s with dst := { s.dst with
      seq := .idle, keyFails := s.dst.keyFails + 1,
      keyLocked := decide (s.dst.keyFails + 1 ≥ 8), stat := { s.dst.stat with err := 0x70 } } }) ∧
  (∀ (who : Requester) (v : Word) (s u : State), mayWrite s who → s.dst.seq = .cmd 0x03 → u = { s with dst := { s.dst with addr := addrField v } } →
    dstMay u (addrField v) false = true → bankBusy u (bankOf (addrField v / 32)) = false → inSuspended u (addrField v / 32) = false →
    (getWord u (addrField v / 32)).st = .good → exec (.distaffRead who v) s = .next { u with dst := { u.dst with
      seq := .idle, data := (getWord u (addrField v / 32)).data,
      stat := { u.dst.stat with done := true, op := 3 } } }) ∧
  (∀ (who : Requester) (v : Word) (s u : State), mayWrite s who → s.dst.seq = .cmd 0x03 → u = { s with dst := { s.dst with addr := addrField v } } →
    dstMay u (addrField v) false = false →
    exec (.distaffRead who v) s = .next { u with dst := { u.dst with seq := .idle, stat := { u.dst.stat with err := 0x72 } } }) ∧
  (∀ (who : Requester) (v : Word) (s u : State), mayWrite s who → s.dst.seq = .data 7 → u = endSeq { s with dst := putData s.dst 7 v } →
    dstMay u s.dst.addr true = true → s.dst.current = none → (getWord u (s.dst.addr / 32)).written = false →
    exec (.distaffProgram (.dst who v)) s = .next { u with dst := { u.dst with
      stat := { u.dst.stat with op := 1 },
      current := some { erase := false, byDst := true, target := s.dst.addr / 32, data := u.dst.data, suspended := false, verified := false } } }) ∧
  (∀ (c : Fin 6) (a : Nat) (data : List Byte) (xb : Option (Fin 2)) (s : State), a % 32 = 0 → a < 0x4000000 → data.length = 32 → bankSelf xb a = false →
    s.dst.current = none → (getWord s (a / 32)).written = false → exec (.distaffProgram (.core c a data xb)) s = .next { s with dst := { s.dst with
      fstat := { s.dst.fstat with op := 1 },
      current := some { erase := false, byDst := false, target := a / 32, data := BitVec.ofNat 256 (leNat data), suspended := false, verified := false } } }) ∧
  (∀ (c : Fin 6) (a : Nat) (data : List Byte) (xb : Option (Fin 2)) (s : State), a % 32 = 0 → a < 0x4000000 → data.length = 32 → bankSelf xb a = false →
    s.dst.current = none → (getWord s (a / 32)).written = true →
    exec (.distaffProgram (.core c a data xb)) s = .next { s with dst := { s.dst with fstat := { s.dst.fstat with err := 0x61 } } }) ∧
  (∀ (who : Requester) (v : Word) (s u : State), mayWrite s who → s.dst.seq = .cmd 0x30 →
    u = endSeq { s with dst := { s.dst with addr := addrField v } } → dstMay u (addrField v) true = true → s.dst.current = none →
    exec (.distaffErase (.dst who v)) s = .next { u with dst := { u.dst with
      stat := { u.dst.stat with op := 2 }, pulses := 0, suspends := 0,
      current := some { erase := true, byDst := true, target := addrField v / 32, data := 0, suspended := false, verified := false } } }) ∧
  (∀ (c : Fin 6) (a : Nat) (data : List Byte) (xb : Option (Fin 2)) (s : State), a < 0x4000000 → bankSelf xb a = false → s.dst.current = none →
    exec (.distaffErase (.core c a data xb)) s = .next { s with dst := { s.dst with
      fstat := { s.dst.fstat with op := 2 }, pulses := 0, suspends := 0,
      current := some { erase := true, byDst := false, target := a / 32, data := 0, suspended := false, verified := false } } }) ∧
  (∀ (c : Fin 6) (a : Nat) (data : List Byte) (xb : Option (Fin 2)) (s : State), bankSelf xb a = true →
    exec (.distaffErase (.core c a data xb)) s = .next { s with dst := { s.dst with fstat := { s.dst.fstat with err := 0x60 } } }) ∧
  (∀ (who : Requester) (v : Word) (s : State) (e : DistaffOp), mayWrite s who → v.toNat % 256 = 0xB0 → s.dst.keyLocked = false → s.dst.seq = .unlocked →
    s.dst.current = some e → e.erase = true → e.suspended = false → e.verified = false → s.dst.wdogPending = none →
    exec (.distaffSuspend (.dst who v)) s = .next { s with dst := { s.dst with
      seq := .idle, current := some { e with suspended := true },
      suspends := min (s.dst.suspends + 1) 0xFFFF } }) ∧
  (∀ (c : Fin 6) (a : Nat) (data : List Byte) (xb : Option (Fin 2)) (s : State) (e : DistaffOp), s.dst.current = some e → e.erase = true →
    bankOf (a % 0x4000000 / 32) = bankOf e.target → e.suspended = false → e.verified = false → s.dst.wdogPending = none →
    exec (.distaffSuspend (.core c a data xb)) s = .next { s with dst := { s.dst with
      current := some { e with suspended := true },
      suspends := min (s.dst.suspends + 1) 0xFFFF } }) ∧
  (∀ (who : Requester) (v : Word) (s : State) (e : DistaffOp), mayWrite s who → v.toNat % 256 = 0xD0 → s.dst.keyLocked = false → s.dst.seq = .unlocked →
    s.dst.current = some e → e.erase = true →
    exec (.distaffResume (.dst who v)) s = .next { s with dst := { s.dst with seq := .idle, current := some { e with suspended := false } } }) ∧
  (∀ (c : Fin 6) (a : Nat) (data : List Byte) (xb : Option (Fin 2)) (s : State) (e : DistaffOp), s.dst.current = some e → e.erase = true →
    bankOf (a % 0x4000000 / 32) = bankOf e.target →
    exec (.distaffResume (.core c a data xb)) s = .next { s with dst := { s.dst with current := some { e with suspended := false } } }) ∧
  (∀ (s : State) (e : DistaffOp), s.dst.current = some e → e.erase = true → e.suspended = false → e.verified = false →
    exec (.erasePulse false) s = .next { s with dst := { s.dst with pulses := min (s.dst.pulses + 1) 0xFFFF } }) ∧
  (∀ (s t u : State) (e : DistaffOp), s.dst.current = some e → e.erase = true → e.suspended = false → e.verified = false →
    t = { s with dst := { s.dst with pulses := min (s.dst.pulses + 1) 0xFFFF } } → u = eraseWords t (sectorOf e.target) →
    exec (.erasePulse true) s = .next { u with dst := { u.dst with current := some { e with verified := true } } }) ∧
  (∀ (s : State) (w : Nat), getWord (eraseWords s (sectorOf w)) w = { data := BitVec.allOnes 256, written := false, st := .good }) ∧
  (∀ (s u : State) (e : DistaffOp), s.dst.current = some e → e.erase = false → s.dst.wdogPending = none → e.byDst = true →
    u = putWord s e.target (programmed s e.target e.data) →
    exec .distaffOpEnd s = .next { u with dst := { u.dst with current := none, stat := { u.dst.stat with done := true } } }) ∧
  (∀ (s : State) (w : Nat) (data : BitVec 256), (getWord s w).st ≠ .indeterminate → programmed s w data = { data := data, written := true, st := .good }) ∧
  (∀ (s : State) (e : DistaffOp), s.dst.current = some e → e.erase = true → e.verified = true → s.dst.wdogPending = none → e.byDst = false →
    exec .distaffOpEnd s = .next { s with dst := { s.dst with current := none, fstat := { s.dst.fstat with done := true } } }) ∧
  (∀ (who : Requester) (v : Word) (s : State), mayWrite s who → exec (.dstStatWrite who v) s = .next { s with dst := { s.dst with
      stat := { s.dst.stat with
      done := s.dst.stat.done && !v.getLsbD 3, err := if v.getLsbD 8 then 0 else s.dst.stat.err } } })

/-- LEVEL_SET but for a device raise, SANITISE and the full erase (17 R343, R345-R347, R349, R350). It rests on choices of the model: log entries 2
and 34. -/
def Obligations.LevelsAndErase : Prop :=
  (∀ (op : Nat) (o : Op) (s t : State), Ready s op 0x76 4 o → t = started s op 4 → o.f 8 1 ≠ 1 → s.sec.erase = none → Clear (levelFields o) →
    o.f 9 1 = level t → exec (.levelSetDevice op) s = .next (finishOk t op 0)) ∧
  (∀ (op : Nat) (o : Op) (s t : State), Ready s op 0x76 4 o → t = started s op 4 → o.f 8 1 ≠ 1 → s.sec.erase = none → Clear (levelFields o) →
    level t = 1 → o.f 9 1 = 0 → exec (.levelSetDevice op) s = .next (abortJobs { t with sec := { t.sec with
      erase := some { op := some op, lowering := true, step := 0, dies := 0, resumed := false } } } (keys t.jobs))) ∧
  (∀ (op : Nat) (o : Op) (s t : State), Ready s op 0x76 4 o → t = started s op 4 → o.f 8 1 ≠ 1 → s.sec.erase = none → Clear (levelFields o) →
    level t = 2 → o.f 9 1 < 2 → exec (.levelSetDevice op) s = .next (fail t op stLocked 0)) ∧
  (∀ (op : Nat) (o : Op) (s t : State) (st : Store), Ready s op 0x76 2 o → t = started s op 2 → o.f 8 1 = 1 → Clear (levelFields o) →
    lookup t.stores (o.f 10 2) = some st → deletedAhead t (o.f 10 2) op = false → st.level ≤ o.f 9 1 →
    exec (.levelSetStore op) s = .next (finishOk (modStore t (o.f 10 2) (fun x => { x with level := o.f 9 1 })) op 0)) ∧
  (∀ (op : Nat) (o : Op) (s t : State) (st : Store), Ready s op 0x76 2 o → t = started s op 2 → o.f 8 1 = 1 → Clear (levelFields o) →
    lookup t.stores (o.f 10 2) = some st → deletedAhead t (o.f 10 2) op = false → st.level = 1 → o.f 9 1 = 0 → st.index = none →
    storeLocked t (o.f 10 2) = false → busyAhead t (o.f 10 2) op = true → exec (.levelSetStore op) s = .next t) ∧
  (∀ (op : Nat) (o : Op) (s t u : State) (st : Store), Ready s op 0x76 2 o → t = started s op 2 → o.f 8 1 = 1 → Clear (levelFields o) →
    lookup t.stores (o.f 10 2) = some st → deletedAhead t (o.f 10 2) op = false → st.level = 1 → o.f 9 1 = 0 → st.index = none →
    storeLocked t (o.f 10 2) = false → busyAhead t (o.f 10 2) op = false →
    u = { t with sec := { t.sec with keys := t.sec.keys.filter (fun k => !(k.kind = 1 && k.store = o.f 10 2)) } } →
    exec (.levelSetStore op) s = .next (finishOk (modStore (bindKey u (o.f 10 2) st.slice 0).2 (o.f 10 2)
      (fun x => { x with key := (bindKey u (o.f 10 2) st.slice 0).1, level := 0, grants := [], map := [] })) op 0)) ∧
  (∀ (op : Nat) (o : Op) (s t : State), Ready s op 0x78 4 o → t = started s op 4 → o.f 8 4 = 0x53414E00 → s.sec.erase = none →
    exec (.sanitise op) s = .next (abortJobs { t with sec := { t.sec with
      erase := some { op := some op, lowering := false, step := 0, dies := 0, resumed := false } } } (keys t.jobs))) ∧
  (∀ (op : Nat) (o : Op) (s t : State) (e : Erase), Ready s op 0x78 4 o → t = started s op 4 → o.f 8 4 = 0x53414E00 → s.sec.erase = some e →
    e.op ≠ some op → exec (.sanitise op) s = .next (fail t op stLocked 0)) ∧
  (∀ (op : Nat) (o : Op) (s t : State) (st : Store), Ready s op 0x76 2 o → t = started s op 2 → o.f 8 1 = 1 → Clear (levelFields o) →
    lookup t.stores (o.f 10 2) = some st → deletedAhead t (o.f 10 2) op = false → st.level ≤ o.f 9 1 →
    ∃ v, exec (.levelSetStore op) s = .next v ∧ lookup v.stores (o.f 10 2) = some { st with level := o.f 9 1 }) ∧
  (∀ (op : Nat) (o : Op) (s t : State), Ready s op 0x78 4 o → t = started s op 4 → o.f 8 4 = 0x53414E00 → s.sec.erase = none →
    ∃ v, exec (.sanitise op) s = .next v ∧ v.sec.erase = some { op := some op, lowering := false, step := 0, dies := 0, resumed := false }) ∧
  (∀ (op : Nat) (o : Op) (s t : State), Ready s op 0x78 4 o → t = started s op 4 → o.f 8 4 ≠ 0x53414E00 →
    exec (.sanitise op) s = .next (fail t op stBadDescriptor 8)) ∧
  (∀ (s : State) (e : Erase), s.sec.erase = some e → s.dst.current = none → e.step = 4 →
    ∃ v, exec .sanitiseErase s = .next v ∧ v.sec.erase = none ∧ v.slices = [] ∧ v.stores = [] ∧ v.skeins = [] ∧ v.drafts = []) ∧
  (∀ (s u : State) (e : Erase), s.sec.erase = some e → s.dst.current = none → e.step = 0 → quietFor s e = true →
    u = addRecord s 4 (b2n (!e.lowering)) 0 (leBytes 4 s.sec.srkGen) → exec .sanitiseErase s = .next { u with sec := { u.sec with
      keys := u.sec.keys.filter (fun k => k.kind = 2), sanKind := !e.lowering, erase := u.sec.erase.map (fun e => { e with step := 1 }) } }) ∧
  (∀ (s : State) (e : Erase), s.sec.erase = some e → s.dst.current = none → e.step = 0 → quietFor s e = false → exec .sanitiseErase s = .next s) ∧
  (∀ (s u : State) (e : Erase), s.sec.erase = some e → s.dst.current = none → e.step = 1 → u = eraseWords s 0x381 →
    exec .sanitiseErase s = .next { u with sec := { u.sec with keys := [], erase := u.sec.erase.map (fun e => { e with step := 2 }) } }) ∧
  (∀ (s u : State) (e : Erase), s.sec.erase = some e → s.dst.current = none → e.step = 2 →
    u = ((List.range 16).map (0x3A0 + ·) ++ (List.range 9).map (0x382 + ·)).foldl eraseWords s →
    exec .sanitiseErase s = .next { u with sec := { u.sec with erase := u.sec.erase.map (fun e => { e with step := 3 }) } }) ∧
  (∀ (s u : State) (e : Erase) (ds : List Nat), s.sec.erase = some e → s.dst.current = none → e.step = 3 →
    ds = (List.range 8).filterMap (fun k => if e.dies + k < nDies s then some (e.dies + k) else none) →
    u = ds.foldl (fun s i => addRecord (eraseDie s i) 5 3 0 (leBytes 2 i)) s → exec .sanitiseErase s = .next { u with sec := { u.sec with
      erase := u.sec.erase.map (fun x => { x with dies := x.dies + ds.length, step := if x.dies + ds.length ≥ nDies u then 4 else 3 }) } }) ∧
  (∀ (s u : State) (e : Erase) (op : Nat), s.sec.erase = some e → s.dst.current = none → e.step = 4 → e.op = some op →
    u = renewRoot (emptyDevice s) e.lowering →
    exec .sanitiseErase s = .next (finishOk (endHold (closeErase (addRecord (if e.lowering then addRecord u 3 0 0 [] else u) 6 0 0 []) e)) op 0)) ∧
  (∀ (s : State), (emptyDevice s).slices = [] ∧ (emptyDevice s).stores = [] ∧ (emptyDevice s).skeins = [] ∧ (emptyDevice s).drafts = [] ∧
      (emptyDevice s).card.indexes = [] ∧ (emptyDevice s).strand.eps = [] ∧ (emptyDevice s).journal.records = [])

/-- FW_STAGE, FW_COMMIT, LOG_COPY and KEY_IMPORT (17 R353, R357-R362; 18 R379). It rests on choices of the model: log entries 10, 11 and 34. -/
def Obligations.FirmwareAndKeys : Prop :=
  (∀ (op : Nat) (o : Op) (s t u : State), Ready s op 0x74 4 o → t = started s op 4 → o.f 20 4 % 32 = 0 → o.f 20 4 ≤ 1048576 → o.f 16 4 = 0 →
    Reaches t o [(o.f 8 8, o.f 20 4, false)] → s.dst.current = none → u = addRecord t 2 (otherSlot t) 0 [] →
    exec (.fwStage op) s = .next (finishOk { stageBytes u 0 (readPartner u o.port (o.f 8 8) (o.f 20 4)) with
      sec := { (stageBytes u 0 (readPartner u o.port (o.f 8 8) (o.f 20 4))).sec with staging := some { bytes := o.f 20 4 } } } op 0)) ∧
  (∀ (op : Nat) (o : Op) (s t u : State) (g : Staging), Ready s op 0x74 4 o → t = started s op 4 → o.f 20 4 % 32 = 0 → o.f 20 4 ≤ 1048576 →
    o.f 16 4 ≠ 0 → s.sec.staging = some g → o.f 16 4 = g.bytes → g.bytes + o.f 20 4 ≤ 0x1800000 → Reaches t o [(o.f 8 8, o.f 20 4, false)] →
    s.dst.current = none → u = stageBytes t (o.f 16 4) (readPartner t o.port (o.f 8 8) (o.f 20 4)) →
    exec (.fwStage op) s = .next (finishOk { u with sec := { u.sec with staging := some { bytes := g.bytes + o.f 20 4 } } } op 0)) ∧
  (∀ (op : Nat) (o : Op) (s t : State) (g : Staging), Ready s op 0x74 4 o → t = started s op 4 → o.f 20 4 % 32 = 0 → o.f 20 4 ≤ 1048576 → o.f 16 4 ≠ 0 →
    s.sec.staging = some g → o.f 16 4 ≠ g.bytes → exec (.fwStage op) s = .next (fail t op stBounds 16)) ∧
  (∀ (op : Nat) (o : Op) (s t u : State) (g : Staging) (h : List Byte), Ready s op 0x75 4 o → t = started s op 4 → s.sec.staging = some g →
    h = imageHeader t (otherSlot t) → 4096 + imageSize h ≤ g.bytes → headerFault h = none → s.sec.counter ≤ field h 12 1 → s.dst.current = none →
    u = addRecord (compactCommits t) 1 (otherSlot t) (field h 12 1) (cut h 64 16) →
    exec (.fwCommit op) s = .next (if imageGenuine t (otherSlot t) h = true then
      finishOk { u with sec := { u.sec with staging := none } } op (nextCommitSeq (compactCommits t)) else fail t op stDenied 0)) ∧
  (∀ (op : Nat) (o : Op) (s t : State), Ready s op 0x75 4 o → t = started s op 4 → s.sec.staging = none →
    exec (.fwCommit op) s = .next (fail t op stSlotIncomplete 0)) ∧
  (∀ (s u : State) (e : LogEntry), (s.ras.log.filter (fun e => !e.copied)).getLast? = some e → s.dst.current = none → coresRun s ≠ 0 →
    u = copyEntry s e → exec .logCopy s = .next { u with ras := { u.ras with
      log := u.ras.log.map (fun k => if k.seq = e.seq then { k with copied := true } else k) } }) ∧
  (∀ (s : State), (∀ e ∈ s.ras.log, e.copied = true) → exec .logCopy s = .next s) ∧
  (∀ (op : Nat) (o : Op) (s t : State) (x : Slice), Ready s op 0x79 4 o → t = started s op 4 → o.f 9 1 = 0 → o.f 16 8 % 64 = 0 →
    Reaches t o [(o.f 16 8, 1664, false)] → lookup t.slices (o.f 8 1) = some x → (t.sec.keys.filter (fun k => k.kind = 2)).length < 1024 →
    exec (.keyImport op) s = .next ((importedKey t (o.f 8 1) x (readPartner t o.port (o.f 16 8) 1664)).elim (fail t op stDenied 1568)
      (fun key => if key.take 32 = key.drop 32 then fail t op stBounds 1568 else
        finishOk { t with sec := { t.sec with
          nextHandle := t.sec.nextHandle + 1,
          keys := t.sec.keys ++ [{ kind := 2, slice := o.f 8 1, store := 0xFFFF, handle := t.sec.nextHandle, gen := t.sec.srkGen, secret := key }] } }
          op (t.sec.nextHandle % 2 ^ 32)))) ∧
  (∀ (op : Nat) (o : Op) (s t : State), Ready s op 0x79 4 o → t = started s op 4 → o.f 9 1 = 0 → o.f 16 8 % 64 = 0 →
    Reaches t o [(o.f 16 8, 1664, false)] → lookup t.slices (o.f 8 1) = none → exec (.keyImport op) s = .next (fail t op stBounds 8))

/-- ATTEST (17 R363): without its slice, with too little room, and with its report, which is made of the state of the command's step. -/
def Obligations.AttestReports : Prop :=
  (∀ (op : Nat) (o : Op) (s t : State) (x : Slice), Ready s op 0x7A 4 o → t = started s op 4 → o.f 48 8 % 64 = 0 → lookup t.slices (o.f 8 1) = some x →
    reportSize t (o.f 8 1) ≤ o.f 56 4 → Reaches t o [(o.f 48 8, reportSize t (o.f 8 1), true)] →
    exec (.attest op) s = .next (finishOk (writePartner t o.port (o.f 48 8) (attestReport t (o.f 8 1) x (cut o.bytes 16 32))) op (reportSize t (o.f 8 1)))) ∧
  (∀ (op : Nat) (o : Op) (s t : State) (x : Slice), Ready s op 0x7A 4 o → t = started s op 4 → o.f 48 8 % 64 = 0 → lookup t.slices (o.f 8 1) = some x →
    o.f 56 4 < reportSize t (o.f 8 1) → exec (.attest op) s = .next (finish t op stBounds 56 (reportSize t (o.f 8 1)))) ∧
  (∀ (op : Nat) (o : Op) (s t : State), Ready s op 0x7A 4 o → t = started s op 4 → o.f 48 8 % 64 = 0 → lookup t.slices (o.f 8 1) = none →
    exec (.attest op) s = .next (fail t op stBounds 8)) ∧
  (∀ (s : State) (q : Nat),
    reportSize s q = (1792 + 64 * (s.skeins.filter (fun k => k.2.slice = q)).length + 64 * (s.drafts.filter (fun d => d.2.slice = q)).length) + 1540) ∧
  (∀ (s : State) (q : Nat) (x : Slice) (nonce : List Byte), ((attestReport s q x nonce).drop 16).take 8 = leBytes 8 s.trd.beat)

/-- LEVEL_SET of the device to a higher level (17 R344): in the command's step, before its completion, the record is written, at level 2 with the fuse
blown, and a debug session is cut off. -/
def Obligations.DeviceRaise : Prop :=
  (∀ (op : Nat) (o : Op) (s t u : State), Ready s op 0x76 4 o → t = started s op 4 → o.f 8 1 ≠ 1 → s.sec.erase = none → Clear (levelFields o) →
    level t < o.f 9 1 → t.dst.current = none →
    u = { t with sec := { t.sec with levelRec := o.f 9 1, fused2 := t.sec.fused2 || decide (o.f 9 1 = 2), jtagSession := false } } →
    exec (.levelSetDevice op) s = .next (finishOk (addRecord u 3 (o.f 9 1) 0 []) op 0)) ∧
  (∀ (s : State) (n : Nat), level s < n → n ≤ 2 → level { s with sec := { s.sec with levelRec := n, fused2 := s.sec.fused2 || decide (n = 2) } } = n)

/-- WARM_RESET, WATCHDOG_EXPIRY, CONTROL_CORE_FAULT and the resets they bring (16 R340; 18 R373; 19 R389). It rests on choices of the model: log
entries 6, 33 and 35. -/
def Obligations.ResetsOfFirmware : Prop :=
  (∀ (op : Nat) (o : Op) (s t : State), Ready s op 0x71 4 o → t = started s op 4 → o.f 8 4 = 0x57525354 →
    exec (.warmReset op) s = .next (warmReset { t with ops := removeKey t.ops op } 3)) ∧
  (∀ (op : Nat) (o : Op) (s t : State), Ready s op 0x71 4 o → t = started s op 4 → o.f 8 4 ≠ 0x57525354 →
    exec (.warmReset op) s = .next (fail t op stBadDescriptor 8)) ∧
  (∀ (s : State) (why : Nat), (warmReset s why).pwr.lastReset = why ∧ (warmReset s why).dst.current = none ∧ (warmReset s why).dst.wdogPending = none ∧
      (warmReset s why).selfTest = none ∧ (warmReset s why).jobs = [] ∧ (warmReset s why).sec.staging = none ∧ (warmReset s why).dst.addr = s.dst.addr ∧
      (warmReset s why).stores = s.stores ∧ (warmReset s why).pending = s.pending) ∧
  (∀ (s u : State), s.dst.wdogPending = none → coresRun s ≠ 0 → s.dst.current = none → u = logRas s 1 5 0 0 0 →
    exec .watchdogExpiry s = .next (warmReset { u with ras := { u.ras with coreFault := some (7, 3) } } 4)) ∧
  (∀ (s u : State) (e : DistaffOp), s.dst.wdogPending = none → coresRun s ≠ 0 → s.dst.current = some e → e.suspended = false → u = logRas s 1 5 0 0 0 →
    exec .watchdogExpiry s = .next { u with
      ras := { u.ras with coreFault := some (7, 3) },
      dst := { u.dst with wdogKind := if e.erase then 2 else 1, wdogDefer := 0, wdogSector := sectorOf e.target, wdogPending := some u.clock } }) ∧
  (∀ (s u : State) (e : DistaffOp), s.dst.wdogPending = none → coresRun s ≠ 0 → s.dst.current = some e → e.erase = true → e.suspended = true →
    u = logRas s 1 5 0 0 0 → exec .watchdogExpiry s = .next (warmReset { u with
      ras := { u.ras with coreFault := some (7, 3) },
      dst := { u.dst with wdogKind := 3, wdogDefer := 0, wdogSector := sectorOf e.target, wdogPending := none } } 4)) ∧
  (∀ (s t : State) (at_ : Nat), t = endDistaff s → t.dst.wdogPending = some at_ → t.dst.current = none →
    exec .distaffOpEnd s = .next (warmReset { t with dst := { t.dst with wdogDefer := min (t.clock - at_) 0xFFFFF } } (faultReset t))) ∧
  (∀ (core : Fin 6) (kind : Fin 3) (s u : State), s.dst.wdogPending = none → 4 ≤ s.glb.stage → s.ras.faultyCores.contains core.val = false →
    s.ras.mapCore.any (fun e => e.phys = core.val) = true → s.dst.current = none → u = logRas s 1 1 core.val 0 0 →
    exec (.controlCoreFault core kind) s = .next (warmReset { u with ras := { u.ras with
      faultyCores := u.ras.faultyCores ++ [core.val], coreFault := some (core.val, kind.val),
      mapCore := u.ras.mapCore.map (fun e => if e.phys = core.val then { e with st := 2 } else e) } } 5))

/-- COMPUTE_FAULT, RESUME_COMPUTE, CORRECTED_ERROR and REG_PHASE_FAILURE (18 R368, R370-R372, R380). It rests on choices of the model: log entries 2,
35 and 37. -/
def Obligations.ComputeHalt : Prop :=
  (∀ (c : FaultSite) (s u : State), s.ras.halted = false → s.glb.stage ≠ 0 → c.phys.any (fun p => (logicalOf s p.val).isNone) = false →
    u = logRas (failSpindle (cutFolds s) c) (if c.kind.val = 5 then 7 else 0) 1 (faultSpindle c) 0 (Config.bankAddr c.kind.val c.row c.column) →
    exec (.computeFault c) s = .next (noteAlert (recordWaiting (loseWork (postEvent { u with
      ras := { u.ras with halted := true, faultSpn := faultSpindle c, faultKind := c.kind.val } } 0x01 (faultSpindle c + c.kind.val * 64)))))) ∧
  (∀ (s : State) (js : List Nat), js = (s.jobs.filter (fun j => j.2.place.isSome)).map Prod.fst →
    loseWork s = (ascending (js ++ rerankingQueries s)).foldl (fun s id => if js.contains id then endJob s id stLost 0 0 else haltQuery s id) s) ∧
  (∀ (c : FaultSite) (s : State), s.ras.halted = true → exec (.computeFault c) s = .next s) ∧
  (∀ (op : Nat) (fs : List (Fin 52)) (o : Op) (s t u : State), Ready s op 0x6D 4 o → t = started s op 4 → s.ras.halted = true → s.ras.resuming = false →
    unchosen t = none → bit (o.f 8 1) 0 = false → u = clearFaults (scrubAll (t.ras.choices.foldl (fun s c => applyChoice s c.1 c.2) t)) →
    exec (.resumeCompute op fs) s = .next (finishOk (postEvent (noteAlert { u with ras := { u.ras with halted := false, choices := [] } }) 0x02
      (s.ras.choices.length % 256)) op s.ras.choices.length)) ∧
  (∀ (op : Nat) (fs : List (Fin 52)) (o : Op) (s t : State), Ready s op 0x6D 4 o → t = started s op 4 → s.ras.halted = false →
    exec (.resumeCompute op fs) s = .next (fail t op stBounds 0)) ∧
  (∀ (op p : Nat) (fs : List (Fin 52)) (o : Op) (s t : State), Ready s op 0x6D 4 o → t = started s op 4 → s.ras.halted = true → s.ras.resuming = false →
    unchosen t = some p → exec (.resumeCompute op fs) s = .next (fail t op stBounds (0x100 + p))) ∧
  (∀ (op l p : Nat) (fs : List (Fin 52)) (o : Op) (s t : State), Ready s op 0x6D 4 o → t = started s op 4 → s.ras.halted = true →
    s.ras.resuming = false → unchosen t = none → bit (o.f 8 1) 0 = true → testFailure t fs = some (l, p) →
    exec (.resumeCompute op fs) s = .next (fail { t with ras := { t.ras with choices := removeKey t.ras.choices l } } op stBounds (0x200 + p))) ∧
  (∀ (src : Fin 11) (idx n : Nat) (bank : Bool) (addr : Nat) (s u : State), isElement s src.val idx = true → s.glb.stage ≠ 0 →
    u = countCorrected (logRas s src.val 0 idx (if src.val = 5 then 0xFFFF else 0) addr) src.val idx bank → u.ras.minute = minuteNow u →
    n = readD 0 u.ras.ceMinute (src.val * 1024 + idx) + 1 → n ≤ u.ras.ceThresh →
    exec (.correctedError src idx bank addr) s = .next { u with ras := { u.ras with ceMinute := insertKey u.ras.ceMinute (src.val * 1024 + idx) n } }) ∧
  (∀ (src : Fin 11) (idx n : Nat) (bank : Bool) (addr : Nat) (s u : State), isElement s src.val idx = true → s.glb.stage ≠ 0 →
    u = countCorrected (logRas s src.val 0 idx (if src.val = 5 then 0xFFFF else 0) addr) src.val idx bank → u.ras.minute = minuteNow u →
    n = readD 0 u.ras.ceMinute (src.val * 1024 + idx) + 1 → u.ras.ceThresh < n → u.ras.cePosted.contains (src.val * 1024 + idx) = false →
    exec (.correctedError src idx bank addr) s = .next (postEvent { u with ras := { u.ras with
      ceMinute := insertKey u.ras.ceMinute (src.val * 1024 + idx) n, cePosted := u.ras.cePosted ++ [src.val * 1024 + idx] } } 0x04
      (src.val + idx % 256 * 16 + min n 0xFFFF * 4096))) ∧
  (∀ (rail ph : Fin 16) (s u : State), ph.val ≤ railN rail.val + 1 → (getRail s rail.val).failed.contains ph.val = false →
    (getRail s rail.val).out.getLsbD ph.val = false →
    u = logRas (noteAlert (modRail s rail.val (fun x => { x with failed := x.failed ++ [ph.val] }))) 6 1 rail.val 0 ph.val →
    exec (.regPhaseFailure rail ph) s = .next (postEvent u 0x05 (rail.val + ph.val * 16 + workingPhases u rail.val % 16 * 256))) ∧
  (∀ (rail ph : Fin 16) (s : State), ph.val ≤ railN rail.val + 1 → (getRail s rail.val).failed.contains ph.val = true →
    (getRail s rail.val).out.getLsbD ph.val = false → exec (.regPhaseFailure rail ph) s = .next (logRas s 6 1 rail.val 0 ph.val)) ∧
  (∀ (rail ph : Fin 16) (s : State), (getRail s rail.val).out.getLsbD ph.val = true → exec (.regPhaseFailure rail ph) s = .next s)

/-- REPAIR of every KIND, and the end of a copy (18 R374, R375; 02 R18; 11 R227; 13 R282). It rests on choices of the model: log entries 4, 35 and 36.
-/
def Obligations.Repairs : Prop :=
  (∀ (op l d : Nat) (o : Op) (s t : State), Ready s op 0x6C 4 o → t = started s op 4 → o.f 8 1 = 0 → s.sec.erase = none → o.f 9 1 = 0 → o.f 12 4 = l →
    o.f 16 4 = d → lookup t.ras.pendingRepairs op = none → l < 48 → spindleBusy t l = false → spareFor t l d = true → t.ras.halted = false →
    stepsOn t l = false → exec (.repairSpindleSpare op) s = .next (completeSpindleRepair t op l d)) ∧
  (∀ (op l d : Nat) (s u : State), u = swapSpindle s l d →
    completeSpindleRepair s op l d = finishOk { u with ras := { u.ras with pendingRepairs := removeKey u.ras.pendingRepairs op } } op (spnWord u l)) ∧
  (∀ (l d p : Nat) (s : State), (mapEntryAt s.ras.mapSpn l).phys = p → p ≠ d → (getSpn (swapSpindle s l d) d).ctx = (getSpn s p).ctx ∧
      (getSpn (swapSpindle s l d) d).rank = (getSpn s p).rank ∧ (getSpn (swapSpindle s l d) p).rank = none) ∧
  (∀ (op l d : Nat) (o : Op) (s t : State), Ready s op 0x6C 4 o → t = started s op 4 → o.f 8 1 = 0 → s.sec.erase = none → o.f 9 1 = 0 → o.f 12 4 = l →
    o.f 16 4 = d → lookup t.ras.pendingRepairs op = none → l < 48 → spindleBusy t l = false → spareFor t l d = true → t.ras.halted = false →
    stepsOn t l = true →
    exec (.repairSpindleSpare op) s = .next { t with ras := { t.ras with pendingRepairs := insertKey t.ras.pendingRepairs op (l, d) } }) ∧
  (∀ (op l d : Nat) (o : Op) (s t : State), Ready s op 0x6C 4 o → t = started s op 4 → o.f 8 1 = 0 → s.sec.erase = none → o.f 9 1 = 0 → o.f 12 4 = l →
    o.f 16 4 = d → (lookup t.ras.pendingRepairs op).isSome = true → stepsOn t l = false →
    exec (.repairSpindleSpare op) s = .next (completeSpindleRepair t op l d)) ∧
  (∀ (op l d : Nat) (o : Op) (s t u : State), Ready s op 0x6C 4 o → t = started s op 4 → o.f 8 1 = 0 → s.sec.erase = none → o.f 9 1 = 0 → o.f 12 4 = l →
    o.f 16 4 = d → lookup t.ras.pendingRepairs op = none → l < 48 → spindleBusy t l = false → spareFor t l d = true → t.ras.halted = true →
    u = { t with ras := { t.ras with choices := insertKey t.ras.choices l (some d) } } →
    exec (.repairSpindleSpare op) s = .next (finishOk u op (spnWord u l + 2 ^ 32))) ∧
  (∀ (op l d : Nat) (o : Op) (s t : State), Ready s op 0x6C 4 o → t = started s op 4 → o.f 8 1 = 0 → s.sec.erase = none → o.f 9 1 = 0 → o.f 12 4 = l →
    o.f 16 4 = d → lookup t.ras.pendingRepairs op = none → l < 48 → spindleBusy t l = false → spareFor t l d = false →
    exec (.repairSpindleSpare op) s = .next (fail t op stBounds 16)) ∧
  (∀ (op l p : Nat) (o : Op) (s t u : State), Ready s op 0x6C 4 o → t = started s op 4 → o.f 8 1 = 0 → s.sec.erase = none → o.f 9 1 = 1 → o.f 12 4 = l →
    l < 48 → spindleBusy t l = false → t.ras.halted = true → physOf t l = some p → (getSpn t p).failed = true →
    u = { t with ras := { t.ras with choices := insertKey t.ras.choices l none } } →
    exec (.repairSpindleReinstate op) s = .next (finishOk u op (spnWord u l + 2 ^ 32))) ∧
  (∀ (op l : Nat) (o : Op) (s t u : State), Ready s op 0x6C 4 o → t = started s op 4 → o.f 8 1 = 0 → s.sec.erase = none → o.f 9 1 = 2 → o.f 12 4 = l →
    l < 48 → spindleBusy t l = false → (t.ras.halted = false → usesSpindle t l = false) →
    u = setSpnMap { t with ras := { t.ras with choices := removeKey t.ras.choices l } } l { mapEntryAt t.ras.mapSpn l with st := 2 } →
    exec (.repairSpindleWithdraw op) s = .next (finishOk u op (spnWord u l))) ∧
  (∀ (op c d : Nat) (o : Op) (s t u : State), Ready s op 0x6C 4 o → t = started s op 4 → o.f 8 1 = 1 → s.sec.erase = none → o.f 12 4 = c →
    o.f 16 4 = d → c < 4 → d < 6 → t.ras.mapCore.any (fun e => e.phys = d) = false → t.ras.faultyCores.contains d = false →
    u = noteAlert { t with ras := { t.ras with mapCore := t.ras.mapCore.set c { phys := d, st := 1, pend := 0x7F } } } →
    exec (.repairCore op) s = .next (finishOk (logRas u 1 4 d 0 0) op (coreWord u c))) ∧
  (∀ (op l d : Nat) (o : Op) (s t : State), Ready s op 0x6C 4 o → t = started s op 4 → o.f 8 1 = 2 → s.sec.erase = none → o.f 12 4 = l → o.f 16 4 = d →
    o.phase = .fetched → lookup t.ras.pendingRepairs op = none → l < 96 → repairOpen t op o = false → laneServes t l d = true →
    draftStepOn t l = false → exec (.repairStrandLane op) s = .next (mapLane t op l d)) ∧
  (∀ (op l d : Nat) (o : Op) (s t : State), Ready s op 0x6C 4 o → t = started s op 4 → o.f 8 1 = 2 → s.sec.erase = none → o.f 12 4 = l → o.f 16 4 = d →
    o.phase = .fetched → lookup t.ras.pendingRepairs op = none → l < 96 → repairOpen t op o = false → laneServes t l d = true →
    draftStepOn t l = true →
    exec (.repairStrandLane op) s = .next { t with ras := { t.ras with pendingRepairs := insertKey t.ras.pendingRepairs op (1000 + l, d) } }) ∧
  (∀ (op l d : Nat) (o : Op) (s t : State), Ready s op 0x6C 4 o → t = started s op 4 → o.f 8 1 = 2 → s.sec.erase = none → o.f 12 4 = l → o.f 16 4 = d →
    o.phase = .started → lookup t.ras.pendingRepairs op = none → (getLane t d).up = true →
    exec (.repairStrandLane op) s = .next (finishOk t op (mapWord (mapEntryAt t.ras.mapStr l)))) ∧
  (∀ (op l d : Nat) (o : Op) (s t : State), Ready s op 0x6C 4 o → t = started s op 4 → o.f 8 1 = 2 → s.sec.erase = none → o.f 12 4 = l → o.f 16 4 = d →
    (lookup t.ras.pendingRepairs op).isSome = true → draftStepOn t l = false → exec (.repairStrandLane op) s = .next (mapLane t op l d)) ∧
  (∀ (op l : Nat) (o : Op) (s t : State), Ready s op 0x6C 4 o → t = started s op 4 → o.f 8 1 = 2 → s.sec.erase = none → o.f 12 4 = l →
    o.phase = .fetched → lookup t.ras.pendingRepairs op = none → l < 96 → repairOpen t op o = true →
    exec (.repairStrandLane op) s = .next (fail t op stBounds 12)) ∧
  (∀ (op p n : Nat) (o : Op) (s t : State), Ready s op 0x6C 4 o → t = started s op 4 → o.f 8 1 = 3 → s.sec.erase = none → o.f 10 2 = p → o.f 12 4 = n →
    o.phase = .fetched → p < 4 → n < 8 → repairOpen t op o = false → (getPort t p).link.spareFor = 0xF →
    (getPort t p).link.failed.getLsbD 8 = false → exec (.repairAhlLane op) s = .next (logRas (modPort t p (fun x =>
      loseLink { x with link := { x.link with spareFor := BitVec.ofNat 4 n } } t.clock)) 3 4 (p * 9 + n) 0 n)) ∧
  (∀ (op p : Nat) (o : Op) (s t : State), Ready s op 0x6C 4 o → t = started s op 4 → o.f 8 1 = 3 → s.sec.erase = none → o.f 10 2 = p →
    o.phase = .started → (getPort t p).link.up = true → exec (.repairAhlLane op) s = .next (finishOk t op (ahlLink (getPort t p)))) ∧
  (∀ (op i pos : Nat) (o : Op) (s t : State), Ready s op 0x6C 4 o → t = started s op 4 → o.f 8 1 = 4 → s.sec.erase = none → o.f 10 2 = i →
    o.f 12 4 = pos → i < 4 → pos < 32 → repairOpen t op o = false → (getStack t i).copying = none →
    ((o.f 16 4 = 32 ∧ (getStack t i).spare32 = none) ∨ (o.f 16 4 = 33 ∧ (getStack t i).spare33 = none)) →
    exec (.repairPseudoChannel op) s = .next { t with memStacks := t.memStacks.set i { getStack t i with copying := some (op, pos, none) } }) ∧
  (∀ (op i pos : Nat) (o : Op) (s t : State), Ready s op 0x6C 4 o → t = started s op 4 → o.f 8 1 = 5 → s.sec.erase = none → o.f 10 2 = i →
    o.f 12 4 = pos → i < 4 → pos < 32 → repairOpen t op o = false → (getStack t i).copying = none → 0 < (getStack t i).rowsLeft →
    exec (.repairDramRow op) s = .next { t with memStacks := t.memStacks.set i { getStack t i with copying := some (op, pos, some (o.f 20 4)) } }) ∧
  (∀ (i : Fin 4) (op pos : Nat) (row : Option Nat) (o : Op) (s t u : State), (getStack s i.val).copying = some (op, pos, row) →
    lookup s.ops op = some o → t = modStack s i.val (fun k => { k with copying := none }) →
    u = modStack t i.val (fun k => useSpare k pos (o.f 16 4) row) → (getStack s i.val).uncorr.length ≤ 1024 →
    exec (.repairCopyDone i []) s = .next (finishOk (logRas u 4 4 (i.val * 64 + pos) 0 (row.getD 0)) op (memWord (getStack u i.val)))) ∧
  (∀ (i : Fin 4) (op pos : Nat) (row : Option Nat) (o : Op) (bad new : List Nat) (s t u : State), (getStack s i.val).copying = some (op, pos, row) →
    lookup s.ops op = some o → t = modStack s i.val (fun k => { k with copying := none }) →
    new = (bad.filter (fun u => !(getStack s i.val).uncorr.contains u)).eraseDups → (getStack s i.val).uncorr.length + new.length ≤ 1024 →
    u = modStack (zeroWords t new) i.val (fun k => { useSpare k pos (o.f 16 4) row with uncorr := k.uncorr ++ new }) →
    exec (.repairCopyDone i bad) s = .next (finishOk (logRas u 4 4 (i.val * 64 + pos) 0 (row.getD 0)) op (memWord (getStack u i.val)))) ∧
  (∀ (i : Fin 4) (op pos : Nat) (row : Option Nat) (bad : List Nat) (s t : State), (getStack s i.val).copying = some (op, pos, row) →
    t = modStack s i.val (fun k => { k with copying := none }) →
    1024 < (getStack s i.val).uncorr.length + ((bad.filter (fun u => !(getStack s i.val).uncorr.contains u)).eraseDups).length →
    exec (.repairCopyDone i bad) s = .next (fail t op stBounds 12)) ∧
  (∀ (i : Fin 4) (bad : List Nat) (s : State), (getStack s i.val).copying = none → exec (.repairCopyDone i bad) s = .next s) ∧
  (∀ (op b d sp : Nat) (o : Op) (s t u : State), Ready s op 0x6C 4 o → t = started s op 4 → o.f 8 1 = 6 → s.sec.erase = none → o.f 10 2 = b →
    o.f 12 4 = d → b < nBobbins t → d < 9 → (getDie (getBob t b) d).role < 8 → (getBob t b).migrating = none → spareDie (getBob t b) = some sp →
    u = modBob t b (fun x => startMigration x d ((spareDie x).getD 8)) →
    exec (.repairNandDie op) s = .next (finishOk (logRas u 5 4 (b * 16 + d) 0xFFFF 0xFFFFFFF) op (dieStat (getDie (getBob u b) d)))) ∧
  (∀ (op r k : Nat) (o : Op) (s t u : State), Ready s op 0x6C 4 o → t = started s op 4 → o.f 8 1 = 7 → s.sec.erase = none → o.f 10 2 = r →
    o.f 12 4 = k → r < 16 → k ≤ railN r + 1 →
    u = noteAlert (modRail t r (fun x => { out := x.out ||| (1#16 <<< k), failed := x.failed.filter (fun n => n ≠ k) })) →
    exec (.repairRegPhase op) s = .next (finishOk (logRas u 6 4 r 0 k) op (regWord u r)))

/-- SET_POWER, PWR_LIMIT, the idle timers, entries and exits of power states (19 R381-R385, R393). It rests on choices of the model: log entries 2, 6
and 35. -/
def Obligations.PowerStates : Prop :=
  (∀ (op : Nat) (o : Op) (s t u : State), Ready s op 0x70 4 o → t = started s op 4 → o.f 9 1 = 0 → o.f 8 1 ≤ 2 → (anyPly t = true → o.f 8 1 = 0) →
    u = { t with pwr := { t.pwr with heldPs0 := decide (o.f 8 1 = 0) } } → (o.f 8 1 ≠ 0 → stepsRun u = false) →
    ¬(t.pwr.state = o.f 8 1 ∧ t.pwr.target = o.f 8 1) →
    exec (.setPowerEnter op) s = .next { u with pwr := { u.pwr with target := o.f 8 1, entering := some op } }) ∧
  (∀ (op : Nat) (o : Op) (s t u : State), Ready s op 0x70 4 o → t = started s op 4 → o.f 9 1 = 0 → o.f 8 1 = 3 ∨ o.f 8 1 = 4 → anyPly t = false →
    u = abortTest { t with pwr := { t.pwr with heldPs0 := false } } → stepsRun u = false → ¬(u.pwr.state = o.f 8 1 ∧ u.pwr.target = o.f 8 1) →
    exec (.setPowerEnter op) s = .next { u with pwr := { u.pwr with target := o.f 8 1, entering := some op } }) ∧
  (∀ (op : Nat) (o : Op) (s t u : State), Ready s op 0x70 4 o → t = started s op 4 → o.f 9 1 = 0 → o.f 8 1 = 1 ∨ o.f 8 1 = 2 → anyPly t = false →
    u = { t with pwr := { t.pwr with heldPs0 := false } } → stepsRun u = true → exec (.setPowerEnter op) s = .next u) ∧
  (∀ (op : Nat) (o : Op) (s t : State), Ready s op 0x70 4 o → t = started s op 4 → o.f 9 1 = 0 → o.f 8 1 = 0 → t.pwr.state = 0 → t.pwr.target = 0 →
    exec (.setPowerEnter op) s = .next (finishOk { t with pwr := { t.pwr with heldPs0 := true } } op 0)) ∧
  (∀ (op : Nat) (o : Op) (s t : State), Ready s op 0x70 4 o → t = started s op 4 → o.f 9 1 = 0 → o.f 8 1 ≤ 4 → o.f 8 1 ≠ 0 → anyPly t = true →
    exec (.setPowerEnter op) s = .next (fail t op stBounds 0)) ∧
  (∀ (op : Nat) (o : Op) (s t : State), Ready s op 0x70 4 o → t = started s op 4 → o.f 9 1 = 1 → o.f 8 1 ≤ 4 → (anyPly t = true → o.f 8 1 = 0) →
    exec (.setPowerLimit op) s = .next (finishOk { t with pwr := { t.pwr with limit := o.f 8 1, pendLimit := none, heldPs0 := false } } op 0)) ∧
  (∀ (who : Requester) (v : Word) (s : State), mayWrite s who → bits v.toNat 0 3 ≤ 4 →
    exec (.pwrLimitWrite who v) s = .next { s with pwr := { s.pwr with pendLimit := some (bits v.toNat 0 3), heldPs0 := false } }) ∧
  (∀ (who : Requester) (v : Word) (s : State), mayWrite s who → 4 < bits v.toNat 0 3 → exec (.pwrLimitWrite who v) s = .next s) ∧
  (∀ (n : Fin 5) (s : State), n.val ≠ 0 → s.pwr.state = s.pwr.target → s.pwr.heldPs0 = false → timerExpired s n.val = true → deepestIdle s = n.val →
    s.pwr.state < n.val → exec (.idleTimerExpiry n) s = .next { s with pwr := { s.pwr with target := n.val } }) ∧
  (∀ (n : Fin 5) (s : State), s.pwr.heldPs0 = true → exec (.idleTimerExpiry n) s = .next s) ∧
  (∀ (s : State), s.pwr.state < s.pwr.target → s.pwr.entering = none → exec .powerStateEntered s = .next (reachState s s.pwr.target)) ∧
  (∀ (op : Nat) (s u : State), s.pwr.state < s.pwr.target → s.pwr.entering = some op → u = reachState s s.pwr.target →
    exec .powerStateEntered s = .next (finishOk { u with pwr := { u.pwr with entering := none } } op 0)) ∧
  (∀ (k : Nat) (s : State), s.pwr.target < s.pwr.state → k ≤ exitLatency s.pwr.state → s.pwr.entering = none →
    exec (.psExitDone k) s = .next (reachState s s.pwr.target)) ∧
  (∀ (k : Nat) (s u : State), s.pwr.target < s.pwr.state → exitLatency s.pwr.state < k → s.pwr.entering = none → u = reachState s s.pwr.target →
    exec (.psExitDone k) s = .next (postEvent (logRas { u with pwr := { u.pwr with exitLate := sat32 (u.pwr.exitLate + 1) } }
      (Config.exitLateSource % 11) (Config.exitLateType % 6) 0 0 0) 0x06 (s.pwr.state + min (k - exitLatency s.pwr.state) (2 ^ 29 - 1) * 8))) ∧
  (∀ (s : State) (n : Nat), (reachState s n).pwr = { s.pwr with state := n, target := n } ∧ (∀ k ∈ (reachState s n).memStacks, k.sref = decide (3 ≤ n)))

/-- POWER_LOSS, COLD_RESET_ASSERT, COLD_BOOT, the thermal throttle and THERM_N (19 R386-R392; 21 R410). It rests on choices of the model: log entries
4, 23, 24 and 35. -/
def Obligations.ColdResetsAndHeat : Prop :=
  (∀ (s u : State), s.glb.stage ≠ 0 → u = flushAndReset s s.pins.holdupOk false 2 →
    exec .powerLoss s = .next { u with pins := { u.pins with pwrGood := false }, jtag := State.reset.jtag }) ∧
  (∀ (s u : State), s.glb.stage ≠ 0 → u = flushAndReset s true true 1 →
    exec .coldResetAssert s = .next { u with pins := { u.pins with coldRstN := false } }) ∧
  (∀ (s : State), s.glb.stage = 0 → exec .powerLoss s = .next s ∧ exec .coldResetAssert s = .next { s with pins := { s.pins with coldRstN := false } }) ∧
  (∀ (s : State) (why : Nat) (e m : Bool), (flushAndReset s e m why).pwr.lastReset = why ∧ (flushAndReset s e m why).pwr.flushOk = e ∧
      (flushAndReset s e m why).pwr.flushUs.toNat ≤ 25000 ∧ (flushAndReset s e m why).pwr.flushMj.toNat ≤ 10000 ∧
      (flushAndReset s e m why).jobs = [] ∧ (flushAndReset s e m why).ops = [] ∧ (flushAndReset s e m why).journal.records = [] ∧
      (flushAndReset s e m why).glb.stage = 0 ∧ (flushAndReset s e m why).dst.current = none ∧ (flushAndReset s e m why).sec.levelRec = s.sec.levelRec ∧
      (flushAndReset s e m why).sec.fused2 = s.sec.fused2 ∧ (flushAndReset s e m why).sec.counter = s.sec.counter) ∧
  (∀ (env : BootEnv) (s t u : State), s.glb.stage = 0 →
    t = loadFirmware { s with pins := { s.pins with pwrGood := true, coldRstN := true }, boot := s.boot + 1, glb := { s.glb with slotId := env.slotId, i3cSa := if env.slotId = 54 then 0x48 else 0x08 + env.slotId.setWidth 7 } } →
    (chooseSlot t).isNone = false →
    u = { t with glb := { t.glb with subject := readDistaff t 0x1800010 32 }, sec := { t.sec with poolKeys := keys t.slices }, memStacks := t.memStacks.map (fun k => { k with trained := true }) } →
    exec (.coldBoot env) s = .next (noteAlert (reachReady (trainPorts (fitBobbins u) env.ports)))) ∧
  (∀ (env : BootEnv) (s t : State), s.glb.stage = 0 →
    t = loadFirmware { s with pins := { s.pins with pwrGood := true, coldRstN := true }, boot := s.boot + 1, glb := { s.glb with slotId := env.slotId, i3cSa := if env.slotId = 54 then 0x48 else 0x08 + env.slotId.setWidth 7 } } →
    (chooseSlot t).isNone = true → exec (.coldBoot env) s = .next (noteAlert { t with glb := { t.glb with stage := 1, held := true } })) ∧
  (∀ (env : BootEnv) (s : State), s.glb.stage ≠ 0 → exec (.coldBoot env) s = .next s) ∧
  (∀ (s : State), (chooseSlot s).isNone = false → coresLeft s ≠ 0 → erasing s = false → (reachReady s).glb.stage = 9 ∧
      (reachReady s).sec.counter = max s.sec.counter s.sec.svn) ∧
  (∀ (s : State), (chooseSlot s).isNone = false → coresLeft s = 0 → reachReady s = { s with glb := { s.glb with stage := 3, held := false } }) ∧
  (∀ (t : Int) (s : State), s.glb.stage ≠ 0 → s.pins.throttle = false → 100 ≤ t →
    exec (.thermalThrottle t) s = .next (postEvent (noteAlert { s with pins := { s.pins with throttle := true } }) 0x07 1)) ∧
  (∀ (t : Int) (s : State), s.glb.stage ≠ 0 → s.pins.throttle = true → t < 95 →
    exec (.thermalThrottle t) s = .next (postEvent (noteAlert { s with pins := { s.pins with throttle := false } }) 0x07 0)) ∧
  (∀ (t : Int) (s : State), (s.pins.throttle = false ∧ t < 100) ∨ (s.pins.throttle = true ∧ 95 ≤ t) → exec (.thermalThrottle t) s = .next s) ∧
  (∀ (t : Int) (s : State), s.pins.thermN = true → 110 ≤ t → exec (.thermNAlert t) s = .next { s with pins := { s.pins with thermN := false } }) ∧
  (∀ (t : Int) (s : State), s.pins.thermN = false → t < 105 → exec (.thermNAlert t) s = .next { s with pins := { s.pins with thermN := true } }) ∧
  (∀ (t : Int) (s : State), (s.pins.thermN = true ∧ t < 110) ∨ (s.pins.thermN = false ∧ 105 ≤ t) → exec (.thermNAlert t) s = .next s)

/-- Sideband accesses of the control space (20 R398): any of the commands that write the control space, sent by the sideband while SB_WRITE is 0, is a
bad access and nothing else; with SB_WRITE 1 it acts as a port's does; a read reads the register. -/
def Obligations.SidebandWriteRight : Prop :=
  (∀ (s : State), s.glb.sbWrite = false → (∀ off width v, exec (.registerWrite .sideband off width v) s = .next (badAccess s off)) ∧
      (∀ v, exec (.glbLockWrite .sideband v) s = .next (badAccess s 0xFC)) ∧
      (∀ p v, exec (.adminRingsEnable .sideband p v) s = .next (badAccess s (0x124 + 0x40 * p.val)) ∧
        exec (.adminRingsDisable .sideband p v) s = .next (badAccess s (0x124 + 0x40 * p.val))) ∧
      (∀ v, exec (.refSelWrite .sideband v) s = .next (badAccess s 0x2000C)) ∧
      (∀ n v, exec (.laneDisable .sideband n v) s = .next (badAccess s (strCtrl n.val)) ∧
        exec (.laneEnable .sideband n v) s = .next (badAccess s (strCtrl n.val))) ∧
      (∀ v, exec (.dstUnlock .sideband v) s = .next (badAccess s 0x40000) ∧ exec (.distaffRead .sideband v) s = .next (badAccess s 0x40008) ∧
        exec (.distaffProgram (.dst .sideband v)) s = .next (badAccess s 0x4002C) ∧ exec (.distaffErase (.dst .sideband v)) s = .next (badAccess s 0x40008) ∧
        exec (.distaffSuspend (.dst .sideband v)) s = .next (badAccess s 0x40004) ∧ exec (.distaffResume (.dst .sideband v)) s = .next (badAccess s 0x40004) ∧
        exec (.dstStatWrite .sideband v) s = .next (badAccess s 0x40030)) ∧
      (∀ v, exec (.pwrLimitWrite .sideband v) s = .next (badAccess s 0x10004))) ∧
  (∀ (s : State) (off : Nat), badAccess s off = { s with ras := (badAccess s off).ras } ∧ (badAccess s off).ras.badAcc = sat32 (s.ras.badAcc + 1) ∧
      (badAccess s off).ras.log.any (fun e => e.beat = s.trd.beat ∧ e.source = 9 ∧ e.addr = off) = true) ∧
  (∀ (s : State) (p : Fin 4) (off width : Nat) (v : Word), s.glb.sbWrite = true →
    exec (.registerWrite .sideband off width v) s = exec (.registerWrite (.port p) off width v) s) ∧
  (∀ (s : State) (off : Nat), badShape off 4 = false →
    exec (.loRegisterRead .sideband off 4) s = .next (answerRead (readReg (senseAt s off) .sideband off).2 .sideband (readReg (senseAt s off) .sideband off).1)) ∧
  (∀ (s : State) (off width : Nat), badShape off width = true →
    exec (.loRegisterRead .sideband off width) s = .next (answerRead (badAccess s off) .sideband 0))

/-- The CCCs and private transfers of the sideband target, and the JTAG instructions (21 R407-R409; 17 R342). It rests on choices of the model: log
entries 2, 25 and 26. -/
def Obligations.SidebandAndJtag : Prop :=
  (∀ (a : BitVec 7) (s : State), s.glb.stage ≠ 0 → s.sideband.dynAddr = none →
    exec (.entdaa a) s = .next { s with sideband := { s.sideband with dynAddr := some a, answer := pidBytes ++ bcrBytes ++ dcrBytes } }) ∧
  (∀ (a b : BitVec 7) (s : State), s.sideband.dynAddr = some b → exec (.entdaa a) s = .next s) ∧
  (∀ (a : BitVec 7) (s : State), s.glb.stage ≠ 0 → s.sideband.dynAddr = none →
    exec (.setdasa s.glb.i3cSa a) s = .next { s with sideband := { s.sideband with dynAddr := some a } }) ∧
  (∀ (st a : BitVec 7) (s : State), st ≠ s.glb.i3cSa → exec (.setdasa st a) s = .next s) ∧
  (∀ (s : State), s.glb.stage ≠ 0 → exec .rstdaa s = .next { s with sideband := { s.sideband with dynAddr := none } }) ∧
  (∀ (a : BitVec 7) (s : State), s.glb.stage ≠ 0 → s.sideband.dynAddr = some a →
    exec .getpid s = .next { s with sideband := { s.sideband with answer := pidBytes } } ∧
      exec .getbcr s = .next { s with sideband := { s.sideband with answer := bcrBytes } } ∧
      exec .getdcr s = .next { s with sideband := { s.sideband with answer := dcrBytes } }) ∧
  (∀ (a : BitVec 7) (s t : State) (n : Nat), s.glb.stage ≠ 0 → s.sideband.dynAddr = some a → draw s = (n, t) →
    exec .getstatus s = .next { t with sideband := { t.sideband with answer := leBytes 2 n } }) ∧
  (∀ (s : State), s.glb.stage ≠ 0 → exec .enec s = .next { s with sideband := { s.sideband with ibiEnabled := true } } ∧
      exec .disec s = .next { s with sideband := { s.sideband with ibiEnabled := false } }) ∧
  (∀ (o0 o1 o2 : Byte) (s : State), s.glb.stage ≠ 0 →
    exec (.sidebandReadRequest [1, o0, o1, o2]) s = .next { s with sideband := { s.sideband with readOff := some (leNat [o0, o1, o2]) } }) ∧
  (∀ (b : List Byte) (s : State), b.length ≠ 4 ∨ field b 0 1 ≠ 1 → exec (.sidebandReadRequest b) s = .next s) ∧
  (∀ (off : Nat) (s u : State), s.glb.stage ≠ 0 → s.sideband.readOff = some off → badShape off 4 = false →
    u = answerRead (readReg (senseAt s off) .sideband off).2 .sideband (readReg (senseAt s off) .sideband off).1 →
    exec .sidebandReadData s = .next { u with sideband := { u.sideband with
      readOff := none, answer := leBytes 4 ((readReg (senseAt s off) .sideband off).1 % 2 ^ 32) } }) ∧
  (∀ (off : Nat) (s u : State), s.glb.stage ≠ 0 → s.sideband.readOff = some off → badShape off 4 = true → u = answerRead (badAccess s off) .sideband 0 →
    exec .sidebandReadData s = .next { u with sideband := { u.sideband with readOff := none, answer := [0, 0, 0, 0] } }) ∧
  (∀ (k : Fin 4) (s : State), s.glb.stage ≠ 0 → s.sideband.readOff = some (0x80 + 4 * k.val) →
    ∃ t, exec .sidebandReadData s = .next t ∧ t.sideband.readOff = none ∧ t.sideband.answer = leBytes 4 (readD 0#32 s.glb.scratch k.val).toNat) ∧
  (∀ (s : State), s.glb.stage ≠ 0 → s.sideband.readOff = none →
    exec .sidebandReadData s = .next { s with sideband := { s.sideband with answer := [0, 0, 0, 0] } }) ∧
  (∀ (b : List Byte) (s : State), s.glb.stage ≠ 0 → b.length = 8 → field b 0 1 = 2 →
    exec (.sidebandWrite b) s = exec (.registerWrite .sideband (field b 1 3) 4 (BitVec.ofNat 32 (field b 4 4))) s) ∧
  (∀ (b : List Byte) (s : State), s.glb.stage ≠ 0 → b.length = 8 → field b 0 1 = 2 → s.glb.sbWrite = true → eraseResumed s = false →
    badShape (field b 1 3) 4 = false → exec (.sidebandWrite b) s = .next (writeReg s (field b 1 3) (BitVec.ofNat 32 (field b 4 4)))) ∧
  (∀ (b : List Byte) (s : State), s.glb.stage ≠ 0 → b.length = 8 → field b 0 1 = 2 → s.glb.sbWrite = false →
    exec (.sidebandWrite b) s = .next (badAccess s (field b 1 3))) ∧
  (∀ (k : Fin 4) (b : List Byte) (s : State), s.glb.stage ≠ 0 → b.length = 8 → field b 0 1 = 2 → field b 1 3 = 0x80 + 4 * k.val → s.glb.sbWrite = true →
    eraseResumed s = false →
    exec (.sidebandWrite b) s = .next { s with glb := { s.glb with scratch := writeD 0#32 s.glb.scratch k.val (BitVec.ofNat 32 (field b 4 4)) } }) ∧
  (∀ (b : List Byte) (s : State), b.length ≠ 8 ∨ field b 0 1 ≠ 2 → exec (.sidebandWrite b) s = .next s) ∧
  (∀ (s : State), s.glb.stage = 0 → exec .rstdaa s = .next s ∧ exec .enec s = .next s ∧ exec .disec s = .next s ∧ exec .sidebandReadData s = .next s) ∧
  (∀ (s : State), exec .bypass s = .next { s with jtag := { s.jtag with ir := .bypass, dr := [false], drive := 0 } } ∧
      exec .highz s = .next { s with jtag := { s.jtag with ir := .highz, dr := [false], drive := 4 } } ∧
      exec .jtagClamp s = .next { s with jtag := { s.jtag with ir := .clamp, dr := [false], drive := 1 } }) ∧
  (∀ (s : State), exec .idcode s = .next { s with jtag := { s.jtag with ir := .idcode, dr := (List.range 32).map (0x1C2E4ACB).testBit, drive := 0 } }) ∧
  (∀ (cells l : List Bool) (s t : State), sampleLands s cells.length = (l, t) →
    exec (.samplePreload cells) s = .next { t with jtag := { t.jtag with ir := .sample, dr := l, cells := cells, drive := 0 } }) ∧
  (∀ (cells l : List Bool) (s t : State), sampleLands s cells.length = (l, t) →
    exec (.extest cells) s = .next { t with jtag := { t.jtag with ir := .extest, dr := l, cells := cells, drive := 1 } } ∧
      exec (.extestPulse cells) s = .next { t with jtag := { t.jtag with ir := .extestPulse, dr := l, cells := cells, drive := 2 } } ∧
      exec (.extestTrain cells) s = .next { t with jtag := { t.jtag with ir := .extestTrain, dr := l, cells := cells, drive := 3 } }) ∧
  (∀ (n : Nat) (l : List Bool) (s t : State), sampleLands s n = (l, t) → l.length = n ∧ t = { s with free := t.free }) ∧
  (∀ (d : DebugTarget) (s : State), level s ≠ 0 →
    exec (.vendorDebugInstruction d) s = .next { s with jtag := { s.jtag with ir := .bypass, dr := [false], drive := 0 } }) ∧
  (∀ (d : DebugTarget) (s u : State), level s = 0 → u = { s with sec := { s.sec with jtagSession := true } } →
    exec (.vendorDebugInstruction d) s = .next { u with jtag := { u.jtag with ir := .debug, drive := 0, debugOut := debugRead u d } }) ∧
  (∀ (a : Nat) (s : State), 0x3800000 ≤ a → a < 0x3900000 → debugRead s (.distaff a) = [])
end

