-- ==== Sys2Proof/Laws/Kept.lean ====
section
/-! SUPPORT. What a command leaves alone: `kept` gathers the queue, the device's level, its fuses and counter, the power limit and the shapes of the device's
maps; the files KeptUnits, KeptHost, KeptFabric and KeptSystem say of each operation of the model that it keeps them. The few operations that do
change one of them have their lemmas in OneWay. -/

set_option linter.unusedTactic false
set_option linter.unreachableTactic false
set_option linter.unusedSimpArgs false
set_option linter.unusedVariables false

namespace Sys2Proof.Machine
def kept (s : State) : List Instr × Nat × Bool × Nat × Nat × Option Nat × Nat × Nat × Nat × Nat × Nat × Nat :=
  (s.pending, s.sec.levelRec, s.sec.fused2, s.sec.counter, s.pwr.limit, s.pwr.pendLimit, s.glb.stage, s.ras.mapSpn.length, s.ras.mapCore.length, s.ras.mapStr.length,
   s.ras.rails.length, s.memStacks.length)
@[simp] theorem kept_mk (pending free clock opSeq latch readData glb ports ops pwr pins trd sec dst slices sched rotation nextRotation meterRing
    meterQueue meterGaps boot spindles skeins drafts nextHandle jobs plies bobbins journal stores fences selfTest strand card ras memStacks mem sideband jtag) :
    kept (State.mk pending free clock opSeq latch readData glb ports ops pwr pins trd sec dst slices sched rotation nextRotation meterRing
      meterQueue meterGaps boot spindles skeins drafts nextHandle jobs plies bobbins journal stores fences selfTest strand card ras memStacks mem sideband jtag) =
    (pending, sec.levelRec, sec.fused2, sec.counter, pwr.limit, pwr.pendLimit, glb.stage, ras.mapSpn.length, ras.mapCore.length, ras.mapStr.length, ras.rails.length, memStacks.length) := rfl
@[simp] theorem kept_def (s : State) : (s.pending, s.sec.levelRec, s.sec.fused2, s.sec.counter, s.pwr.limit, s.pwr.pendLimit, s.glb.stage, s.ras.mapSpn.length, s.ras.mapCore.length, s.ras.mapStr.length,
   s.ras.rails.length, s.memStacks.length) = kept s := rfl
@[simp] theorem kept_foldl {α : Type} (f : State → α → State) (h : ∀ s a, kept (f s a) = kept s) (l : List α) (s : State) : kept (l.foldl f s) = kept s := by
  induction l generalizing s with
  | nil => rfl
  | cons a l ih => simp only [List.foldl_cons]; rw [ih, h]
def Run.state : Run → State | .done t => t | .wait t => t | .ends t _ => t
def Fetch.state : Fetch → State | .bytes t _ => t | .wait t => t | .ends t _ => t
def PageGrant.or (s : State) : PageGrant → State | .got t => t | _ => s
def Touch.or (s : State) : Touch → State | .ready t => t | .wait t => t | .ends _ => s
def Restore.or (s : State) : Restore → State | .done t => t | .bad t => t | _ => s
def Served.state : Served → State | .done _ t => t | .wait t => t
def ShapeDecision.state : ShapeDecision → State | .run t _ => t | .ends t _ _ _ => t | .wait t => t
def outOr (s : State) : Host.Outcome State Fault Refusal → State | .next t => t | _ => s
@[simp] theorem kept_foldr {α : Type} (f : α → State → State) (h : ∀ s a, kept (f a s) = kept s) (l : List α) (s : State) : kept (l.foldr f s) = kept s := by
  induction l with
  | nil => rfl
  | cons a l ih => simp only [List.foldr_cons]; rw [h, ih]
theorem kept_rdone {r : Restore} {t : State} (s : State) (h : r = .done t) : kept t = kept (Restore.or s r) := by rw [h]; rfl
theorem kept_rbad {r : Restore} {t : State} (s : State) (h : r = .bad t) : kept t = kept (Restore.or s r) := by rw [h]; rfl
theorem kept_sdone {r : Served} {t : State} {x : Nat} (h : r = .done x t) : kept t = kept r.state := by rw [h]; rfl
theorem kept_swait {r : Served} {t : State} (h : r = .wait t) : kept t = kept r.state := by rw [h]; rfl
@[simp] theorem restore_done_or (s t : State) : Restore.or s (.done t) = t := rfl
@[simp] theorem restore_bad_or (s t : State) : Restore.or s (.bad t) = t := rfl
@[simp] theorem restore_none_or (s : State) : Restore.or s .noPage = s := rfl
@[simp] theorem restore_wait_or (s : State) : Restore.or s .wait = s := rfl
@[simp] theorem served_done_state (t : State) (x : Nat) : (Served.done x t).state = t := rfl
@[simp] theorem served_wait_state (t : State) : (Served.wait t).state = t := rfl
@[simp] theorem shape_run_state (t : State) (l : List Nat) : (ShapeDecision.run t l).state = t := rfl
@[simp] theorem shape_ends_state (t : State) (a b c : Nat) : (ShapeDecision.ends t a b c).state = t := rfl
@[simp] theorem shape_wait_state (t : State) : (ShapeDecision.wait t).state = t := rfl
theorem kept_shrun {r : ShapeDecision} {t : State} {x : List Nat} (h : r = .run t x) : kept t = kept r.state := by rw [h]; rfl
theorem kept_shends {r : ShapeDecision} {t : State} {a b c : Nat} (h : r = .ends t a b c) : kept t = kept r.state := by rw [h]; rfl
theorem kept_shwait {r : ShapeDecision} {t : State} (h : r = .wait t) : kept t = kept r.state := by rw [h]; rfl
theorem kept_pair {α : Type} {r : α × State} {a : α} {t : State} (h : r = (a, t)) : kept t = kept r.2 := by rw [h]
theorem kept_done {r : Run} {t : State} (h : r = .done t) : kept t = kept r.state := by rw [h]; rfl
theorem kept_rwait {r : Run} {t : State} (h : r = .wait t) : kept t = kept r.state := by rw [h]; rfl
theorem kept_rends {r : Run} {t : State} {x : Nat} (h : r = .ends t x) : kept t = kept r.state := by rw [h]; rfl
theorem kept_bytes {r : Fetch} {t : State} {x : List Byte} (h : r = .bytes t x) : kept t = kept r.state := by rw [h]; rfl
theorem kept_fwait {r : Fetch} {t : State} (h : r = .wait t) : kept t = kept r.state := by rw [h]; rfl
theorem kept_fends {r : Fetch} {t : State} {x : Nat} (h : r = .ends t x) : kept t = kept r.state := by rw [h]; rfl
theorem kept_got {r : PageGrant} {t : State} (s : State) (h : r = .got t) : kept t = kept (PageGrant.or s r) := by rw [h]; rfl
theorem kept_ready {r : Touch} {t : State} (s : State) (h : r = .ready t) : kept t = kept (Touch.or s r) := by rw [h]; rfl
theorem kept_twait {r : Touch} {t : State} (s : State) (h : r = .wait t) : kept t = kept (Touch.or s r) := by rw [h]; rfl
theorem kept_some {r : Option State} {t : State} (s : State) (h : r = some t) : kept t = kept (r.getD s) := by rw [h]; rfl
theorem kept_some2 {α : Type} {r : Option (α × State)} {a : α} {t : State} (s : State) (h : r = some (a, t)) : kept t = kept ((r.map Prod.snd).getD s) := by rw [h]; rfl
@[simp] theorem run_done_state (t : State) : (Run.done t).state = t := rfl
@[simp] theorem run_wait_state (t : State) : (Run.wait t).state = t := rfl
@[simp] theorem run_ends_state (t : State) (x : Nat) : (Run.ends t x).state = t := rfl
@[simp] theorem fetch_bytes_state (t : State) (x : List Byte) : (Fetch.bytes t x).state = t := rfl
@[simp] theorem fetch_wait_state (t : State) : (Fetch.wait t).state = t := rfl
@[simp] theorem fetch_ends_state (t : State) (x : Nat) : (Fetch.ends t x).state = t := rfl
@[simp] theorem pg_got_or (s t : State) : PageGrant.or s (.got t) = t := rfl
@[simp] theorem pg_none_or (s : State) : PageGrant.or s .none_ = s := rfl
@[simp] theorem pg_wait_or (s : State) : PageGrant.or s .wait = s := rfl
@[simp] theorem touch_ready_or (s t : State) : Touch.or s (.ready t) = t := rfl
@[simp] theorem touch_wait_or (s t : State) : Touch.or s (.wait t) = t := rfl
@[simp] theorem touch_ends_or (s : State) (x : Nat) : Touch.or s (.ends x) = s := rfl
@[simp] theorem outOr_next (s t : State) : outOr s (.next t) = t := rfl
theorem kept_ite (c : Prop) [Decidable c] (a b : State) (k) (ha : kept a = k) (hb : kept b = k) : kept (if c then a else b) = k := by split <;> assumption
end Sys2Proof.Machine
end

