-- ==== Sys2Proof/Laws/KeptUnits.lean ====
section
/-! SUPPORT. What the operations of the shared operations, the pool, the spindles and the sequencers keep. -/

set_option linter.unusedTactic false
set_option linter.unreachableTactic false
set_option linter.unusedSimpArgs false
set_option linter.unusedVariables false

namespace Sys2Proof.Machine

@[simp] theorem kept_modPort (s : State) (p : Nat) (f : Port → Port) : kept (modPort s p f) = kept s := by
  unfold modPort; simp

@[simp] theorem kept_modSpn (s : State) (n : Nat) (f : Spindle → Spindle) : kept (modSpn s n f) = kept s := by
  unfold modSpn; simp

@[simp] theorem kept_modBob (s : State) (b : Nat) (f : Bobbin → Bobbin) : kept (modBob s b f) = kept s := by
  unfold modBob; simp

@[simp] theorem kept_modLane (s : State) (n : Nat) (f : Lane → Lane) : kept (modLane s n f) = kept s := by
  unfold modLane; simp

@[simp] theorem kept_modSlice (s : State) (n : Nat) (f : Slice → Slice) : kept (modSlice s n f) = kept s := by
  unfold modSlice; simp

@[simp] theorem kept_modJob (s : State) (j : Nat) (f : Job → Job) : kept (modJob s j f) = kept s := by
  unfold modJob; simp

@[simp] theorem kept_modStore (s : State) (n : Nat) (f : Store → Store) : kept (modStore s n f) = kept s := by
  unfold modStore; simp

@[simp] theorem kept_draw (s : State) : kept ((draw s).2) = kept s := by
  unfold draw; simp

@[simp] theorem kept_noteAlert (s : State) : kept (noteAlert s) = kept s := by
  unfold noteAlert; simp

@[simp] theorem kept_logRas (s : State) (source type index store addr : Nat) : kept (logRas s source type index store addr) = kept s := by
  unfold logRas
  dsimp only
  repeat' split
  all_goals simp

@[simp] theorem kept_badAccess (s : State) (off : Nat) : kept (badAccess s off) = kept s := by
  unfold badAccess; simp

@[simp] theorem kept_spreadEvent (s : State) (skip : List Nat) (e : Event) :
    kept (spreadEvent s skip e) = kept s := by
  unfold spreadEvent
  repeat' first
    | (simp; done)
    | (rename_i h; simp [kept_pair h]; done)
    | (rename_i h; simp [kept_some _ h]; done)
    | (rename_i h; have h2 := congrArg kept (congrArg Prod.snd h); simp_all; done)
    | dsimp only
    | split
    | refine (kept_foldl _ (fun t a => ?_) _ _).trans ?_

@[simp] theorem kept_reportDropped (s : State) (p : Nat) :
    kept (reportDropped s p) = kept s := by
  unfold reportDropped
  dsimp only
  repeat' split
  all_goals simp

@[simp] theorem kept_postEventBut (s : State) (skip : List Nat) (code slice detail : Nat) : kept (postEventBut s skip code slice detail) = kept s := by
  unfold postEventBut
  repeat' first
    | (simp; done)
    | dsimp only
    | split
    | refine (kept_foldl _ (fun t a => ?_) _ _).trans ?_

@[simp] theorem kept_postEvent (s : State) (code detail : Nat) : kept (postEvent s code detail) = kept s := by
  unfold postEvent; simp

@[simp] theorem kept_postSliceEvent (s : State) (code slice detail : Nat) : kept (postSliceEvent s code slice detail) = kept s := by
  unfold postSliceEvent; simp

@[simp] theorem kept_postComp (s : State) (id : Nat) (o : Op) (status detail result : Nat) : kept (postComp s id o status detail result) = kept s := by
  unfold postComp; split <;> simp

@[simp] theorem kept_postOne (s : State) (p : Nat) (a0 : List Held) : kept (((postOne s p a0).getD s)) = kept s := by
  fun_induction postOne <;> simp_all

@[simp] theorem kept_postHeld (s : State) (p : Nat) (a0 : Nat) : kept (postHeld s p a0) = kept s := by
  induction a0 generalizing s with
  | zero => rfl
  | succ n ih =>
    unfold postHeld
    split
    · rename_i t h
      rw [ih, kept_some s h, kept_postOne]
    · rfl

@[simp] theorem kept_flushPort (s : State) (p : Nat) : kept (flushPort s p) = kept s := by
  unfold flushPort; simp

@[simp] theorem kept_finish (s : State) (id status detail result : Nat) : kept (finish s id status detail result) = kept s := by
  unfold finish
  repeat' split
  all_goals simp

@[simp] theorem kept_finishOk (s : State) (id result : Nat) : kept (finishOk s id result) = kept s := by
  unfold finishOk; simp

@[simp] theorem kept_startOp (s : State) (id : Nat) : kept (startOp s id) = kept s := by
  unfold startOp; simp

@[simp] theorem kept_wake (s : State) (n : Nat) : kept (wake s n) = kept s := by
  unfold wake; split <;> simp

@[simp] theorem kept_runRow (s : State) (id opcode need : Nat) (sel : Op → Bool) (body : Op → State → State) (h : ∀ o t, kept (body o t) = kept t) :
    kept (runRow s id opcode need sel body) = kept s := by
  unfold runRow
  repeat' split
  all_goals simp [h]

@[simp] theorem kept_runOp (s : State) (id opcode need : Nat) (body : Op → State → State) (h : ∀ o t, kept (body o t) = kept t) :
    kept (runOp s id opcode need body) = kept s := kept_runRow s id opcode need _ body h

@[simp] theorem kept_fail (s : State) (id status detail : Nat) : kept (fail s id status detail) = kept s := by
  unfold fail; simp

@[simp] theorem kept_checks (s : State) (id : Nat) (cs : List (Bool × Nat × Nat)) (ok : State) (h : kept ok = kept s) : kept (checks s id cs ok) = kept s := by
  unfold checks
  split
  · simp
  · exact h

@[simp] theorem kept_interrupt (s : State) (p : Nat) (v : Option Nat) : kept (interrupt s p v) = kept s := by
  unfold interrupt; split <;> simp

@[simp] theorem kept_charge (s : State) (slice : Nat) (f : Meter → Meter) : kept (charge s slice f) = kept s := by
  unfold charge; simp

@[simp] theorem kept_clearRefused (s : State) :
    kept (clearRefused s) = kept s := by
  unfold clearRefused; simp

@[simp] theorem kept_placeUnit (s : State) (owner u jseq : Nat) (data : Mem) :
    kept (((placeUnit s owner u jseq data).map Prod.snd).getD s) = kept s := by
  unfold placeUnit
  dsimp only
  generalize List.findSome? _ _ = r
  cases r <;> simp

@[simp] theorem kept_placePark (s : State) (q page : Nat) (data : Mem) :
    kept (((placePark s q page data).map Prod.snd).getD s) = kept s := by
  have hp : ∀ (l : List Nat) (acc : Option (List MapChange × State)), (∀ a, acc = some a → kept a.2 = kept s) →
      ∀ a, l.foldl (fun acc i => acc.bind (fun a =>
        (placeUnit a.2 (parkOwner q) (128 * page + i) (s.journal.jseq + 1) (sliceRange data (i * unitBytes) unitBytes)).map (fun r =>
          (a.1 ++ [{ store := parkOwner q, unit := 128 * page + i, new := r.1, old := entryOf s (parkOwner q) (128 * page + i) }], r.2)))) acc = some a →
      kept a.2 = kept s := by
    intro l
    induction l with
    | nil => intro acc h a ha; exact h a ha
    | cons i l ih =>
      intro acc h a ha
      refine ih _ (fun b hb => ?_) a ha
      obtain ⟨c, hc, hb⟩ := Option.bind_eq_some_iff.1 hb
      obtain ⟨d, hd, rfl⟩ := Option.map_eq_some_iff.1 hb
      rw [kept_some2 c.2 hd, kept_placeUnit, h c hc]
  unfold placePark
  generalize hr : List.foldl _ _ _ = r
  cases r with
  | none => rfl
  | some a => exact hp _ _ (fun b hb => by cases hb; rfl) a hr

@[simp] theorem kept_setEntry (s : State) (owner u e : Nat) :
    kept (setEntry s owner u e) = kept s := by
  unfold setEntry; split <;> simp

@[simp] theorem kept_applyChanges (s : State) (cs : List MapChange) : kept (applyChanges s cs) = kept s := by
  unfold applyChanges; simp

@[simp] theorem kept_journalRecord (s : State) (cs : List MapChange) :
    kept (journalRecord s cs) = kept s := by
  unfold journalRecord; split <;> simp

@[simp] theorem kept_wakeDurable (s : State) (ids : List Nat) : kept (wakeDurable s ids) = kept s := by
  unfold wakeDurable
  repeat' first
    | (simp; done)
    | dsimp only
    | split
    | refine (kept_foldl _ (fun t a => ?_) _ _).trans ?_

@[simp] theorem kept_programRecords (s : State) (n : Nat) : kept (programRecords s n) = kept s := by
  unfold programRecords; simp

@[simp] theorem kept_programJournal (s : State) :
    kept (programJournal s) = kept s := by
  unfold programJournal; simp

@[simp] theorem kept_commitRecords (s : State) : kept (commitRecords s) = kept s := by
  unfold commitRecords; split <;> simp

@[simp] theorem kept_writePark (s : State) (q page : Nat) (data : Mem) :
    kept ((writePark s q page data).getD s) = kept s := by
  unfold writePark
  have h := kept_placePark s q page data
  cases hr : placePark s q page data with
  | none => rfl
  | some r => rw [hr] at h; simpa using h

@[simp] theorem kept_parkCopy (s : State) (q page : Nat) :
    kept ((parkCopy s q page).getD s) = kept s := by
  unfold parkCopy
  repeat' split
  all_goals try simp
  rename_i x _ _ _ _ _
  have h := kept_writePark s q page (pageData x page)
  cases hr : writePark s q page (pageData x page) with
  | none => rfl
  | some r => rw [hr] at h; simpa using h

@[simp] theorem kept_releaseHank (s : State) (q page : Nat) : kept (releaseHank s q page) = kept s := by
  unfold releaseHank; simp

@[simp] theorem kept_giveUp (s : State) (v : Victim) :
    kept ((giveUp s v).getD s) = kept s := by
  unfold giveUp
  split
  · have h := kept_parkCopy s v.slice v.page
    cases hr : parkCopy s v.slice v.page with
    | none => rfl
    | some r => rw [hr] at h; simpa using h
  · simp

@[simp] theorem kept_evict (s : State) (v : Victim) :
    kept ((evict s v).getD s) = kept s := by
  unfold evict
  have h := kept_giveUp s v
  cases hr : giveUp s v with
  | none => rfl
  | some r => rw [hr] at h; simpa using h

@[simp] theorem kept_obtainAfter (s : State) (q k : Nat) :
    kept (PageGrant.or s (obtainAfter s q k)) = kept s := by
  have he : ∀ v, kept (PageGrant.or s (((evict s v).map PageGrant.got).getD .wait)) = kept s := by
    intro v
    have h := kept_evict s v
    cases hr : evict s v with
    | none => rfl
    | some r => rw [hr] at h; simpa using h
  unfold obtainAfter
  repeat' split
  all_goals first | exact he _ | simp

@[simp] theorem kept_obtainPage (s : State) (q : Nat) : kept ((PageGrant.or s (obtainPage s q))) = kept s := by
  unfold obtainPage; simp

@[simp] theorem kept_obtainPagesFrom (s : State) (q k n : Nat) : kept (PageGrant.or s (obtainPagesFrom s q k n)) = kept s := by
  induction n generalizing s k with
  | zero => rfl
  | succ n ih =>
    unfold obtainPagesFrom
    split
    · rename_i t e
      have h := kept_obtainAfter s q k
      rw [e] at h
      have h2 := ih t (k + 1)
      revert h2 h
      cases obtainPagesFrom t q (k + 1) n <;> simp_all [PageGrant.or]
    · simp

@[simp] theorem kept_obtainPages (s : State) (q n : Nat) : kept ((PageGrant.or s (obtainPages s q n))) = kept s := by
  unfold obtainPages; simp

@[simp] theorem kept_askAll (s : State) (l : List (Nat × List Nat)) (wr : Bool) : kept (askAll s l wr) = kept s := by
  unfold askAll; simp

@[simp] theorem kept_clearUncorr (s : State) (q a n : Nat) : kept (clearUncorr s q a n) = kept s := by
  unfold clearUncorr; simp

@[simp] theorem kept_setPage (s : State) (q page : Nat) (f : Page → Page) : kept (setPage s q page f) = kept s := by
  unfold setPage; simp

@[simp] theorem kept_touchPage (s : State) (q page : Nat) (wr : Bool) :
    kept (Touch.or s (touchPage s q page wr)) = kept s := by
  unfold touchPage
  repeat' first
    | (simp; done)
    | split
  all_goals
    rename_i e _
    rw [Touch.or, kept_setPage, kept_clearUncorr, kept_got s e, kept_obtainPage]

@[simp] theorem kept_touchPages (s : State) (q page : Nat) (wr : Bool) (n : Nat) : kept (Touch.or s (touchPages s q page wr n)) = kept s := by
  induction n generalizing s page with
  | zero => rfl
  | succ n ih =>
    unfold touchPages
    have h := kept_touchPage s q page wr
    split
    · rename_i t e
      rw [e] at h
      have h2 := ih t (page + 1)
      revert h2 h
      cases touchPages t q (page + 1) wr n <;> simp_all [Touch.or]
    · exact h

@[simp] theorem kept_touch (s : State) (q tier addr n : Nat) (wr : Bool) : kept (Touch.or s (touch s q tier addr n wr)) = kept s := by
  unfold touch
  repeat' first
    | (simp; done)
    | split
    | dsimp only
  all_goals
    have h := kept_touchPages s q (addr / pageBytes) wr ((addr + n - 1) / pageBytes - addr / pageBytes + 1)
    simp_all [Touch.or]

@[simp] theorem kept_writeTier (s : State) (q tier addr : Nat) (bs : List Byte) : kept (writeTier s q tier addr bs) = kept s := by
  unfold writeTier; split <;> simp

@[simp] theorem kept_writePartner (s : State) (p addr : Nat) (bs : List Byte) : kept (writePartner s p addr bs) = kept s := by
  induction bs generalizing s addr with
  | nil => rfl
  | cons b bs ih => unfold writePartner; rw [ih]; split <;> simp

@[simp] theorem kept_withPartner (s : State) (id : Nat) (o : Op) (rs : List (Nat × Nat × Bool)) (ok : State) (h : kept ok = kept s) :
    kept (withPartner s id o rs ok) = kept s := by
  unfold withPartner
  split
  · simp
  · dsimp only
    split
    · exact h
    · exact kept_foldl _ (fun _ _ => by simp) _ _

@[simp] theorem kept_loseUnit (s : State) (b owner u : Nat) :
    kept (loseUnit s b owner u) = kept s := by
  unfold loseUnit; simp

@[simp] theorem kept_postLost (s : State) (b lost : Nat) : kept (postLost s b lost) = kept s := by
  unfold postLost; split <;> simp

@[simp] theorem kept_copyUnit (s : State) (b : Nat) (bulk : Bool) (avoid : List Nat) (owner u : Nat) :
    kept (copyUnit s b bulk avoid owner u) = kept s := by
  unfold copyUnit
  dsimp only
  repeat' split
  all_goals simp

@[simp] theorem kept_copyUnits (s : State) (b : Nat) (bulkOf : Nat → Bool) (avoid : List Nat) (us : List (Nat × Nat)) :
    kept (copyUnits s b bulkOf avoid us) = kept s := by
  unfold copyUnits; simp

@[simp] theorem kept_journalChanges (s : State) (cs : List MapChange) :
    kept (journalChanges s cs) = kept s := by
  unfold journalChanges; simp

@[simp] theorem kept_eraseSource (s : State) (b block : Nat) :
    kept (eraseSource s b block) = kept s := by
  unfold eraseSource
  dsimp only
  repeat' split
  all_goals simp

@[simp] theorem kept_settleMoves (s : State) (b : Nat) (sel : Bobbin → BlockMove → Bool) :
    kept (settleMoves s b sel) = kept s := by
  unfold settleMoves; simp

@[simp] theorem kept_moveOut (s0 : State) (b : Nat) (bulkOf : Nat → Bool) (avoid : List Nat) (us : List (Nat × Nat)) :
    kept (moveOut s0 b bulkOf avoid us) = kept s0 := by
  unfold moveOut; simp

@[simp] theorem kept_healRow (s : State) (b block page : Nat) :
    kept (healRow s b block page) = kept s := by
  unfold healRow
  dsimp only
  repeat' split
  all_goals simp

@[simp] theorem kept_countRead (s : State) (owner u : Nat) :
    kept (countRead s owner u) = kept s := by
  unfold countRead
  dsimp only
  repeat' split
  all_goals simp

@[simp] theorem kept_countReads (s : State) (owner : Nat) (us : List Nat) :
    kept (countReads s owner us) = kept s := by
  unfold countReads; simp

@[simp] theorem kept_writeParked (s : State) (q page at_ : Nat) (bs : List Byte) :
    kept (writeParked s q page at_ bs) = kept s := by
  unfold writeParked
  dsimp only
  split
  · rfl
  · split
    · rfl
    · rename_i h
      simpa using kept_some2 s h

@[simp] theorem kept_becomeReadOnly (s : State) (b : Nat) :
    kept (becomeReadOnly s b) = kept s := by
  unfold becomeReadOnly; split <;> simp

@[simp] theorem kept_liftReadOnly (s : State) (b : Nat) :
    kept (liftReadOnly s b) = kept s := by
  unfold liftReadOnly; split <;> simp

@[simp] theorem kept_awaitRecords (s : State) (owner : Nat) (us : List Nat) (id : Nat) :
    kept (awaitRecords s owner us id) = kept s := by
  unfold awaitRecords; simp

@[simp] theorem kept_commitAll (s : State) : kept (commitAll s) = kept s := by
  unfold commitAll; simp

@[simp] theorem kept_checkReadOnly (s : State) (b : Nat) :
    kept (checkReadOnly s b) = kept s := by
  unfold checkReadOnly; split <;> simp

@[simp] theorem kept_retireBlock (s : State) (b block cause : Nat) : kept (retireBlock s b block cause) = kept s := by
  unfold retireBlock
  dsimp only
  repeat' split
  all_goals simp

@[simp] theorem kept_moveBlock (s : State) (b block : Nat) (bulkOf : Nat → Bool) :
    kept (moveBlock s b block bulkOf) = kept s := by
  unfold moveBlock
  dsimp only
  repeat' split
  all_goals simp

@[simp] theorem kept_modLink (s : State) (h : Nat) (f : LinkState → LinkState) : kept (modLink s h f) = kept s := by
  unfold modLink; simp

@[simp] theorem kept_putOnLane (s : State) (n : Nat) (f : Flit) : kept (putOnLane s n f) = kept s := by
  unfold putOnLane; simp

@[simp] theorem kept_sendFlit (s : State) (l h : Nat) (f : Flit) :
    kept (sendFlit s l h f) = kept s := by
  unfold sendFlit
  dsimp only
  repeat' split
  all_goals simp

@[simp] theorem kept_freeBuffers (s : State) (l ch n : Nat) :
    kept (freeBuffers s l ch n) = kept s := by
  unfold freeBuffers; split <;> simp

@[simp] theorem kept_freeSource (s : State) (f : QFlit) :
    kept (freeSource s f) = kept s := by
  unfold freeSource; split <;> simp

@[simp] theorem kept_noteLeft (s : State) (pkt : Option (Nat × Nat)) :
    kept (noteLeft s pkt) = kept s := by
  unfold noteLeft; split <;> simp

@[simp] theorem kept_pumpLink (s : State) (l h : Nat) (a0 : Nat) : kept (pumpLink s l h a0) = kept s := by
  fun_induction pumpLink <;> simp_all

@[simp] theorem kept_pump (s : State) (l : Nat) : kept (pump s l) = kept s := by
  unfold pump; split <;> simp

@[simp] theorem kept_enqueue (s : State) (l q : Nat) (fs : List QFlit) :
    kept (enqueue s l q fs) = kept s := by
  unfold enqueue; split <;> simp

@[simp] theorem kept_sendScheduled (s : State) (l : Nat) (came : Option Nat) (h : SlotHeader) (data : List Byte) :
    kept (sendScheduled s l came h data) = kept s := by
  unfold sendScheduled; simp

@[simp] theorem kept_sendVoteFlit (s : State) (l : Nat) (v : Vote) :
    kept (sendVoteFlit s l v) = kept s := by
  unfold sendVoteFlit; simp

@[simp] theorem kept_sendMarker (s : State) (l anchor hops : Nat) :
    kept (sendMarker s l anchor hops) = kept s := by
  unfold sendMarker; split <;> simp

@[simp] theorem kept_sendOnLink (s : State) (l vc : Nat) (source pkt : Option (Nat × Nat)) (k : Packet) :
    kept (sendOnLink s l vc source pkt k) = kept s := by
  unfold sendOnLink; split <;> simp

@[simp] theorem kept_sendAck (s : State) (l : Nat) : kept (sendAck s l) = kept s := by
  unfold sendAck; split <;> simp

@[simp] theorem kept_sendAcks (s : State) (l n : Nat) : kept (sendAcks s l n) = kept s := by
  induction n generalizing s with
  | zero => rfl
  | succ n ih => unfold sendAcks; dsimp only; repeat' split
                 all_goals simp [ih]

@[simp] theorem kept_sendIdle (s : State) (n : Nat) :
    kept (sendIdle s n) = kept s := by
  unfold sendIdle
  dsimp only
  repeat' split
  all_goals simp

@[simp] theorem kept_sendIdles (s : State) :
    kept (sendIdles s) = kept s := by
  unfold sendIdles; simp

@[simp] theorem kept_replay (s : State) (l : Nat) : kept (replay s l) = kept s := by
  unfold replay
  repeat' first
    | (simp; done)
    | dsimp only
    | split
    | refine (kept_foldl _ (fun t a => ?_) _ _).trans ?_

@[simp] theorem kept_beginRetrain (s : State) (n : Nat) : kept (beginRetrain s n) = kept s := by
  unfold beginRetrain; simp

@[simp] theorem kept_afterLaneLoss (s : State) (l : Nat) : kept (afterLaneLoss s l) = kept s := by
  unfold afterLaneLoss; split <;> simp

@[simp] theorem kept_retrainLink (s : State) (l : Nat) : kept (retrainLink s l) = kept s := by
  unfold retrainLink; simp

@[simp] theorem kept_laneComesUp (s : State) (n : Nat) : kept (laneComesUp s n) = kept s := by
  unfold laneComesUp
  dsimp only
  repeat' split
  all_goals simp

@[simp] theorem kept_discardLink (s : State) (l : Nat) : kept (discardLink s l) = kept s := by
  unfold discardLink; split <;> simp

@[simp] theorem kept_sendNak (s : State) (l : Nat) :
    kept (sendNak s l) = kept s := by
  unfold sendNak; split <;> simp

@[simp] theorem kept_takeSequenced (s : State) (l h : Nat) : kept (takeSequenced s l h) = kept s := by
  unfold takeSequenced
  dsimp only
  repeat' split
  all_goals simp

@[simp] theorem kept_freeSpindles (s : State) (jid : Nat) (j : Job) : kept (freeSpindles s jid j) = kept s := by
  unfold freeSpindles
  repeat' first
    | (simp; done)
    | dsimp only
    | split
    | refine (kept_foldl _ (fun t a => ?_) _ _).trans ?_

@[simp] theorem kept_sendVote (s : State) (slice : Nat) (v : Vote) (from_ : Option Nat) : kept (sendVote s slice v from_) = kept s := by
  unfold sendVote; simp

@[simp] theorem kept_sayEnded (s : State) (jid : Nat) (j : Job) (decide status : Nat) :
    kept (sayEnded s jid j decide status) = kept s := by
  unfold sayEnded; split <;> simp

@[simp] theorem kept_endVote (s : State) (jid : Nat) (j : Job) (status : Nat) :
    kept (endVote s jid j status) = kept s := by
  unfold endVote
  repeat' split
  all_goals simp

@[simp] theorem kept_clearOwner (s : State) (q : Nat) (r : Nat × Nat) : kept (clearOwner s q r) = kept s := by
  unfold clearOwner
  repeat' split
  all_goals simp

@[simp] theorem kept_clearOwners (s : State) (j : Job) : kept (clearOwners s j) = kept s := by
  unfold clearOwners; simp

@[simp] theorem kept_countOverrun (s : State) (q b n : Nat) (deduct : Bool) :
    kept (countOverrun s q b n deduct) = kept s := by
  unfold countOverrun; simp

@[simp] theorem kept_chargeOverrun (s : State) (j : Job) : kept (chargeOverrun s j) = kept s := by
  unfold chargeOverrun; split <;> simp

@[simp] theorem kept_endJob (s : State) (jid status detail result : Nat) :
    kept (endJob s jid status detail result) = kept s := by
  unfold endJob; split <;> simp

@[simp] theorem kept_abortJob (s : State) (jid : Nat) : kept (abortJob s jid) = kept s := by
  unfold abortJob
  repeat' split
  all_goals simp

@[simp] theorem kept_abortJobs (s : State) (l : List Nat) : kept (abortJobs s l) = kept s := by
  unfold abortJobs; simp

@[simp] theorem kept_dropJob (s : State) (jid : Nat) :
    kept (dropJob s jid) = kept s := by
  unfold dropJob; split <;> simp

@[simp] theorem kept_scrubSpn (s : State) (p : Nat) : kept (scrubSpn s p) = kept s := by
  unfold scrubSpn; simp

@[simp] theorem kept_scrubAll (s : State) : kept (scrubAll s) = kept s := kept_foldl _ (fun _ _ => kept_scrubSpn _ _) _ _

@[simp] theorem kept_modCtx (s : State) (p : Nat) (f : Ctx → Ctx) : kept (modCtx s p f) = kept s := by
  unfold modCtx; simp

@[simp] theorem kept_modCtr (s : State) (p : Nat) (f : SpnCounters → SpnCounters) : kept (modCtr s p f) = kept s := by
  unfold modCtr; split <;> simp

@[simp] theorem kept_notePages (s : State) (jid rank : Nat) (h : Option Nat) (addr n : Nat) :
    kept (notePages s jid rank h addr n) = kept s := by
  unfold notePages; split <;> simp

@[simp] theorem kept_noteTouched (s : State) (jid rank tier addr n : Nat) :
    kept (noteTouched s jid rank tier addr n) = kept s := by
  unfold noteTouched; split <;> simp

@[simp] theorem kept_countDemand (s0 s : State) (q : Nat) : kept (countDemand s0 s q) = kept s := rfl

@[simp] theorem kept_logPool (s : State) (q a n : Nat) : kept (logPool s q a n) = kept s := by
  unfold logPool
  dsimp only
  split <;> simp

@[simp] theorem kept_stepTouch (s : State) (e : Seat) (tier addr n : Nat) (wr : Bool) :
    kept (stepTouch s e tier addr n wr).state = kept s := by
  unfold stepTouch
  repeat' first
    | (simp; done)
    | (dsimp only [outOr_next, run_done_state, run_wait_state, run_ends_state, fetch_bytes_state, fetch_wait_state, fetch_ends_state, pg_got_or, pg_none_or, pg_wait_or, touch_ready_or, touch_wait_or, touch_ends_or, restore_done_or, restore_bad_or, restore_none_or, restore_wait_or, served_done_state, served_wait_state, shape_run_state, shape_ends_state, shape_wait_state])
    | (split <;> (try (have hk := kept_ready s ‹_ = Touch.ready _›; simp at hk)) <;> (try (have hk := kept_twait s ‹_ = Touch.wait _›; simp at hk)))
    | (refine (kept_foldl _ ?_ _ _).trans ?_; (intro t a))
    | (simp_all; done)

@[simp] theorem kept_readSkein (s : State) (q h : Nat) (k : Skein) (off n : Nat) :
    kept (readSkein s q h k off n).state = kept s := by
  unfold readSkein
  dsimp only
  repeat' split
  all_goals simp

@[simp] theorem kept_readTierFor (s : State) (e : Seat) (tier far off n : Nat) :
    kept (readTierFor s e tier far off n).state = kept s := by
  unfold readTierFor
  split
  · simp
  · split
    · split
      · rename_i h k _
        have hr := kept_readSkein s e.slice h k off n
        split
        · rename_i hb; rw [hb] at hr; simpa using hr
        · exact hr
      · simp
    · have hr := kept_stepTouch s e tier off n false
      split <;> (rename_i hb; rw [hb] at hr; simpa using hr)

@[simp] theorem kept_prepareWrite (s : State) (e : Seat) (tier off n : Nat) : kept ((prepareWrite s e tier off n).state) = kept s := by
  unfold prepareWrite; split <;> simp

@[simp] theorem kept_writeTierFor (s : State) (e : Seat) (tier off : Nat) (bs : List Byte) : kept (writeTierFor s e tier off bs) = kept s := by
  unfold writeTierFor; split <;> simp

@[simp] theorem kept_runAll {α : Type} (f : State → α → Run) (h : ∀ s a, kept (f s a).state = kept s) (l : List α) (s : State) : kept (runAll f l s).state = kept s := by
  induction l generalizing s with
  | nil => rfl
  | cons a l ih =>
    have h1 := h s a
    unfold runAll
    split
    · rename_i t e; rw [e] at h1; rw [ih]; exact h1
    · exact h1

@[simp] theorem kept_setRec (s : State) (q tier off at_ n v : Nat) : kept (setRec s q tier off at_ n v) = kept s := by
  unfold setRec; simp

@[simp] theorem kept_layerRecord (s : State) (q h : Nat) (k : Skein) (layer : Nat) : kept ((layerRecord s q h k layer).state) = kept s := by
  unfold layerRecord
  repeat' first
    | (simp; done)
    | (dsimp only [outOr_next, run_done_state, run_wait_state, run_ends_state, fetch_bytes_state, fetch_wait_state, fetch_ends_state, pg_got_or, pg_none_or, pg_wait_or, touch_ready_or, touch_wait_or, touch_ends_or, restore_done_or, restore_bad_or, restore_none_or, restore_wait_or, served_done_state, served_wait_state, shape_run_state, shape_ends_state, shape_wait_state])
    | (split <;> (try (have hk := kept_bytes ‹_ = Fetch.bytes _ _›; simp at hk)))
    | (refine kept_runRow _ _ _ _ _ _ ?_; (intro o t))
    | (refine kept_runOp _ _ _ _ _ ?_; (intro o t))
    | (refine kept_checks _ _ _ _ ?_)
    | (refine kept_withPartner _ _ _ _ _ ?_)
    | (refine kept_runAll _ ?_ _ _; (intro t a))
    | (refine kept_ctlWrite _ _ _ _ ?_; (intro t))
    | (refine (kept_foldl _ ?_ _ _).trans ?_; (intro t a))
    | (simp_all; done)

@[simp] theorem kept_initRecord (s : State) (q tier off : Nat) (l seeds : List Byte) : kept (initRecord s q tier off l seeds) = kept s := by
  unfold initRecord; simp

@[simp] theorem kept_takeRecord (s : State) (e : Seat) (tier off : Nat) : kept (takeRecord s e tier off) = kept s := by
  unfold takeRecord; simp

@[simp] theorem kept_openRecord (s : State) (e : Seat) (tier off ch0 nt : Nat) : kept ((openRecord s e tier off ch0 nt).state) = kept s := by
  unfold openRecord
  repeat' first
    | (simp; done)
    | (dsimp only [outOr_next, run_done_state, run_wait_state, run_ends_state, fetch_bytes_state, fetch_wait_state, fetch_ends_state, pg_got_or, pg_none_or, pg_wait_or, touch_ready_or, touch_wait_or, touch_ends_or, restore_done_or, restore_bad_or, restore_none_or, restore_wait_or, served_done_state, served_wait_state, shape_run_state, shape_ends_state, shape_wait_state])
    | (split <;> (try (have hk := kept_done ‹_ = Run.done _›; simp at hk)) <;> (try (have hk := kept_bytes ‹_ = Fetch.bytes _ _›; simp at hk)) <;> (try (have hk := kept_fwait ‹_ = Fetch.wait _›; simp at hk)) <;> (try (have hk := kept_fends ‹_ = Fetch.ends _ _›; simp at hk)))
    | (refine kept_runRow _ _ _ _ _ _ ?_; (intro o t))
    | (refine kept_runOp _ _ _ _ _ ?_; (intro o t))
    | (refine kept_checks _ _ _ _ ?_)
    | (refine kept_withPartner _ _ _ _ _ ?_)
    | (refine kept_runAll _ ?_ _ _; (intro t a))
    | (refine kept_ctlWrite _ _ _ _ ?_; (intro t))
    | (refine (kept_foldl _ ?_ _ _).trans ?_; (intro t a))
    | (simp_all; done)

@[simp] theorem kept_observe (s : State) (q tier off c : Nat) (x : Int) : kept (observe s q tier off c x) = kept s := by
  unfold observe
  dsimp only
  repeat' split
  all_goals simp

@[simp] theorem kept_countSat (s : State) (q tier off c : Nat) : kept (countSat s q tier off c) = kept s := by
  unfold countSat; simp

@[simp] theorem kept_derive_ (s : State) (q tier off c : Nat) : kept (derive_ s q tier off c) = kept s := by
  unfold derive_
  dsimp only
  repeat' split
  all_goals simp

@[simp] theorem kept_foldChannel (s : State) (q tier off c : Nat) : kept (foldChannel s q tier off c) = kept s := by
  unfold foldChannel
  dsimp only
  repeat' split
  all_goals simp

@[simp] theorem kept_foldPartly (s : State) (q tier off n : Nat) :
    kept (foldPartly s q tier off n) = kept s := by
  unfold foldPartly; simp

@[simp] theorem kept_usePages (s : State) (q tier off n : Nat) :
    kept (usePages s q tier off n) = kept s := by
  unfold usePages; split <;> simp

@[simp] theorem kept_foldRecord (s : State) (q tier off : Nat) :
    kept (foldRecord s q tier off) = kept s := by
  unfold foldRecord; simp

@[simp] theorem kept_countFin (s : State) (p least : Nat) : kept (countFin s p least) = kept s := by
  unfold countFin; simp

@[simp] theorem kept_countFold (s : State) (ps : List Nat) (n : Nat) :
    kept (countFold s ps n) = kept s := by
  unfold countFold
  repeat' first
    | (simp; done)
    | (rename_i h; simp [kept_pair h]; done)
    | (rename_i h; simp [kept_some _ h]; done)
    | (rename_i h; have h2 := congrArg kept (congrArg Prod.snd h); simp_all; done)
    | dsimp only
    | split
    | refine (kept_foldl _ (fun t a => ?_) _ _).trans ?_

@[simp] theorem kept_foldOf (s : State) (jid : Nat) (mine : Nat → Bool) :
    kept (foldOf s jid mine) = kept s := by
  unfold foldOf; split <;> simp

@[simp] theorem kept_foldRecords (s : State) (jid : Nat) :
    kept (foldRecords s jid) = kept s := by
  unfold foldRecords; simp

@[simp] theorem kept_foldRank (s : State) (jid rank : Nat) :
    kept (foldRank s jid rank) = kept s := by
  unfold foldRank; simp

@[simp] theorem kept_retireMatrix (s : State) (p : Nat) (c : Ctx) (nb rows step gather macs wraps : Nat) : kept (retireMatrix s p c nb rows step gather macs wraps) = kept s := by
  unfold retireMatrix; simp

@[simp] theorem kept_runMatmul (s : State) (e : Seat) (w : IWord) (x : Tbl Word) : kept ((runMatmul s e w x).state) = kept s := by
  unfold runMatmul
  dsimp only
  repeat' split
  all_goals simp

@[simp] theorem kept_runConv (s : State) (e : Seat) (w : IWord) (x : Tbl Word) : kept ((runConv s e w x).state) = kept s := by
  unfold runConv
  dsimp only
  repeat' split
  all_goals simp

@[simp] theorem kept_reachLoad (e : Seat) (w : IWord) (x : Tbl Word) (s : State) (i : Nat) : kept (reachLoad e w x s i).state = kept s := by
  unfold reachLoad
  have hr := kept_readTierFor s e (lTier w) (lFar w) (farOf w x i) (lRb w)
  split <;> (rename_i hx; rw [hx] at hr; exact hr)

@[simp] theorem kept_copyLoad (e : Seat) (w : IWord) (x : Tbl Word) (s : State) (i : Nat) : kept (copyLoad e w x s i) = kept s := by
  unfold copyLoad
  split <;> simp

@[simp] theorem kept_runLoad (s : State) (e : Seat) (w : IWord) (x : Tbl Word) : kept (runLoad s e w x).state = kept s := by
  unfold runLoad
  dsimp only
  split
  · rfl
  · have h2 := kept_runAll (reachLoad e w x) (kept_reachLoad e w x) (liveRows x (lXi w) (lXn w) (lRows w)) s
    split
    · rename_i hx
      simp only [run_done_state]
      exact (kept_foldl _ (kept_copyLoad e w x) _ _).trans ((kept_done hx).trans h2)
    · exact h2

@[simp] theorem kept_runStore (s : State) (e : Seat) (w : IWord) (x : Tbl Word) : kept ((runStore s e w x).state) = kept s := by
  unfold runStore
  repeat' first
    | (simp; done)
    | (dsimp only [outOr_next, run_done_state, run_wait_state, run_ends_state, fetch_bytes_state, fetch_wait_state, fetch_ends_state, pg_got_or, pg_none_or, pg_wait_or, touch_ready_or, touch_wait_or, touch_ends_or, restore_done_or, restore_bad_or, restore_none_or, restore_wait_or, served_done_state, served_wait_state, shape_run_state, shape_ends_state, shape_wait_state])
    | (split <;> (try (have hk := kept_done ‹_ = Run.done _›; simp at hk)))
    | (refine kept_runRow _ _ _ _ _ _ ?_; (intro o t))
    | (refine kept_runOp _ _ _ _ _ ?_; (intro o t))
    | (refine kept_checks _ _ _ _ ?_)
    | (refine kept_withPartner _ _ _ _ _ ?_)
    | (refine kept_runAll _ ?_ _ _; (intro t a))
    | (refine kept_ctlWrite _ _ _ _ ?_; (intro t))
    | (refine (kept_foldl _ ?_ _ _).trans ?_; (intro t a))
    | (simp_all; done)

@[simp] theorem kept_runDrain (s : State) (e : Seat) (w : IWord) (x : Tbl Word) : kept ((runDrain s e w x).state) = kept s := by
  unfold runDrain; simp

@[simp] theorem kept_requantCell (e : Seat) (w : IWord) (ofmt i n : Nat) (s : State) : kept (requantCell e w ofmt i n s) = kept s := by
  unfold requantCell
  dsimp only
  repeat' split
  all_goals simp

@[simp] theorem kept_runRequant (s : State) (e : Seat) (w : IWord) (x : Tbl Word) : kept ((runRequant s e w x).state) = kept s := by
  unfold runRequant
  repeat' first
    | (simp; done)
    | (dsimp only [outOr_next, run_done_state, run_wait_state, run_ends_state, fetch_bytes_state, fetch_wait_state, fetch_ends_state, pg_got_or, pg_none_or, pg_wait_or, touch_ready_or, touch_wait_or, touch_ends_or, restore_done_or, restore_bad_or, restore_none_or, restore_wait_or, served_done_state, served_wait_state, shape_run_state, shape_ends_state, shape_wait_state])
    | (split <;> (try (have hk := kept_done ‹_ = Run.done _›; simp at hk)))
    | (refine kept_runRow _ _ _ _ _ _ ?_; (intro o t))
    | (refine kept_runOp _ _ _ _ _ ?_; (intro o t))
    | (refine kept_checks _ _ _ _ ?_)
    | (refine kept_withPartner _ _ _ _ _ ?_)
    | (refine kept_runAll _ ?_ _ _; (intro t a))
    | (refine kept_ctlWrite _ _ _ _ ?_; (intro t))
    | (refine (kept_foldl _ ?_ _ _).trans ?_; (intro t a))
    | (simp_all; done)

@[simp] theorem kept_runLanes (s : State) (e : Seat) (w : IWord) (f : Word → Word → Word → Word) : kept ((runLanes s e w f).state) = kept s := by
  unfold runLanes; simp

@[simp] theorem kept_runReduce (s : State) (e : Seat) (w : IWord) (f : Word → Word → Word) : kept ((runReduce s e w f).state) = kept s := by
  unfold runReduce
  dsimp only
  repeat' split
  all_goals simp

@[simp] theorem kept_runVld (s : State) (e : Seat) (w : IWord) : kept ((runVld s e w).state) = kept s := by
  unfold runVld; simp

@[simp] theorem kept_runVst (s : State) (e : Seat) (w : IWord) : kept ((runVst s e w).state) = kept s := by
  unfold runVst; simp

@[simp] theorem kept_runQcvt (s : State) (e : Seat) (w : IWord) : kept ((runQcvt s e w).state) = kept s := by
  unfold runQcvt; simp

@[simp] theorem kept_runFvec (s : State) (e : Seat) (w : IWord) (u_x : Tbl Word) : kept ((runFvec s e w u_x).state) = kept s := by
  unfold runFvec; split <;> simp

@[simp] theorem kept_runFrow (s : State) (e : Seat) (w : IWord) (x : Tbl Word) : kept ((runFrow s e w x).state) = kept s := by
  unfold runFrow; simp

@[simp] theorem kept_applySig (s : State) (e : Seat) (g : PendSig) : kept (applySig s e g) = kept s := by
  unfold applySig; split <;> simp

@[simp] theorem kept_drainSigs (e : Seat) (a0 : List PendSig) (a1 : State) : kept (drainSigs e a0 a1) = kept a1 := by
  fun_induction drainSigs <;> simp_all

@[simp] theorem kept_noteError (s : State) (jid status rank idx where_ : Nat) :
    kept (noteError s jid status rank idx where_) = kept s := by
  unfold noteError; simp

@[simp] theorem kept_runInstr (s : State) (e : Seat) (w : IWord) (x : Tbl Word) : kept ((runInstr s e w x).state) = kept s := by
  unfold runInstr
  dsimp only
  repeat' split
  all_goals simp

@[simp] theorem kept_settleGo (e : Seat) (a0 : List Issued) (a1 : List Issued) (s : State) :
    kept (settleGo e a0 a1 s) = kept s := by
  induction a0 generalizing a1 s with
  | nil => unfold settleGo; simp
  | cons i l ih =>
    unfold settleGo
    dsimp only
    have hr := kept_runInstr s e i.w i.x
    split
    · exact ih _ _
    · split <;> (rename_i h; rw [h] at hr; rw [ih]; simpa using hr)

@[simp] theorem kept_settleSeat (s : State) (e : Seat) :
    kept (settleSeat s e) = kept s := by
  unfold settleSeat; simp

@[simp] theorem kept_receive (s : State) (e : Seat) (k : Block) :
    kept (receive s e k) = kept s := by
  unfold receive; simp

@[simp] theorem kept_deliver (e : Seat) (r : BandReq) (es : List Seat) (a0 : Nat) (a1 : Nat) (s : State) :
    kept (deliver e r es a0 a1 s) = kept s := by
  induction a0 generalizing a1 s with
  | zero => rfl
  | succ n ih =>
    unfold deliver
    dsimp only
    have hr := kept_readTierFor s e r.tier r.src (blockAt r a1) (blockStride r.wfmt)
    split
    · rfl
    · split <;> (rename_i h; rw [h] at hr)
      · rw [ih]; simpa using hr
      · exact hr
      · simpa using hr

@[simp] theorem kept_finishBroadcast (s : State) (e : Seat) :
    kept (finishBroadcast s e) = kept s := by
  unfold finishBroadcast
  repeat' split
  all_goals simp

@[simp] theorem kept_drainJob (s : State) (jid : Nat) :
    kept (drainJob s jid) = kept s := by
  unfold drainJob; simp

@[simp] theorem kept_endFailed (s : State) (jid : Nat) :
    kept (endFailed s jid) = kept s := by
  unfold endFailed
  dsimp only
  repeat' split
  all_goals simp

@[simp] theorem kept_programError (s : State) (jid status rank idx where_ : Nat) :
    kept (programError s jid status rank idx where_) = kept s := by
  unfold programError; simp

@[simp] theorem kept_settle (s : State) (e : Seat) :
    kept (settle s e) = kept s := by
  unfold settle; simp

@[simp] theorem kept_advance (s : State) (e : Seat) : kept (advance s e) = kept s := by
  unfold advance; simp

@[simp] theorem kept_present (s : State) (sp : Nat) (w : IWord) (sel : Bool) (go : Seat → State → State) (h : ∀ e t, kept (go e t) = kept t) :
    kept (present s sp w sel go) = kept s := by
  unfold present
  dsimp only
  repeat' split
  all_goals simp [h]

@[simp] theorem kept_enqueueUnit (w : IWord) (e : Seat) (s : State) :
    kept (enqueueUnit w e s) = kept s := by
  unfold enqueueUnit
  dsimp only
  repeat' split
  all_goals simp

@[simp] theorem kept_issueUnit (w : IWord) (e : Seat) (s : State) : kept (issueUnit w e s) = kept s := by
  unfold issueUnit
  repeat' first
    | (simp; done)
    | (dsimp only [outOr_next, run_done_state, run_wait_state, run_ends_state, fetch_bytes_state, fetch_wait_state, fetch_ends_state, pg_got_or, pg_none_or, pg_wait_or, touch_ready_or, touch_wait_or, touch_ends_or, restore_done_or, restore_bad_or, restore_none_or, restore_wait_or, served_done_state, served_wait_state, shape_run_state, shape_ends_state, shape_wait_state])
    | (split <;> (try (have hk := kept_done ‹_ = Run.done _›; simp at hk)) <;> (try (have hk := kept_rwait ‹_ = Run.wait _›; simp at hk)) <;> (try (have hk := kept_rends ‹_ = Run.ends _ _›; simp at hk)))
    | (refine kept_runRow _ _ _ _ _ _ ?_; (intro o t))
    | (refine kept_runOp _ _ _ _ _ ?_; (intro o t))
    | (refine kept_checks _ _ _ _ ?_)
    | (refine kept_withPartner _ _ _ _ _ ?_)
    | (refine kept_runAll _ ?_ _ _; (intro t a))
    | (refine kept_ctlWrite _ _ _ _ ?_; (intro t))
    | (refine (kept_foldl _ ?_ _ _).trans ?_; (intro t a))
    | (simp_all; done)

@[simp] theorem kept_execMatmul (sp : Fin 48) (w : IWord) (s : State) : kept ((outOr s (execMatmul sp w s))) = kept s := by
  unfold execMatmul; simp

@[simp] theorem kept_execConv (sp : Fin 48) (w : IWord) (s : State) : kept ((outOr s (execConv sp w s))) = kept s := by
  unfold execConv; simp

@[simp] theorem kept_execLoad (sp : Fin 48) (w : IWord) (s : State) : kept ((outOr s (execLoad sp w s))) = kept s := by
  unfold execLoad; simp

@[simp] theorem kept_execStore (sp : Fin 48) (w : IWord) (s : State) : kept ((outOr s (execStore sp w s))) = kept s := by
  unfold execStore; simp

@[simp] theorem kept_execDrain (sp : Fin 48) (w : IWord) (s : State) : kept ((outOr s (execDrain sp w s))) = kept s := by
  unfold execDrain; simp

@[simp] theorem kept_execRequant (sp : Fin 48) (w : IWord) (s : State) : kept ((outOr s (execRequant sp w s))) = kept s := by
  unfold execRequant; simp

@[simp] theorem kept_execVld (sp : Fin 48) (w : IWord) (s : State) : kept ((outOr s (execVld sp w s))) = kept s := by
  unfold execVld; simp

@[simp] theorem kept_execVst (sp : Fin 48) (w : IWord) (s : State) : kept ((outOr s (execVst sp w s))) = kept s := by
  unfold execVst; simp

@[simp] theorem kept_execAdd (sp : Fin 48) (w : IWord) (s : State) : kept ((outOr s (execAdd sp w s))) = kept s := by
  unfold execAdd; simp

@[simp] theorem kept_execSub (sp : Fin 48) (w : IWord) (s : State) : kept ((outOr s (execSub sp w s))) = kept s := by
  unfold execSub; simp

@[simp] theorem kept_execMul (sp : Fin 48) (w : IWord) (s : State) : kept ((outOr s (execMul sp w s))) = kept s := by
  unfold execMul; simp

@[simp] theorem kept_execFma (sp : Fin 48) (w : IWord) (s : State) : kept ((outOr s (execFma sp w s))) = kept s := by
  unfold execFma; simp

@[simp] theorem kept_execMax (sp : Fin 48) (w : IWord) (s : State) : kept ((outOr s (execMax sp w s))) = kept s := by
  unfold execMax; simp

@[simp] theorem kept_execMin (sp : Fin 48) (w : IWord) (s : State) : kept ((outOr s (execMin sp w s))) = kept s := by
  unfold execMin; simp

@[simp] theorem kept_execAbs (sp : Fin 48) (w : IWord) (s : State) : kept ((outOr s (execAbs sp w s))) = kept s := by
  unfold execAbs; simp

@[simp] theorem kept_execNeg (sp : Fin 48) (w : IWord) (s : State) : kept ((outOr s (execNeg sp w s))) = kept s := by
  unfold execNeg; simp

@[simp] theorem kept_execRelu (sp : Fin 48) (w : IWord) (s : State) : kept ((outOr s (execRelu sp w s))) = kept s := by
  unfold execRelu; simp

@[simp] theorem kept_execClamp (sp : Fin 48) (w : IWord) (s : State) : kept ((outOr s (execClamp sp w s))) = kept s := by
  unfold execClamp; simp

@[simp] theorem kept_execSelect (sp : Fin 48) (w : IWord) (s : State) : kept ((outOr s (execSelect sp w s))) = kept s := by
  unfold execSelect; simp

@[simp] theorem kept_execCvt (sp : Fin 48) (w : IWord) (s : State) : kept ((outOr s (execCvt sp w s))) = kept s := by
  unfold execCvt; simp

@[simp] theorem kept_execQcvt (sp : Fin 48) (w : IWord) (s : State) : kept ((outOr s (execQcvt sp w s))) = kept s := by
  unfold execQcvt; simp

@[simp] theorem kept_execDeq (sp : Fin 48) (w : IWord) (s : State) : kept ((outOr s (execDeq sp w s))) = kept s := by
  unfold execDeq; simp

@[simp] theorem kept_execRecip (sp : Fin 48) (w : IWord) (s : State) : kept ((outOr s (execRecip sp w s))) = kept s := by
  unfold execRecip; simp

@[simp] theorem kept_execSqrt (sp : Fin 48) (w : IWord) (s : State) : kept ((outOr s (execSqrt sp w s))) = kept s := by
  unfold execSqrt; simp

@[simp] theorem kept_execRsqrt (sp : Fin 48) (w : IWord) (s : State) : kept ((outOr s (execRsqrt sp w s))) = kept s := by
  unfold execRsqrt; simp

@[simp] theorem kept_execExp2 (sp : Fin 48) (w : IWord) (s : State) : kept ((outOr s (execExp2 sp w s))) = kept s := by
  unfold execExp2; simp

@[simp] theorem kept_execLog2 (sp : Fin 48) (w : IWord) (s : State) : kept ((outOr s (execLog2 sp w s))) = kept s := by
  unfold execLog2; simp

@[simp] theorem kept_execExp (sp : Fin 48) (w : IWord) (s : State) : kept ((outOr s (execExp sp w s))) = kept s := by
  unfold execExp; simp

@[simp] theorem kept_execSigmoid (sp : Fin 48) (w : IWord) (s : State) : kept ((outOr s (execSigmoid sp w s))) = kept s := by
  unfold execSigmoid; simp

@[simp] theorem kept_execTanh (sp : Fin 48) (w : IWord) (s : State) : kept ((outOr s (execTanh sp w s))) = kept s := by
  unfold execTanh; simp

@[simp] theorem kept_execSilu (sp : Fin 48) (w : IWord) (s : State) : kept ((outOr s (execSilu sp w s))) = kept s := by
  unfold execSilu; simp

@[simp] theorem kept_execGelu (sp : Fin 48) (w : IWord) (s : State) : kept ((outOr s (execGelu sp w s))) = kept s := by
  unfold execGelu; simp

@[simp] theorem kept_execRedsum (sp : Fin 48) (w : IWord) (s : State) : kept ((outOr s (execRedsum sp w s))) = kept s := by
  unfold execRedsum; simp

@[simp] theorem kept_execRedmax (sp : Fin 48) (w : IWord) (s : State) : kept ((outOr s (execRedmax sp w s))) = kept s := by
  unfold execRedmax; simp

@[simp] theorem kept_execSoftmax (sp : Fin 48) (w : IWord) (s : State) : kept ((outOr s (execSoftmax sp w s))) = kept s := by
  unfold execSoftmax; simp

@[simp] theorem kept_execRmsnorm (sp : Fin 48) (w : IWord) (s : State) : kept ((outOr s (execRmsnorm sp w s))) = kept s := by
  unfold execRmsnorm; simp

@[simp] theorem kept_execLayernorm (sp : Fin 48) (w : IWord) (s : State) : kept ((outOr s (execLayernorm sp w s))) = kept s := by
  unfold execLayernorm; simp

@[simp] theorem kept_execFrowRedsum (sp : Fin 48) (w : IWord) (s : State) : kept ((outOr s (execFrowRedsum sp w s))) = kept s := by
  unfold execFrowRedsum; simp

@[simp] theorem kept_execFrowRedmax (sp : Fin 48) (w : IWord) (s : State) : kept ((outOr s (execFrowRedmax sp w s))) = kept s := by
  unfold execFrowRedmax; simp

@[simp] theorem kept_execL2sq (sp : Fin 48) (w : IWord) (s : State) : kept ((outOr s (execL2sq sp w s))) = kept s := by
  unfold execL2sq; simp

@[simp] theorem kept_execIp (sp : Fin 48) (w : IWord) (s : State) : kept ((outOr s (execIp sp w s))) = kept s := by
  unfold execIp; simp

@[simp] theorem kept_execCos (sp : Fin 48) (w : IWord) (s : State) : kept ((outOr s (execCos sp w s))) = kept s := by
  unfold execCos; simp

@[simp] theorem kept_issueBand (w : IWord) (e : Seat) (s : State) : kept (issueBand w e s) = kept s := by
  unfold issueBand
  dsimp only
  repeat' split
  all_goals simp

@[simp] theorem kept_execBandRecv (sp : Fin 48) (w : IWord) (s : State) : kept ((outOr s (execBandRecv sp w s))) = kept s := by
  unfold execBandRecv; simp

@[simp] theorem kept_startBroadcast (s : State) (sp : Nat) :
    kept (startBroadcast s sp) = kept s := by
  unfold startBroadcast
  dsimp only
  repeat' split
  all_goals simp

@[simp] theorem kept_execBroadcastStart (sp : Fin 48) (s : State) :
    kept (outOr s (execBroadcastStart sp s)) = kept s := by
  unfold execBroadcastStart; simp

@[simp] theorem kept_issueSignal (w : IWord) (e : Seat) (s : State) : kept (issueSignal w e s) = kept s := by
  unfold issueSignal
  dsimp only
  repeat' split
  all_goals simp

@[simp] theorem kept_execSignal (sp : Fin 48) (w : IWord) (s : State) : kept ((outOr s (execSignal sp w s))) = kept s := by
  unfold execSignal; simp

@[simp] theorem kept_execSignalEffect (sp : Fin 48) (s : State) : kept ((outOr s (execSignalEffect sp s))) = kept s := by
  unfold execSignalEffect
  dsimp only
  repeat' split
  all_goals simp

@[simp] theorem kept_yieldRank (s : State) (e : Seat) (sem : Nat) :
    kept (yieldRank s e sem) = kept s := by
  unfold yieldRank
  repeat' first
    | (simp; done)
    | (dsimp only [outOr_next, run_done_state, run_wait_state, run_ends_state, fetch_bytes_state, fetch_wait_state, fetch_ends_state, pg_got_or, pg_none_or, pg_wait_or, touch_ready_or, touch_wait_or, touch_ends_or, restore_done_or, restore_bad_or, restore_none_or, restore_wait_or, served_done_state, served_wait_state, shape_run_state, shape_ends_state, shape_wait_state])
    | (split <;> (try (have hk := kept_got s ‹_ = PageGrant.got _›; simp at hk)))
    | (refine (kept_foldl _ ?_ _ _).trans ?_; (intro t a))
    | (simp_all; done)

@[simp] theorem kept_issueWait (w : IWord) (e : Seat) (s : State) :
    kept (issueWait w e s) = kept s := by
  unfold issueWait
  dsimp only
  repeat' split
  all_goals simp

@[simp] theorem kept_execWait (sp : Fin 48) (w : IWord) (s : State) : kept ((outOr s (execWait sp w s))) = kept s := by
  unfold execWait; simp

@[simp] theorem kept_leaveLoop (w : IWord) (e : Seat) (s : State) : kept (leaveLoop w e s) = kept s := by
  unfold leaveLoop; simp

@[simp] theorem kept_enterLoop (w : IWord) (t next : Nat) (e : Seat) (s : State) : kept (enterLoop w t next e s) = kept s := by
  unfold enterLoop; simp

@[simp] theorem kept_workLocalGo (w : IWord) (e : Seat) (s : State) : kept (workLocalGo w e s) = kept s := by
  unfold workLocalGo
  dsimp only
  repeat' split
  all_goals simp

@[simp] theorem kept_workCounterGo (w : IWord) (e : Seat) (s : State) : kept (workCounterGo w e s) = kept s := by
  unfold workCounterGo
  dsimp only
  repeat' split
  all_goals simp

@[simp] theorem kept_workInitGo (w : IWord) (e : Seat) (s : State) : kept (workInitGo w e s) = kept s := by
  unfold workInitGo; simp

@[simp] theorem kept_execWorkLocal (sp : Fin 48) (w : IWord) (s : State) : kept ((outOr s (execWorkLocal sp w s))) = kept s := by
  unfold execWorkLocal; simp

@[simp] theorem kept_execWorkCounter (sp : Fin 48) (w : IWord) (s : State) : kept ((outOr s (execWorkCounter sp w s))) = kept s := by
  unfold execWorkCounter; simp

@[simp] theorem kept_execWorkInit (sp : Fin 48) (w : IWord) (s : State) : kept ((outOr s (execWorkInit sp w s))) = kept s := by
  unfold execWorkInit; simp

@[simp] theorem kept_shapeGo (w : IWord) (e : Seat) (s : State) : kept (shapeGo w e s) = kept s := by
  unfold shapeGo
  dsimp only
  repeat' split
  all_goals simp

@[simp] theorem kept_execShape (sp : Fin 48) (w : IWord) (s : State) : kept ((outOr s (execShape sp w s))) = kept s := by
  unfold execShape; simp

@[simp] theorem kept_fenceGo (w : IWord) (e : Seat) (s : State) : kept (fenceGo w e s) = kept s := by
  unfold fenceGo
  dsimp only
  repeat' split
  all_goals simp

@[simp] theorem kept_execFence (sp : Fin 48) (w : IWord) (s : State) : kept ((outOr s (execFence sp w s))) = kept s := by
  unfold execFence; simp

end Sys2Proof.Machine
end

