-- ==== Sys2Proof/Laws/KeptHost.lean ====
section
/-! SUPPORT. What the operations of storage, the host link, memory, jobs, drafts, tenancy, the treadle and plies keep. -/

set_option linter.unusedTactic false
set_option linter.unreachableTactic false
set_option linter.unusedSimpArgs false
set_option linter.unusedVariables false

namespace Sys2Proof.Machine

@[simp] theorem kept_runStorage (s : State) (id opcode : Nat) (k : Op → Store → List (Nat × Nat) → State → State)
    (h : ∀ o st l t, kept (k o st l t) = kept t) : kept (runStorage s id opcode k) = kept s := by
  unfold runStorage
  refine kept_runOp _ _ _ _ _ fun o t => ?_
  dsimp only
  split
  · rfl
  · refine kept_checks _ _ _ _ ?_
    repeat' first
      | rfl
      | exact h _ _ _ _
      | exact kept_fail _ _ _ _
      | refine kept_withPartner _ _ _ _ _ ?_
      | split

@[simp] theorem kept_toBuffers (s : State) (p : Nat) (a0 : List (Nat × Nat)) (a1 : Nat) (a2 : List Byte) : kept (toBuffers s p a0 a1 a2) = kept s := by
  fun_induction toBuffers <;> simp_all

@[simp] theorem kept_readEffect (s : State) (id : Nat) (o : Op) (st : Store) (bufs : List (Nat × Nat)) : kept (readEffect s id o st bufs) = kept s := by
  unfold readEffect
  dsimp only
  repeat' split
  all_goals simp

@[simp] theorem kept_execRead (op : Nat) (s : State) : kept ((outOr s (execRead op s))) = kept s := by
  unfold execRead; simp

@[simp] theorem kept_writeUnits (s : State) (storeId : Nat) (st : Store) (atomic : Nat) (trim : Bool) (sector count : Nat) (src : Nat → Byte)
    (l : List Nat) (acc : List MapChange) :
    kept (((writeUnits s storeId st atomic trim sector count src l acc).map Prod.snd).getD s) = kept s := by
  induction l generalizing s acc with
  | nil => rfl
  | cons u l ih =>
    unfold writeUnits
    dsimp only
    split
    · exact ih _ _
    · split
      · exact ih _ _
      · split
        · rfl
        · rename_i e t h
          have h2 := ih t (acc ++ [{ store := storeId, unit := u, new := e, old := unitEntry st u }])
          have h3 := kept_placeUnit s storeId u (commitSeq s acc atomic u) (mergeUnit ((unitData s st u).getD []) u sector count src)
          rw [h] at h3
          revert h2
          generalize writeUnits t storeId st atomic trim sector count src l _ = r
          cases r <;> simp_all

@[simp] theorem kept_writeEffect (s : State) (id : Nat) (o : Op) (st : Store) (trim : Bool) (src : Nat → Byte) :
    kept (writeEffect s id o st trim src) = kept s := by
  unfold writeEffect
  dsimp only
  split
  · simp
  · split
    · simp
    · rename_i hx
      have hr := kept_some2 (countReads s (o.f 8 2) ((unitsOf (o.f 16 8 * 4096) (o.f 12 4 * 4096)).filter (fun u => !coversUnit (o.f 16 8) (o.f 12 4) u))) hx
      simp only [kept_writeUnits, kept_countReads] at hr
      split <;> split <;> simpa using hr

@[simp] theorem kept_execWrite (op : Nat) (s : State) : kept ((outOr s (execWrite op s))) = kept s := by
  unfold execWrite; simp

@[simp] theorem kept_execTrim (op : Nat) (s : State) : kept ((outOr s (execTrim op s))) = kept s := by
  unfold execTrim; simp

@[simp] theorem kept_execFlush (op : Nat) (s : State) : kept ((outOr s (execFlush op s))) = kept s := by
  unfold execFlush
  rw [outOr_next]
  refine kept_runRow _ _ _ _ _ _ fun o t => ?_
  dsimp only
  repeat' split
  all_goals simp

@[simp] theorem kept_dropFence (s : State) (id : Nat) : kept (dropFence s id) = kept s := by
  unfold dropFence; simp

@[simp] theorem kept_execStorageFence (op : Nat) (s : State) : kept ((outOr s (execStorageFence op s))) = kept s := by
  unfold execStorageFence
  rw [outOr_next]
  refine kept_runRow _ _ _ _ _ _ fun o t => ?_
  dsimp only
  repeat' split
  all_goals simp

@[simp] theorem kept_newSecret (s : State) : kept ((newSecret s).2) = kept s := by
  unfold newSecret; simp

@[simp] theorem kept_bindKey (s : State) (n slice key : Nat) : kept ((bindKey s n slice key).2) = kept s := by
  unfold bindKey; split <;> simp

@[simp] theorem kept_execStoreCreate (op : Nat) (s : State) : kept ((outOr s (execStoreCreate op s))) = kept s := by
  unfold execStoreCreate; simp

@[simp] theorem kept_removeStore (s : State) (n : Nat) : kept (removeStore s n) = kept s := by
  unfold removeStore; simp

@[simp] theorem kept_execStoreDelete (op : Nat) (s : State) : kept ((outOr s (execStoreDelete op s))) = kept s := by
  unfold execStoreDelete
  rw [outOr_next]
  refine kept_runRow _ _ _ _ _ _ fun o t => ?_
  dsimp only
  repeat' split
  all_goals simp

@[simp] theorem kept_startTest (s : State) (id : Nat) (o : Op) (extended : Bool) : kept (startTest s id o extended) = kept s := by
  unfold startTest
  repeat' first
    | (simp; done)
    | split
    | refine kept_checks _ _ _ _ ?_
    | refine kept_withPartner _ _ _ _ _ ?_

@[simp] theorem kept_endTest (s : State) (t : SelfTest) (outcome status : Nat) (r : TestFindings) : kept (endTest s t outcome status r) = kept s := by
  unfold endTest
  dsimp only
  repeat' split
  all_goals simp

@[simp] theorem kept_partFindings (s : State) : kept ((partFindings s).2) = kept s := by
  unfold partFindings; simp

@[simp] theorem kept_abortTest (s : State) : kept (abortTest s) = kept s := by
  unfold abortTest; split <;> simp

@[simp] theorem kept_execSelfTestShort (op : Nat) (s : State) : kept ((outOr s (execSelfTestShort op s))) = kept s := by
  unfold execSelfTestShort
  rw [outOr_next]
  refine kept_runRow _ _ _ _ _ _ fun o t => ?_
  repeat' first
    | (simp; done)
    | dsimp only
    | split
    | refine kept_checks _ _ _ _ ?_
    | refine kept_withPartner _ _ _ _ _ ?_

@[simp] theorem kept_execSelfTestExtended (op : Nat) (s : State) : kept ((outOr s (execSelfTestExtended op s))) = kept s := by
  unfold execSelfTestExtended
  rw [outOr_next]
  refine kept_runRow _ _ _ _ _ _ fun o t => ?_
  repeat' first
    | (simp; done)
    | dsimp only
    | split
    | refine kept_checks _ _ _ _ ?_
    | refine kept_withPartner _ _ _ _ _ ?_

@[simp] theorem kept_execSelfTestAbort (op : Nat) (s : State) : kept ((outOr s (execSelfTestAbort op s))) = kept s := by
  unfold execSelfTestAbort
  rw [outOr_next]
  refine kept_runRow _ _ _ _ _ _ fun o t => ?_
  repeat' first
    | (simp; done)
    | dsimp only
    | split
    | refine kept_checks _ _ _ _ ?_
    | refine kept_withPartner _ _ _ _ _ ?_

@[simp] theorem kept_pickUpTo (s : State) (n : Nat) (l : List Nat) : kept (pickUpTo s n l).2 = kept s := by
  induction l generalizing s n with
  | nil => unfold pickUpTo; rfl
  | cons x l ih =>
    cases n with
    | zero => rfl
    | succ n =>
      unfold pickUpTo
      dsimp only
      split <;> (rw [ih]; exact kept_draw s)

@[simp] theorem kept_applyFindings (s : State) (r : TestFindings) (b : Nat) :
    kept (applyFindings s r b) = kept s := by
  unfold applyFindings; simp

@[simp] theorem kept_execSelfTestDone (found : TestFindings) (s : State) : kept ((outOr s (execSelfTestDone found s))) = kept s := by
  unfold execSelfTestDone; split <;> simp

@[simp] theorem kept_execHoldupOkFall (s : State) : kept ((outOr s (execHoldupOkFall s))) = kept s := by
  unfold execHoldupOkFall; split <;> simp

@[simp] theorem kept_execHoldupOkRise (s : State) : kept ((outOr s (execHoldupOkRise s))) = kept s := by
  unfold execHoldupOkRise; split <;> simp

@[simp] theorem kept_resetJobs (s : State) (p : Nat) : kept (resetJobs s p) = kept s := by
  unfold resetJobs
  repeat' first
    | (simp; done)
    | dsimp only
    | split
    | refine (kept_foldl _ (fun t a => ?_) _ _).trans ?_

@[simp] theorem kept_portReset (s : State) (p : Nat) : kept (portReset s p) = kept s := by
  unfold portReset; simp

@[simp] theorem kept_reportCoreFault (s : State) : kept (reportCoreFault s) = kept s := by
  unfold reportCoreFault
  repeat' split
  all_goals simp

@[simp] theorem kept_enableRings (s : State) (p : Nat) (v : Word) : kept (enableRings s p v) = kept s := by
  unfold enableRings; simp

@[simp] theorem kept_disableRings (s : State) (p : Nat) (v : Word) : kept (disableRings s p v) = kept s := by
  unfold disableRings
  dsimp only
  repeat' split
  all_goals simp

@[simp] theorem kept_execPortReady (p : Fin 4) (s : State) : kept ((outOr s (execPortReady p s))) = kept s := by
  unfold execPortReady
  dsimp only
  repeat' split
  all_goals simp

@[simp] theorem kept_rereadLines (s : State) (p : Nat) (lines : List Nat) : kept (rereadLines s p lines) = kept s := by
  unfold rereadLines; simp

@[simp] theorem kept_execDoorbellInvalidate (p : Fin 4) (line : Nat) (stores : List (Nat × Byte)) (s : State) : kept ((outOr s (execDoorbellInvalidate p line stores s))) = kept s := by
  unfold execDoorbellInvalidate
  dsimp only
  repeat' split
  all_goals simp

@[simp] theorem kept_execDoorbellPoll (p : Fin 4) (stores : List (Nat × Byte)) (s : State) : kept ((outOr s (execDoorbellPoll p stores s))) = kept s := by
  unfold execDoorbellPoll
  dsimp only
  repeat' split
  all_goals simp

@[simp] theorem kept_refillCredits (s : State) : kept (refillCredits s) = kept s := by
  unfold refillCredits; split <;> simp

@[simp] theorem kept_takeSnap (s : State) (id : Nat) (o : Op) :
    kept (takeSnap s id o) = kept s := by
  unfold takeSnap; split <;> rfl

@[simp] theorem kept_fetchOne (s : State) (p sq : Nat) (r : SubRing) :
    kept (fetchOne s p sq r) = kept s := by
  unfold fetchOne
  dsimp only
  repeat' split
  all_goals simp

@[simp] theorem kept_execDescriptorFetch (p : Fin 4) (sq : Fin 256) (s : State) : kept ((outOr s (execDescriptorFetch p sq s))) = kept s := by
  unfold execDescriptorFetch
  dsimp only
  repeat' split
  all_goals simp

@[simp] theorem kept_execHeldEntryPost (p : Fin 4) (s : State) :
    kept (outOr s (execHeldEntryPost p s)) = kept s := by
  unfold execHeldEntryPost; simp

@[simp] theorem kept_execInterruptCoalesceTimeout (p : Fin 4) (cq : Fin 256) (s : State) : kept ((outOr s (execInterruptCoalesceTimeout p cq s))) = kept s := by
  unfold execInterruptCoalesceTimeout
  dsimp only
  repeat' split
  all_goals simp

@[simp] theorem kept_useWindow (s : State) (w : Window) (l : Nat) :
    kept (useWindow s w l) = kept s := by
  unfold useWindow; simp

@[simp] theorem kept_serveLine (s : State) (p addr : Nat) (st : LineState) : kept (serveLine s p addr st) = kept s := by
  unfold serveLine
  dsimp only
  repeat' split
  all_goals simp

@[simp] theorem kept_execCoherentRead (p : Fin 4) (addr : Nat) (s : State) : kept ((outOr s (execCoherentRead p addr s))) = kept s := by
  unfold execCoherentRead; simp

@[simp] theorem kept_execReadForOwnership (p : Fin 4) (addr : Nat) (s : State) : kept ((outOr s (execReadForOwnership p addr s))) = kept s := by
  unfold execReadForOwnership; simp

@[simp] theorem kept_execNonAllocatingWrite (p : Fin 4) (addr : Nat) (data : List Byte) (s : State) : kept ((outOr s (execNonAllocatingWrite p addr data s))) = kept s := by
  unfold execNonAllocatingWrite
  dsimp only
  repeat' split
  all_goals simp

@[simp] theorem kept_execRecallResponse (p : Fin 4) (addr : Nat) (answer : RecallAnswer) (s : State) : kept ((outOr s (execRecallResponse p addr answer s))) = kept s := by
  unfold execRecallResponse
  dsimp only
  repeat' split
  all_goals simp

@[simp] theorem kept_execRecallTimeout (p : Fin 4) (s : State) : kept ((outOr s (execRecallTimeout p s))) = kept s := by
  unfold execRecallTimeout
  dsimp only
  repeat' split
  all_goals simp

@[simp] theorem kept_execAhlLinkLost (p : Fin 4) (s : State) : kept ((outOr s (execAhlLinkLost p s))) = kept s := by
  unfold execAhlLinkLost; split <;> simp

@[simp] theorem kept_execAhlLinkRestored (p : Fin 4) (s : State) : kept ((outOr s (execAhlLinkRestored p s))) = kept s := by
  unfold execAhlLinkRestored
  dsimp only
  repeat' split
  all_goals simp

@[simp] theorem kept_execHoldBeatsExpiry (p : Fin 4) (s : State) : kept ((outOr s (execHoldBeatsExpiry p s))) = kept s := by
  unfold execHoldBeatsExpiry
  dsimp only
  repeat' split
  all_goals simp

@[simp] theorem kept_execPartnerLinkReset (p : Fin 4) (s : State) : kept ((outOr s (execPartnerLinkReset p s))) = kept s := by
  unfold execPartnerLinkReset; simp

@[simp] theorem kept_execTeardownComplete (p : Fin 4) (s : State) : kept ((outOr s (execTeardownComplete p s))) = kept s := by
  unfold execTeardownComplete; split <;> simp

@[simp] theorem kept_execAhlLaneFailure (p : Fin 4) (lane : Fin 9) (s : State) : kept ((outOr s (execAhlLaneFailure p lane s))) = kept s := by
  unfold execAhlLaneFailure
  dsimp only
  repeat' split
  all_goals simp

@[simp] theorem kept_execCqCreate (op : Nat) (s : State) : kept ((outOr s (execCqCreate op s))) = kept s := by
  unfold execCqCreate; simp

@[simp] theorem kept_execSqCreate (op : Nat) (s : State) : kept ((outOr s (execSqCreate op s))) = kept s := by
  unfold execSqCreate; simp

@[simp] theorem kept_execRingDelete (op : Nat) (s : State) : kept ((outOr s (execRingDelete op s))) = kept s := by
  unfold execRingDelete
  rw [outOr_next]
  refine kept_runRow _ _ _ _ _ _ fun o t => ?_
  dsimp only
  repeat' split
  all_goals simp

@[simp] theorem kept_execRingDeleteComplete (op : Nat) (s : State) : kept ((outOr s (execRingDeleteComplete op s))) = kept s := by
  unfold execRingDeleteComplete
  rw [outOr_next]
  refine kept_runRow _ _ _ _ _ _ fun o t => ?_
  dsimp only
  repeat' split
  all_goals simp

@[simp] theorem kept_mapPages (s : State) (q first : Nat) (kind : PageKind) (n : Nat) :
    kept (PageGrant.or s (mapPages s q first kind n)) = kept s := by
  induction n generalizing s first with
  | zero => rfl
  | succ n ih =>
    unfold mapPages
    split
    · rename_i t e
      have h := kept_obtainPage s q
      rw [e] at h
      have h3 := ih (modSlice t q (fun x =>
        { x with pages := insertKey x.pages first { kind := kind, lastUse := t.trd.beat, parked := [] },
                 pool := zeroRange x.pool (pageBytes * first) pageBytes })) (first + 1)
      dsimp only
      revert h3
      generalize mapPages _ q (first + 1) kind n = r
      cases r <;> simp_all [PageGrant.or]
    · simp

@[simp] theorem kept_ctlWrite (s : State) (who : Requester) (off : Nat) (k : State → State) (h : ∀ t, kept (k t) = kept t) : kept (ctlWrite s who off k) = kept s := by
  unfold ctlWrite
  split
  · simp
  · split
    · rfl
    · exact h s

@[simp] theorem kept_execWindowMap (op : Nat) (s : State) : kept ((outOr s (execWindowMap op s))) = kept s := by
  unfold execWindowMap
  repeat' first
    | (simp; done)
    | (dsimp only [outOr_next, run_done_state, run_wait_state, run_ends_state, fetch_bytes_state, fetch_wait_state, fetch_ends_state, pg_got_or, pg_none_or, pg_wait_or, touch_ready_or, touch_wait_or, touch_ends_or, restore_done_or, restore_bad_or, restore_none_or, restore_wait_or, served_done_state, served_wait_state, shape_run_state, shape_ends_state, shape_wait_state])
    | (split <;> (try (have hk := kept_got t ‹_ = PageGrant.got _›; simp at hk)))
    | (refine kept_runRow _ _ _ _ _ _ ?_; (intro o t))
    | (refine kept_runOp _ _ _ _ _ ?_; (intro o t))
    | (refine kept_checks _ _ _ _ ?_)
    | (refine kept_withPartner _ _ _ _ _ ?_)
    | (refine kept_runAll _ ?_ _ _; (intro t a))
    | (refine kept_ctlWrite _ _ _ _ ?_; (intro t))
    | (refine (kept_foldl _ ?_ _ _).trans ?_; (intro t a))
    | (simp_all; done)

@[simp] theorem kept_execWindowUnmap (op : Nat) (s : State) : kept ((outOr s (execWindowUnmap op s))) = kept s := by
  unfold execWindowUnmap
  rw [outOr_next]
  refine kept_runRow _ _ _ _ _ _ fun o t => ?_
  dsimp only
  repeat' split
  all_goals simp

@[simp] theorem kept_unmapPages (s : State) (q first count : Nat) : kept (unmapPages s q first count) = kept s := by
  unfold unmapPages; simp

@[simp] theorem kept_mapHanks (s : State) (q first count : Nat) : kept (mapHanks s q first count) = kept s := by
  unfold mapHanks; simp

@[simp] theorem kept_clearPages (s : State) (q first count : Nat) : kept (clearPages s q first count) = kept s := by
  unfold clearPages; simp

@[simp] theorem kept_execPoolMap (op : Nat) (s : State) : kept ((outOr s (execPoolMap op s))) = kept s := by
  unfold execPoolMap
  repeat' first
    | (simp; done)
    | (dsimp only [outOr_next, run_done_state, run_wait_state, run_ends_state, fetch_bytes_state, fetch_wait_state, fetch_ends_state, pg_got_or, pg_none_or, pg_wait_or, touch_ready_or, touch_wait_or, touch_ends_or, restore_done_or, restore_bad_or, restore_none_or, restore_wait_or, served_done_state, served_wait_state, shape_run_state, shape_ends_state, shape_wait_state])
    | (split <;> (try (have hk := kept_got t ‹_ = PageGrant.got _›; simp at hk)))
    | (refine kept_runRow _ _ _ _ _ _ ?_; (intro o t))
    | (refine kept_runOp _ _ _ _ _ ?_; (intro o t))
    | (refine kept_checks _ _ _ _ ?_)
    | (refine kept_withPartner _ _ _ _ _ ?_)
    | (refine kept_runAll _ ?_ _ _; (intro t a))
    | (refine kept_ctlWrite _ _ _ _ ?_; (intro t))
    | (refine (kept_foldl _ ?_ _ _).trans ?_; (intro t a))
    | (simp_all; done)

@[simp] theorem kept_withImage (s : State) (id : Nat) (o : Op) (bad : List Byte → Option Nat) (entry : List Byte → Nat)
    (tables : List Byte → List Byte → Option Nat) (ok : List Byte → State → State) (h : ∀ b t, kept (ok b t) = kept t) :
    kept (withImage s id o bad entry tables ok) = kept s := by
  unfold withImage
  dsimp only
  repeat' split
  all_goals simp [h]

@[simp] theorem kept_loadSkein (s : State) (id : Nat) (o : Op) (image : List Byte) : kept (loadSkein s id o image) = kept s := by
  unfold loadSkein
  dsimp only
  repeat' split
  all_goals simp

@[simp] theorem kept_execSkeinLoad (op : Nat) (s : State) : kept ((outOr s (execSkeinLoad op s))) = kept s := by
  unfold execSkeinLoad
  rw [outOr_next]
  refine kept_runRow _ _ _ _ _ _ fun o t => ?_
  repeat' first
    | (simp; done)
    | dsimp only
    | split
    | refine kept_checks _ _ _ _ ?_
    | refine kept_withPartner _ _ _ _ _ ?_

@[simp] theorem kept_dropSkein (s : State) (h : Nat) : kept (dropSkein s h) = kept s := by
  unfold dropSkein; simp

@[simp] theorem kept_execSkeinRelease (op : Nat) (s : State) : kept ((outOr s (execSkeinRelease op s))) = kept s := by
  unfold execSkeinRelease
  rw [outOr_next]
  refine kept_runRow _ _ _ _ _ _ fun o t => ?_
  dsimp only
  repeat' split
  all_goals simp

@[simp] theorem kept_pinPage (s : State) (q h : Nat) (k : Skein) (page : Nat) : kept (pinPage s q h k page).state = kept s := by
  unfold pinPage
  split
  · rw [fetch_bytes_state, kept_modSlice]
  · split
    · rename_i s1 b hx
      split
      · rename_i hy
        rw [fetch_bytes_state, kept_modSlice, kept_got s1 hy, kept_obtainPage, kept_bytes hx, kept_readSkein]
      · rw [fetch_wait_state]
    · rw [kept_readSkein]

@[simp] theorem kept_pinAll (q h : Nat) (k : Skein) (l : List Nat) (s : State) : kept (pinAll q h k l s).state = kept s := by
  induction l generalizing s with
  | nil => rfl
  | cons p l ih =>
    unfold pinAll
    have hp := kept_pinPage s q h k p
    split
    · rename_i e; rw [e] at hp; rw [ih]; exact hp
    · exact hp

@[simp] theorem kept_execSkeinPin (op : Nat) (s : State) : kept ((outOr s (execSkeinPin op s))) = kept s := by
  unfold execSkeinPin
  repeat' first
    | (simp; done)
    | (dsimp only [outOr_next, run_done_state, run_wait_state, run_ends_state, fetch_bytes_state, fetch_wait_state, fetch_ends_state, pg_got_or, pg_none_or, pg_wait_or, touch_ready_or, touch_wait_or, touch_ends_or, restore_done_or, restore_bad_or, restore_none_or, restore_wait_or, served_done_state, served_wait_state, shape_run_state, shape_ends_state, shape_wait_state])
    | (split <;> (try (have hk := kept_bytes ‹_ = Fetch.bytes _ _›; simp at hk)) <;> (try (have hk := kept_fwait ‹_ = Fetch.wait _›; simp at hk)) <;> (try (have hk := kept_fends ‹_ = Fetch.ends _ _›; simp at hk)))
    | (refine kept_runRow _ _ _ _ _ _ ?_; (intro o t))
    | (refine kept_runOp _ _ _ _ _ ?_; (intro o t))
    | (refine kept_checks _ _ _ _ ?_)
    | (refine kept_withPartner _ _ _ _ _ ?_)
    | (refine kept_runAll _ ?_ _ _; (intro t a))
    | (refine kept_ctlWrite _ _ _ _ ?_; (intro t))
    | (refine (kept_foldl _ ?_ _ _).trans ?_; (intro t a))
    | (simp_all; done)

@[simp] theorem kept_execSkeinUnpin (op : Nat) (s : State) : kept ((outOr s (execSkeinUnpin op s))) = kept s := by
  unfold execSkeinUnpin
  rw [outOr_next]
  refine kept_runRow _ _ _ _ _ _ fun o t => ?_
  dsimp only
  repeat' split
  all_goals simp

@[simp] theorem kept_parkHank (s : State) (q page : Nat) (keep : Bool) :
    kept ((parkHank s q page keep).getD s) = kept s := by
  unfold parkHank
  have h := kept_parkCopy s q page
  cases hr : parkCopy s q page with
  | none => rfl
  | some t =>
    rw [hr] at h
    simp only [Option.map_some, Option.getD_some] at h ⊢
    repeat' split
    all_goals simpa using h

@[simp] theorem kept_parkEach (s : State) (q : Nat) (keep : Bool) (l : List Nat) : kept (parkEach s q keep l).1 = kept s := by
  induction l generalizing s with
  | nil => rfl
  | cons p l ih =>
    unfold parkEach
    split
    · rename_i h
      rw [ih, kept_some s h, kept_parkHank]
    · rfl

@[simp] theorem kept_parkHanks (s : State) (op : Nat) (o : Op) (todo : List Nat) :
    kept (parkHanks s op o todo) = kept s := by
  unfold parkHanks
  dsimp only
  have hr := kept_parkEach s o.slice (bit (o.f 16 1) 0) (todo.filter (fun p => !pageProtected s o.slice p))
  split <;> (rename_i h; rw [h] at hr)
  · simpa using hr
  · split <;> simpa using hr

@[simp] theorem kept_execHankPark (op : Nat) (s : State) :
    kept (outOr s (execHankPark op s)) = kept s := by
  unfold execHankPark
  first | rw [outOr_next] | skip
  refine kept_runOp _ _ _ _ _ fun o t => ?_
  repeat' first
    | (simp; done)
    | (refine kept_checks _ _ _ _ ?_)
    | (refine kept_withPartner _ _ _ _ _ ?_)
    | (rename_i h; simp [kept_pair h]; done)
    | dsimp only
    | split

@[simp] theorem kept_restoreHank (s : State) (q page : Nat) : kept ((Restore.or s (restoreHank s q page))) = kept s := by
  unfold restoreHank
  repeat' first
    | (simp; done)
    | (dsimp only [outOr_next, run_done_state, run_wait_state, run_ends_state, fetch_bytes_state, fetch_wait_state, fetch_ends_state, pg_got_or, pg_none_or, pg_wait_or, touch_ready_or, touch_wait_or, touch_ends_or, restore_done_or, restore_bad_or, restore_none_or, restore_wait_or, served_done_state, served_wait_state, shape_run_state, shape_ends_state, shape_wait_state])
    | (split <;> (try (have hk := kept_got s ‹_ = PageGrant.got _›; simp at hk)))
    | (refine kept_runRow _ _ _ _ _ _ ?_; (intro o t))
    | (refine kept_runOp _ _ _ _ _ ?_; (intro o t))
    | (refine kept_checks _ _ _ _ ?_)
    | (refine kept_withPartner _ _ _ _ _ ?_)
    | (refine kept_runAll _ ?_ _ _; (intro t a))
    | (refine kept_ctlWrite _ _ _ _ ?_; (intro t))
    | (refine (kept_foldl _ ?_ _ _).trans ?_; (intro t a))
    | (simp_all; done)

@[simp] theorem kept_restoreAll (op q : Nat) (l : List Nat) (s : State) : kept (restoreAll op q l s) = kept s := by
  induction l generalizing s with
  | nil => unfold restoreAll; simp
  | cons p l ih =>
    unfold restoreAll
    have hp := kept_restoreHank s q p
    split
    · rename_i e; rw [e] at hp; rw [ih]; exact hp
    · simp
    · rfl
    · rename_i e; rw [e] at hp; rw [kept_fail]; exact hp

@[simp] theorem kept_execHankRestore (op : Nat) (s : State) : kept ((outOr s (execHankRestore op s))) = kept s := by
  unfold execHankRestore; simp

@[simp] theorem kept_endWaiting (s : State) (q page status : Nat) : kept (endWaiting s q page status) = kept s := by
  unfold endWaiting; simp

@[simp] theorem kept_settleSlice (s : State) (q : Nat) : kept (settleSlice s q) = kept s := by
  unfold settleSlice
  repeat' first
    | (simp; done)
    | dsimp only
    | split
    | refine (kept_foldl _ (fun t a => ?_) _ _).trans ?_

@[simp] theorem kept_execDemandRestore (slice : Fin 64) (page : Nat) (s : State) : kept ((outOr s (execDemandRestore slice page s))) = kept s := by
  unfold execDemandRestore
  repeat' first
    | (simp; done)
    | (dsimp only [outOr_next, run_done_state, run_wait_state, run_ends_state, fetch_bytes_state, fetch_wait_state, fetch_ends_state, pg_got_or, pg_none_or, pg_wait_or, touch_ready_or, touch_wait_or, touch_ends_or, restore_done_or, restore_bad_or, restore_none_or, restore_wait_or, served_done_state, served_wait_state, shape_run_state, shape_ends_state, shape_wait_state])
    | (split <;> (try (have hk := kept_rdone s ‹_ = Restore.done _›; simp at hk)) <;> (try (have hk := kept_rbad s ‹_ = Restore.bad _›; simp at hk)))
    | (refine kept_runRow _ _ _ _ _ _ ?_; (intro o t))
    | (refine kept_runOp _ _ _ _ _ ?_; (intro o t))
    | (refine kept_checks _ _ _ _ ?_)
    | (refine kept_withPartner _ _ _ _ _ ?_)
    | (refine kept_runAll _ ?_ _ _; (intro t a))
    | (refine kept_ctlWrite _ _ _ _ ?_; (intro t))
    | (refine (kept_foldl _ ?_ _ _).trans ?_; (intro t a))
    | (simp_all; done)

@[simp] theorem kept_prefetchSkein (s : State) (q h page : Nat) : kept (Restore.or s (prefetchSkein s q h page)) = kept s := by
  unfold prefetchSkein
  split
  · rename_i k x _ _
    split
    · rfl
    · split
      · simp
      · have hr := kept_readSkein s q h k (pageBytes * page) (min pageBytes (k.size - pageBytes * page))
        split
        · rename_i s1 b hx
          rw [hx] at hr
          have hp := kept_obtainPage s1 q
          split
          · rename_i hy; rw [hy] at hp; simp only [restore_done_or, kept_modSlice]; exact hp.trans hr
          · rfl
          · rfl
        · rfl
        · rename_i hx; rw [hx] at hr; exact hr
  · rfl

@[simp] theorem kept_prefetchPage (s : State) (q : Nat) (j : Job) (d : Directive) (page : Nat) : kept ((Restore.or s (prefetchPage s q j d page))) = kept s := by
  unfold prefetchPage
  repeat' split
  all_goals simp

@[simp] theorem kept_setDir (s : State) (jid i : Nat) (d : DirState) : kept (setDir s jid i d) = kept s := by
  unfold setDir; simp

@[simp] theorem kept_serve (s : State) (jid i n q : Nat) (j : Job) (d : Directive) (k m : Nat) : kept (serve s jid i n q j d k m) = kept s := by
  induction m generalizing s k with
  | zero => unfold serve; simp
  | succ m ih =>
    unfold serve
    have hp := kept_prefetchPage s q j d (d.first + k)
    split
    · rename_i e; rw [e] at hp; rw [ih]; exact hp
    · rename_i e; rw [e] at hp; rw [ih]; exact hp
    · simp
    · split
      · simp
      · rw [ih]; rfl

@[simp] theorem kept_issueDirective (s : State) (jid i : Nat) (j : Job) (d : Directive) (st : DirState) : kept (issueDirective s jid i j d st) = kept s := by
  unfold issueDirective
  dsimp only
  repeat' split
  all_goals simp

@[simp] theorem kept_draftDirective (s : State) (jid : Nat) (j : Job) (r : DraftRun) (idx : Nat) : kept (draftDirective s jid j r idx) = kept s := by
  unfold draftDirective
  dsimp only
  repeat' split
  all_goals simp

@[simp] theorem kept_execPrefetchDirectiveIssue (job idx : Nat) (s : State) : kept ((outOr s (execPrefetchDirectiveIssue job idx s))) = kept s := by
  unfold execPrefetchDirectiveIssue
  repeat' split
  all_goals simp

@[simp] theorem kept_execLateLimitExpiry (job : Nat) (s : State) : kept ((outOr s (execLateLimitExpiry job s))) = kept s := by
  unfold execLateLimitExpiry
  repeat' split
  all_goals simp

@[simp] theorem kept_setSpnMap (s : State) (l : Nat) (e : MapEntry) : kept (setSpnMap s l e) = kept s := by
  unfold setSpnMap; simp

@[simp] theorem kept_swapSpindle (s : State) (l dest : Nat) : kept (swapSpindle s l dest) = kept s := by
  unfold swapSpindle
  dsimp only
  repeat' split
  all_goals simp

@[simp] theorem kept_completeSpindleRepair (s : State) (id l dest : Nat) : kept (completeSpindleRepair s id l dest) = kept s := by
  unfold completeSpindleRepair; simp

@[simp] theorem kept_applyRepairs (s : State) (spindles : List Nat) : kept (applyRepairs s spindles) = kept s := by
  unfold applyRepairs; simp

@[simp] theorem kept_submitChecked (s : State) (op : Nat) (o : Op) (b progBytes dirBytes : List Byte) : kept (submitChecked s op o b progBytes dirBytes) = kept s := by
  unfold submitChecked
  dsimp only
  repeat' split
  all_goals simp

@[simp] theorem kept_execJobSubmit (op : Nat) (s : State) : kept ((outOr s (execJobSubmit op s))) = kept s := by
  unfold execJobSubmit
  rw [outOr_next]
  refine kept_runRow _ _ _ _ _ _ fun o t => ?_
  repeat' first
    | (simp; done)
    | dsimp only
    | split
    | refine kept_checks _ _ _ _ ?_
    | refine kept_withPartner _ _ _ _ _ ?_

@[simp] theorem kept_touchShapes (s : State) (q : Nat) (t : List Byte) (l : List Nat) : kept (Touch.or s (touchShapes s q t l)) = kept s := by
  induction l generalizing s with
  | nil => rfl
  | cons j l ih =>
    unfold touchShapes
    dsimp only
    split
    · have hp := kept_touch s q (field t (16 * j) 1 - 2) (field t (16 * j + 8) 8) 4 false
      split
      · rename_i u e
        rw [e] at hp
        have h2 := ih u
        revert h2
        generalize touchShapes u q t l = r
        cases r <;> simp_all [Touch.or]
      · exact hp
    · exact ih s

@[simp] theorem kept_shapeDecision (s : State) (p q addr : Nat) : kept ((shapeDecision s p q addr).state) = kept s := by
  unfold shapeDecision
  repeat' first
    | (simp; done)
    | (dsimp only [outOr_next, run_done_state, run_wait_state, run_ends_state, fetch_bytes_state, fetch_wait_state, fetch_ends_state, pg_got_or, pg_none_or, pg_wait_or, touch_ready_or, touch_wait_or, touch_ends_or, restore_done_or, restore_bad_or, restore_none_or, restore_wait_or, served_done_state, served_wait_state, shape_run_state, shape_ends_state, shape_wait_state])
    | (split <;> (try (have hk := kept_ready s ‹_ = Touch.ready _›; simp at hk)) <;> (try (have hk := kept_twait s ‹_ = Touch.wait _›; simp at hk)))
    | (refine kept_runRow _ _ _ _ _ _ ?_; (intro o t))
    | (refine kept_runOp _ _ _ _ _ ?_; (intro o t))
    | (refine kept_checks _ _ _ _ ?_)
    | (refine kept_withPartner _ _ _ _ _ ?_)
    | (refine kept_runAll _ ?_ _ _; (intro t a))
    | (refine kept_ctlWrite _ _ _ _ ?_; (intro t))
    | (refine (kept_foldl _ ?_ _ _).trans ?_; (intro t a))
    | (simp_all; done)

@[simp] theorem kept_writeJobStatus (s : State) (jid : Nat) (step : Option Nat) : kept (writeJobStatus s jid step) = kept s := by
  unfold writeJobStatus; split <;> simp

@[simp] theorem kept_takePlace (s : State) (jid : Nat) :
    kept (takePlace s jid) = kept s := by
  unfold takePlace; simp

@[simp] theorem kept_execJobIssue (op : Nat) (s : State) :
    kept (outOr s (execJobIssue op s)) = kept s := by
  unfold execJobIssue
  repeat' first
    | (simp; done)
    | (dsimp only [outOr_next, run_done_state, run_wait_state, run_ends_state, fetch_bytes_state, fetch_wait_state, fetch_ends_state, pg_got_or, pg_none_or, pg_wait_or, touch_ready_or, touch_wait_or, touch_ends_or, restore_done_or, restore_bad_or, restore_none_or, restore_wait_or, served_done_state, served_wait_state, shape_run_state, shape_ends_state, shape_wait_state])
    | (split <;> (try (have hk := kept_shrun ‹_ = ShapeDecision.run _ _›; simp [apply_ite kept] at hk)) <;> (try (have hk := kept_shends ‹_ = ShapeDecision.ends _ _ _ _›; simp [apply_ite kept] at hk)) <;> (try (have hk := kept_shwait ‹_ = ShapeDecision.wait _›; simp [apply_ite kept] at hk)))
    | (refine (kept_foldl _ ?_ _ _).trans ?_; (intro t a))
    | (simp_all; done)

@[simp] theorem kept_seatRank (s : State) (jid r l : Nat) (c : Ctx → Ctx) : kept (seatRank s jid r l c) = kept s := by
  unfold seatRank; split <;> simp

@[simp] theorem kept_contextLost (s : State) (j : Job) :
    kept (contextLost s j).2 = kept s := by
  unfold contextLost; split <;> simp

@[simp] theorem kept_startStep (s : State) (jid : Nat) (j : Job) (sps : List Nat) : kept (startStep s jid j sps) = kept s := by
  unfold startStep; simp

@[simp] theorem kept_withContexts (s : State) (jid : Nat) (j : Job) (k : State → State) (h : ∀ t, kept (k t) = kept t) :
    kept (withContexts s jid j k) = kept s := by
  unfold withContexts
  have hr := kept_contextLost s j
  split <;> (rename_i hx; rw [hx] at hr)
  · simpa using hr
  · rw [h]; exact hr

@[simp] theorem kept_execJobDispatch (job : Nat) (s : State) :
    kept (outOr s (execJobDispatch job s)) = kept s := by
  unfold execJobDispatch
  repeat' first
    | (simp; done)
    | (refine kept_withContexts _ _ _ _ ?_; intro t; simp; done)
    | (rw [outOr_next])
    | split

@[simp] theorem kept_execJobStepTimeLimit (job : Nat) (s : State) : kept ((outOr s (execJobStepTimeLimit job s))) = kept s := by
  unfold execJobStepTimeLimit
  repeat' split
  all_goals simp

@[simp] theorem kept_execJobAbort (op : Nat) (s : State) : kept ((outOr s (execJobAbort op s))) = kept s := by
  unfold execJobAbort
  rw [outOr_next]
  refine kept_runRow _ _ _ _ _ _ fun o t => ?_
  dsimp only
  repeat' split
  all_goals simp

@[simp] theorem kept_execRankResume (job : Nat) (rank : Fin 48) (s : State) :
    kept (outOr s (execRankResume job rank s)) = kept s := by
  unfold execRankResume
  dsimp only
  repeat' first
    | (simp; done)
    | (refine kept_withContexts _ _ _ _ ?_; intro t; simp; done)
    | (rw [outOr_next])
    | split

@[simp] theorem kept_placeDraft (s : State) (id : Nat) (o : Op) (image : List Byte) (steps : List StepRec) (progs : Tbl (List IWord)) (pages : Nat) : kept (placeDraft s id o image steps progs pages) = kept s := by
  unfold placeDraft
  repeat' first
    | (simp; done)
    | (dsimp only [outOr_next, run_done_state, run_wait_state, run_ends_state, fetch_bytes_state, fetch_wait_state, fetch_ends_state, pg_got_or, pg_none_or, pg_wait_or, touch_ready_or, touch_wait_or, touch_ends_or, restore_done_or, restore_bad_or, restore_none_or, restore_wait_or, served_done_state, served_wait_state, shape_run_state, shape_ends_state, shape_wait_state])
    | (split <;> (try (have hk := kept_got s ‹_ = PageGrant.got _›; simp at hk)))
    | (refine kept_runRow _ _ _ _ _ _ ?_; (intro o t))
    | (refine kept_runOp _ _ _ _ _ ?_; (intro o t))
    | (refine kept_checks _ _ _ _ ?_)
    | (refine kept_withPartner _ _ _ _ _ ?_)
    | (refine kept_runAll _ ?_ _ _; (intro t a))
    | (refine kept_ctlWrite _ _ _ _ ?_; (intro t))
    | (refine (kept_foldl _ ?_ _ _).trans ?_; (intro t a))
    | (simp_all; done)

@[simp] theorem kept_loadDraft (s : State) (id : Nat) (o : Op) (image : List Byte) : kept (loadDraft s id o image) = kept s := by
  unfold loadDraft
  dsimp only
  repeat' split
  all_goals simp

@[simp] theorem kept_execDraftLoad (op : Nat) (s : State) : kept ((outOr s (execDraftLoad op s))) = kept s := by
  unfold execDraftLoad
  rw [outOr_next]
  refine kept_runRow _ _ _ _ _ _ fun o t => ?_
  repeat' first
    | (simp; done)
    | dsimp only
    | split
    | refine kept_checks _ _ _ _ ?_
    | refine kept_withPartner _ _ _ _ _ ?_

@[simp] theorem kept_execDraftRelease (op : Nat) (s : State) : kept ((outOr s (execDraftRelease op s))) = kept s := by
  unfold execDraftRelease
  rw [outOr_next]
  refine kept_runRow _ _ _ _ _ _ fun o t => ?_
  dsimp only
  repeat' split
  all_goals simp

@[simp] theorem kept_writeStartBlock (s : State) (jid : Nat) : kept (writeStartBlock s jid) = kept s := by
  unfold writeStartBlock
  repeat' split
  all_goals simp

@[simp] theorem kept_modDraft (s : State) (jid : Nat) (f : DraftRun → DraftRun) : kept (modDraft s jid f) = kept s := by
  unfold modDraft; simp

@[simp] theorem kept_modPly (s : State) (q : Nat) (f : Ply → Ply) : kept (modPly s q f) = kept s := by
  unfold modPly; simp

@[simp] theorem kept_freezeDraft (s : State) (jid : Nat) (n : Notice) (stopped : Bool) :
    kept (freezeDraft s jid n stopped) = kept s := by
  unfold freezeDraft
  repeat' split
  all_goals simp

@[simp] theorem kept_freezeIfDue (s : State) (q : Nat) : kept (freezeIfDue s q) = kept s := by
  unfold freezeIfDue
  repeat' split
  all_goals simp

@[simp] theorem kept_takeNotice (s : State) (q : Nat) (n : Notice) : kept (takeNotice s q n) = kept s := by
  unfold takeNotice
  repeat' split
  all_goals simp

@[simp] theorem kept_issueDraft (s : State) (op : Nat) (o : Op) (b : List Byte) (x : Draft) (d : DraftRun) (vals : List Nat) : kept (issueDraft s op o b x d vals) = kept s := by
  unfold issueDraft; split <;> simp

@[simp] theorem kept_startDraft (s : State) (op : Nat) (o : Op) (x : Draft) : kept (startDraft s op o x) = kept s := by
  unfold startDraft
  dsimp only
  have hr := kept_shapeDecision s o.port o.slice (field (readPartner s o.port (o.f 24 8) 192) 0 8)
  split
  · simp
  · split
    · rename_i hx; rw [kept_shwait hx, hr]
    · rename_i hx
      have h2 := kept_shends hx
      rw [hr] at h2
      split <;> simp [h2]
    · rename_i hx
      have h2 := kept_shrun hx
      rw [hr] at h2
      split <;> simp [h2]

@[simp] theorem kept_execDraftStart (op : Nat) (s : State) : kept ((outOr s (execDraftStart op s))) = kept s := by
  unfold execDraftStart
  repeat' first
    | (simp; done)
    | (dsimp only [outOr_next, run_done_state, run_wait_state, run_ends_state, fetch_bytes_state, fetch_wait_state, fetch_ends_state, pg_got_or, pg_none_or, pg_wait_or, touch_ready_or, touch_wait_or, touch_ends_or, restore_done_or, restore_bad_or, restore_none_or, restore_wait_or, served_done_state, served_wait_state, shape_run_state, shape_ends_state, shape_wait_state])
    | split
    | (refine kept_runRow _ _ _ _ _ _ ?_; (intro o t))
    | (refine kept_runOp _ _ _ _ _ ?_; (intro o t))
    | (refine kept_checks _ _ _ _ ?_)
    | (refine kept_withPartner _ _ _ _ _ ?_)
    | (refine kept_runAll _ ?_ _ _; (intro t a))
    | (refine kept_ctlWrite _ _ _ _ ?_; (intro t))
    | (refine (kept_foldl _ ?_ _ _).trans ?_; (intro t a))

@[simp] theorem kept_voteNext (s : State) (jid : Nat) :
    kept (voteNext s jid) = kept s := by
  unfold voteNext
  repeat' split
  all_goals simp

@[simp] theorem kept_voteEnd (s : State) (q : Nat) :
    kept (voteEnd s q) = kept s := by
  unfold voteEnd
  repeat' split
  all_goals simp

@[simp] theorem kept_voteSend (s : State) (jid : Nat) :
    kept (voteSend s jid) = kept s := by
  unfold voteSend; split <;> simp

@[simp] theorem kept_execVoteSend (job : Nat) (s : State) : kept ((outOr s (execVoteSend job s))) = kept s := by
  unfold execVoteSend
  repeat' split
  all_goals simp

@[simp] theorem kept_endDraftAt (s : State) (jid : Nat) (j : Job) (status detail : Nat) : kept (endDraftAt s jid j status detail) = kept s := by
  unfold endDraftAt; split <;> simp

@[simp] theorem kept_endLate (s : State) (jid : Nat) :
    kept (endLate s jid) = kept s := by
  unfold endLate
  dsimp only
  repeat' split
  all_goals simp

@[simp] theorem kept_holdOrEnd (s : State) (jid : Nat) (j : Job) (d : DraftRun) (cause member : Nat) : kept (holdOrEnd s jid j d cause member) = kept s := by
  unfold holdOrEnd; split <;> simp

@[simp] theorem kept_decideAlone (s : State) (jid : Nat) (j : Job) (d : DraftRun) (x : Draft) : kept (decideAlone s jid j d x) = kept s := by
  unfold decideAlone
  dsimp only
  repeat' split
  all_goals simp

@[simp] theorem kept_decidePly (s : State) (jid : Nat) (j : Job) (d : DraftRun) (x : Draft) (p : Ply) : kept (decidePly s jid j d x p) = kept s := by
  unfold decidePly
  dsimp only
  repeat' split
  all_goals simp

@[simp] theorem kept_voteDecide (s : State) (jid : Nat) :
    kept (voteDecide s jid) = kept s := by
  unfold voteDecide
  repeat' split
  all_goals simp

@[simp] theorem kept_execVoteDecide (job : Nat) (s : State) : kept ((outOr s (execVoteDecide job s))) = kept s := by
  unfold execVoteDecide
  repeat' split
  all_goals simp

@[simp] theorem kept_stepStart (s : State) (jid : Nat) :
    kept (stepStart s jid) = kept s := by
  unfold stepStart
  dsimp only
  repeat' split
  all_goals simp

@[simp] theorem kept_execStepStart (job : Nat) (s : State) :
    kept (outOr s (execStepStart job s)) = kept s := by
  unfold execStepStart; simp

@[simp] theorem kept_saveRank (s : State) (jid r l : Nat) (j : Job) : kept (saveRank s jid r l j) = kept s := by
  unfold saveRank; split <;> simp

@[simp] theorem kept_preempt (s : State) (jid : Nat) : kept (preempt s jid) = kept s := by
  unfold preempt
  repeat' first
    | (simp; done)
    | (dsimp only [outOr_next, run_done_state, run_wait_state, run_ends_state, fetch_bytes_state, fetch_wait_state, fetch_ends_state, pg_got_or, pg_none_or, pg_wait_or, touch_ready_or, touch_wait_or, touch_ends_or, restore_done_or, restore_bad_or, restore_none_or, restore_wait_or, served_done_state, served_wait_state, shape_run_state, shape_ends_state, shape_wait_state])
    | (split <;> (try (have hk := kept_got s ‹_ = PageGrant.got _›; simp at hk)))
    | (refine kept_runRow _ _ _ _ _ _ ?_; (intro o t))
    | (refine kept_runOp _ _ _ _ _ ?_; (intro o t))
    | (refine kept_checks _ _ _ _ ?_)
    | (refine kept_withPartner _ _ _ _ _ ?_)
    | (refine kept_runAll _ ?_ _ _; (intro t a))
    | (refine kept_ctlWrite _ _ _ _ ?_; (intro t))
    | (refine (kept_foldl _ ?_ _ _).trans ?_; (intro t a))
    | (simp_all; done)

@[simp] theorem kept_stepBoundary (s : State) (jid : Nat) (j : Job) : kept (stepBoundary s jid j) = kept s := by
  unfold stepBoundary
  dsimp only
  repeat' split
  all_goals simp

@[simp] theorem kept_completeDraft (s : State) (jid : Nat) : kept (completeDraft s jid) = kept s := by
  unfold completeDraft
  dsimp only
  repeat' split
  all_goals simp

@[simp] theorem kept_freezeStopped (s : State) (jid : Nat) :
    kept (freezeStopped s jid) = kept s := by
  unfold freezeStopped
  repeat' split
  all_goals simp

@[simp] theorem kept_execStepEnd (job : Nat) (s : State) :
    kept (outOr s (execStepEnd job s)) = kept s := by
  unfold execStepEnd
  split
  · rfl
  · split
    · dsimp only
      have h0 : kept ((seatsOf s job).foldl (fun s e => if (lookup s.jobs job).isSome then settle s e else s) s) = kept s :=
        kept_foldl _ (fun t a => by split <;> simp) _ _
      generalize (seatsOf s job).foldl (fun s e => if (lookup s.jobs job).isSome then settle s e else s) s = t at h0 ⊢
      rw [← h0]
      repeat' first
        | (simp; done)
        | (rw [outOr_next])
        | dsimp only
        | split
    · rfl

@[simp] theorem kept_startReady (jid : Nat) (a0 : Nat) (s : State) :
    kept (startReady jid a0 s) = kept s := by
  fun_induction startReady <;> simp_all

@[simp] theorem kept_stopStep (s : State) (jid : Nat) :
    kept (stopStep s jid) = kept s := by
  unfold stopStep
  repeat' split
  all_goals simp

@[simp] theorem kept_execFreezeStopTimeout (job : Nat) (s : State) : kept ((outOr s (execFreezeStopTimeout job s))) = kept s := by
  unfold execFreezeStopTimeout
  repeat' split
  all_goals simp

@[simp] theorem kept_wakeForDraft (s : State) (jid : Nat) :
    kept (wakeForDraft s jid) = kept s := by
  unfold wakeForDraft
  repeat' split
  all_goals simp

@[simp] theorem kept_execVoteRecord (n : Fin 104) (slice : Fin 64) (v : Vote) (s : State) : kept ((outOr s (execVoteRecord n slice v s))) = kept s := by
  unfold execVoteRecord
  dsimp only
  repeat' split
  all_goals simp

@[simp] theorem kept_execMarkerTimeout (slice : Fin 64) (n : Fin 104) (s : State) : kept ((outOr s (execMarkerTimeout slice n s))) = kept s := by
  unfold execMarkerTimeout
  dsimp only
  repeat' split
  all_goals simp

@[simp] theorem kept_trimQueue (s : State) (q : Nat) : kept (trimQueue s q) = kept s := by
  unfold trimQueue; split <;> simp

@[simp] theorem kept_cutMeterAt (s : State) (q end_ begin_ : Nat) (short final : Bool) : kept (cutMeterAt s q end_ begin_ short final) = kept s := by
  unfold cutMeterAt; split <;> simp

@[simp] theorem kept_cutMeter (s : State) (q : Nat) (short final : Bool) : kept (cutMeter s q short final) = kept s := by
  unfold cutMeter; simp

@[simp] theorem kept_cutForLoad (s : State) (beat : Nat) : kept (cutForLoad s beat) = kept s := by
  unfold cutForLoad; simp

@[simp] theorem kept_execMeterRecordCut (s : State) : kept ((outOr s (execMeterRecordCut s))) = kept s := by
  unfold execMeterRecordCut; split <;> simp

@[simp] theorem kept_execMeterSet (op : Nat) (s : State) : kept ((outOr s (execMeterSet op s))) = kept s := by
  unfold execMeterSet; simp

@[simp] theorem kept_execMeterRecordWrite (s : State) : kept ((outOr s (execMeterRecordWrite s))) = kept s := by
  unfold execMeterRecordWrite
  dsimp only
  repeat' split
  all_goals simp

@[simp] theorem kept_makeKey (s : State) (kind q : Nat) : kept (makeKey s kind q) = kept s := by
  unfold makeKey; simp

@[simp] theorem kept_makeFree (n fuel : Nat) (s : State) : kept (makeFree n fuel s).1 = kept s := by
  induction fuel generalizing s with
  | zero => rfl
  | succ k ih =>
    unfold makeFree
    split
    · rfl
    · split
      · split
        · rename_i h
          rw [ih, kept_some s h, kept_evict]
        · rfl
      · rfl

@[simp] theorem kept_execSliceCreate (op : Nat) (s : State) :
    kept (outOr s (execSliceCreate op s)) = kept s := by
  unfold execSliceCreate
  first | rw [outOr_next] | skip
  refine kept_runRow _ _ _ _ _ _ fun o t => ?_
  dsimp only
  repeat' split
  all_goals simp

@[simp] theorem kept_removeSlice (s : State) (q : Nat) : kept (removeSlice s q) = kept s := by
  unfold removeSlice; simp

@[simp] theorem kept_execSliceDelete (op : Nat) (s : State) : kept ((outOr s (execSliceDelete op s))) = kept s := by
  unfold execSliceDelete; simp

@[simp] theorem kept_execStoreShareGrant (op : Nat) (s : State) : kept ((outOr s (execStoreShareGrant op s))) = kept s := by
  unfold execStoreShareGrant; simp

@[simp] theorem kept_execStoreShareRevoke (op : Nat) (s : State) : kept ((outOr s (execStoreShareRevoke op s))) = kept s := by
  unfold execStoreShareRevoke
  rw [outOr_next]
  refine kept_runRow _ _ _ _ _ _ fun o t => ?_
  dsimp only
  repeat' split
  all_goals simp

@[simp] theorem kept_schedChecked (s : State) (id : Nat) (o : Op) (table : List Byte) : kept (schedChecked s id o table) = kept s := by
  unfold schedChecked
  dsimp only
  repeat' split
  all_goals simp

@[simp] theorem kept_execSchedSet (op : Nat) (s : State) : kept ((outOr s (execSchedSet op s))) = kept s := by
  unfold execSchedSet
  rw [outOr_next]
  refine kept_runRow _ _ _ _ _ _ fun o t => ?_
  dsimp only
  repeat' split
  all_goals simp

@[simp] theorem kept_turnRotation (s : State) : kept (turnRotation s) = kept s := by
  unfold turnRotation
  repeat' split
  all_goals simp

@[simp] theorem kept_planOverrun (s : State) (q : Nat) :
    kept (planOverrun s q) = kept s := by
  unfold planOverrun
  repeat' split
  all_goals simp

@[simp] theorem kept_turnSlice (s : State) (q : Nat) : kept (turnSlice s q) = kept s := by
  unfold turnSlice
  dsimp only
  repeat' split
  all_goals simp

@[simp] theorem kept_turnSpindle (s : State) (l : Nat) : kept (turnSpindle s l) = kept s := by
  unfold turnSpindle
  dsimp only
  repeat' split
  all_goals simp

@[simp] theorem kept_execSliceBoundary (s : State) : kept ((outOr s (execSliceBoundary s))) = kept s := by
  unfold execSliceBoundary; simp

@[simp] theorem kept_saveOutgoing (s : State) (l : Nat) :
    kept ((saveOutgoing s l).getD s) = kept s := by
  unfold saveOutgoing
  repeat' split
  all_goals first
    | rfl
    | (simp; done)
    | (rename_i h; have h2 := kept_got s h; simp at h2; simpa using h2)

@[simp] theorem kept_restoreIncoming (s : State) (q l : Nat) :
    kept (restoreIncoming s q l) = kept s := by
  unfold restoreIncoming
  repeat' first
    | (simp; done)
    | (refine kept_withContexts _ _ _ _ ?_; intro t; simp; done)
    | split

@[simp] theorem kept_chargeSwitch (s : State) (q : Option Nat) : kept (chargeSwitch s q) = kept s := by
  unfold chargeSwitch; split <;> simp

@[simp] theorem kept_execSliceSwitch (sp : Fin 48) (s : State) :
    kept (outOr s (execSliceSwitch sp s)) = kept s := by
  unfold execSliceSwitch
  dsimp only
  split
  · rfl
  · split
    · rfl
    · split
      · rfl
      · split
        · rfl
        · rename_i h
          have h2 := kept_some s h
          simp only [kept_saveOutgoing] at h2
          rw [outOr_next]
          repeat' split
          all_goals simpa using h2

@[simp] theorem kept_modTrd (s : State) (f : Trd → Trd) : kept (modTrd s f) = kept s := by
  unfold modTrd; simp

@[simp] theorem kept_switchRef (s : State) (dest : Bool) (software : Bool) : kept (switchRef s dest software) = kept s := by
  unfold switchRef; simp

@[simp] theorem kept_chargeBeat (s : State) : kept (chargeBeat s) = kept s := by
  unfold chargeBeat
  dsimp only
  refine (kept_foldl _ (fun t q => by simp) _ _).trans (kept_foldl _ (fun t p => ?_) _ _)
  split <;> simp

@[simp] theorem kept_sendMarkers (s : State) : kept (sendMarkers s) = kept s := by
  unfold sendMarkers
  repeat' first
    | (simp; done)
    | dsimp only
    | split
    | refine (kept_foldl _ (fun t a => ?_) _ _).trans ?_

@[simp] theorem kept_countStalls (s : State) : kept (countStalls s) = kept s := by
  unfold countStalls; simp

@[simp] theorem kept_countHalt (s : State) : kept (countHalt s) = kept s := by
  unfold countHalt; split <;> simp

@[simp] theorem kept_ageLinks (s : State) : kept (ageLinks s) = kept s := by
  unfold ageLinks; simp

@[simp] theorem kept_trackIdle (s : State) : kept (trackIdle s) = kept s := by
  unfold trackIdle; simp

@[simp] theorem kept_applyLoad (s : State) :
    kept (applyLoad s) = kept s := by
  unfold applyLoad; split <;> simp

@[simp] theorem kept_execReferenceQualified (i : TreadleInput) (s : State) : kept ((outOr s (execReferenceQualified i s))) = kept s := by
  unfold execReferenceQualified; simp

@[simp] theorem kept_loseTimeBase (s : State) : kept (loseTimeBase s) = kept s := by
  unfold loseTimeBase; simp

@[simp] theorem kept_enterHoldover (s : State) (cause : Nat) :
    kept (enterHoldover s cause) = kept s := by
  unfold enterHoldover; simp

@[simp] theorem kept_execReferenceLost (i : TreadleInput) (s : State) :
    kept (outOr s (execReferenceLost i s)) = kept s := by
  unfold execReferenceLost
  dsimp only
  repeat' split
  all_goals simp

@[simp] theorem kept_resumeDraft (s : State) (jid : Nat) : kept (resumeDraft s jid) = kept s := by
  unfold resumeDraft
  dsimp only
  repeat' split
  all_goals simp

@[simp] theorem kept_execPllLock (s : State) : kept ((outOr s (execPllLock s))) = kept s := by
  unfold execPllLock
  dsimp only
  repeat' split
  all_goals simp

@[simp] theorem kept_writeRefSel (s : State) (v : Word) : kept (writeRefSel s v) = kept s := by
  unfold writeRefSel
  dsimp only
  repeat' split
  all_goals simp

@[simp] theorem kept_execRefSelWrite (who : Requester) (v : Word) (s : State) : kept ((outOr s (execRefSelWrite who v s))) = kept s := by
  unfold execRefSelWrite; simp

@[simp] theorem kept_epochSlip (s : State) (b missing : Bool) (offset : Int) : kept (epochSlip s b missing offset) = kept s := by
  unfold epochSlip; simp

@[simp] theorem kept_noteEpoch (s : State) (b ok : Bool) (at_ : Nat) : kept (noteEpoch s b ok at_) = kept s := by
  unfold noteEpoch; simp

@[simp] theorem kept_execEpochPulse (i : TreadleInput) (offset : Int) (s : State) : kept ((outOr s (execEpochPulse i offset s))) = kept s := by
  unfold execEpochPulse
  dsimp only
  repeat' split
  all_goals simp

@[simp] theorem kept_execEpochMissing (i : TreadleInput) (s : State) : kept ((outOr s (execEpochMissing i s))) = kept s := by
  unfold execEpochMissing
  dsimp only
  repeat' split
  all_goals simp

@[simp] theorem kept_execBeatMarker (n : Fin 104) (m : Marker) (offset : Int) (s : State) : kept ((outOr s (execBeatMarker n m offset s))) = kept s := by
  unfold execBeatMarker
  dsimp only
  repeat' split
  all_goals simp

@[simp] theorem kept_execSkewLost (s : State) :
    kept (outOr s (execSkewLost s)) = kept s := by
  unfold execSkewLost; split <;> simp

@[simp] theorem kept_adoptNumbering (s : State) (anchor : Bool) (hops beat : Nat) : kept (adoptNumbering s anchor hops beat) = kept s := by
  unfold adoptNumbering; split <;> simp

@[simp] theorem kept_markFormed (s : State) (id : Nat) :
    kept (markFormed s id) = kept s := by
  unfold markFormed; simp

@[simp] theorem kept_formPly (s : State) (id : Nat) (o : Op) (found : PlyExchange) (ok : Ply → State → State) (h : ∀ p t, kept (ok p t) = kept t) :
    kept (formPly s id o found ok) = kept s := by
  unfold formPly
  split
  · split
    · rfl
    · rw [h]
  · refine kept_checks _ _ _ _ ?_
    refine kept_withPartner _ _ _ _ _ ?_
    dsimp only
    repeat' first
      | split
      | (simp [h]; done)

@[simp] theorem kept_execPlyReformForm (op : Nat) (found : PlyExchange) (s : State) : kept ((outOr s (execPlyReformForm op found s))) = kept s := by
  unfold execPlyReformForm; simp

@[simp] theorem kept_bindDraft (s : State) (jid : Nat) (o : Op) (h total : Nat) : kept (bindDraft s jid o h total) = kept s := by
  unfold bindDraft; simp

@[simp] theorem kept_resumeDraftIn (s : State) (id : Nat) (o : Op) (p : Ply) : kept (resumeDraftIn s id o p) = kept s := by
  unfold resumeDraftIn
  dsimp only
  repeat' split
  all_goals simp

@[simp] theorem kept_execPlyReformResume (op : Nat) (found : PlyExchange) (s : State) : kept ((outOr s (execPlyReformResume op found s))) = kept s := by
  unfold execPlyReformResume; simp

@[simp] theorem kept_leavePly (s : State) (q : Nat) : kept (leavePly s q) = kept s := by
  unfold leavePly
  dsimp only
  repeat' split
  all_goals simp

@[simp] theorem kept_execPlyReformDissolve (op : Nat) (s : State) : kept ((outOr s (execPlyReformDissolve op s))) = kept s := by
  unfold execPlyReformDissolve; simp

end Sys2Proof.Machine
end

