-- ==== Sys2Proof/Laws/KeptFabric.lean ====
section
/-! SUPPORT. What the operations of links, the strand fabric and cards keep. -/

set_option linter.unusedTactic false
set_option linter.unreachableTactic false
set_option linter.unusedSimpArgs false
set_option linter.unusedVariables false

namespace Sys2Proof.Machine

@[simp] theorem kept_reportUp (s : State) (n : Nat) (was : Bool) : kept (reportUp s n was) = kept s := by
  unfold reportUp; split <;> simp

@[simp] theorem kept_endTraining (s : State) (n : Nat) (far : FarEnd) :
    kept (endTraining s n far) = kept s := by
  unfold endTraining
  dsimp only
  repeat' split
  all_goals simp

@[simp] theorem kept_execLaneTrainingComplete (n : Fin 104) (far : FarEnd) (s : State) : kept ((outOr s (execLaneTrainingComplete n far s))) = kept s := by
  unfold execLaneTrainingComplete
  dsimp only
  repeat' split
  all_goals simp

@[simp] theorem kept_sendPacket (s : State) (pkt : Option (Nat × Nat)) (k : Packet) :
    kept (sendPacket s pkt k) = kept s := by
  unfold sendPacket; split <;> simp

@[simp] theorem kept_modSrc (s : State) (key : Nat) (f : SrcFlow → SrcFlow) : kept (modSrc s key f) = kept s := by
  unfold modSrc; simp

@[simp] theorem kept_modTxn (s : State) (i : Nat) (f : Txn → Txn) : kept (modTxn s i f) = kept s := by
  unfold modTxn; simp

@[simp] theorem kept_injected (s : State) (q bytes : Nat) :
    kept (injected s q bytes) = kept s := by
  unfold injected; simp

@[simp] theorem kept_sendTx (s : State) (i j : Nat) (t : Txn) (p : TxPkt) :
    kept (sendTx s i j t p) = kept s := by
  unfold sendTx; split <;> simp

@[simp] theorem kept_sendReady (s : State) (a0 : Nat) :
    kept (sendReady s a0) = kept s := by
  fun_induction sendReady <;> simp_all

@[simp] theorem kept_sendAllFlows (s : State) : kept (sendAllFlows s) = kept s := by
  unfold sendAllFlows; simp

@[simp] theorem kept_takeNak (s : State) (l h seq : Nat) : kept (takeNak s l h seq) = kept s := by
  unfold takeNak
  dsimp only
  repeat' split
  all_goals simp

@[simp] theorem kept_acceptFlit (s : State) (l h : Nat) (f : Flit) :
    kept (acceptFlit s l h f) = kept s := by
  unfold acceptFlit
  dsimp only
  repeat' split
  all_goals simp

@[simp] theorem kept_takeAhead (l h : Nat) (a0 : Nat) (s : State) :
    kept (takeAhead l h a0 s) = kept s := by
  fun_induction takeAhead <;> simp_all

@[simp] theorem kept_receiveFlit (s : State) (n ty : Nat) (f : Flit) :
    kept (receiveFlit s n ty f) = kept s := by
  unfold receiveFlit
  dsimp only
  repeat' split
  all_goals simp

@[simp] theorem kept_flitRow (n : Fin 104) (ty : Nat) (f : Flit) (s : State) :
    kept (flitRow n ty f s) = kept s := by
  unfold flitRow; simp

@[simp] theorem kept_execDataFlit (n : Fin 104) (f : Flit) (s : State) : kept ((outOr s (execDataFlit n f s))) = kept s := by
  unfold execDataFlit; simp

@[simp] theorem kept_execMarkerFlit (n : Fin 104) (f : Flit) (s : State) : kept ((outOr s (execMarkerFlit n f s))) = kept s := by
  unfold execMarkerFlit; simp

@[simp] theorem kept_execVoteFlit (n : Fin 104) (f : Flit) (s : State) : kept ((outOr s (execVoteFlit n f s))) = kept s := by
  unfold execVoteFlit; simp

@[simp] theorem kept_execNakFlit (n : Fin 104) (f : Flit) (s : State) : kept ((outOr s (execNakFlit n f s))) = kept s := by
  unfold execNakFlit; simp

@[simp] theorem kept_execAckFlit (n : Fin 104) (f : Flit) (s : State) : kept ((outOr s (execAckFlit n f s))) = kept s := by
  unfold execAckFlit; simp

@[simp] theorem kept_execTrainFlit (n : Fin 104) (f : Flit) (s : State) : kept ((outOr s (execTrainFlit n f s))) = kept s := by
  unfold execTrainFlit; split <;> simp

@[simp] theorem kept_execIdleFlit (n : Fin 104) (f : Flit) (s : State) : kept ((outOr s (execIdleFlit n f s))) = kept s := by
  unfold execIdleFlit; simp

@[simp] theorem kept_execAckTimer (n : Fin 104) (s : State) : kept ((outOr s (execAckTimer n s))) = kept s := by
  unfold execAckTimer
  dsimp only
  repeat' split
  all_goals simp

@[simp] theorem kept_execAckseqTimeout (n : Fin 104) (s : State) : kept ((outOr s (execAckseqTimeout n s))) = kept s := by
  unfold execAckseqTimeout
  dsimp only
  repeat' split
  all_goals simp

@[simp] theorem kept_execRetrainComplete (r : Retrained) (s : State) :
    kept (outOr s (execRetrainComplete r s)) = kept s := by
  unfold execRetrainComplete; split <;> simp

@[simp] theorem kept_execRetrainFail (n : Fin 104) (s : State) : kept ((outOr s (execRetrainFail n s))) = kept s := by
  unfold execRetrainFail
  dsimp only
  repeat' split
  all_goals simp

@[simp] theorem kept_disableLane (s : State) (n : Nat) (v : Word) : kept (disableLane s n v) = kept s := by
  unfold disableLane
  dsimp only
  repeat' split
  all_goals simp

@[simp] theorem kept_enableLane (s : State) (n : Nat) (v : Word) : kept (enableLane s n v) = kept s := by
  unfold enableLane
  dsimp only
  repeat' split
  all_goals simp

@[simp] theorem kept_execLaneDisable (who : Requester) (n : Fin 104) (v : Word) (s : State) : kept ((outOr s (execLaneDisable who n v s))) = kept s := by
  unfold execLaneDisable; split <;> simp

@[simp] theorem kept_execLaneEnable (who : Requester) (n : Fin 104) (v : Word) (s : State) : kept ((outOr s (execLaneEnable who n v s))) = kept s := by
  unfold execLaneEnable; split <;> simp

@[simp] theorem kept_countDrop (s : State) (n : Nat) : kept (countDrop s n) = kept s := by
  unfold countDrop; simp

@[simp] theorem kept_releaseBuffers (s : State) (n : Nat) (k : Packet) :
    kept (releaseBuffers s n k) = kept s := by
  unfold releaseBuffers; split <;> simp

@[simp] theorem kept_execPacketRoute (n : Fin 104) (onVc1 : Bool) (arrivedDim : Option (Fin 6)) (k : Packet) (s : State) : kept ((outOr s (execPacketRoute n onVc1 arrivedDim k s))) = kept s := by
  unfold execPacketRoute; split <;> simp

@[simp] theorem kept_execFabricSet (op : Nat) (s : State) : kept ((outOr s (execFabricSet op s))) = kept s := by
  unfold execFabricSet
  rw [outOr_next]
  refine kept_runRow _ _ _ _ _ _ fun o t => ?_
  dsimp only
  repeat' split
  all_goals simp

@[simp] theorem kept_acceptPacket (s : State) (k : Packet) : kept (acceptPacket s k) = kept s := by
  unfold acceptPacket; simp

@[simp] theorem kept_issueTxn (s : State) (t : Txn) : kept (issueTxn s t) = kept s := by
  unfold issueTxn; split <;> simp

@[simp] theorem kept_refreshFlow (s : State) (node : Nat) : kept (refreshFlow s node) = kept s := by
  unfold refreshFlow; split <;> simp

@[simp] theorem kept_completeTxns (s : State) (op : Nat) : kept (completeTxns s op) = kept s := by
  unfold completeTxns; simp

@[simp] theorem kept_releaseTxns (s : State) (a0 : Nat) : kept (releaseTxns s a0) = kept s := by
  fun_induction releaseTxns <;> simp_all

@[simp] theorem kept_noteRefusals (s : State) : kept (noteRefusals s) = kept s := by
  unfold noteRefusals
  repeat' first
    | (simp; done)
    | dsimp only
    | split
    | refine (kept_foldl _ (fun t a => ?_) _ _).trans ?_

@[simp] theorem kept_settleTxns (s : State) : kept (settleTxns s) = kept s := by
  unfold settleTxns; simp

@[simp] theorem kept_expireTxns (s : State) (p : Txn → Bool) : kept (expireTxns s p) = kept s := by
  unfold expireTxns; simp

@[simp] theorem kept_execTransactionTimeout (op : Nat) (s : State) : kept ((outOr s (execTransactionTimeout op s))) = kept s := by
  unfold execTransactionTimeout; simp

@[simp] theorem kept_modQuery (s : State) (op : Nat) (f : Query → Query) : kept (modQuery s op f) = kept s := by
  unfold modQuery; simp

@[simp] theorem kept_dropQuery (s : State) (op : Nat) : kept (dropQuery s op) = kept s := by
  unfold dropQuery; simp

@[simp] theorem kept_startQuery (s : State) (q : Query) : kept (startQuery s q) = kept s := by
  unfold startQuery; simp

@[simp] theorem kept_answerQuery (s : State) (q : Query) : kept (answerQuery s q) = kept s := by
  unfold answerQuery
  repeat' split
  all_goals simp

@[simp] theorem kept_replyShard (s : State) (q : Query) (r : ShardFrom) (status : Nat) : kept (replyShard s q r status) = kept s := by
  unfold replyShard; simp

@[simp] theorem kept_answerScan (s : State) (q : Query) (c : Scan) : kept (answerScan s q c) = kept s := by
  unfold answerScan
  dsimp only
  repeat' split
  all_goals simp

@[simp] theorem kept_concludeQuery (s : State) (op : Nat) : kept (concludeQuery s op) = kept s := by
  unfold concludeQuery
  repeat' split
  all_goals simp

@[simp] theorem kept_concludeAll (s : State) : kept (concludeAll s) = kept s := by
  unfold concludeAll; simp

@[simp] theorem kept_endLocal (s : State) (op status result : Nat) : kept (endLocal s op status result) = kept s := by
  unfold endLocal; simp

@[simp] theorem kept_afterScan (s : State) (op : Nat) : kept (afterScan s op) = kept s := by
  unfold afterScan
  dsimp only
  repeat' split
  all_goals simp

@[simp] theorem kept_haltQuery (s : State) (op : Nat) :
    kept (haltQuery s op) = kept s := by
  unfold haltQuery
  repeat' split
  all_goals simp

@[simp] theorem kept_endSlot (s : State) (jid status i : Nat) : kept (endSlot s jid status i) = kept s := by
  unfold endSlot; simp

@[simp] theorem kept_slotTouch (s : State) (jid q i tier addr n : Nat) (wr : Bool) (k : State → State) (h : ∀ t, kept (k t) = kept t) :
    kept (slotTouch s jid q i tier addr n wr k) = kept s := by
  unfold slotTouch
  have hp := kept_touch s q tier addr n wr
  split
  · rename_i e; rw [e] at hp; rw [h, kept_noteTouched]; exact hp
  · rename_i e; rw [e] at hp; rw [kept_countDemand]; exact hp
  · simp

@[simp] theorem kept_slotSignal (s : State) (q n : Nat) : kept (slotSignal s q n) = kept s := by
  unfold slotSignal; split <;> simp

@[simp] theorem kept_setSlot (s : State) (jid i : Nat) (t : SlotState) : kept (setSlot s jid i t) = kept s := by
  unfold setSlot; simp

@[simp] theorem kept_modRed (s : State) (jid k : Nat) (f : RedState → RedState) : kept (modRed s jid k f) = kept s := by
  unfold modRed; simp

@[simp] theorem kept_sendTransfer (s : State) (q l : Nat) (came : Option Nat) (h : SlotHeader) (data : List Byte) :
    kept (sendTransfer s q l came h data) = kept s := by
  unfold sendTransfer; simp

@[simp] theorem kept_writeResult (s : State) (jid q k i : Nat) (d : RedEnt) (acc : List Byte) : kept (writeResult s jid q k i d acc) = kept s := by
  unfold writeResult; simp

@[simp] theorem kept_joinChain (s : State) (jid q k i : Nat) (d : RedEnt) (prev : Option (List Byte)) (done : State → State) (h : ∀ t, kept (done t) = kept t) :
    kept (joinChain s jid q k i d prev done) = kept s := by
  unfold joinChain
  refine kept_slotTouch _ _ _ _ _ _ _ _ _ fun t => ?_
  dsimp only
  split
  · have hr := kept_touch (modRed t jid k (fun u => { u with acc := some (redValues t q d prev) })) q d.tier d.base (segSpan d 1) true
    split
    · rename_i hx; rw [hx] at hr; simpa using hr
    · simp [h]
  · simp [h]

@[simp] theorem kept_openTransmit (s : State) (jid : Nat) (j : Job) (r : StepRec) (e : SlotEnt) (i : Nat) :
    kept (openTransmit s jid j r e i) = kept s := by
  unfold openTransmit
  repeat' split
  all_goals simp

@[simp] theorem kept_openReduction (s : State) (jid : Nat) (j : Job) (d : DraftRun) (r : StepRec) (e : SlotEnt) (i : Nat) :
    kept (openReduction s jid j d r e i) = kept s := by
  unfold openReduction
  repeat' split
  all_goals simp

@[simp] theorem kept_openSlot (s : State) (jid idx : Nat) :
    kept (openSlot s jid idx) = kept s := by
  unfold openSlot
  dsimp only
  repeat' split
  all_goals simp

@[simp] theorem kept_execSlotOpen (job idx : Nat) (s : State) :
    kept (outOr s (execSlotOpen job idx s)) = kept s := by
  unfold execSlotOpen; simp

@[simp] theorem kept_openSlots (s : State) (jid : Nat) :
    kept (openSlots s jid) = kept s := by
  unfold openSlots; split <;> simp

@[simp] theorem kept_takeTransfer (s : State) (jid : Nat) (j : Job) (r : StepRec) (link : Nat) (e : SlotEnt) (i : Nat) (data : List Byte) :
    kept (takeTransfer s jid j r link e i data) = kept s := by
  unfold takeTransfer
  repeat' split
  all_goals simp

@[simp] theorem kept_transferTaken (s : State) (jid q link i : Nat) (e : SlotEnt) (n : Nat) :
    kept (transferTaken s jid q link i e n) = kept s := by
  unfold transferTaken
  repeat' split
  all_goals simp

@[simp] theorem kept_endUnmatched (s : State) (jid : Nat) :
    kept (endUnmatched s jid) = kept s := by
  unfold endUnmatched; simp

@[simp] theorem kept_execScheduledTransfer (job : Nat) (link : Fin 96) (hdr : SlotHeader) (data : List Byte) (s : State) :
    kept (outOr s (execScheduledTransfer job link hdr data s)) = kept s := by
  unfold execScheduledTransfer
  dsimp only
  repeat' split
  all_goals simp

@[simp] theorem kept_execStrOpen (op : Nat) (s : State) : kept ((outOr s (execStrOpen op s))) = kept s := by
  unfold execStrOpen
  rw [outOr_next]
  refine kept_runRow _ _ _ _ _ _ fun o t => ?_
  dsimp only
  repeat' split
  all_goals simp

@[simp] theorem kept_execStrClose (op : Nat) (s : State) : kept ((outOr s (execStrClose op s))) = kept s := by
  unfold execStrClose
  rw [outOr_next]
  refine kept_runRow _ _ _ _ _ _ fun o t => ?_
  dsimp only
  repeat' split
  all_goals simp

@[simp] theorem kept_acknowledge (s : State) (k : Packet) (status : Nat) :
    kept (acknowledge s k status) = kept s := by
  unfold acknowledge; simp

@[simp] theorem kept_unqueue (s : State) (k : Packet) : kept (unqueue s k) = kept s := rfl

@[simp] theorem kept_takenOff (s : State) (n : Nat) (k : Packet) : kept (takenOff s n k) = kept s := by
  unfold takenOff; split <;> simp

@[simp] theorem kept_applyPacket (s : State) (k : Packet) (admitted : Nat) (serve : State → Served) (h : ∀ t, kept (serve t).state = kept t) :
    kept (applyPacket s k admitted serve) = kept s := by
  unfold applyPacket
  dsimp only
  have hp : kept (if admitted = stOk then serve s else .done admitted s).state = kept s := by split <;> simp [h]
  split <;> (rename_i e; rw [e] at hp)
  · rw [kept_acknowledge]; simpa using hp
  · split <;> simpa using hp

@[simp] theorem kept_servePacket (s : State) (n op : Nat) (k : Packet) (admitted : Nat) (serve : State → Served) (h : ∀ t, kept (serve t).state = kept t) :
    kept (servePacket s n op k admitted serve) = kept s := by
  unfold servePacket
  repeat' first
    | (simp [kept_applyPacket, h]; done)
    | dsimp only
    | split

@[simp] theorem kept_serveRequest (s : State) (n op perm len : Nat) (k : Packet) (serve : State → Endpoint → Served)
    (h : ∀ t e, kept (serve t e).state = kept t) : kept (serveRequest s n op perm len k serve) = kept s := by
  unfold serveRequest
  refine kept_servePacket _ _ _ _ _ _ fun t => ?_
  split
  · exact h _ _
  · rfl

@[simp] theorem kept_reach (s : State) (port slice tier addr n : Nat) (wr : Bool) (k : State → Served) (h : ∀ t, kept (k t).state = kept t) :
    kept (reach s port slice tier addr n wr k).state = kept s := by
  unfold reach
  have hp := kept_touch s slice tier addr n wr
  dsimp only
  split
  · split <;> simp [h]
  · split
    · simp
    · split
      · rename_i e; rw [e] at hp; rw [h]; exact hp
      · rename_i e; rw [e] at hp; simp only [served_wait_state, kept_countDemand]; exact hp
      · simp only [served_done_state]; split <;> simp

@[simp] theorem kept_putBytes (s : State) (port slice tier addr : Nat) (b : List Byte) : kept (putBytes s port slice tier addr b) = kept s := by
  unfold putBytes; split <;> simp

@[simp] theorem kept_storeAt (s : State) (e : Endpoint) (k : Packet) (g : State → State) (h : ∀ t, kept (g t) = kept t) :
    kept (storeAt s e k g).state = kept s := by
  unfold storeAt
  exact kept_reach _ _ _ _ _ _ _ _ (fun t => by simp [h])

@[simp] theorem kept_execWritePacket (n : Fin 104) (k : Packet) (s : State) : kept ((outOr s (execWritePacket n k s))) = kept s := by
  unfold execWritePacket; simp

@[simp] theorem kept_announce (s : State) (e : Endpoint) : kept (announce s e) = kept s := by
  unfold announce; split <;> simp

@[simp] theorem kept_execMessagePacket (n : Fin 104) (k : Packet) (s : State) : kept ((outOr s (execMessagePacket n k s))) = kept s := by
  unfold execMessagePacket; simp

@[simp] theorem kept_execReducePacket (n : Fin 104) (k : Packet) (s : State) : kept ((outOr s (execReducePacket n k s))) = kept s := by
  unfold execReducePacket; split <;> simp

@[simp] theorem kept_execReadRequestPacket (n : Fin 104) (k : Packet) (s : State) : kept ((outOr s (execReadRequestPacket n k s))) = kept s := by
  unfold execReadRequestPacket; simp

@[simp] theorem kept_modPkt (s : State) (i j : Nat) (f : TxPkt → TxPkt) : kept (modPkt s i j f) = kept s := by
  unfold modPkt; simp

@[simp] theorem kept_execReadResponsePacket (n : Fin 104) (k : Packet) (s : State) :
    kept (outOr s (execReadResponsePacket n k s)) = kept s := by
  unfold execReadResponsePacket
  rw [outOr_next, kept_settleTxns]
  refine kept_servePacket _ _ _ _ _ _ fun t => ?_
  split
  · rfl
  · split
    · rfl
    · exact kept_reach _ _ _ _ _ _ _ _ (fun u => by simp)

@[simp] theorem kept_execAcknowledgementPacket (n : Fin 104) (k : Packet) (s : State) :
    kept (outOr s (execAcknowledgementPacket n k s)) = kept s := by
  unfold execAcknowledgementPacket
  dsimp only
  repeat' split
  all_goals simp

@[simp] theorem kept_execManagementPacket (n : Fin 104) (k : Packet) (s : State) :
    kept (outOr s (execManagementPacket n k s)) = kept s := by
  unfold execManagementPacket
  rw [outOr_next]
  exact kept_servePacket _ _ _ _ _ _ fun t => rfl

@[simp] theorem kept_withTerms (s : State) (id : Nat) (o : Op) (paddr n len : Nat) (ok : List Byte → List Term → State)
    (h : ∀ b l, kept (ok b l) = kept s) : kept (withTerms s id o paddr n len ok) = kept s := by
  unfold withTerms
  split
  · exact h _ _
  · split
    · split
      · simp
      · exact h _ _
    · refine kept_withPartner _ _ _ _ _ ?_
      dsimp only
      split
      · simp
      · exact kept_withPartner _ _ _ _ _ (h _ _)

@[simp] theorem kept_execFilterScan (op : Nat) (s : State) :
    kept (outOr s (execFilterScan op s)) = kept s := by
  unfold execFilterScan
  first | rw [outOr_next] | skip
  refine kept_runOp _ _ _ _ _ fun o t => ?_
  repeat' first
    | (simp; done)
    | (refine kept_checks _ _ _ _ ?_)
    | (refine kept_withPartner _ _ _ _ _ ?_)
    | (rename_i h; simp [kept_pair h]; done)
    | dsimp only
    | split

@[simp] theorem kept_trimStore (s : State) (n : Nat) : kept (trimStore s n) = kept s := by
  unfold trimStore; split <;> simp

@[simp] theorem kept_execCardCreate (op : Nat) (s : State) : kept ((outOr s (execCardCreate op s))) = kept s := by
  unfold execCardCreate
  rw [outOr_next]
  refine kept_runRow _ _ _ _ _ _ fun o t => ?_
  repeat' first
    | (simp; done)
    | dsimp only
    | split
    | refine kept_checks _ _ _ _ ?_
    | refine kept_withPartner _ _ _ _ _ ?_

@[simp] theorem kept_removeIndex (s : State) (h : Nat) (x : Index) : kept (removeIndex s h x) = kept s := by
  unfold removeIndex; split <;> simp

@[simp] theorem kept_execCardDrop (op : Nat) (s : State) : kept ((outOr s (execCardDrop op s))) = kept s := by
  unfold execCardDrop
  rw [outOr_next]
  refine kept_runRow _ _ _ _ _ _ fun o t => ?_
  dsimp only
  repeat' split
  all_goals simp

@[simp] theorem kept_modIndex (s : State) (h : Nat) (f : Index → Index) : kept (modIndex s h f) = kept s := by
  unfold modIndex; simp

@[simp] theorem kept_execCardInsert (op : Nat) (s : State) : kept ((outOr s (execCardInsert op s))) = kept s := by
  unfold execCardInsert
  rw [outOr_next]
  refine kept_runRow _ _ _ _ _ _ fun o t => ?_
  dsimp only
  repeat' split
  all_goals simp

@[simp] theorem kept_execCardDelete (op : Nat) (s : State) : kept ((outOr s (execCardDelete op s))) = kept s := by
  unfold execCardDelete
  rw [outOr_next]
  refine kept_runRow _ _ _ _ _ _ fun o t => ?_
  dsimp only
  repeat' split
  all_goals simp

@[simp] theorem kept_execCardPublish (op : Nat) (s : State) : kept ((outOr s (execCardPublish op s))) = kept s := by
  unfold execCardPublish
  rw [outOr_next]
  refine kept_runRow _ _ _ _ _ _ fun o t => ?_
  dsimp only
  repeat' split
  all_goals simp

@[simp] theorem kept_sendShards (s : State) (id : Nat) (o : Op) (x : Index) (termBytes block : List Byte) (shards : List (Nat × Nat × Nat)) : kept (sendShards s id o x termBytes block shards) = kept s := by
  unfold sendShards; simp

@[simp] theorem kept_beginQuery (s : State) (id : Nat) (o : Op) (x : Index) (list : List Byte) (ts : List Term) :
    kept (beginQuery s id o x list ts) = kept s := by
  unfold beginQuery
  dsimp only
  repeat' split
  all_goals simp

@[simp] theorem kept_execCardQuery (op : Nat) (s : State) :
    kept (outOr s (execCardQuery op s)) = kept s := by
  unfold execCardQuery
  first | rw [outOr_next] | skip
  refine kept_runOp _ _ _ _ _ fun o t => ?_
  repeat' first
    | (simp; done)
    | (refine kept_checks _ _ _ _ ?_)
    | (refine kept_withPartner _ _ _ _ _ ?_)
    | (rename_i h; simp [kept_pair h]; done)
    | dsimp only
    | split

@[simp] theorem kept_countPass (s : State) (b slice bytes cmp : Nat) : kept (countPass s b slice bytes cmp) = kept s := by
  unfold countPass; simp

@[simp] theorem kept_scanPass (s : State) (b : Nat) (q : Query) (c : Scan) : kept (scanPass s b q c) = kept s := by
  unfold scanPass; split <;> simp

@[simp] theorem kept_itemsLost (s : State) (b : Nat) (some_ : Bool) : kept ((itemsLost s b some_).2) = kept s := by
  unfold itemsLost; split <;> simp

@[simp] theorem kept_sketchPass (s : State) (b : Nat) (q : Query) : kept (sketchPass s b q) = kept s := by
  unfold sketchPass
  dsimp only
  repeat' split
  all_goals simp

@[simp] theorem kept_morePasses (s : State) (op : Nat) (bs : List Nat) :
    kept (morePasses s op bs) = kept s := by
  unfold morePasses; simp

@[simp] theorem kept_passDone (s : State) (b op : Nat) : kept (passDone s b op) = kept s := by
  unfold passDone
  dsimp only
  repeat' split
  all_goals simp

@[simp] theorem kept_execCardPass (b : Fin 16) (s : State) : kept ((outOr s (execCardPass b s))) = kept s := by
  unfold execCardPass
  dsimp only
  repeat' split
  all_goals simp

@[simp] theorem kept_vectorsLost (l : List Nat) (s : State) : kept (vectorsLost l s).2 = kept s := by
  induction l generalizing s with
  | nil => rfl
  | cons b l ih =>
    unfold vectorsLost
    have hr := kept_itemsLost s b true
    split <;> (rename_i h; rw [h] at hr)
    · exact hr
    · rw [ih]; exact hr

@[simp] theorem kept_rerankSome (s : State) (q : Query) :
    kept (rerankSome s q) = kept s := by
  unfold rerankSome; split <;> simp

@[simp] theorem kept_rerank (s : State) (q : Query) :
    kept (rerank s q) = kept s := by
  unfold rerank
  repeat' first
    | (simp; done)
    | (rename_i h; simp [kept_pair h]; done)
    | (rename_i h; simp [kept_some _ h]; done)
    | (rename_i h; have h2 := congrArg kept (congrArg Prod.snd h); simp_all; done)
    | dsimp only
    | split
    | refine (kept_foldl _ (fun t a => ?_) _ _).trans ?_

@[simp] theorem kept_execRerankUnit (op : Nat) (s : State) : kept ((outOr s (execRerankUnit op s))) = kept s := by
  unfold execRerankUnit
  repeat' split
  all_goals simp

@[simp] theorem kept_serveCard (s : State) (n : Nat) (k : Packet) (whole : State → Endpoint → List Byte → Served)
    (h : ∀ t e b, kept (whole t e b).state = kept t) : kept (serveCard s n k whole) = kept s := by
  unfold serveCard
  refine kept_servePacket _ _ _ _ _ _ fun t => ?_
  split
  · rfl
  · split
    · rfl
    · dsimp only
      split
      · rfl
      · rename_i e _ _ _
        split
        · rename_i hx; exact (kept_swait hx).trans (h t e _)
        · rename_i hx; exact (kept_sdone hx).trans (h t e _)

@[simp] theorem kept_admitShard (s : State) (k : Packet) (h : Nat) (b : List Byte) : kept ((admitShard s k h b).state) = kept s := by
  unfold admitShard
  dsimp only
  repeat' split
  all_goals simp

@[simp] theorem kept_execShardRequest (n : Fin 104) (k : Packet) (s : State) :
    kept (outOr s (execShardRequest n k s)) = kept s := by
  unfold execShardRequest
  rw [outOr_next]
  refine kept_serveCard _ _ _ _ fun t e b => ?_
  split <;> simp

@[simp] theorem kept_takeReply (s : State) (b : List Byte) : kept (takeReply s b) = kept s := by
  unfold takeReply; simp

@[simp] theorem kept_execShardReply (n : Fin 104) (k : Packet) (s : State) :
    kept (outOr s (execShardReply n k s)) = kept s := by
  unfold execShardReply
  rw [outOr_next, kept_concludeAll]
  refine kept_serveCard _ _ _ _ fun t e b => ?_
  rw [served_done_state]
  split <;> simp

@[simp] theorem kept_execQueryDeadline (op : Nat) (s : State) : kept ((outOr s (execQueryDeadline op s))) = kept s := by
  unfold execQueryDeadline
  dsimp only
  repeat' split
  all_goals simp

@[simp] theorem kept_withLocal (s : State) (id : Nat) (o : Op) (tier addr n : Nat) (wr : Bool) (ok : State → State) (h : ∀ t, kept (ok t) = kept t) :
    kept (withLocal s id o tier addr n wr ok) = kept s := by
  unfold withLocal
  have hp := kept_reach s o.port o.slice tier addr n wr (fun s => .done stOk (ok s)) (fun t => by simp [h])
  split
  · simp
  · split
    · rename_i e; rw [e] at hp
      split
      · exact hp
      · rw [kept_fail]; exact hp
    · rename_i e; rw [e] at hp; exact hp

@[simp] theorem kept_sendBuffer (s : State) (id : Nat) (o : Op) : kept (sendBuffer s id o) = kept s := by
  unfold sendBuffer; split <;> simp

@[simp] theorem kept_execStrWrite (op : Nat) (s : State) : kept ((outOr s (execStrWrite op s))) = kept s := by
  unfold execStrWrite; simp

@[simp] theorem kept_execStrRead (op : Nat) (s : State) : kept ((outOr s (execStrRead op s))) = kept s := by
  unfold execStrRead
  rw [outOr_next]
  refine kept_runRow _ _ _ _ _ _ fun o t => ?_
  repeat' first
    | (simp; done)
    | dsimp only
    | split
    | refine kept_checks _ _ _ _ ?_
    | refine kept_withPartner _ _ _ _ _ ?_

@[simp] theorem kept_execStrMsg (op : Nat) (s : State) : kept ((outOr s (execStrMsg op s))) = kept s := by
  unfold execStrMsg; simp

@[simp] theorem kept_execStrReduce (op : Nat) (s : State) : kept ((outOr s (execStrReduce op s))) = kept s := by
  unfold execStrReduce; simp

@[simp] theorem kept_execStrGather (op : Nat) (s : State) : kept ((outOr s (execStrGather op s))) = kept s := by
  unfold execStrGather
  rw [outOr_next]
  refine kept_runRow _ _ _ _ _ _ fun o t => ?_
  repeat' first
    | (simp; done)
    | dsimp only
    | split
    | refine kept_checks _ _ _ _ ?_
    | refine kept_withPartner _ _ _ _ _ ?_

@[simp] theorem kept_draftBeat (s : State) (jid : Nat) :
    kept (draftBeat s jid) = kept s := by
  unfold draftBeat; simp

@[simp] theorem kept_finishBeat (s : State) :
    kept (finishBeat s) = kept s := by
  unfold finishBeat; simp

end Sys2Proof.Machine
end

