-- ==== Sys2Proof/Laws/KeptSystem.lean ====
section
/-! SUPPORT. What the operations of the distaff, the flash, firmware, security, resets, faults, power, registers and the sideband keep. -/

set_option linter.unusedTactic false
set_option linter.unreachableTactic false
set_option linter.unusedSimpArgs false
set_option linter.unusedVariables false

namespace Sys2Proof.Machine

@[simp] theorem kept_modDst (s : State) (f : Distaff → Distaff) : kept (modDst s f) = kept s := by
  unfold modDst; simp

@[simp] theorem kept_putWord (s : State) (n : Nat) (w : CodeWord) : kept (putWord s n w) = kept s := by
  unfold putWord; simp

@[simp] theorem kept_voidCommits (s : State) (inA : Bool) (hit : Nat → Bool) : kept (voidCommits s inA hit) = kept s := by
  unfold voidCommits; simp

@[simp] theorem kept_voidAt (s : State) (erase : Bool) (w : Nat) : kept (voidAt s erase w) = kept s := by
  unfold voidAt; simp

@[simp] theorem kept_eraseWords (s : State) (sector : Nat) : kept (eraseWords s sector) = kept s := by
  unfold eraseWords; simp

@[simp] theorem kept_abandonOp (s : State) : kept (abandonOp s) = kept s := by
  unfold abandonOp; split <;> simp

@[simp] theorem kept_readWord (s : State) (w : Nat) : kept ((readWord s w).2) = kept s := by
  unfold readWord
  dsimp only
  repeat' split
  all_goals simp

@[simp] theorem kept_modPath (s : State) (byDst : Bool) (f : PathStat → PathStat) : kept (modPath s byDst f) = kept s := by
  unfold modPath; simp

@[simp] theorem kept_refusePath (s : State) (byDst : Bool) (err : Nat) : kept (refusePath s byDst err) = kept s := by
  unfold refusePath; simp

@[simp] theorem kept_endSeq (s : State) : kept (endSeq s) = kept s := by
  unfold endSeq; simp

@[simp] theorem kept_refuseDst (s : State) (err : Nat) : kept (refuseDst s err) = kept s := by
  unfold refuseDst; simp

@[simp] theorem kept_unlockDst (s : State) (v : Word) : kept (unlockDst s v) = kept s := by
  unfold unlockDst
  repeat' split
  all_goals simp

@[simp] theorem kept_execDstUnlock (who : Requester) (v : Word) (s : State) : kept ((outOr s (execDstUnlock who v s))) = kept s := by
  unfold execDstUnlock; simp

@[simp] theorem kept_writeDstCmd (s : State) (v : Word) : kept (writeDstCmd s v) = kept s := by
  unfold writeDstCmd
  dsimp only
  repeat' split
  all_goals simp

@[simp] theorem kept_writeDstAddr (s : State) (v : Word) : kept (writeDstAddr s v) = kept s := by
  unfold writeDstAddr
  dsimp only
  repeat' split
  all_goals simp

@[simp] theorem kept_writeDstData (s : State) (n : Nat) (v : Word) : kept (writeDstData s n v) = kept s := by
  unfold writeDstData
  dsimp only
  repeat' split
  all_goals simp

@[simp] theorem kept_dstRead (s : State) : kept (dstRead s) = kept s := by
  unfold dstRead
  dsimp only
  repeat' split
  all_goals simp

@[simp] theorem kept_startDistaff (s : State) (byDst erase : Bool) (w : Nat) (data : BitVec 256) : kept (startDistaff s byDst erase w data) = kept s := by
  unfold startDistaff; simp

@[simp] theorem kept_eraseSector (s : State) (byDst : Bool) (w : Nat) : kept (eraseSector s byDst w) = kept s := by
  unfold eraseSector; split <;> simp

@[simp] theorem kept_dstErase (s : State) (v : Word) : kept (dstErase s v) = kept s := by
  unfold dstErase
  dsimp only
  repeat' split
  all_goals simp

@[simp] theorem kept_writeAddr (s : State) (v : Word) :
    kept (writeAddr s v) = kept s := by
  unfold writeAddr
  repeat' split
  all_goals simp

@[simp] theorem kept_execDistaffRead (who : Requester) (addr : Word) (s : State) : kept ((outOr s (execDistaffRead who addr s))) = kept s := by
  unfold execDistaffRead
  repeat' first
    | (simp; done)
    | (dsimp only [outOr_next, run_done_state, run_wait_state, run_ends_state, fetch_bytes_state, fetch_wait_state, fetch_ends_state, pg_got_or, pg_none_or, pg_wait_or, touch_ready_or, touch_wait_or, touch_ends_or, restore_done_or, restore_bad_or, restore_none_or, restore_wait_or, served_done_state, served_wait_state, shape_run_state, shape_ends_state, shape_wait_state])
    | split
    | (refine kept_runRow _ _ _ _ _ _ ?_; (intro o t))
    | (refine kept_runOp _ _ _ _ _ ?_; (intro o t))
    | (refine kept_checks _ _ _ _ ?_)
    | (refine kept_withPartner _ _ _ _ _ ?_)
    | (refine kept_runAll _ ?_ _ _; (intro t a))
    | (refine kept_ctlWrite _ _ _ _ ?_; (intro t))
    | (refine (kept_foldl _ ?_ _ _).trans ?_; (intro t a))

@[simp] theorem kept_programWord (s : State) (byDst : Bool) (w : Nat) (data : BitVec 256) : kept (programWord s byDst w data) = kept s := by
  unfold programWord
  repeat' split
  all_goals simp

@[simp] theorem kept_dstProgram (s : State) (v : Word) : kept (dstProgram s v) = kept s := by
  unfold dstProgram
  dsimp only
  repeat' split
  all_goals simp

@[simp] theorem kept_writeData (s : State) (n : Nat) (v : Word) :
    kept (writeData s n v) = kept s := by
  unfold writeData; split <;> simp

@[simp] theorem kept_execDistaffProgram (path : DistaffPath) (s : State) : kept ((outOr s (execDistaffProgram path s))) = kept s := by
  unfold execDistaffProgram
  repeat' first
    | (simp; done)
    | (dsimp only [outOr_next, run_done_state, run_wait_state, run_ends_state, fetch_bytes_state, fetch_wait_state, fetch_ends_state, pg_got_or, pg_none_or, pg_wait_or, touch_ready_or, touch_wait_or, touch_ends_or, restore_done_or, restore_bad_or, restore_none_or, restore_wait_or, served_done_state, served_wait_state, shape_run_state, shape_ends_state, shape_wait_state])
    | split
    | (refine kept_runRow _ _ _ _ _ _ ?_; (intro o t))
    | (refine kept_runOp _ _ _ _ _ ?_; (intro o t))
    | (refine kept_checks _ _ _ _ ?_)
    | (refine kept_withPartner _ _ _ _ _ ?_)
    | (refine kept_runAll _ ?_ _ _; (intro t a))
    | (refine kept_ctlWrite _ _ _ _ ?_; (intro t))
    | (refine (kept_foldl _ ?_ _ _).trans ?_; (intro t a))

@[simp] theorem kept_execDistaffErase (path : DistaffPath) (s : State) : kept ((outOr s (execDistaffErase path s))) = kept s := by
  unfold execDistaffErase
  repeat' first
    | (simp; done)
    | (dsimp only [outOr_next, run_done_state, run_wait_state, run_ends_state, fetch_bytes_state, fetch_wait_state, fetch_ends_state, pg_got_or, pg_none_or, pg_wait_or, touch_ready_or, touch_wait_or, touch_ends_or, restore_done_or, restore_bad_or, restore_none_or, restore_wait_or, served_done_state, served_wait_state, shape_run_state, shape_ends_state, shape_wait_state])
    | split
    | (refine kept_runRow _ _ _ _ _ _ ?_; (intro o t))
    | (refine kept_runOp _ _ _ _ _ ?_; (intro o t))
    | (refine kept_checks _ _ _ _ ?_)
    | (refine kept_withPartner _ _ _ _ _ ?_)
    | (refine kept_runAll _ ?_ _ _; (intro t a))
    | (refine kept_ctlWrite _ _ _ _ ?_; (intro t))
    | (refine (kept_foldl _ ?_ _ _).trans ?_; (intro t a))

@[simp] theorem kept_suspendErase (s : State) (byDst : Bool) (bank : Option Nat) : kept (suspendErase s byDst bank) = kept s := by
  unfold suspendErase
  repeat' split
  all_goals simp

@[simp] theorem kept_resumeErase (s : State) (byDst : Bool) (bank : Option Nat) : kept (resumeErase s byDst bank) = kept s := by
  unfold resumeErase
  repeat' split
  all_goals simp

@[simp] theorem kept_dstBare (s : State) (k : State → State) (h : ∀ t, kept (k t) = kept t) : kept (dstBare s k) = kept s := by
  unfold dstBare
  repeat' split
  all_goals simp [h]

@[simp] theorem kept_writeCmd (s : State) (v : Word) :
    kept (writeCmd s v) = kept s := by
  unfold writeCmd
  repeat' split
  all_goals simp

@[simp] theorem kept_execDistaffSuspend (path : DistaffPath) (s : State) : kept ((outOr s (execDistaffSuspend path s))) = kept s := by
  unfold execDistaffSuspend; split <;> simp

@[simp] theorem kept_execDistaffResume (path : DistaffPath) (s : State) : kept ((outOr s (execDistaffResume path s))) = kept s := by
  unfold execDistaffResume; split <;> simp

@[simp] theorem kept_execErasePulse (verified : Bool) (s : State) : kept ((outOr s (execErasePulse verified s))) = kept s := by
  unfold execErasePulse
  repeat' split
  all_goals simp

@[simp] theorem kept_endDistaff (s : State) : kept (endDistaff s) = kept s := by
  unfold endDistaff
  repeat' split
  all_goals simp

@[simp] theorem kept_writeDstStat (s : State) (v : Word) : kept (writeDstStat s v) = kept s := by
  unfold writeDstStat; simp

@[simp] theorem kept_execDstStatWrite (who : Requester) (v : Word) (s : State) : kept ((outOr s (execDstStatWrite who v s))) = kept s := by
  unfold execDstStatWrite; simp

@[simp] theorem kept_execProgramRefused (b : Fin 16) (block page : Nat) (s : State) : kept ((outOr s (execProgramRefused b block page s))) = kept s := by
  unfold execProgramRefused; split <;> simp

@[simp] theorem kept_failFast (s : State) (b block : Nat) :
    kept (failFast s b block) = kept s := by
  unfold failFast; simp

@[simp] theorem kept_failBulk (s : State) (b block cause : Nat) :
    kept (failBulk s b block cause) = kept s := by
  unfold failBulk; simp

@[simp] theorem kept_execNandProgramFailure (b : Fin 16) (block : Nat) (atClose : Bool) (s : State) : kept ((outOr s (execNandProgramFailure b block atClose s))) = kept s := by
  unfold execNandProgramFailure
  dsimp only
  repeat' split
  all_goals simp

@[simp] theorem kept_execNandEraseFailure (b : Fin 16) (block : Nat) (s : State) : kept ((outOr s (execNandEraseFailure b block s))) = kept s := by
  unfold execNandEraseFailure
  dsimp only
  repeat' split
  all_goals simp

@[simp] theorem kept_execGcMove (b : Fin 16) (block : Nat) (s : State) : kept ((outOr s (execGcMove b block s))) = kept s := by
  unfold execGcMove
  dsimp only
  repeat' split
  all_goals simp

@[simp] theorem kept_execLandingFold (b : Fin 16) (block : Nat) (s : State) : kept ((outOr s (execLandingFold b block s))) = kept s := by
  unfold execLandingFold; split <;> simp

@[simp] theorem kept_execGcRegimeChange (b : Fin 16) (s : State) : kept ((outOr s (execGcRegimeChange b s))) = kept s := by
  unfold execGcRegimeChange
  dsimp only
  repeat' split
  all_goals simp

@[simp] theorem kept_execReadSuspend (b : Fin 16) (die : Fin 9) (s : State) :
    kept (outOr s (execReadSuspend b die s)) = kept s := by
  unfold execReadSuspend
  dsimp only
  repeat' split
  all_goals simp

@[simp] theorem kept_execJournalPageProgram (s : State) : kept ((outOr s (execJournalPageProgram s))) = kept s := by
  unfold execJournalPageProgram
  dsimp only
  repeat' split
  all_goals simp

@[simp] theorem kept_execJournalTimer (s : State) : kept ((outOr s (execJournalTimer s))) = kept s := by
  unfold execJournalTimer; split <;> simp

@[simp] theorem kept_execMapCheckpoint (s : State) :
    kept (outOr s (execMapCheckpoint s)) = kept s := by
  unfold execMapCheckpoint
  dsimp only
  repeat' split
  all_goals simp

@[simp] theorem kept_execLifeProjection (s : State) : kept ((outOr s (execLifeProjection s))) = kept s := by
  unfold execLifeProjection
  repeat' first
    | (simp; done)
    | dsimp only
    | split
    | refine (kept_foldl _ (fun t a => ?_) _ _).trans ?_

@[simp] theorem kept_execFlashReport (op : Nat) (s : State) : kept ((outOr s (execFlashReport op s))) = kept s := by
  unfold execFlashReport
  rw [outOr_next]
  refine kept_runRow _ _ _ _ _ _ fun o t => ?_
  dsimp only
  repeat' split
  all_goals simp

@[simp] theorem kept_execMigrateDone (b : Fin 16) (s : State) : kept ((outOr s (execMigrateDone b s))) = kept s := by
  unfold execMigrateDone
  repeat' split
  all_goals simp

@[simp] theorem kept_execDieStopsAnswering (b : Fin 16) (die : Fin 9) (s : State) : kept ((outOr s (execDieStopsAnswering b die s))) = kept s := by
  unfold execDieStopsAnswering; split <;> simp

@[simp] theorem kept_programBytes (s : State) (w : Nat) (b : List Byte) : kept (programBytes s w b) = kept s := by
  unfold programBytes; simp

@[simp] theorem kept_putCommit (s : State) (kind arg svn : Nat) (data : List Byte) : kept (putCommit s kind arg svn data) = kept s := by
  unfold putCommit; simp

@[simp] theorem kept_compactCommits (s : State) : kept (compactCommits s) = kept s := by
  unfold compactCommits; split <;> simp

@[simp] theorem kept_addRecord (s : State) (kind arg svn : Nat) (data : List Byte) : kept (addRecord s kind arg svn data) = kept s := by
  unfold addRecord; simp

@[simp] theorem kept_loadFirmware (s : State) : kept (loadFirmware s) = kept s := by
  unfold loadFirmware; split <;> simp

@[simp] theorem kept_stageBytes (s : State) (off : Nat) (b : List Byte) : kept (stageBytes s off b) = kept s := by
  unfold stageBytes
  repeat' first
    | (simp; done)
    | dsimp only
    | split
    | refine (kept_foldl _ (fun t a => ?_) _ _).trans ?_

@[simp] theorem kept_execFwStage (op : Nat) (s : State) : kept ((outOr s (execFwStage op s))) = kept s := by
  unfold execFwStage
  rw [outOr_next]
  refine kept_runRow _ _ _ _ _ _ fun o t => ?_
  dsimp only
  repeat' split
  all_goals simp

@[simp] theorem kept_commitImage (s : State) (op slot : Nat) (h : List Byte) : kept (commitImage s op slot h) = kept s := by
  unfold commitImage; simp

@[simp] theorem kept_execFwCommit (op : Nat) (s : State) : kept (outOr s (execFwCommit op s)) = kept s := by
  unfold execFwCommit
  rw [outOr_next]
  refine kept_runOp _ _ _ _ _ fun o t => ?_
  dsimp only
  repeat' first
    | split
    | (simp; done)

@[simp] theorem kept_copyEntry (s : State) (e : LogEntry) : kept (copyEntry s e) = kept s := by
  unfold copyEntry
  dsimp only
  repeat' split
  all_goals simp

@[simp] theorem kept_execLogCopy (s : State) : kept ((outOr s (execLogCopy s))) = kept s := by
  unfold execLogCopy
  repeat' split
  all_goals simp

@[simp] theorem kept_prepareErase (s : State) (id : Nat) (lowering : Bool) : kept (prepareErase s id lowering) = kept s := by
  unfold prepareErase; simp

@[simp] theorem kept_lowerStore (s : State) (n : Nat) : kept (lowerStore s n) = kept s := by
  unfold lowerStore; split <;> simp

@[simp] theorem kept_execLevelSetStore (op : Nat) (s : State) : kept ((outOr s (execLevelSetStore op s))) = kept s := by
  unfold execLevelSetStore
  rw [outOr_next]
  refine kept_runRow _ _ _ _ _ _ fun o t => ?_
  dsimp only
  repeat' split
  all_goals simp

@[simp] theorem kept_execSanitise (op : Nat) (s : State) : kept ((outOr s (execSanitise op s))) = kept s := by
  unfold execSanitise
  rw [outOr_next]
  refine kept_runRow _ _ _ _ _ _ fun o t => ?_
  repeat' first
    | (simp; done)
    | dsimp only
    | split
    | refine kept_checks _ _ _ _ ?_
    | refine kept_withPartner _ _ _ _ _ ?_

@[simp] theorem kept_modErase (s : State) (f : Erase → Erase) : kept (modErase s f) = kept s := by
  unfold modErase; simp

@[simp] theorem kept_eraseMarker (s : State) (e : Erase) : kept (eraseMarker s e) = kept s := by
  unfold eraseMarker; simp

@[simp] theorem kept_eraseRoot (s : State) : kept (eraseRoot s) = kept s := by
  unfold eraseRoot; simp

@[simp] theorem kept_eraseDistaff (s : State) : kept (eraseDistaff s) = kept s := by
  unfold eraseDistaff; simp

@[simp] theorem kept_eraseDie (s : State) (i : Nat) : kept (eraseDie s i) = kept s := by
  unfold eraseDie; simp

@[simp] theorem kept_eraseDies (s : State) (e : Erase) : kept (eraseDies s e) = kept s := by
  unfold eraseDies; simp

@[simp] theorem kept_emptyDevice (s : State) : kept (emptyDevice s) = kept s := by
  unfold emptyDevice; simp

@[simp] theorem kept_closeErase (s : State) (e : Erase) : kept (closeErase s e) = kept s := by
  unfold closeErase; simp

@[simp] theorem kept_addImported (s : State) (q : Nat) (key : List Byte) : kept (addImported s q key) = kept s := by
  unfold addImported; simp

@[simp] theorem kept_execKeyImport (op : Nat) (s : State) : kept ((outOr s (execKeyImport op s))) = kept s := by
  unfold execKeyImport
  rw [outOr_next]
  refine kept_runRow _ _ _ _ _ _ fun o t => ?_
  dsimp only
  repeat' split
  all_goals simp

@[simp] theorem kept_execAttest (op : Nat) (s : State) : kept ((outOr s (execAttest op s))) = kept s := by
  unfold execAttest
  rw [outOr_next]
  refine kept_runRow _ _ _ _ _ _ fun o t => ?_
  dsimp only
  repeat' split
  all_goals simp

@[simp] theorem kept_dropJobs (s : State) : kept (dropJobs s) = kept s := by
  unfold dropJobs; simp

@[simp] theorem kept_dropTest (s : State) : kept (dropTest s) = kept s := by
  unfold dropTest; split <;> simp

@[simp] theorem kept_dropDst (s : State) : kept (dropDst s) = kept s := by
  unfold dropDst; split <;> simp

@[simp] theorem kept_resetErase (s : State) : kept (resetErase s) = kept s := by
  unfold resetErase
  repeat' split
  all_goals simp

@[simp] theorem kept_noteWdog (s : State) (kind : Nat) (o : DistaffOp) (since : Option Nat) : kept (noteWdog s kind o since) = kept s := by
  unfold noteWdog; simp

@[simp] theorem kept_modRas (s : State) (f : Ras → Ras)
    (h : ((f s.ras).mapSpn.length, (f s.ras).mapCore.length, (f s.ras).mapStr.length, (f s.ras).rails.length) =
      (s.ras.mapSpn.length, s.ras.mapCore.length, s.ras.mapStr.length, s.ras.rails.length)) : kept (modRas s f) = kept s := by
  simp only [Prod.mk.injEq] at h
  simp only [kept, modRas, h]

@[simp] theorem kept_failSpindle (s : State) (c : FaultSite) : kept (failSpindle s c) = kept s := by
  unfold failSpindle; split <;> simp

@[simp] theorem kept_loseWork (s : State) :
    kept (loseWork s) = kept s := by
  unfold loseWork
  repeat' first
    | (simp; done)
    | (rename_i h; simp [kept_pair h]; done)
    | (rename_i h; simp [kept_some _ h]; done)
    | (rename_i h; have h2 := congrArg kept (congrArg Prod.snd h); simp_all; done)
    | dsimp only
    | split
    | refine (kept_foldl _ (fun t a => ?_) _ _).trans ?_

@[simp] theorem kept_cutFold (s : State) (jid : Nat) :
    kept (cutFold s jid) = kept s := by
  unfold cutFold
  dsimp only
  repeat' split
  all_goals simp

@[simp] theorem kept_cutFolds (s : State) :
    kept (cutFolds s) = kept s := by
  unfold cutFolds; simp

@[simp] theorem kept_recordWaiting (s : State) : kept (recordWaiting s) = kept s := by
  unfold recordWaiting; simp

@[simp] theorem kept_execComputeFault (c : FaultSite) (s : State) : kept ((outOr s (execComputeFault c s))) = kept s := by
  unfold execComputeFault; split <;> simp

@[simp] theorem kept_applyChoice (s : State) (l : Nat) (dest : Option Nat) : kept (applyChoice s l dest) = kept s := by
  unfold applyChoice; split <;> simp

@[simp] theorem kept_clearFaults (s : State) : kept (clearFaults s) = kept s := kept_foldl _ (fun _ _ => kept_modSpn _ _ _) _ _

@[simp] theorem kept_computeReset (s : State) (id : Nat) : kept (computeReset s id) = kept s := by
  unfold computeReset; simp

@[simp] theorem kept_execResumeCompute (op : Nat) (testFails : List (Fin 52)) (s : State) : kept ((outOr s (execResumeCompute op testFails s))) = kept s := by
  unfold execResumeCompute
  rw [outOr_next]
  refine kept_runRow _ _ _ _ _ _ fun o t => ?_
  repeat' first
    | (simp; done)
    | dsimp only
    | split
    | refine kept_checks _ _ _ _ ?_
    | refine kept_withPartner _ _ _ _ _ ?_

@[simp] theorem kept_countCorrected (s : State) (source index : Nat) (bank : Bool) : kept (countCorrected s source index bank) = kept s := by
  unfold countCorrected
  repeat' split
  all_goals simp

@[simp] theorem kept_execCorrectedError (source : Fin 11) (index : Nat) (bank : Bool) (addr : Nat) (s : State) : kept ((outOr s (execCorrectedError source index bank addr s))) = kept s := by
  unfold execCorrectedError
  dsimp only
  repeat' split
  all_goals simp

@[simp] theorem kept_repairRow (s : State) (op kind : Nat) (opt : Option Nat) (body : Op → State → State) (h : ∀ o t, kept (body o t) = kept t) :
    kept (repairRow s op kind opt body) = kept s := by
  unfold repairRow
  refine kept_runRow _ _ _ _ _ _ fun o t => ?_
  dsimp only
  repeat' split
  all_goals simp [h]

@[simp] theorem kept_execRepairSpindleSpare (op : Nat) (s : State) : kept ((outOr s (execRepairSpindleSpare op s))) = kept s := by
  unfold execRepairSpindleSpare
  rw [outOr_next]
  refine kept_runRow _ _ _ _ _ _ fun o t => ?_
  dsimp only
  repeat' split
  all_goals simp

@[simp] theorem kept_execRepairSpindleReinstate (op : Nat) (s : State) : kept ((outOr s (execRepairSpindleReinstate op s))) = kept s := by
  unfold execRepairSpindleReinstate
  rw [outOr_next]
  refine kept_runRow _ _ _ _ _ _ fun o t => ?_
  dsimp only
  repeat' split
  all_goals simp

@[simp] theorem kept_execRepairSpindleWithdraw (op : Nat) (s : State) : kept ((outOr s (execRepairSpindleWithdraw op s))) = kept s := by
  unfold execRepairSpindleWithdraw
  rw [outOr_next]
  refine kept_runRow _ _ _ _ _ _ fun o t => ?_
  dsimp only
  repeat' split
  all_goals simp

@[simp] theorem kept_execRepairCore (op : Nat) (s : State) : kept ((outOr s (execRepairCore op s))) = kept s := by
  unfold execRepairCore
  rw [outOr_next]
  refine kept_runRow _ _ _ _ _ _ fun o t => ?_
  dsimp only
  repeat' split
  all_goals simp

@[simp] theorem kept_mapLane (s : State) (op l dest : Nat) : kept (mapLane s op l dest) = kept s := by
  unfold mapLane; split <;> simp

@[simp] theorem kept_execRepairStrandLane (op : Nat) (s : State) : kept ((outOr s (execRepairStrandLane op s))) = kept s := by
  unfold execRepairStrandLane
  rw [outOr_next]
  refine kept_runRow _ _ _ _ _ _ fun o t => ?_
  dsimp only
  repeat' split
  all_goals simp

@[simp] theorem kept_execRepairAhlLane (op : Nat) (s : State) : kept ((outOr s (execRepairAhlLane op s))) = kept s := by
  unfold execRepairAhlLane
  rw [outOr_next]
  refine kept_runRow _ _ _ _ _ _ fun o t => ?_
  dsimp only
  repeat' split
  all_goals simp

@[simp] theorem kept_modStack (s : State) (i : Nat) (f : Stack → Stack) : kept (modStack s i f) = kept s := by
  unfold modStack; simp

@[simp] theorem kept_startCopy (s : State) (op stack pos : Nat) (row : Option Nat) : kept (startCopy s op stack pos row) = kept s := by
  unfold startCopy; split <;> simp

@[simp] theorem kept_execRepairPseudoChannel (op : Nat) (s : State) : kept ((outOr s (execRepairPseudoChannel op s))) = kept s := by
  unfold execRepairPseudoChannel
  rw [outOr_next]
  refine kept_runRow _ _ _ _ _ _ fun o t => ?_
  dsimp only
  repeat' split
  all_goals simp

@[simp] theorem kept_execRepairDramRow (op : Nat) (s : State) : kept ((outOr s (execRepairDramRow op s))) = kept s := by
  unfold execRepairDramRow
  rw [outOr_next]
  refine kept_runRow _ _ _ _ _ _ fun o t => ?_
  dsimp only
  repeat' split
  all_goals simp

@[simp] theorem kept_zeroWords (s : State) (bad : List Nat) : kept (zeroWords s bad) = kept s := by
  unfold zeroWords; simp

@[simp] theorem kept_execRepairCopyDone (stack : Fin 4) (bad : List Nat) (s : State) : kept ((outOr s (execRepairCopyDone stack bad s))) = kept s := by
  unfold execRepairCopyDone
  dsimp only
  repeat' split
  all_goals simp

@[simp] theorem kept_execRepairNandDie (op : Nat) (s : State) : kept ((outOr s (execRepairNandDie op s))) = kept s := by
  unfold execRepairNandDie; simp

@[simp] theorem kept_modRail (s : State) (r : Nat) (f : Rail → Rail) : kept (modRail s r f) = kept s := by
  unfold modRail; simp

@[simp] theorem kept_execRepairRegPhase (op : Nat) (s : State) : kept ((outOr s (execRepairRegPhase op s))) = kept s := by
  unfold execRepairRegPhase; simp

@[simp] theorem kept_execRegPhaseFailure (rail phase : Fin 16) (s : State) : kept ((outOr s (execRegPhaseFailure rail phase s))) = kept s := by
  unfold execRegPhaseFailure
  dsimp only
  repeat' split
  all_goals simp

@[simp] theorem kept_modPwr (s : State) (f : Pwr → Pwr) (h : ((f s.pwr).limit, (f s.pwr).pendLimit) = (s.pwr.limit, s.pwr.pendLimit)) : kept (modPwr s f) = kept s := by
  simp only [Prod.mk.injEq] at h
  simp only [kept, modPwr, h]

@[simp] theorem kept_reachState (s : State) (n : Nat) : kept (reachState s n) = kept s := by
  unfold reachState
  repeat' first
    | (simp; done)
    | dsimp only
    | split
    | refine (kept_foldl _ (fun t a => ?_) _ _).trans ?_

@[simp] theorem kept_completeEntering (s : State) : kept (completeEntering s) = kept s := by
  unfold completeEntering; split <;> simp

@[simp] theorem kept_execPowerStateEntered (s : State) : kept ((outOr s (execPowerStateEntered s))) = kept s := by
  unfold execPowerStateEntered; split <;> simp

@[simp] theorem kept_execPsExitDone (beatsTaken : Nat) (s : State) : kept ((outOr s (execPsExitDone beatsTaken s))) = kept s := by
  unfold execPsExitDone
  dsimp only
  repeat' split
  all_goals simp

@[simp] theorem kept_execSetPowerEnter (op : Nat) (s : State) : kept ((outOr s (execSetPowerEnter op s))) = kept s := by
  unfold execSetPowerEnter
  rw [outOr_next]
  refine kept_runRow _ _ _ _ _ _ fun o t => ?_
  dsimp only
  repeat' split
  all_goals simp

@[simp] theorem kept_execIdleTimerExpiry (n : Fin 5) (s : State) : kept ((outOr s (execIdleTimerExpiry n s))) = kept s := by
  unfold execIdleTimerExpiry
  dsimp only
  repeat' split
  all_goals simp

@[simp] theorem kept_losePart (s : State) (o : Op) (us : List Nat) :
    kept (losePart s o us) = kept s := by
  unfold losePart
  dsimp only
  split
  · simp
  · split
    · simp
    · split
      · rename_i h
        have h2 := kept_some2 (draw s).2 h
        simp only [kept_writeUnits, kept_draw] at h2
        simpa using h2
      · simp

@[simp] theorem kept_loseWrite (s : State) (id : Nat) (o : Op) : kept (loseWrite s id o) = kept s := by
  unfold loseWrite
  dsimp only
  repeat' split
  all_goals simp

@[simp] theorem kept_pickItems {α : Type} (s : State) (l : List α) : kept (pickItems s l).2 = kept s := by
  induction l generalizing s with
  | nil => rfl
  | cons x l ih => unfold pickItems; dsimp only; rw [ih]; simp

@[simp] theorem kept_loseChange (s : State) (id : Nat) (o : Op) : kept (loseChange s id o) = kept s := by
  unfold loseChange
  dsimp only
  repeat' split
  all_goals simp

@[simp] theorem kept_loseOps (s : State) : kept (loseOps s) = kept s := by
  unfold loseOps
  repeat' first
    | (simp; done)
    | dsimp only
    | split
    | refine (kept_foldl _ (fun t a => ?_) _ _).trans ?_

@[simp] theorem kept_undoChanges (s : State) (cs : List MapChange) :
    kept (undoChanges s cs) = kept s := by
  unfold undoChanges
  refine kept_foldr _ (fun c t => ?_) _ _
  split <;> simp

@[simp] theorem kept_flushJournal (s : State) (energy : Bool) : kept (flushJournal s energy) = kept s := by
  unfold flushJournal
  dsimp only
  repeat' split
  all_goals simp

@[simp] theorem kept_losePair (s : State) (b d : Nat) :
    kept (losePair s b d) = kept s := by
  unfold losePair
  dsimp only
  repeat' split
  all_goals simp

@[simp] theorem kept_losePairs (s : State) :
    kept (losePairs s) = kept s := by
  unfold losePairs; simp

@[simp] theorem kept_flushFigures (s : State) (energy mainInput : Bool) : kept (flushFigures s energy mainInput) = kept s := by
  unfold flushFigures; simp

@[simp] theorem kept_fitBobbins (s : State) : kept (fitBobbins s) = kept s := by
  unfold fitBobbins; simp

@[simp] theorem kept_trainPorts (s : State) (ps : List (Fin 4)) : kept (trainPorts s ps) = kept s := by
  unfold trainPorts; simp

@[simp] theorem kept_execThermalThrottle (hottest : Int) (s : State) : kept ((outOr s (execThermalThrottle hottest s))) = kept s := by
  unfold execThermalThrottle
  repeat' split
  all_goals simp

@[simp] theorem kept_execThermNAlert (hottest : Int) (s : State) : kept ((outOr s (execThermNAlert hottest s))) = kept s := by
  unfold execThermNAlert
  repeat' split
  all_goals simp

@[simp] theorem kept_setLatch (s : State) (who : Requester) (off v : Nat) : kept (setLatch s who off v) = kept s := by
  unfold setLatch; simp

@[simp] theorem kept_subBeat (s : State) : kept ((subBeat s).2) = kept s := by
  unfold subBeat; split <;> simp

@[simp] theorem kept_readReg (s : State) (who : Requester) (off : Nat) : kept ((readReg s who off).2) = kept s := by
  unfold readReg
  repeat' split
  all_goals simp

@[simp] theorem kept_answerRead (s : State) (who : Requester) (v : Nat) : kept (answerRead s who v) = kept s := by
  unfold answerRead; simp

@[simp] theorem kept_senseStack (s : State) (i : Nat) :
    kept (senseStack s i) = kept s := by
  unfold senseStack; split <;> simp

@[simp] theorem kept_senseAt (s : State) (off : Nat) :
    kept (senseAt s off) = kept s := by
  unfold senseAt; split <;> simp

@[simp] theorem kept_readControl (s : State) (who : Requester) (off width : Nat) : kept (readControl s who off width) = kept s := by
  unfold readControl; split <;> simp

@[simp] theorem kept_execLoRegisterRead (who : Requester) (off : Nat) (width : Nat) (s : State) : kept ((outOr s (execLoRegisterRead who off width s))) = kept s := by
  unfold execLoRegisterRead; simp

@[simp] theorem kept_modGlb (s : State) (f : Glb → Glb) (h : (f s.glb).stage = s.glb.stage) : kept (modGlb s f) = kept s := by
  simp only [kept, modGlb, h]

@[simp] theorem kept_writeAdmin (s : State) (p : Nat) (v : Word) : kept (writeAdmin s p v) = kept s := by
  unfold writeAdmin; split <;> simp

@[simp] theorem kept_writePortRegs (s : State) (p r : Nat) (v : Word) : kept (writePortRegs s p r v) = kept s := by
  unfold writePortRegs
  repeat' split
  all_goals simp

@[simp] theorem kept_writeLock (s : State) (v : Word) : kept (writeLock s v) = kept s := by
  unfold writeLock; simp

@[simp] theorem kept_writeGlb (s : State) (r : Nat) (v : Word) : kept (writeGlb s r v) = kept s := by
  unfold writeGlb
  repeat' split
  all_goals simp

@[simp] theorem kept_writeDst (s : State) (r : Nat) (v : Word) :
    kept (writeDst s r v) = kept s := by
  unfold writeDst
  repeat' split
  all_goals simp

@[simp] theorem kept_execGlbLockWrite (who : Requester) (v : Word) (s : State) : kept ((outOr s (execGlbLockWrite who v s))) = kept s := by
  unfold execGlbLockWrite; simp

@[simp] theorem kept_execAdminRingsEnable (who : Requester) (p : Fin 4) (v : Word) (s : State) : kept ((outOr s (execAdminRingsEnable who p v s))) = kept s := by
  unfold execAdminRingsEnable; split <;> simp

@[simp] theorem kept_execAdminRingsDisable (who : Requester) (p : Fin 4) (v : Word) (s : State) : kept ((outOr s (execAdminRingsDisable who p v s))) = kept s := by
  unfold execAdminRingsDisable; split <;> simp

@[simp] theorem kept_modSb (s : State) (f : Sideband → Sideband) : kept (modSb s f) = kept s := by
  unfold modSb; simp

@[simp] theorem kept_served (s : State) (k : State → State) (h : ∀ t, kept (k t) = kept t) : kept (served s k) = kept s := by
  unfold served
  split
  · rfl
  · exact h s

@[simp] theorem kept_answerCcc (s : State) (b : List Byte) : kept (answerCcc s b) = kept s := by
  unfold answerCcc; split <;> simp

@[simp] theorem kept_execEntdaa (addr : BitVec 7) (s : State) : kept (outOr s (execEntdaa addr s)) = kept s := by
  unfold execEntdaa
  rw [outOr_next]
  refine kept_served _ _ fun t => ?_
  split <;> simp

@[simp] theorem kept_execSetdasa (static addr : BitVec 7) (s : State) : kept (outOr s (execSetdasa static addr s)) = kept s := by
  unfold execSetdasa
  rw [outOr_next]
  refine kept_served _ _ fun t => ?_
  split <;> simp

@[simp] theorem kept_execRstdaa (s : State) : kept ((outOr s (execRstdaa s))) = kept s := by
  unfold execRstdaa; simp

@[simp] theorem kept_execGetpid (s : State) : kept ((outOr s (execGetpid s))) = kept s := by
  unfold execGetpid; simp

@[simp] theorem kept_execGetbcr (s : State) : kept ((outOr s (execGetbcr s))) = kept s := by
  unfold execGetbcr; simp

@[simp] theorem kept_execGetdcr (s : State) : kept ((outOr s (execGetdcr s))) = kept s := by
  unfold execGetdcr; simp

@[simp] theorem kept_execGetstatus (s : State) : kept ((outOr s (execGetstatus s))) = kept s := by
  unfold execGetstatus; simp

@[simp] theorem kept_execEnec (s : State) : kept ((outOr s (execEnec s))) = kept s := by
  unfold execEnec; simp

@[simp] theorem kept_execDisec (s : State) : kept ((outOr s (execDisec s))) = kept s := by
  unfold execDisec; simp

@[simp] theorem kept_execSidebandReadRequest (bytes : List Byte) (s : State) : kept ((outOr s (execSidebandReadRequest bytes s))) = kept s := by
  unfold execSidebandReadRequest; split <;> simp

@[simp] theorem kept_execSidebandReadData (s : State) : kept (outOr s (execSidebandReadData s)) = kept s := by
  unfold execSidebandReadData
  rw [outOr_next]
  refine kept_served _ _ fun t => ?_
  split <;> simp

@[simp] theorem kept_modJtag (s : State) (f : Jtag → Jtag) : kept (modJtag s f) = kept s := by
  unfold modJtag; simp

@[simp] theorem kept_execBypass (s : State) : kept ((outOr s (execBypass s))) = kept s := by
  unfold execBypass; simp

@[simp] theorem kept_execIdcode (s : State) : kept ((outOr s (execIdcode s))) = kept s := by
  unfold execIdcode; simp

@[simp] theorem kept_sampleLands (s : State) (n : Nat) : kept (sampleLands s n).2 = kept s := by
  induction n generalizing s with
  | zero => rfl
  | succ n ih => unfold sampleLands; dsimp only; rw [ih]; simp

@[simp] theorem kept_execSamplePreload (cells : List Bool) (s : State) : kept ((outOr s (execSamplePreload cells s))) = kept s := by
  unfold execSamplePreload; simp

@[simp] theorem kept_driveTest (s : State) (ir : JtagIr) (drive : Nat) (cells : List Bool) : kept (driveTest s ir drive cells) = kept s := by
  unfold driveTest; simp

@[simp] theorem kept_execExtest (cells : List Bool) (s : State) : kept ((outOr s (execExtest cells s))) = kept s := by
  unfold execExtest; simp

@[simp] theorem kept_execExtestPulse (cells : List Bool) (s : State) : kept ((outOr s (execExtestPulse cells s))) = kept s := by
  unfold execExtestPulse; simp

@[simp] theorem kept_execExtestTrain (cells : List Bool) (s : State) : kept ((outOr s (execExtestTrain cells s))) = kept s := by
  unfold execExtestTrain; simp

@[simp] theorem kept_execHighz (s : State) : kept ((outOr s (execHighz s))) = kept s := by
  unfold execHighz; simp

@[simp] theorem kept_execJtagClamp (s : State) : kept ((outOr s (execJtagClamp s))) = kept s := by
  unfold execJtagClamp; simp

@[simp] theorem kept_execVendorDebugInstruction (target : DebugTarget) (s : State) : kept ((outOr s (execVendorDebugInstruction target s))) = kept s := by
  unfold execVendorDebugInstruction; split <;> simp

end Sys2Proof.Machine
end

