-- ==== Sys2Proof/Laws/OneWay.lean ====
section
/-! SUPPORT. The operations that change something of `kept`: each leaves the queue alone, moves the fuse and the counter one way only, and keeps a sound state sound. -/

set_option linter.unusedTactic false
set_option linter.unreachableTactic false
set_option linter.unusedSimpArgs false
set_option linter.unusedVariables false

namespace Sys2Proof.Machine

/-- What every operation of the model does at most to the queue, the fuse, the counter and the figures of `sound`. -/
def Keeps (s t : State) : Prop := t.pending = s.pending ∧ oneWay s t ∧ (sound s → sound t)

theorem Keeps.refl (s : State) : Keeps s s := ⟨rfl, ⟨id, Nat.le_refl _⟩, id⟩

theorem Keeps.trans {s t u : State} (h : Keeps s t) (k : Keeps t u) : Keeps s u :=
  ⟨k.1.trans h.1, ⟨fun x => k.2.1.1 (h.2.1.1 x), Nat.le_trans h.2.1.2 k.2.1.2⟩, fun x => k.2.2 (h.2.2 x)⟩

theorem keeps_of_kept {s t : State} (h : kept t = kept s) : Keeps s t := by
  simp only [kept, Prod.mk.injEq] at h
  simp_all [Keeps, oneWay, sound]

theorem Keeps.then_kept {s t u : State} (h : Keeps s t) (k : kept u = kept t) : Keeps s u := h.trans (keeps_of_kept k)

theorem Keeps.of_kept_left {s t u : State} (k : kept t = kept s) (h : Keeps t u) : Keeps s u := (keeps_of_kept k).trans h

theorem keeps_raiseCounter (s : State) : Keeps s (raiseCounter s) :=
  ⟨rfl, ⟨id, Nat.le_max_left _ _⟩, fun h => h⟩

theorem keeps_raiseLevel (s : State) (lv : Nat) (h : lv ≤ 2) : Keeps s (raiseLevel s lv) := by
  unfold raiseLevel
  refine Keeps.then_kept (t := { s with sec := { s.sec with levelRec := lv, fused2 := s.sec.fused2 || decide (lv = 2), jtagSession := false } }) ?_
    (kept_addRecord _ _ _ _ _)
  exact ⟨rfl, ⟨fun x => by simp [x], Nat.le_refl _⟩, fun x => ⟨h, x.2⟩⟩

theorem keeps_stage (s : State) (f : Glb → Glb) (h : (f s.glb).stage ∈ [0, 1, 3, 8, 9]) : Keeps s { s with glb := f s.glb } :=
  ⟨rfl, ⟨id, Nat.le_refl _⟩, fun x => ⟨x.1, x.2.1, x.2.2.1, h, x.2.2.2.2⟩⟩

theorem keeps_reachReady (s : State) : Keeps s (reachReady s) := by
  unfold reachReady
  dsimp only
  split
  · exact keeps_stage s (fun g => { g with stage := 1, held := true }) (by simp)
  · split
    · exact keeps_stage s (fun g => { g with stage := 3, held := false }) (by simp)
    · split
      · exact keeps_stage s (fun g => { g with stage := 8, held := true, fwver := BitVec.ofNat 32 (field (imageHeader s s.sec.slot) 8 4) }) (by simp)
      · exact (keeps_stage s (fun g => { g with stage := 9, held := false, fwver := BitVec.ofNat 32 (field (imageHeader s s.sec.slot) 8 4) })
          (by simp)).trans (keeps_raiseCounter _)

theorem keeps_warmReset (s : State) (why : Nat) : Keeps s (warmReset s why) := by
  unfold warmReset
  refine Keeps.then_kept (Keeps.of_kept_left (s := s) ?_ (keeps_reachReady _)) (kept_noteAlert _)
  simp

theorem keeps_renewRoot (s : State) (b : Bool) : Keeps s (renewRoot s b) := by
  refine ⟨rfl, ⟨id, Nat.le_refl _⟩, fun x => ⟨?_, x.2⟩⟩
  have := x.1
  unfold renewRoot
  dsimp only
  split <;> omega

theorem keeps_endHold (s : State) : Keeps s (endHold s) := by
  unfold endHold
  split
  · exact (keeps_stage s (fun g => { g with held := false, stage := 9 }) (by simp)).trans (keeps_raiseCounter _)
  · exact Keeps.refl s

theorem keeps_eraseFinish (s : State) (e : Erase) : Keeps s (eraseFinish s e) := by
  have h1 : Keeps s (renewRoot (emptyDevice s) e.lowering) := (keeps_renewRoot _ _).of_kept_left (kept_emptyDevice s)
  have h2 : Keeps s (endHold (closeErase (addRecord (if e.lowering then addRecord (renewRoot (emptyDevice s) e.lowering) 3 0 0 [] else
      renewRoot (emptyDevice s) e.lowering) 6 0 0 []) e)) := by
    refine (h1.then_kept ?_).trans (keeps_endHold _)
    rw [kept_closeErase, kept_addRecord]
    split
    · rw [kept_addRecord]
    · rfl
  have h3 : ∀ (o : Option Nat) (t : State), Keeps s t → Keeps s (match o with | some id => finishOk t id 0 | none => t) := by
    intro o t h
    cases o
    · exact h
    · exact h.then_kept (kept_finishOk _ _ _)
  exact h3 e.op _ h2

theorem keeps_writeLimit (s : State) (v : Word) : Keeps s (writeLimit s v) := by
  unfold writeLimit
  dsimp only
  split
  · exact Keeps.refl s
  · refine ⟨rfl, ⟨id, Nat.le_refl _⟩, fun x => ⟨x.1, x.2.1, fun n hn => ?_, x.2.2.2⟩⟩
    simp only [modPwr, Option.mem_some_iff] at hn
    omega

theorem keeps_watchdogReset (s : State) : Keeps s (watchdogReset s) := by
  unfold watchdogReset
  split
  · exact keeps_warmReset _ _
  · split
    · exact keeps_of_kept (by simp)
    · split
      · exact (keeps_warmReset _ _).of_kept_left (by simp)
      · exact keeps_of_kept (by simp)

theorem sound_reset : sound State.reset := ⟨by decide, by decide, by simp [State.reset], by decide, by decide, by decide, by decide, by decide, by decide⟩

/-- A cold reset: the queue, the fuse and the counter stay, and what it leaves is sound. -/
theorem keeps_coldState (s : State) (energy : Bool) : Keeps s (coldState s energy) :=
  ⟨rfl, ⟨id, Nat.le_refl _⟩, fun x => ⟨x.1, sound_reset.2⟩⟩

theorem keeps_flushAndReset (s : State) (energy mainInput : Bool) (why : Nat) : Keeps s (flushAndReset s energy mainInput why) := by
  unfold flushAndReset
  refine Keeps.then_kept (Keeps.of_kept_left (t := flushFigures (flushJournal (losePairs (loseOps (abandonOp s))) energy) energy mainInput) ?_
    (keeps_coldState _ energy)) ?_
  · simp
  · simp

theorem keeps_ctlWrite (s : State) (who : Requester) (off : Nat) (k : State → State) (h : ∀ t, Keeps t (k t)) : Keeps s (ctlWrite s who off k) := by
  unfold ctlWrite
  split
  · exact keeps_of_kept (kept_badAccess _ _)
  · split
    · exact Keeps.refl s
    · exact h s

theorem keeps_runRow (s : State) (id opcode need : Nat) (sel : Op → Bool) (body : Op → State → State) (h : ∀ o t, Keeps t (body o t)) :
    Keeps s (runRow s id opcode need sel body) := by
  unfold runRow
  repeat' split
  all_goals first
    | exact Keeps.refl s
    | exact keeps_of_kept (by simp)
    | exact h _ _
    | exact (h _ _).of_kept_left (by simp)

theorem keeps_checks (s : State) (id : Nat) (cs : List (Bool × Nat × Nat)) (ok : State) (h : (∀ c ∈ cs, c.1 = false) → Keeps s ok) :
    Keeps s (checks s id cs ok) := by
  unfold checks
  split
  · exact keeps_of_kept (kept_fail _ _ _ _)
  · rename_i e
    rw [List.find?_eq_none] at e
    exact h (fun c hc => by simpa using e c hc)

theorem keeps_writePwr (s : State) (r : Nat) (v : Word) : Keeps s (writePwr s r v) := by
  unfold writePwr
  split
  · exact keeps_writeLimit s v
  · split
    · exact keeps_of_kept (by simp)
    · exact Keeps.refl s

theorem keeps_writeReg (s : State) (off : Nat) (v : Word) : Keeps s (writeReg s off v) := by
  unfold writeReg
  split
  · exact keeps_of_kept (by simp)
  · split
    · exact keeps_writePwr _ _ _
    · refine keeps_of_kept ?_
      repeat' first
        | (simp; done)
        | split
        | dsimp only

theorem keeps_writeControl (s : State) (who : Requester) (off width : Nat) (v : Word) : Keeps s (writeControl s who off width v) := by
  unfold writeControl
  split
  · exact keeps_of_kept (kept_badAccess _ _)
  · exact keeps_ctlWrite _ _ _ _ fun t => keeps_writeReg t off v

/-! ### The rows that change something of `kept` -/

theorem keeps_execRegisterWrite (who : Requester) (off width : Nat) (v : Word) (s : State) : Keeps s (outOr s (execRegisterWrite who off width v s)) :=
  keeps_writeControl s who off width v

theorem keeps_execSidebandWrite (bytes : List Byte) (s : State) : Keeps s (outOr s (execSidebandWrite bytes s)) := by
  unfold execSidebandWrite served
  rw [outOr_next]
  split
  · exact Keeps.refl s
  · split
    · exact keeps_writeControl _ _ _ _ _
    · exact Keeps.refl s

theorem keeps_execPwrLimitWrite (who : Requester) (v : Word) (s : State) : Keeps s (outOr s (execPwrLimitWrite who v s)) :=
  keeps_ctlWrite _ _ _ _ fun t => keeps_writeLimit t v

theorem applyPwr_range (p : Pwr) (h : ∀ n ∈ p.pendLimit, n ≤ 4) (k : p.limit ≤ 4) :
    (applyPwr p).limit ≤ 4 ∧ ∀ n ∈ (applyPwr p).pendLimit, n ≤ 4 := by
  unfold applyPwr
  cases e : p.pendLimit <;> simp_all

theorem keeps_passBeat (s : State) : Keeps s (passBeat s) :=
  ⟨rfl, ⟨id, Nat.le_refl _⟩, fun x => ⟨x.1, (applyPwr_range s.pwr x.2.2.1 x.2.1).1, (applyPwr_range s.pwr x.2.2.1 x.2.1).2, x.2.2.2⟩⟩

theorem keeps_execBeat (s : State) : Keeps s (outOr s (execBeat s)) := by
  unfold execBeat
  rw [outOr_next]
  refine Keeps.then_kept ((keeps_passBeat (countHalt (countStalls (chargeBeat (sendIdles (finishBeat s)))))).of_kept_left (by simp)) ?_
  rw [kept_foldl _ (fun t a => kept_wakeForDraft t a), kept_trackIdle, kept_ageLinks]
  split <;> simp

theorem keeps_execWarmReset (op : Nat) (s : State) : Keeps s (outOr s (execWarmReset op s)) := by
  unfold execWarmReset runOp
  rw [outOr_next]
  refine keeps_runRow _ _ _ _ _ _ fun o t => ?_
  split
  · exact keeps_of_kept (kept_fail _ _ _ _)
  · exact (keeps_warmReset _ _).of_kept_left (by simp)

theorem keeps_execWatchdogExpiry (s : State) : Keeps s (outOr s (execWatchdogExpiry s)) := by
  unfold execWatchdogExpiry
  split
  · exact Keeps.refl s
  · exact (keeps_watchdogReset _).of_kept_left (by simp)

theorem keeps_execControlCoreFault (core : Fin 6) (kind : Fin 3) (s : State) : Keeps s (outOr s (execControlCoreFault core kind s)) := by
  unfold execControlCoreFault
  split
  · exact Keeps.refl s
  · exact (keeps_watchdogReset _).of_kept_left (by simp)

theorem keeps_execDistaffOpEnd (s : State) : Keeps s (outOr s (execDistaffOpEnd s)) := by
  unfold execDistaffOpEnd
  dsimp only
  split
  · exact (keeps_warmReset _ _).of_kept_left (by simp)
  · exact keeps_of_kept (by simp)

theorem keeps_execPowerLoss (s : State) : Keeps s (outOr s (execPowerLoss s)) := by
  unfold execPowerLoss
  split
  · exact Keeps.refl s
  · exact (keeps_flushAndReset s _ _ _).then_kept rfl

theorem keeps_execColdResetAssert (s : State) : Keeps s (outOr s (execColdResetAssert s)) := by
  unfold execColdResetAssert
  split
  · exact keeps_of_kept rfl
  · exact (keeps_flushAndReset s _ _ _).then_kept rfl

theorem keeps_execSetPowerLimit (op : Nat) (s : State) : Keeps s (outOr s (execSetPowerLimit op s)) := by
  unfold execSetPowerLimit
  rw [outOr_next]
  refine keeps_runRow _ _ _ _ _ _ fun o t => keeps_checks _ _ _ _ fun h => ?_
  refine Keeps.then_kept (t := modPwr t (fun p => { p with limit := o.f 8 1, pendLimit := none, heldPs0 := false })) ?_ (kept_finishOk _ _ _)
  have h2 : o.f 8 1 ≤ 4 := by simpa [powerChecks] using h _ (List.mem_cons_self ..)
  exact ⟨rfl, ⟨id, Nat.le_refl _⟩, fun x => ⟨x.1, h2, by simp [modPwr], x.2.2.2⟩⟩

theorem keeps_execColdBoot (env : BootEnv) (s : State) : Keeps s (outOr s (execColdBoot env s)) := by
  unfold execColdBoot
  split
  · exact Keeps.refl s
  · dsimp only
    split
    · refine Keeps.then_kept ((keeps_reachReady _).of_kept_left ?_) (kept_noteAlert _)
      rw [kept_loadFirmware]
      rfl
    · refine Keeps.then_kept ((keeps_reachReady _).of_kept_left ?_) (kept_noteAlert _)
      rw [kept_trainPorts, kept_fitBobbins]
      simp

theorem keeps_execSanitiseErase (s : State) : Keeps s (outOr s (execSanitiseErase s)) := by
  unfold execSanitiseErase
  split
  · exact Keeps.refl s
  · split
    · exact Keeps.refl s
    · split
      · split
        · exact keeps_of_kept (kept_eraseMarker _ _)
        · exact Keeps.refl s
      · split
        · exact keeps_of_kept (kept_eraseRoot _)
        · split
          · exact keeps_of_kept (kept_eraseDistaff _)
          · split
            · exact keeps_of_kept (kept_eraseDies _ _)
            · exact keeps_eraseFinish s _

theorem levelFields_level (o : Op) (h : ∀ c ∈ levelFields o, c.1 = false) : o.f 9 1 ≤ 2 := by
  unfold levelFields at h
  have h2 := h (decide (o.f 9 1 > 2), stBadDescriptor, 9) (List.mem_cons_of_mem _ (List.mem_cons_of_mem _ (List.mem_cons_self ..)))
  simpa using h2

theorem keeps_setLevel (s : State) (o : Op) (op : Nat) (h : o.f 9 1 ≤ 2) :
    Keeps s (if o.f 9 1 = level s then finishOk s op 0
         else if o.f 9 1 > level s then (if s.dst.current.isSome then s else finishOk (raiseLevel s (o.f 9 1)) op 0)
         else if s.sec.erase.isSome then fail s op stLocked 0
         else prepareErase s op true) := by
  generalize o.f 9 1 = lv at *
  split
  · exact keeps_of_kept (kept_finishOk _ _ _)
  · split
    · split
      · exact Keeps.refl s
      · exact (keeps_raiseLevel s lv h).then_kept (kept_finishOk _ _ _)
    · split
      · exact keeps_of_kept (kept_fail _ _ _ _)
      · exact keeps_of_kept (kept_prepareErase _ _ _)

theorem keeps_execLevelSetDevice (op : Nat) (s : State) : Keeps s (outOr s (execLevelSetDevice op s)) := by
  unfold execLevelSetDevice
  rw [outOr_next]
  refine keeps_runRow _ _ _ _ _ _ fun o t => ?_
  split
  · exact Keeps.refl t
  · refine keeps_checks _ _ _ _ fun h => keeps_setLevel _ _ _ ?_
    exact levelFields_level o fun c hc => h c (List.mem_append_left _ hc)

end Sys2Proof.Machine
end

