-- ==== Sys2Proof/Laws/Table.lean ====
section
/-! SUPPORT. Tables and memories: what a read after a write gives, and that every operation keeps the canonical form. -/

namespace Sys2Proof.Machine

/-! ### Reads after writes -/

@[simp] theorem lookup_nil {α : Type} (n : Nat) : lookup ([] : Tbl α) n = none := rfl

theorem lookup_cons {α : Type} (k : Nat) (v : α) (t : Tbl α) (n : Nat) : lookup ((k, v) :: t) n = if n = k then some v else lookup t n := rfl

@[simp] theorem lookup_insertKey_same {α : Type} (t : Tbl α) (n : Nat) (x : α) : lookup (insertKey t n x) n = some x := by
  induction t with
  | nil => simp [insertKey, lookup]
  | cons e t ih =>
    obtain ⟨k, v⟩ := e
    unfold insertKey
    split
    · simp [lookup]
    · split
      · simp [lookup]
      · rename_i h
        simp [lookup, h, ih]

@[simp] theorem lookup_insertKey_other {α : Type} (t : Tbl α) (n m : Nat) (x : α) (h : m ≠ n) : lookup (insertKey t n x) m = lookup t m := by
  induction t with
  | nil => simp [insertKey, lookup, h]
  | cons e t ih =>
    obtain ⟨k, v⟩ := e
    unfold insertKey
    split
    · simp [lookup, h]
    · split
      · rename_i e
        subst e
        simp [lookup, h]
      · simp [lookup, ih]

@[simp] theorem lookup_removeKey_same {α : Type} (t : Tbl α) (n : Nat) : lookup (removeKey t n) n = none := by
  induction t with
  | nil => rfl
  | cons e t ih =>
    obtain ⟨k, v⟩ := e
    unfold removeKey
    split
    · exact ih
    · rename_i h
      simp [lookup, h, ih]

@[simp] theorem lookup_removeKey_other {α : Type} (t : Tbl α) (n m : Nat) (h : m ≠ n) : lookup (removeKey t n) m = lookup t m := by
  induction t with
  | nil => rfl
  | cons e t ih =>
    obtain ⟨k, v⟩ := e
    unfold removeKey
    split
    · rename_i e
      subst e
      simp [lookup, ih, h]
    · simp [lookup, ih]

theorem lookup_adjust {α : Type} (t : Tbl α) (n m : Nat) (f : α → α) :
    lookup (adjust t n f) m = if m = n then (lookup t m).map f else lookup t m := by
  induction t with
  | nil => simp [adjust, lookup]
  | cons e t ih =>
    obtain ⟨k, v⟩ := e
    simp only [adjust, List.map_cons] at ih ⊢
    by_cases h : k = n
    · subst h
      by_cases h2 : m = k
      · subst h2; simp [lookup]
      · simp [lookup, h2, ih]
    · by_cases h2 : m = k
      · subst h2; simp [lookup, h]
      · simp [lookup, h, h2, ih]

/-- A key after a write: the new value there, the old one elsewhere. -/
theorem readD_writeD {α : Type} [DecidableEq α] (d : α) (t : Tbl α) (n m : Nat) (x : α) :
    readD d (writeD d t n x) m = if m = n then x else readD d t m := by
  unfold readD writeD
  by_cases h : m = n
  · subst h
    by_cases h2 : x = d
    · simp [h2]
    · simp [h2]
  · by_cases h2 : x = d
    · simp [h, h2]
    · simp [h, h2]

@[simp] theorem readByte_writeByte_same (m : Mem) (a : Nat) (b : Byte) : readByte (writeByte m a b) a = b := by
  simp [readByte, writeByte, readD_writeD]

@[simp] theorem readByte_writeByte_other (m : Mem) (a c : Nat) (b : Byte) (h : c ≠ a) : readByte (writeByte m a b) c = readByte m c := by
  simp [readByte, writeByte, readD_writeD, h]

/-- A byte after a block was written: the block's byte inside it, the old byte outside. -/
theorem readByte_writeBytes (m : Mem) (a : Nat) (bs : List Byte) (c : Nat) :
    readByte (writeBytes m a bs) c = if a ≤ c ∧ c < a + bs.length then bs.getD (c - a) 0#8 else readByte m c := by
  induction bs generalizing m a with
  | nil => simp [writeBytes]
  | cons b bs ih =>
    rw [writeBytes, ih]
    by_cases h : c = a
    · subst h
      simp
    · by_cases h2 : a + 1 ≤ c ∧ c < a + 1 + bs.length
      · rw [if_pos h2, if_pos (by simp only [List.length_cons]; omega)]
        obtain ⟨k, hk⟩ : ∃ k, c - a = k + 1 := ⟨c - a - 1, by omega⟩
        rw [hk, List.getD_cons_succ, show c - (a + 1) = k by omega]
      · rw [if_neg h2, if_neg (by simp only [List.length_cons]; omega), readByte_writeByte_other _ _ _ _ h]

/-! ### The canonical form -/

theorem rising_tail {α : Type} {e : Nat × α} {t : Tbl α} (h : rising (e :: t) = true) : rising t = true := by
  obtain ⟨k, v⟩ := e
  cases t with
  | nil => rfl
  | cons f t =>
    obtain ⟨k', v'⟩ := f
    simp only [rising, Bool.and_eq_true] at h
    exact h.2

theorem rising_iff {α : Type} (t : Tbl α) : rising t = true ↔ t.Pairwise (fun a b => a.1 < b.1) := by
  induction t with
  | nil => simp [rising]
  | cons e t ih =>
    obtain ⟨k, v⟩ := e
    cases t with
    | nil => simp [rising]
    | cons f t =>
      obtain ⟨k', v'⟩ := f
      simp only [rising, Bool.and_eq_true, decide_eq_true_eq, ih]
      constructor
      · rintro ⟨h, p⟩
        refine List.pairwise_cons.2 ⟨fun a ha => ?_, p⟩
        rcases List.mem_cons.1 ha with rfl | ha
        · exact h
        · exact Nat.lt_trans h ((List.pairwise_cons.1 p).1 a ha)
      · intro p
        exact ⟨(List.pairwise_cons.1 p).1 (k', v') (List.mem_cons_self ..), (List.pairwise_cons.1 p).2⟩

theorem mem_insertKey {α : Type} {t : Tbl α} {n : Nat} {x : α} {e : Nat × α} (h : e ∈ insertKey t n x) : e = (n, x) ∨ e ∈ t := by
  induction t with
  | nil => simpa [insertKey] using h
  | cons f t ih =>
    obtain ⟨k, v⟩ := f
    unfold insertKey at h
    split at h
    · simpa using h
    · split at h
      · rcases List.mem_cons.1 h with h | h
        · exact .inl h
        · exact .inr (List.mem_cons_of_mem _ h)
      · rcases List.mem_cons.1 h with h | h
        · exact .inr (h ▸ List.mem_cons_self ..)
        · rcases ih h with h | h
          · exact .inl h
          · exact .inr (List.mem_cons_of_mem _ h)

theorem mem_removeKey {α : Type} {t : Tbl α} {n : Nat} {e : Nat × α} (h : e ∈ removeKey t n) : e ∈ t := by
  induction t with
  | nil => exact h
  | cons f t ih =>
    obtain ⟨k, v⟩ := f
    unfold removeKey at h
    split at h
    · exact List.mem_cons_of_mem _ (ih h)
    · rcases List.mem_cons.1 h with h | h
      · exact h ▸ List.mem_cons_self ..
      · exact List.mem_cons_of_mem _ (ih h)

theorem rising_insertKey {α : Type} (t : Tbl α) (n : Nat) (x : α) (h : rising t = true) : rising (insertKey t n x) = true := by
  rw [rising_iff] at *
  induction t with
  | nil => simp [insertKey]
  | cons e t ih =>
    obtain ⟨k, v⟩ := e
    have hp := List.pairwise_cons.1 h
    unfold insertKey
    split
    · rename_i hn
      refine List.pairwise_cons.2 ⟨fun a ha => ?_, h⟩
      rcases List.mem_cons.1 ha with rfl | ha
      · exact hn
      · exact Nat.lt_trans hn (hp.1 a ha)
    · split
      · rename_i e
        subst e
        exact List.pairwise_cons.2 ⟨hp.1, hp.2⟩
      · rename_i h1 h2
        refine List.pairwise_cons.2 ⟨fun a ha => ?_, ih hp.2⟩
        rcases mem_insertKey ha with rfl | ha
        · show k < n
          omega
        · exact hp.1 a ha

theorem rising_removeKey {α : Type} (t : Tbl α) (n : Nat) (h : rising t = true) : rising (removeKey t n) = true := by
  rw [rising_iff] at *
  induction t with
  | nil => simp [removeKey]
  | cons e t ih =>
    obtain ⟨k, v⟩ := e
    have hp := List.pairwise_cons.1 h
    unfold removeKey
    split
    · exact ih hp.2
    · exact List.pairwise_cons.2 ⟨fun a ha => hp.1 a (mem_removeKey ha), ih hp.2⟩

theorem rising_filter {α : Type} (t : Tbl α) (p : Nat × α → Bool) (h : rising t = true) : rising (t.filter p) = true := by
  rw [rising_iff] at *
  exact h.filter p

theorem wf_iff {α : Type} [DecidableEq α] (d : α) (t : Tbl α) : Tbl.wf d t = true ↔ rising t = true ∧ ∀ e ∈ t, e.2 ≠ d := by
  simp [Tbl.wf]

theorem wf_writeD {α : Type} [DecidableEq α] (d : α) (t : Tbl α) (n : Nat) (x : α) (h : Tbl.wf d t = true) : Tbl.wf d (writeD d t n x) = true := by
  rw [wf_iff] at *
  unfold writeD
  split
  · exact ⟨rising_removeKey _ _ h.1, fun e he => h.2 e (mem_removeKey he)⟩
  · rename_i hx
    refine ⟨rising_insertKey _ _ _ h.1, fun e he => ?_⟩
    rcases mem_insertKey he with rfl | he
    · exact hx
    · exact h.2 e he

theorem wf_writeByte (m : Mem) (a : Nat) (b : Byte) (h : Memory.wf m = true) : Memory.wf (writeByte m a b) = true := wf_writeD _ _ _ _ h

theorem wf_writeBytes (m : Mem) (a : Nat) (bs : List Byte) (h : Memory.wf m = true) : Memory.wf (writeBytes m a bs) = true := by
  induction bs generalizing m a with
  | nil => exact h
  | cons b bs ih => exact ih _ _ (wf_writeByte m a b h)

theorem wf_filter (m : Mem) (p : Nat × Byte → Bool) (h : Memory.wf m = true) : Memory.wf (m.filter p) = true := by
  rw [Memory.wf, wf_iff] at *
  exact ⟨rising_filter _ _ h.1, fun e he => h.2 e (List.mem_of_mem_filter he)⟩

theorem wf_zeroRange (m : Mem) (a n : Nat) (h : Memory.wf m = true) : Memory.wf (zeroRange m a n) = true := wf_filter _ _ h

theorem wf_sliceRange (m : Mem) (a n : Nat) (h : Memory.wf m = true) : Memory.wf (sliceRange m a n) = true := by
  have hf := wf_filter m (fun e => a ≤ e.1 && e.1 < a + n) h
  rw [Memory.wf, wf_iff] at *
  refine ⟨?_, fun e he => ?_⟩
  · have h1 := hf.1
    rw [rising_iff] at *
    rw [sliceRange, List.pairwise_map]
    refine List.Pairwise.imp_of_mem (fun {x y} hx hy hxy => ?_) h1
    have hx2 := (List.mem_filter.1 hx).2
    simp only [Bool.and_eq_true, decide_eq_true_eq] at hx2
    show x.1 - a < y.1 - a
    omega
  · obtain ⟨y, hy, rfl⟩ := List.mem_map.1 he
    exact hf.2 y hy

theorem wf_pasteRange (m : Mem) (a n : Nat) (src : Mem) (h : Memory.wf m = true) (k : Memory.wf src = true) : Memory.wf (pasteRange m a n src) = true := by
  rw [Memory.wf, wf_iff] at *
  have hm := (rising_iff m).1 h.1
  have hs := (rising_iff src).1 k.1
  refine ⟨?_, fun e he => ?_⟩
  · rw [rising_iff, pasteRange, zeroRange, List.pairwise_append, List.pairwise_append]
    refine ⟨⟨(hm.filter _).filter _, ?_, fun x hx y hy => ?_⟩, hm.filter _, fun x hx y hy => ?_⟩
    · rw [List.pairwise_map]
      exact (hs.filter _).imp (fun {x y} hxy => by show x.1 + a < y.1 + a; omega)
    · have h1 := (List.mem_filter.1 hx).2
      obtain ⟨z, _, rfl⟩ := List.mem_map.1 hy
      simp only [decide_eq_true_eq] at h1
      show x.1 < z.1 + a
      omega
    · have h2 := (List.mem_filter.1 hy).2
      simp only [decide_eq_true_eq] at h2
      rcases List.mem_append.1 hx with hx | hx
      · have h1 := (List.mem_filter.1 hx).2
        simp only [decide_eq_true_eq] at h1
        omega
      · obtain ⟨z, hz, rfl⟩ := List.mem_map.1 hx
        have h1 := (List.mem_filter.1 hz).2
        simp only [decide_eq_true_eq] at h1
        show z.1 + a < y.1
        omega
  · rw [pasteRange] at he
    rcases List.mem_append.1 he with he | he
    · rcases List.mem_append.1 he with he | he
      · exact h.2 e (List.mem_of_mem_filter (List.mem_of_mem_filter he))
      · obtain ⟨z, hz, rfl⟩ := List.mem_map.1 he
        exact k.2 z (List.mem_of_mem_filter hz)
    · exact h.2 e (List.mem_of_mem_filter he)

end Sys2Proof.Machine
end

