-- ==== Sys2Proof/Laws/State.lean ====
section
/-! SUPPORT. What each update of the state does to each of its fields: one lemma a field. -/

namespace Sys2Proof.Machine

/-! ### modPort -/

@[simp] theorem modPort_pending (s : State) (p : Nat) (f : Port → Port) : (modPort s p f).pending = s.pending := rfl
@[simp] theorem modPort_free (s : State) (p : Nat) (f : Port → Port) : (modPort s p f).free = s.free := rfl
@[simp] theorem modPort_clock (s : State) (p : Nat) (f : Port → Port) : (modPort s p f).clock = s.clock := rfl
@[simp] theorem modPort_opSeq (s : State) (p : Nat) (f : Port → Port) : (modPort s p f).opSeq = s.opSeq := rfl
@[simp] theorem modPort_latch (s : State) (p : Nat) (f : Port → Port) : (modPort s p f).latch = s.latch := rfl
@[simp] theorem modPort_readData (s : State) (p : Nat) (f : Port → Port) : (modPort s p f).readData = s.readData := rfl
@[simp] theorem modPort_glb (s : State) (p : Nat) (f : Port → Port) : (modPort s p f).glb = s.glb := rfl
@[simp] theorem modPort_ports (s : State) (p : Nat) (f : Port → Port) : (modPort s p f).ports = writeD Port.zero s.ports p (f (getPort s p)) := rfl
@[simp] theorem modPort_ops (s : State) (p : Nat) (f : Port → Port) : (modPort s p f).ops = s.ops := rfl
@[simp] theorem modPort_pwr (s : State) (p : Nat) (f : Port → Port) : (modPort s p f).pwr = s.pwr := rfl
@[simp] theorem modPort_pins (s : State) (p : Nat) (f : Port → Port) : (modPort s p f).pins = s.pins := rfl
@[simp] theorem modPort_trd (s : State) (p : Nat) (f : Port → Port) : (modPort s p f).trd = s.trd := rfl
@[simp] theorem modPort_sec (s : State) (p : Nat) (f : Port → Port) : (modPort s p f).sec = s.sec := rfl
@[simp] theorem modPort_dst (s : State) (p : Nat) (f : Port → Port) : (modPort s p f).dst = s.dst := rfl
@[simp] theorem modPort_slices (s : State) (p : Nat) (f : Port → Port) : (modPort s p f).slices = s.slices := rfl
@[simp] theorem modPort_sched (s : State) (p : Nat) (f : Port → Port) : (modPort s p f).sched = s.sched := rfl
@[simp] theorem modPort_rotation (s : State) (p : Nat) (f : Port → Port) : (modPort s p f).rotation = s.rotation := rfl
@[simp] theorem modPort_nextRotation (s : State) (p : Nat) (f : Port → Port) : (modPort s p f).nextRotation = s.nextRotation := rfl
@[simp] theorem modPort_meterRing (s : State) (p : Nat) (f : Port → Port) : (modPort s p f).meterRing = s.meterRing := rfl
@[simp] theorem modPort_meterQueue (s : State) (p : Nat) (f : Port → Port) : (modPort s p f).meterQueue = s.meterQueue := rfl
@[simp] theorem modPort_meterGaps (s : State) (p : Nat) (f : Port → Port) : (modPort s p f).meterGaps = s.meterGaps := rfl
@[simp] theorem modPort_boot (s : State) (p : Nat) (f : Port → Port) : (modPort s p f).boot = s.boot := rfl
@[simp] theorem modPort_spindles (s : State) (p : Nat) (f : Port → Port) : (modPort s p f).spindles = s.spindles := rfl
@[simp] theorem modPort_skeins (s : State) (p : Nat) (f : Port → Port) : (modPort s p f).skeins = s.skeins := rfl
@[simp] theorem modPort_drafts (s : State) (p : Nat) (f : Port → Port) : (modPort s p f).drafts = s.drafts := rfl
@[simp] theorem modPort_nextHandle (s : State) (p : Nat) (f : Port → Port) : (modPort s p f).nextHandle = s.nextHandle := rfl
@[simp] theorem modPort_jobs (s : State) (p : Nat) (f : Port → Port) : (modPort s p f).jobs = s.jobs := rfl
@[simp] theorem modPort_plies (s : State) (p : Nat) (f : Port → Port) : (modPort s p f).plies = s.plies := rfl
@[simp] theorem modPort_bobbins (s : State) (p : Nat) (f : Port → Port) : (modPort s p f).bobbins = s.bobbins := rfl
@[simp] theorem modPort_journal (s : State) (p : Nat) (f : Port → Port) : (modPort s p f).journal = s.journal := rfl
@[simp] theorem modPort_stores (s : State) (p : Nat) (f : Port → Port) : (modPort s p f).stores = s.stores := rfl
@[simp] theorem modPort_fences (s : State) (p : Nat) (f : Port → Port) : (modPort s p f).fences = s.fences := rfl
@[simp] theorem modPort_selfTest (s : State) (p : Nat) (f : Port → Port) : (modPort s p f).selfTest = s.selfTest := rfl
@[simp] theorem modPort_strand (s : State) (p : Nat) (f : Port → Port) : (modPort s p f).strand = s.strand := rfl
@[simp] theorem modPort_card (s : State) (p : Nat) (f : Port → Port) : (modPort s p f).card = s.card := rfl
@[simp] theorem modPort_ras (s : State) (p : Nat) (f : Port → Port) : (modPort s p f).ras = s.ras := rfl
@[simp] theorem modPort_memStacks (s : State) (p : Nat) (f : Port → Port) : (modPort s p f).memStacks = s.memStacks := rfl
@[simp] theorem modPort_mem (s : State) (p : Nat) (f : Port → Port) : (modPort s p f).mem = s.mem := rfl
@[simp] theorem modPort_sideband (s : State) (p : Nat) (f : Port → Port) : (modPort s p f).sideband = s.sideband := rfl
@[simp] theorem modPort_jtag (s : State) (p : Nat) (f : Port → Port) : (modPort s p f).jtag = s.jtag := rfl

/-! ### modSpn -/

@[simp] theorem modSpn_pending (s : State) (n : Nat) (f : Spindle → Spindle) : (modSpn s n f).pending = s.pending := rfl
@[simp] theorem modSpn_free (s : State) (n : Nat) (f : Spindle → Spindle) : (modSpn s n f).free = s.free := rfl
@[simp] theorem modSpn_clock (s : State) (n : Nat) (f : Spindle → Spindle) : (modSpn s n f).clock = s.clock := rfl
@[simp] theorem modSpn_opSeq (s : State) (n : Nat) (f : Spindle → Spindle) : (modSpn s n f).opSeq = s.opSeq := rfl
@[simp] theorem modSpn_latch (s : State) (n : Nat) (f : Spindle → Spindle) : (modSpn s n f).latch = s.latch := rfl
@[simp] theorem modSpn_readData (s : State) (n : Nat) (f : Spindle → Spindle) : (modSpn s n f).readData = s.readData := rfl
@[simp] theorem modSpn_glb (s : State) (n : Nat) (f : Spindle → Spindle) : (modSpn s n f).glb = s.glb := rfl
@[simp] theorem modSpn_ports (s : State) (n : Nat) (f : Spindle → Spindle) : (modSpn s n f).ports = s.ports := rfl
@[simp] theorem modSpn_ops (s : State) (n : Nat) (f : Spindle → Spindle) : (modSpn s n f).ops = s.ops := rfl
@[simp] theorem modSpn_pwr (s : State) (n : Nat) (f : Spindle → Spindle) : (modSpn s n f).pwr = s.pwr := rfl
@[simp] theorem modSpn_pins (s : State) (n : Nat) (f : Spindle → Spindle) : (modSpn s n f).pins = s.pins := rfl
@[simp] theorem modSpn_trd (s : State) (n : Nat) (f : Spindle → Spindle) : (modSpn s n f).trd = s.trd := rfl
@[simp] theorem modSpn_sec (s : State) (n : Nat) (f : Spindle → Spindle) : (modSpn s n f).sec = s.sec := rfl
@[simp] theorem modSpn_dst (s : State) (n : Nat) (f : Spindle → Spindle) : (modSpn s n f).dst = s.dst := rfl
@[simp] theorem modSpn_slices (s : State) (n : Nat) (f : Spindle → Spindle) : (modSpn s n f).slices = s.slices := rfl
@[simp] theorem modSpn_sched (s : State) (n : Nat) (f : Spindle → Spindle) : (modSpn s n f).sched = s.sched := rfl
@[simp] theorem modSpn_rotation (s : State) (n : Nat) (f : Spindle → Spindle) : (modSpn s n f).rotation = s.rotation := rfl
@[simp] theorem modSpn_nextRotation (s : State) (n : Nat) (f : Spindle → Spindle) : (modSpn s n f).nextRotation = s.nextRotation := rfl
@[simp] theorem modSpn_meterRing (s : State) (n : Nat) (f : Spindle → Spindle) : (modSpn s n f).meterRing = s.meterRing := rfl
@[simp] theorem modSpn_meterQueue (s : State) (n : Nat) (f : Spindle → Spindle) : (modSpn s n f).meterQueue = s.meterQueue := rfl
@[simp] theorem modSpn_meterGaps (s : State) (n : Nat) (f : Spindle → Spindle) : (modSpn s n f).meterGaps = s.meterGaps := rfl
@[simp] theorem modSpn_boot (s : State) (n : Nat) (f : Spindle → Spindle) : (modSpn s n f).boot = s.boot := rfl
@[simp] theorem modSpn_skeins (s : State) (n : Nat) (f : Spindle → Spindle) : (modSpn s n f).skeins = s.skeins := rfl
@[simp] theorem modSpn_drafts (s : State) (n : Nat) (f : Spindle → Spindle) : (modSpn s n f).drafts = s.drafts := rfl
@[simp] theorem modSpn_nextHandle (s : State) (n : Nat) (f : Spindle → Spindle) : (modSpn s n f).nextHandle = s.nextHandle := rfl
@[simp] theorem modSpn_jobs (s : State) (n : Nat) (f : Spindle → Spindle) : (modSpn s n f).jobs = s.jobs := rfl
@[simp] theorem modSpn_plies (s : State) (n : Nat) (f : Spindle → Spindle) : (modSpn s n f).plies = s.plies := rfl
@[simp] theorem modSpn_bobbins (s : State) (n : Nat) (f : Spindle → Spindle) : (modSpn s n f).bobbins = s.bobbins := rfl
@[simp] theorem modSpn_journal (s : State) (n : Nat) (f : Spindle → Spindle) : (modSpn s n f).journal = s.journal := rfl
@[simp] theorem modSpn_stores (s : State) (n : Nat) (f : Spindle → Spindle) : (modSpn s n f).stores = s.stores := rfl
@[simp] theorem modSpn_fences (s : State) (n : Nat) (f : Spindle → Spindle) : (modSpn s n f).fences = s.fences := rfl
@[simp] theorem modSpn_selfTest (s : State) (n : Nat) (f : Spindle → Spindle) : (modSpn s n f).selfTest = s.selfTest := rfl
@[simp] theorem modSpn_strand (s : State) (n : Nat) (f : Spindle → Spindle) : (modSpn s n f).strand = s.strand := rfl
@[simp] theorem modSpn_card (s : State) (n : Nat) (f : Spindle → Spindle) : (modSpn s n f).card = s.card := rfl
@[simp] theorem modSpn_ras (s : State) (n : Nat) (f : Spindle → Spindle) : (modSpn s n f).ras = s.ras := rfl
@[simp] theorem modSpn_memStacks (s : State) (n : Nat) (f : Spindle → Spindle) : (modSpn s n f).memStacks = s.memStacks := rfl
@[simp] theorem modSpn_mem (s : State) (n : Nat) (f : Spindle → Spindle) : (modSpn s n f).mem = s.mem := rfl
@[simp] theorem modSpn_sideband (s : State) (n : Nat) (f : Spindle → Spindle) : (modSpn s n f).sideband = s.sideband := rfl
@[simp] theorem modSpn_jtag (s : State) (n : Nat) (f : Spindle → Spindle) : (modSpn s n f).jtag = s.jtag := rfl

/-! ### modBob -/

@[simp] theorem modBob_pending (s : State) (b : Nat) (f : Bobbin → Bobbin) : (modBob s b f).pending = s.pending := rfl
@[simp] theorem modBob_free (s : State) (b : Nat) (f : Bobbin → Bobbin) : (modBob s b f).free = s.free := rfl
@[simp] theorem modBob_clock (s : State) (b : Nat) (f : Bobbin → Bobbin) : (modBob s b f).clock = s.clock := rfl
@[simp] theorem modBob_opSeq (s : State) (b : Nat) (f : Bobbin → Bobbin) : (modBob s b f).opSeq = s.opSeq := rfl
@[simp] theorem modBob_latch (s : State) (b : Nat) (f : Bobbin → Bobbin) : (modBob s b f).latch = s.latch := rfl
@[simp] theorem modBob_readData (s : State) (b : Nat) (f : Bobbin → Bobbin) : (modBob s b f).readData = s.readData := rfl
@[simp] theorem modBob_glb (s : State) (b : Nat) (f : Bobbin → Bobbin) : (modBob s b f).glb = s.glb := rfl
@[simp] theorem modBob_ports (s : State) (b : Nat) (f : Bobbin → Bobbin) : (modBob s b f).ports = s.ports := rfl
@[simp] theorem modBob_ops (s : State) (b : Nat) (f : Bobbin → Bobbin) : (modBob s b f).ops = s.ops := rfl
@[simp] theorem modBob_pwr (s : State) (b : Nat) (f : Bobbin → Bobbin) : (modBob s b f).pwr = s.pwr := rfl
@[simp] theorem modBob_pins (s : State) (b : Nat) (f : Bobbin → Bobbin) : (modBob s b f).pins = s.pins := rfl
@[simp] theorem modBob_trd (s : State) (b : Nat) (f : Bobbin → Bobbin) : (modBob s b f).trd = s.trd := rfl
@[simp] theorem modBob_sec (s : State) (b : Nat) (f : Bobbin → Bobbin) : (modBob s b f).sec = s.sec := rfl
@[simp] theorem modBob_dst (s : State) (b : Nat) (f : Bobbin → Bobbin) : (modBob s b f).dst = s.dst := rfl
@[simp] theorem modBob_slices (s : State) (b : Nat) (f : Bobbin → Bobbin) : (modBob s b f).slices = s.slices := rfl
@[simp] theorem modBob_sched (s : State) (b : Nat) (f : Bobbin → Bobbin) : (modBob s b f).sched = s.sched := rfl
@[simp] theorem modBob_rotation (s : State) (b : Nat) (f : Bobbin → Bobbin) : (modBob s b f).rotation = s.rotation := rfl
@[simp] theorem modBob_nextRotation (s : State) (b : Nat) (f : Bobbin → Bobbin) : (modBob s b f).nextRotation = s.nextRotation := rfl
@[simp] theorem modBob_meterRing (s : State) (b : Nat) (f : Bobbin → Bobbin) : (modBob s b f).meterRing = s.meterRing := rfl
@[simp] theorem modBob_meterQueue (s : State) (b : Nat) (f : Bobbin → Bobbin) : (modBob s b f).meterQueue = s.meterQueue := rfl
@[simp] theorem modBob_meterGaps (s : State) (b : Nat) (f : Bobbin → Bobbin) : (modBob s b f).meterGaps = s.meterGaps := rfl
@[simp] theorem modBob_boot (s : State) (b : Nat) (f : Bobbin → Bobbin) : (modBob s b f).boot = s.boot := rfl
@[simp] theorem modBob_spindles (s : State) (b : Nat) (f : Bobbin → Bobbin) : (modBob s b f).spindles = s.spindles := rfl
@[simp] theorem modBob_skeins (s : State) (b : Nat) (f : Bobbin → Bobbin) : (modBob s b f).skeins = s.skeins := rfl
@[simp] theorem modBob_drafts (s : State) (b : Nat) (f : Bobbin → Bobbin) : (modBob s b f).drafts = s.drafts := rfl
@[simp] theorem modBob_nextHandle (s : State) (b : Nat) (f : Bobbin → Bobbin) : (modBob s b f).nextHandle = s.nextHandle := rfl
@[simp] theorem modBob_jobs (s : State) (b : Nat) (f : Bobbin → Bobbin) : (modBob s b f).jobs = s.jobs := rfl
@[simp] theorem modBob_plies (s : State) (b : Nat) (f : Bobbin → Bobbin) : (modBob s b f).plies = s.plies := rfl
@[simp] theorem modBob_journal (s : State) (b : Nat) (f : Bobbin → Bobbin) : (modBob s b f).journal = s.journal := rfl
@[simp] theorem modBob_stores (s : State) (b : Nat) (f : Bobbin → Bobbin) : (modBob s b f).stores = s.stores := rfl
@[simp] theorem modBob_fences (s : State) (b : Nat) (f : Bobbin → Bobbin) : (modBob s b f).fences = s.fences := rfl
@[simp] theorem modBob_selfTest (s : State) (b : Nat) (f : Bobbin → Bobbin) : (modBob s b f).selfTest = s.selfTest := rfl
@[simp] theorem modBob_strand (s : State) (b : Nat) (f : Bobbin → Bobbin) : (modBob s b f).strand = s.strand := rfl
@[simp] theorem modBob_card (s : State) (b : Nat) (f : Bobbin → Bobbin) : (modBob s b f).card = s.card := rfl
@[simp] theorem modBob_ras (s : State) (b : Nat) (f : Bobbin → Bobbin) : (modBob s b f).ras = s.ras := rfl
@[simp] theorem modBob_memStacks (s : State) (b : Nat) (f : Bobbin → Bobbin) : (modBob s b f).memStacks = s.memStacks := rfl
@[simp] theorem modBob_mem (s : State) (b : Nat) (f : Bobbin → Bobbin) : (modBob s b f).mem = s.mem := rfl
@[simp] theorem modBob_sideband (s : State) (b : Nat) (f : Bobbin → Bobbin) : (modBob s b f).sideband = s.sideband := rfl
@[simp] theorem modBob_jtag (s : State) (b : Nat) (f : Bobbin → Bobbin) : (modBob s b f).jtag = s.jtag := rfl

/-! ### modLane -/

@[simp] theorem modLane_pending (s : State) (n : Nat) (f : Lane → Lane) : (modLane s n f).pending = s.pending := rfl
@[simp] theorem modLane_free (s : State) (n : Nat) (f : Lane → Lane) : (modLane s n f).free = s.free := rfl
@[simp] theorem modLane_clock (s : State) (n : Nat) (f : Lane → Lane) : (modLane s n f).clock = s.clock := rfl
@[simp] theorem modLane_opSeq (s : State) (n : Nat) (f : Lane → Lane) : (modLane s n f).opSeq = s.opSeq := rfl
@[simp] theorem modLane_latch (s : State) (n : Nat) (f : Lane → Lane) : (modLane s n f).latch = s.latch := rfl
@[simp] theorem modLane_readData (s : State) (n : Nat) (f : Lane → Lane) : (modLane s n f).readData = s.readData := rfl
@[simp] theorem modLane_glb (s : State) (n : Nat) (f : Lane → Lane) : (modLane s n f).glb = s.glb := rfl
@[simp] theorem modLane_ports (s : State) (n : Nat) (f : Lane → Lane) : (modLane s n f).ports = s.ports := rfl
@[simp] theorem modLane_ops (s : State) (n : Nat) (f : Lane → Lane) : (modLane s n f).ops = s.ops := rfl
@[simp] theorem modLane_pwr (s : State) (n : Nat) (f : Lane → Lane) : (modLane s n f).pwr = s.pwr := rfl
@[simp] theorem modLane_pins (s : State) (n : Nat) (f : Lane → Lane) : (modLane s n f).pins = s.pins := rfl
@[simp] theorem modLane_trd (s : State) (n : Nat) (f : Lane → Lane) : (modLane s n f).trd = s.trd := rfl
@[simp] theorem modLane_sec (s : State) (n : Nat) (f : Lane → Lane) : (modLane s n f).sec = s.sec := rfl
@[simp] theorem modLane_dst (s : State) (n : Nat) (f : Lane → Lane) : (modLane s n f).dst = s.dst := rfl
@[simp] theorem modLane_slices (s : State) (n : Nat) (f : Lane → Lane) : (modLane s n f).slices = s.slices := rfl
@[simp] theorem modLane_sched (s : State) (n : Nat) (f : Lane → Lane) : (modLane s n f).sched = s.sched := rfl
@[simp] theorem modLane_rotation (s : State) (n : Nat) (f : Lane → Lane) : (modLane s n f).rotation = s.rotation := rfl
@[simp] theorem modLane_nextRotation (s : State) (n : Nat) (f : Lane → Lane) : (modLane s n f).nextRotation = s.nextRotation := rfl
@[simp] theorem modLane_meterRing (s : State) (n : Nat) (f : Lane → Lane) : (modLane s n f).meterRing = s.meterRing := rfl
@[simp] theorem modLane_meterQueue (s : State) (n : Nat) (f : Lane → Lane) : (modLane s n f).meterQueue = s.meterQueue := rfl
@[simp] theorem modLane_meterGaps (s : State) (n : Nat) (f : Lane → Lane) : (modLane s n f).meterGaps = s.meterGaps := rfl
@[simp] theorem modLane_boot (s : State) (n : Nat) (f : Lane → Lane) : (modLane s n f).boot = s.boot := rfl
@[simp] theorem modLane_spindles (s : State) (n : Nat) (f : Lane → Lane) : (modLane s n f).spindles = s.spindles := rfl
@[simp] theorem modLane_skeins (s : State) (n : Nat) (f : Lane → Lane) : (modLane s n f).skeins = s.skeins := rfl
@[simp] theorem modLane_drafts (s : State) (n : Nat) (f : Lane → Lane) : (modLane s n f).drafts = s.drafts := rfl
@[simp] theorem modLane_nextHandle (s : State) (n : Nat) (f : Lane → Lane) : (modLane s n f).nextHandle = s.nextHandle := rfl
@[simp] theorem modLane_jobs (s : State) (n : Nat) (f : Lane → Lane) : (modLane s n f).jobs = s.jobs := rfl
@[simp] theorem modLane_plies (s : State) (n : Nat) (f : Lane → Lane) : (modLane s n f).plies = s.plies := rfl
@[simp] theorem modLane_bobbins (s : State) (n : Nat) (f : Lane → Lane) : (modLane s n f).bobbins = s.bobbins := rfl
@[simp] theorem modLane_journal (s : State) (n : Nat) (f : Lane → Lane) : (modLane s n f).journal = s.journal := rfl
@[simp] theorem modLane_stores (s : State) (n : Nat) (f : Lane → Lane) : (modLane s n f).stores = s.stores := rfl
@[simp] theorem modLane_fences (s : State) (n : Nat) (f : Lane → Lane) : (modLane s n f).fences = s.fences := rfl
@[simp] theorem modLane_selfTest (s : State) (n : Nat) (f : Lane → Lane) : (modLane s n f).selfTest = s.selfTest := rfl
@[simp] theorem modLane_card (s : State) (n : Nat) (f : Lane → Lane) : (modLane s n f).card = s.card := rfl
@[simp] theorem modLane_ras (s : State) (n : Nat) (f : Lane → Lane) : (modLane s n f).ras = s.ras := rfl
@[simp] theorem modLane_memStacks (s : State) (n : Nat) (f : Lane → Lane) : (modLane s n f).memStacks = s.memStacks := rfl
@[simp] theorem modLane_mem (s : State) (n : Nat) (f : Lane → Lane) : (modLane s n f).mem = s.mem := rfl
@[simp] theorem modLane_sideband (s : State) (n : Nat) (f : Lane → Lane) : (modLane s n f).sideband = s.sideband := rfl
@[simp] theorem modLane_jtag (s : State) (n : Nat) (f : Lane → Lane) : (modLane s n f).jtag = s.jtag := rfl

/-! ### modSlice -/

@[simp] theorem modSlice_pending (s : State) (n : Nat) (f : Slice → Slice) : (modSlice s n f).pending = s.pending := rfl
@[simp] theorem modSlice_free (s : State) (n : Nat) (f : Slice → Slice) : (modSlice s n f).free = s.free := rfl
@[simp] theorem modSlice_clock (s : State) (n : Nat) (f : Slice → Slice) : (modSlice s n f).clock = s.clock := rfl
@[simp] theorem modSlice_opSeq (s : State) (n : Nat) (f : Slice → Slice) : (modSlice s n f).opSeq = s.opSeq := rfl
@[simp] theorem modSlice_latch (s : State) (n : Nat) (f : Slice → Slice) : (modSlice s n f).latch = s.latch := rfl
@[simp] theorem modSlice_readData (s : State) (n : Nat) (f : Slice → Slice) : (modSlice s n f).readData = s.readData := rfl
@[simp] theorem modSlice_glb (s : State) (n : Nat) (f : Slice → Slice) : (modSlice s n f).glb = s.glb := rfl
@[simp] theorem modSlice_ports (s : State) (n : Nat) (f : Slice → Slice) : (modSlice s n f).ports = s.ports := rfl
@[simp] theorem modSlice_ops (s : State) (n : Nat) (f : Slice → Slice) : (modSlice s n f).ops = s.ops := rfl
@[simp] theorem modSlice_pwr (s : State) (n : Nat) (f : Slice → Slice) : (modSlice s n f).pwr = s.pwr := rfl
@[simp] theorem modSlice_pins (s : State) (n : Nat) (f : Slice → Slice) : (modSlice s n f).pins = s.pins := rfl
@[simp] theorem modSlice_trd (s : State) (n : Nat) (f : Slice → Slice) : (modSlice s n f).trd = s.trd := rfl
@[simp] theorem modSlice_sec (s : State) (n : Nat) (f : Slice → Slice) : (modSlice s n f).sec = s.sec := rfl
@[simp] theorem modSlice_dst (s : State) (n : Nat) (f : Slice → Slice) : (modSlice s n f).dst = s.dst := rfl
@[simp] theorem modSlice_slices (s : State) (n : Nat) (f : Slice → Slice) : (modSlice s n f).slices = adjust s.slices n f := rfl
@[simp] theorem modSlice_sched (s : State) (n : Nat) (f : Slice → Slice) : (modSlice s n f).sched = s.sched := rfl
@[simp] theorem modSlice_rotation (s : State) (n : Nat) (f : Slice → Slice) : (modSlice s n f).rotation = s.rotation := rfl
@[simp] theorem modSlice_nextRotation (s : State) (n : Nat) (f : Slice → Slice) : (modSlice s n f).nextRotation = s.nextRotation := rfl
@[simp] theorem modSlice_meterRing (s : State) (n : Nat) (f : Slice → Slice) : (modSlice s n f).meterRing = s.meterRing := rfl
@[simp] theorem modSlice_meterQueue (s : State) (n : Nat) (f : Slice → Slice) : (modSlice s n f).meterQueue = s.meterQueue := rfl
@[simp] theorem modSlice_meterGaps (s : State) (n : Nat) (f : Slice → Slice) : (modSlice s n f).meterGaps = s.meterGaps := rfl
@[simp] theorem modSlice_boot (s : State) (n : Nat) (f : Slice → Slice) : (modSlice s n f).boot = s.boot := rfl
@[simp] theorem modSlice_spindles (s : State) (n : Nat) (f : Slice → Slice) : (modSlice s n f).spindles = s.spindles := rfl
@[simp] theorem modSlice_skeins (s : State) (n : Nat) (f : Slice → Slice) : (modSlice s n f).skeins = s.skeins := rfl
@[simp] theorem modSlice_drafts (s : State) (n : Nat) (f : Slice → Slice) : (modSlice s n f).drafts = s.drafts := rfl
@[simp] theorem modSlice_nextHandle (s : State) (n : Nat) (f : Slice → Slice) : (modSlice s n f).nextHandle = s.nextHandle := rfl
@[simp] theorem modSlice_jobs (s : State) (n : Nat) (f : Slice → Slice) : (modSlice s n f).jobs = s.jobs := rfl
@[simp] theorem modSlice_plies (s : State) (n : Nat) (f : Slice → Slice) : (modSlice s n f).plies = s.plies := rfl
@[simp] theorem modSlice_bobbins (s : State) (n : Nat) (f : Slice → Slice) : (modSlice s n f).bobbins = s.bobbins := rfl
@[simp] theorem modSlice_journal (s : State) (n : Nat) (f : Slice → Slice) : (modSlice s n f).journal = s.journal := rfl
@[simp] theorem modSlice_stores (s : State) (n : Nat) (f : Slice → Slice) : (modSlice s n f).stores = s.stores := rfl
@[simp] theorem modSlice_fences (s : State) (n : Nat) (f : Slice → Slice) : (modSlice s n f).fences = s.fences := rfl
@[simp] theorem modSlice_selfTest (s : State) (n : Nat) (f : Slice → Slice) : (modSlice s n f).selfTest = s.selfTest := rfl
@[simp] theorem modSlice_strand (s : State) (n : Nat) (f : Slice → Slice) : (modSlice s n f).strand = s.strand := rfl
@[simp] theorem modSlice_card (s : State) (n : Nat) (f : Slice → Slice) : (modSlice s n f).card = s.card := rfl
@[simp] theorem modSlice_ras (s : State) (n : Nat) (f : Slice → Slice) : (modSlice s n f).ras = s.ras := rfl
@[simp] theorem modSlice_memStacks (s : State) (n : Nat) (f : Slice → Slice) : (modSlice s n f).memStacks = s.memStacks := rfl
@[simp] theorem modSlice_mem (s : State) (n : Nat) (f : Slice → Slice) : (modSlice s n f).mem = s.mem := rfl
@[simp] theorem modSlice_sideband (s : State) (n : Nat) (f : Slice → Slice) : (modSlice s n f).sideband = s.sideband := rfl
@[simp] theorem modSlice_jtag (s : State) (n : Nat) (f : Slice → Slice) : (modSlice s n f).jtag = s.jtag := rfl

/-! ### modJob -/

@[simp] theorem modJob_pending (s : State) (n : Nat) (f : Job → Job) : (modJob s n f).pending = s.pending := rfl
@[simp] theorem modJob_free (s : State) (n : Nat) (f : Job → Job) : (modJob s n f).free = s.free := rfl
@[simp] theorem modJob_clock (s : State) (n : Nat) (f : Job → Job) : (modJob s n f).clock = s.clock := rfl
@[simp] theorem modJob_opSeq (s : State) (n : Nat) (f : Job → Job) : (modJob s n f).opSeq = s.opSeq := rfl
@[simp] theorem modJob_latch (s : State) (n : Nat) (f : Job → Job) : (modJob s n f).latch = s.latch := rfl
@[simp] theorem modJob_readData (s : State) (n : Nat) (f : Job → Job) : (modJob s n f).readData = s.readData := rfl
@[simp] theorem modJob_glb (s : State) (n : Nat) (f : Job → Job) : (modJob s n f).glb = s.glb := rfl
@[simp] theorem modJob_ports (s : State) (n : Nat) (f : Job → Job) : (modJob s n f).ports = s.ports := rfl
@[simp] theorem modJob_ops (s : State) (n : Nat) (f : Job → Job) : (modJob s n f).ops = s.ops := rfl
@[simp] theorem modJob_pwr (s : State) (n : Nat) (f : Job → Job) : (modJob s n f).pwr = s.pwr := rfl
@[simp] theorem modJob_pins (s : State) (n : Nat) (f : Job → Job) : (modJob s n f).pins = s.pins := rfl
@[simp] theorem modJob_trd (s : State) (n : Nat) (f : Job → Job) : (modJob s n f).trd = s.trd := rfl
@[simp] theorem modJob_sec (s : State) (n : Nat) (f : Job → Job) : (modJob s n f).sec = s.sec := rfl
@[simp] theorem modJob_dst (s : State) (n : Nat) (f : Job → Job) : (modJob s n f).dst = s.dst := rfl
@[simp] theorem modJob_slices (s : State) (n : Nat) (f : Job → Job) : (modJob s n f).slices = s.slices := rfl
@[simp] theorem modJob_sched (s : State) (n : Nat) (f : Job → Job) : (modJob s n f).sched = s.sched := rfl
@[simp] theorem modJob_rotation (s : State) (n : Nat) (f : Job → Job) : (modJob s n f).rotation = s.rotation := rfl
@[simp] theorem modJob_nextRotation (s : State) (n : Nat) (f : Job → Job) : (modJob s n f).nextRotation = s.nextRotation := rfl
@[simp] theorem modJob_meterRing (s : State) (n : Nat) (f : Job → Job) : (modJob s n f).meterRing = s.meterRing := rfl
@[simp] theorem modJob_meterQueue (s : State) (n : Nat) (f : Job → Job) : (modJob s n f).meterQueue = s.meterQueue := rfl
@[simp] theorem modJob_meterGaps (s : State) (n : Nat) (f : Job → Job) : (modJob s n f).meterGaps = s.meterGaps := rfl
@[simp] theorem modJob_boot (s : State) (n : Nat) (f : Job → Job) : (modJob s n f).boot = s.boot := rfl
@[simp] theorem modJob_spindles (s : State) (n : Nat) (f : Job → Job) : (modJob s n f).spindles = s.spindles := rfl
@[simp] theorem modJob_skeins (s : State) (n : Nat) (f : Job → Job) : (modJob s n f).skeins = s.skeins := rfl
@[simp] theorem modJob_drafts (s : State) (n : Nat) (f : Job → Job) : (modJob s n f).drafts = s.drafts := rfl
@[simp] theorem modJob_nextHandle (s : State) (n : Nat) (f : Job → Job) : (modJob s n f).nextHandle = s.nextHandle := rfl
@[simp] theorem modJob_jobs (s : State) (n : Nat) (f : Job → Job) : (modJob s n f).jobs = adjust s.jobs n f := rfl
@[simp] theorem modJob_plies (s : State) (n : Nat) (f : Job → Job) : (modJob s n f).plies = s.plies := rfl
@[simp] theorem modJob_bobbins (s : State) (n : Nat) (f : Job → Job) : (modJob s n f).bobbins = s.bobbins := rfl
@[simp] theorem modJob_journal (s : State) (n : Nat) (f : Job → Job) : (modJob s n f).journal = s.journal := rfl
@[simp] theorem modJob_stores (s : State) (n : Nat) (f : Job → Job) : (modJob s n f).stores = s.stores := rfl
@[simp] theorem modJob_fences (s : State) (n : Nat) (f : Job → Job) : (modJob s n f).fences = s.fences := rfl
@[simp] theorem modJob_selfTest (s : State) (n : Nat) (f : Job → Job) : (modJob s n f).selfTest = s.selfTest := rfl
@[simp] theorem modJob_strand (s : State) (n : Nat) (f : Job → Job) : (modJob s n f).strand = s.strand := rfl
@[simp] theorem modJob_card (s : State) (n : Nat) (f : Job → Job) : (modJob s n f).card = s.card := rfl
@[simp] theorem modJob_ras (s : State) (n : Nat) (f : Job → Job) : (modJob s n f).ras = s.ras := rfl
@[simp] theorem modJob_memStacks (s : State) (n : Nat) (f : Job → Job) : (modJob s n f).memStacks = s.memStacks := rfl
@[simp] theorem modJob_mem (s : State) (n : Nat) (f : Job → Job) : (modJob s n f).mem = s.mem := rfl
@[simp] theorem modJob_sideband (s : State) (n : Nat) (f : Job → Job) : (modJob s n f).sideband = s.sideband := rfl
@[simp] theorem modJob_jtag (s : State) (n : Nat) (f : Job → Job) : (modJob s n f).jtag = s.jtag := rfl

/-! ### modStore -/

@[simp] theorem modStore_pending (s : State) (n : Nat) (f : Store → Store) : (modStore s n f).pending = s.pending := rfl
@[simp] theorem modStore_free (s : State) (n : Nat) (f : Store → Store) : (modStore s n f).free = s.free := rfl
@[simp] theorem modStore_clock (s : State) (n : Nat) (f : Store → Store) : (modStore s n f).clock = s.clock := rfl
@[simp] theorem modStore_opSeq (s : State) (n : Nat) (f : Store → Store) : (modStore s n f).opSeq = s.opSeq := rfl
@[simp] theorem modStore_latch (s : State) (n : Nat) (f : Store → Store) : (modStore s n f).latch = s.latch := rfl
@[simp] theorem modStore_readData (s : State) (n : Nat) (f : Store → Store) : (modStore s n f).readData = s.readData := rfl
@[simp] theorem modStore_glb (s : State) (n : Nat) (f : Store → Store) : (modStore s n f).glb = s.glb := rfl
@[simp] theorem modStore_ports (s : State) (n : Nat) (f : Store → Store) : (modStore s n f).ports = s.ports := rfl
@[simp] theorem modStore_ops (s : State) (n : Nat) (f : Store → Store) : (modStore s n f).ops = s.ops := rfl
@[simp] theorem modStore_pwr (s : State) (n : Nat) (f : Store → Store) : (modStore s n f).pwr = s.pwr := rfl
@[simp] theorem modStore_pins (s : State) (n : Nat) (f : Store → Store) : (modStore s n f).pins = s.pins := rfl
@[simp] theorem modStore_trd (s : State) (n : Nat) (f : Store → Store) : (modStore s n f).trd = s.trd := rfl
@[simp] theorem modStore_sec (s : State) (n : Nat) (f : Store → Store) : (modStore s n f).sec = s.sec := rfl
@[simp] theorem modStore_dst (s : State) (n : Nat) (f : Store → Store) : (modStore s n f).dst = s.dst := rfl
@[simp] theorem modStore_slices (s : State) (n : Nat) (f : Store → Store) : (modStore s n f).slices = s.slices := rfl
@[simp] theorem modStore_sched (s : State) (n : Nat) (f : Store → Store) : (modStore s n f).sched = s.sched := rfl
@[simp] theorem modStore_rotation (s : State) (n : Nat) (f : Store → Store) : (modStore s n f).rotation = s.rotation := rfl
@[simp] theorem modStore_nextRotation (s : State) (n : Nat) (f : Store → Store) : (modStore s n f).nextRotation = s.nextRotation := rfl
@[simp] theorem modStore_meterRing (s : State) (n : Nat) (f : Store → Store) : (modStore s n f).meterRing = s.meterRing := rfl
@[simp] theorem modStore_meterQueue (s : State) (n : Nat) (f : Store → Store) : (modStore s n f).meterQueue = s.meterQueue := rfl
@[simp] theorem modStore_meterGaps (s : State) (n : Nat) (f : Store → Store) : (modStore s n f).meterGaps = s.meterGaps := rfl
@[simp] theorem modStore_boot (s : State) (n : Nat) (f : Store → Store) : (modStore s n f).boot = s.boot := rfl
@[simp] theorem modStore_spindles (s : State) (n : Nat) (f : Store → Store) : (modStore s n f).spindles = s.spindles := rfl
@[simp] theorem modStore_skeins (s : State) (n : Nat) (f : Store → Store) : (modStore s n f).skeins = s.skeins := rfl
@[simp] theorem modStore_drafts (s : State) (n : Nat) (f : Store → Store) : (modStore s n f).drafts = s.drafts := rfl
@[simp] theorem modStore_nextHandle (s : State) (n : Nat) (f : Store → Store) : (modStore s n f).nextHandle = s.nextHandle := rfl
@[simp] theorem modStore_jobs (s : State) (n : Nat) (f : Store → Store) : (modStore s n f).jobs = s.jobs := rfl
@[simp] theorem modStore_plies (s : State) (n : Nat) (f : Store → Store) : (modStore s n f).plies = s.plies := rfl
@[simp] theorem modStore_bobbins (s : State) (n : Nat) (f : Store → Store) : (modStore s n f).bobbins = s.bobbins := rfl
@[simp] theorem modStore_journal (s : State) (n : Nat) (f : Store → Store) : (modStore s n f).journal = s.journal := rfl
@[simp] theorem modStore_stores (s : State) (n : Nat) (f : Store → Store) : (modStore s n f).stores = adjust s.stores n f := rfl
@[simp] theorem modStore_fences (s : State) (n : Nat) (f : Store → Store) : (modStore s n f).fences = s.fences := rfl
@[simp] theorem modStore_selfTest (s : State) (n : Nat) (f : Store → Store) : (modStore s n f).selfTest = s.selfTest := rfl
@[simp] theorem modStore_strand (s : State) (n : Nat) (f : Store → Store) : (modStore s n f).strand = s.strand := rfl
@[simp] theorem modStore_card (s : State) (n : Nat) (f : Store → Store) : (modStore s n f).card = s.card := rfl
@[simp] theorem modStore_ras (s : State) (n : Nat) (f : Store → Store) : (modStore s n f).ras = s.ras := rfl
@[simp] theorem modStore_memStacks (s : State) (n : Nat) (f : Store → Store) : (modStore s n f).memStacks = s.memStacks := rfl
@[simp] theorem modStore_mem (s : State) (n : Nat) (f : Store → Store) : (modStore s n f).mem = s.mem := rfl
@[simp] theorem modStore_sideband (s : State) (n : Nat) (f : Store → Store) : (modStore s n f).sideband = s.sideband := rfl
@[simp] theorem modStore_jtag (s : State) (n : Nat) (f : Store → Store) : (modStore s n f).jtag = s.jtag := rfl

/-! ### modCtx -/

@[simp] theorem modCtx_pending (s : State) (p : Nat) (f : Ctx → Ctx) : (modCtx s p f).pending = s.pending := rfl
@[simp] theorem modCtx_free (s : State) (p : Nat) (f : Ctx → Ctx) : (modCtx s p f).free = s.free := rfl
@[simp] theorem modCtx_clock (s : State) (p : Nat) (f : Ctx → Ctx) : (modCtx s p f).clock = s.clock := rfl
@[simp] theorem modCtx_opSeq (s : State) (p : Nat) (f : Ctx → Ctx) : (modCtx s p f).opSeq = s.opSeq := rfl
@[simp] theorem modCtx_latch (s : State) (p : Nat) (f : Ctx → Ctx) : (modCtx s p f).latch = s.latch := rfl
@[simp] theorem modCtx_readData (s : State) (p : Nat) (f : Ctx → Ctx) : (modCtx s p f).readData = s.readData := rfl
@[simp] theorem modCtx_glb (s : State) (p : Nat) (f : Ctx → Ctx) : (modCtx s p f).glb = s.glb := rfl
@[simp] theorem modCtx_ports (s : State) (p : Nat) (f : Ctx → Ctx) : (modCtx s p f).ports = s.ports := rfl
@[simp] theorem modCtx_ops (s : State) (p : Nat) (f : Ctx → Ctx) : (modCtx s p f).ops = s.ops := rfl
@[simp] theorem modCtx_pwr (s : State) (p : Nat) (f : Ctx → Ctx) : (modCtx s p f).pwr = s.pwr := rfl
@[simp] theorem modCtx_pins (s : State) (p : Nat) (f : Ctx → Ctx) : (modCtx s p f).pins = s.pins := rfl
@[simp] theorem modCtx_trd (s : State) (p : Nat) (f : Ctx → Ctx) : (modCtx s p f).trd = s.trd := rfl
@[simp] theorem modCtx_sec (s : State) (p : Nat) (f : Ctx → Ctx) : (modCtx s p f).sec = s.sec := rfl
@[simp] theorem modCtx_dst (s : State) (p : Nat) (f : Ctx → Ctx) : (modCtx s p f).dst = s.dst := rfl
@[simp] theorem modCtx_slices (s : State) (p : Nat) (f : Ctx → Ctx) : (modCtx s p f).slices = s.slices := rfl
@[simp] theorem modCtx_sched (s : State) (p : Nat) (f : Ctx → Ctx) : (modCtx s p f).sched = s.sched := rfl
@[simp] theorem modCtx_rotation (s : State) (p : Nat) (f : Ctx → Ctx) : (modCtx s p f).rotation = s.rotation := rfl
@[simp] theorem modCtx_nextRotation (s : State) (p : Nat) (f : Ctx → Ctx) : (modCtx s p f).nextRotation = s.nextRotation := rfl
@[simp] theorem modCtx_meterRing (s : State) (p : Nat) (f : Ctx → Ctx) : (modCtx s p f).meterRing = s.meterRing := rfl
@[simp] theorem modCtx_meterQueue (s : State) (p : Nat) (f : Ctx → Ctx) : (modCtx s p f).meterQueue = s.meterQueue := rfl
@[simp] theorem modCtx_meterGaps (s : State) (p : Nat) (f : Ctx → Ctx) : (modCtx s p f).meterGaps = s.meterGaps := rfl
@[simp] theorem modCtx_boot (s : State) (p : Nat) (f : Ctx → Ctx) : (modCtx s p f).boot = s.boot := rfl
@[simp] theorem modCtx_skeins (s : State) (p : Nat) (f : Ctx → Ctx) : (modCtx s p f).skeins = s.skeins := rfl
@[simp] theorem modCtx_drafts (s : State) (p : Nat) (f : Ctx → Ctx) : (modCtx s p f).drafts = s.drafts := rfl
@[simp] theorem modCtx_nextHandle (s : State) (p : Nat) (f : Ctx → Ctx) : (modCtx s p f).nextHandle = s.nextHandle := rfl
@[simp] theorem modCtx_jobs (s : State) (p : Nat) (f : Ctx → Ctx) : (modCtx s p f).jobs = s.jobs := rfl
@[simp] theorem modCtx_plies (s : State) (p : Nat) (f : Ctx → Ctx) : (modCtx s p f).plies = s.plies := rfl
@[simp] theorem modCtx_bobbins (s : State) (p : Nat) (f : Ctx → Ctx) : (modCtx s p f).bobbins = s.bobbins := rfl
@[simp] theorem modCtx_journal (s : State) (p : Nat) (f : Ctx → Ctx) : (modCtx s p f).journal = s.journal := rfl
@[simp] theorem modCtx_stores (s : State) (p : Nat) (f : Ctx → Ctx) : (modCtx s p f).stores = s.stores := rfl
@[simp] theorem modCtx_fences (s : State) (p : Nat) (f : Ctx → Ctx) : (modCtx s p f).fences = s.fences := rfl
@[simp] theorem modCtx_selfTest (s : State) (p : Nat) (f : Ctx → Ctx) : (modCtx s p f).selfTest = s.selfTest := rfl
@[simp] theorem modCtx_strand (s : State) (p : Nat) (f : Ctx → Ctx) : (modCtx s p f).strand = s.strand := rfl
@[simp] theorem modCtx_card (s : State) (p : Nat) (f : Ctx → Ctx) : (modCtx s p f).card = s.card := rfl
@[simp] theorem modCtx_ras (s : State) (p : Nat) (f : Ctx → Ctx) : (modCtx s p f).ras = s.ras := rfl
@[simp] theorem modCtx_memStacks (s : State) (p : Nat) (f : Ctx → Ctx) : (modCtx s p f).memStacks = s.memStacks := rfl
@[simp] theorem modCtx_mem (s : State) (p : Nat) (f : Ctx → Ctx) : (modCtx s p f).mem = s.mem := rfl
@[simp] theorem modCtx_sideband (s : State) (p : Nat) (f : Ctx → Ctx) : (modCtx s p f).sideband = s.sideband := rfl
@[simp] theorem modCtx_jtag (s : State) (p : Nat) (f : Ctx → Ctx) : (modCtx s p f).jtag = s.jtag := rfl

/-! ### modIndex -/

@[simp] theorem modIndex_pending (s : State) (h : Nat) (f : Index → Index) : (modIndex s h f).pending = s.pending := rfl
@[simp] theorem modIndex_free (s : State) (h : Nat) (f : Index → Index) : (modIndex s h f).free = s.free := rfl
@[simp] theorem modIndex_clock (s : State) (h : Nat) (f : Index → Index) : (modIndex s h f).clock = s.clock := rfl
@[simp] theorem modIndex_opSeq (s : State) (h : Nat) (f : Index → Index) : (modIndex s h f).opSeq = s.opSeq := rfl
@[simp] theorem modIndex_latch (s : State) (h : Nat) (f : Index → Index) : (modIndex s h f).latch = s.latch := rfl
@[simp] theorem modIndex_readData (s : State) (h : Nat) (f : Index → Index) : (modIndex s h f).readData = s.readData := rfl
@[simp] theorem modIndex_glb (s : State) (h : Nat) (f : Index → Index) : (modIndex s h f).glb = s.glb := rfl
@[simp] theorem modIndex_ports (s : State) (h : Nat) (f : Index → Index) : (modIndex s h f).ports = s.ports := rfl
@[simp] theorem modIndex_ops (s : State) (h : Nat) (f : Index → Index) : (modIndex s h f).ops = s.ops := rfl
@[simp] theorem modIndex_pwr (s : State) (h : Nat) (f : Index → Index) : (modIndex s h f).pwr = s.pwr := rfl
@[simp] theorem modIndex_pins (s : State) (h : Nat) (f : Index → Index) : (modIndex s h f).pins = s.pins := rfl
@[simp] theorem modIndex_trd (s : State) (h : Nat) (f : Index → Index) : (modIndex s h f).trd = s.trd := rfl
@[simp] theorem modIndex_sec (s : State) (h : Nat) (f : Index → Index) : (modIndex s h f).sec = s.sec := rfl
@[simp] theorem modIndex_dst (s : State) (h : Nat) (f : Index → Index) : (modIndex s h f).dst = s.dst := rfl
@[simp] theorem modIndex_slices (s : State) (h : Nat) (f : Index → Index) : (modIndex s h f).slices = s.slices := rfl
@[simp] theorem modIndex_sched (s : State) (h : Nat) (f : Index → Index) : (modIndex s h f).sched = s.sched := rfl
@[simp] theorem modIndex_rotation (s : State) (h : Nat) (f : Index → Index) : (modIndex s h f).rotation = s.rotation := rfl
@[simp] theorem modIndex_nextRotation (s : State) (h : Nat) (f : Index → Index) : (modIndex s h f).nextRotation = s.nextRotation := rfl
@[simp] theorem modIndex_meterRing (s : State) (h : Nat) (f : Index → Index) : (modIndex s h f).meterRing = s.meterRing := rfl
@[simp] theorem modIndex_meterQueue (s : State) (h : Nat) (f : Index → Index) : (modIndex s h f).meterQueue = s.meterQueue := rfl
@[simp] theorem modIndex_meterGaps (s : State) (h : Nat) (f : Index → Index) : (modIndex s h f).meterGaps = s.meterGaps := rfl
@[simp] theorem modIndex_boot (s : State) (h : Nat) (f : Index → Index) : (modIndex s h f).boot = s.boot := rfl
@[simp] theorem modIndex_spindles (s : State) (h : Nat) (f : Index → Index) : (modIndex s h f).spindles = s.spindles := rfl
@[simp] theorem modIndex_skeins (s : State) (h : Nat) (f : Index → Index) : (modIndex s h f).skeins = s.skeins := rfl
@[simp] theorem modIndex_drafts (s : State) (h : Nat) (f : Index → Index) : (modIndex s h f).drafts = s.drafts := rfl
@[simp] theorem modIndex_nextHandle (s : State) (h : Nat) (f : Index → Index) : (modIndex s h f).nextHandle = s.nextHandle := rfl
@[simp] theorem modIndex_jobs (s : State) (h : Nat) (f : Index → Index) : (modIndex s h f).jobs = s.jobs := rfl
@[simp] theorem modIndex_plies (s : State) (h : Nat) (f : Index → Index) : (modIndex s h f).plies = s.plies := rfl
@[simp] theorem modIndex_bobbins (s : State) (h : Nat) (f : Index → Index) : (modIndex s h f).bobbins = s.bobbins := rfl
@[simp] theorem modIndex_journal (s : State) (h : Nat) (f : Index → Index) : (modIndex s h f).journal = s.journal := rfl
@[simp] theorem modIndex_stores (s : State) (h : Nat) (f : Index → Index) : (modIndex s h f).stores = s.stores := rfl
@[simp] theorem modIndex_fences (s : State) (h : Nat) (f : Index → Index) : (modIndex s h f).fences = s.fences := rfl
@[simp] theorem modIndex_selfTest (s : State) (h : Nat) (f : Index → Index) : (modIndex s h f).selfTest = s.selfTest := rfl
@[simp] theorem modIndex_strand (s : State) (h : Nat) (f : Index → Index) : (modIndex s h f).strand = s.strand := rfl
@[simp] theorem modIndex_ras (s : State) (h : Nat) (f : Index → Index) : (modIndex s h f).ras = s.ras := rfl
@[simp] theorem modIndex_memStacks (s : State) (h : Nat) (f : Index → Index) : (modIndex s h f).memStacks = s.memStacks := rfl
@[simp] theorem modIndex_mem (s : State) (h : Nat) (f : Index → Index) : (modIndex s h f).mem = s.mem := rfl
@[simp] theorem modIndex_sideband (s : State) (h : Nat) (f : Index → Index) : (modIndex s h f).sideband = s.sideband := rfl
@[simp] theorem modIndex_jtag (s : State) (h : Nat) (f : Index → Index) : (modIndex s h f).jtag = s.jtag := rfl

/-! ### modQuery -/

@[simp] theorem modQuery_pending (s : State) (op : Nat) (f : Query → Query) : (modQuery s op f).pending = s.pending := rfl
@[simp] theorem modQuery_free (s : State) (op : Nat) (f : Query → Query) : (modQuery s op f).free = s.free := rfl
@[simp] theorem modQuery_clock (s : State) (op : Nat) (f : Query → Query) : (modQuery s op f).clock = s.clock := rfl
@[simp] theorem modQuery_opSeq (s : State) (op : Nat) (f : Query → Query) : (modQuery s op f).opSeq = s.opSeq := rfl
@[simp] theorem modQuery_latch (s : State) (op : Nat) (f : Query → Query) : (modQuery s op f).latch = s.latch := rfl
@[simp] theorem modQuery_readData (s : State) (op : Nat) (f : Query → Query) : (modQuery s op f).readData = s.readData := rfl
@[simp] theorem modQuery_glb (s : State) (op : Nat) (f : Query → Query) : (modQuery s op f).glb = s.glb := rfl
@[simp] theorem modQuery_ports (s : State) (op : Nat) (f : Query → Query) : (modQuery s op f).ports = s.ports := rfl
@[simp] theorem modQuery_ops (s : State) (op : Nat) (f : Query → Query) : (modQuery s op f).ops = s.ops := rfl
@[simp] theorem modQuery_pwr (s : State) (op : Nat) (f : Query → Query) : (modQuery s op f).pwr = s.pwr := rfl
@[simp] theorem modQuery_pins (s : State) (op : Nat) (f : Query → Query) : (modQuery s op f).pins = s.pins := rfl
@[simp] theorem modQuery_trd (s : State) (op : Nat) (f : Query → Query) : (modQuery s op f).trd = s.trd := rfl
@[simp] theorem modQuery_sec (s : State) (op : Nat) (f : Query → Query) : (modQuery s op f).sec = s.sec := rfl
@[simp] theorem modQuery_dst (s : State) (op : Nat) (f : Query → Query) : (modQuery s op f).dst = s.dst := rfl
@[simp] theorem modQuery_slices (s : State) (op : Nat) (f : Query → Query) : (modQuery s op f).slices = s.slices := rfl
@[simp] theorem modQuery_sched (s : State) (op : Nat) (f : Query → Query) : (modQuery s op f).sched = s.sched := rfl
@[simp] theorem modQuery_rotation (s : State) (op : Nat) (f : Query → Query) : (modQuery s op f).rotation = s.rotation := rfl
@[simp] theorem modQuery_nextRotation (s : State) (op : Nat) (f : Query → Query) : (modQuery s op f).nextRotation = s.nextRotation := rfl
@[simp] theorem modQuery_meterRing (s : State) (op : Nat) (f : Query → Query) : (modQuery s op f).meterRing = s.meterRing := rfl
@[simp] theorem modQuery_meterQueue (s : State) (op : Nat) (f : Query → Query) : (modQuery s op f).meterQueue = s.meterQueue := rfl
@[simp] theorem modQuery_meterGaps (s : State) (op : Nat) (f : Query → Query) : (modQuery s op f).meterGaps = s.meterGaps := rfl
@[simp] theorem modQuery_boot (s : State) (op : Nat) (f : Query → Query) : (modQuery s op f).boot = s.boot := rfl
@[simp] theorem modQuery_spindles (s : State) (op : Nat) (f : Query → Query) : (modQuery s op f).spindles = s.spindles := rfl
@[simp] theorem modQuery_skeins (s : State) (op : Nat) (f : Query → Query) : (modQuery s op f).skeins = s.skeins := rfl
@[simp] theorem modQuery_drafts (s : State) (op : Nat) (f : Query → Query) : (modQuery s op f).drafts = s.drafts := rfl
@[simp] theorem modQuery_nextHandle (s : State) (op : Nat) (f : Query → Query) : (modQuery s op f).nextHandle = s.nextHandle := rfl
@[simp] theorem modQuery_jobs (s : State) (op : Nat) (f : Query → Query) : (modQuery s op f).jobs = s.jobs := rfl
@[simp] theorem modQuery_plies (s : State) (op : Nat) (f : Query → Query) : (modQuery s op f).plies = s.plies := rfl
@[simp] theorem modQuery_bobbins (s : State) (op : Nat) (f : Query → Query) : (modQuery s op f).bobbins = s.bobbins := rfl
@[simp] theorem modQuery_journal (s : State) (op : Nat) (f : Query → Query) : (modQuery s op f).journal = s.journal := rfl
@[simp] theorem modQuery_stores (s : State) (op : Nat) (f : Query → Query) : (modQuery s op f).stores = s.stores := rfl
@[simp] theorem modQuery_fences (s : State) (op : Nat) (f : Query → Query) : (modQuery s op f).fences = s.fences := rfl
@[simp] theorem modQuery_selfTest (s : State) (op : Nat) (f : Query → Query) : (modQuery s op f).selfTest = s.selfTest := rfl
@[simp] theorem modQuery_strand (s : State) (op : Nat) (f : Query → Query) : (modQuery s op f).strand = s.strand := rfl
@[simp] theorem modQuery_ras (s : State) (op : Nat) (f : Query → Query) : (modQuery s op f).ras = s.ras := rfl
@[simp] theorem modQuery_memStacks (s : State) (op : Nat) (f : Query → Query) : (modQuery s op f).memStacks = s.memStacks := rfl
@[simp] theorem modQuery_mem (s : State) (op : Nat) (f : Query → Query) : (modQuery s op f).mem = s.mem := rfl
@[simp] theorem modQuery_sideband (s : State) (op : Nat) (f : Query → Query) : (modQuery s op f).sideband = s.sideband := rfl
@[simp] theorem modQuery_jtag (s : State) (op : Nat) (f : Query → Query) : (modQuery s op f).jtag = s.jtag := rfl

/-! ### modDst -/

@[simp] theorem modDst_pending (s : State) (f : Distaff → Distaff) : (modDst s f).pending = s.pending := rfl
@[simp] theorem modDst_free (s : State) (f : Distaff → Distaff) : (modDst s f).free = s.free := rfl
@[simp] theorem modDst_clock (s : State) (f : Distaff → Distaff) : (modDst s f).clock = s.clock := rfl
@[simp] theorem modDst_opSeq (s : State) (f : Distaff → Distaff) : (modDst s f).opSeq = s.opSeq := rfl
@[simp] theorem modDst_latch (s : State) (f : Distaff → Distaff) : (modDst s f).latch = s.latch := rfl
@[simp] theorem modDst_readData (s : State) (f : Distaff → Distaff) : (modDst s f).readData = s.readData := rfl
@[simp] theorem modDst_glb (s : State) (f : Distaff → Distaff) : (modDst s f).glb = s.glb := rfl
@[simp] theorem modDst_ports (s : State) (f : Distaff → Distaff) : (modDst s f).ports = s.ports := rfl
@[simp] theorem modDst_ops (s : State) (f : Distaff → Distaff) : (modDst s f).ops = s.ops := rfl
@[simp] theorem modDst_pwr (s : State) (f : Distaff → Distaff) : (modDst s f).pwr = s.pwr := rfl
@[simp] theorem modDst_pins (s : State) (f : Distaff → Distaff) : (modDst s f).pins = s.pins := rfl
@[simp] theorem modDst_trd (s : State) (f : Distaff → Distaff) : (modDst s f).trd = s.trd := rfl
@[simp] theorem modDst_sec (s : State) (f : Distaff → Distaff) : (modDst s f).sec = s.sec := rfl
@[simp] theorem modDst_dst (s : State) (f : Distaff → Distaff) : (modDst s f).dst = f s.dst := rfl
@[simp] theorem modDst_slices (s : State) (f : Distaff → Distaff) : (modDst s f).slices = s.slices := rfl
@[simp] theorem modDst_sched (s : State) (f : Distaff → Distaff) : (modDst s f).sched = s.sched := rfl
@[simp] theorem modDst_rotation (s : State) (f : Distaff → Distaff) : (modDst s f).rotation = s.rotation := rfl
@[simp] theorem modDst_nextRotation (s : State) (f : Distaff → Distaff) : (modDst s f).nextRotation = s.nextRotation := rfl
@[simp] theorem modDst_meterRing (s : State) (f : Distaff → Distaff) : (modDst s f).meterRing = s.meterRing := rfl
@[simp] theorem modDst_meterQueue (s : State) (f : Distaff → Distaff) : (modDst s f).meterQueue = s.meterQueue := rfl
@[simp] theorem modDst_meterGaps (s : State) (f : Distaff → Distaff) : (modDst s f).meterGaps = s.meterGaps := rfl
@[simp] theorem modDst_boot (s : State) (f : Distaff → Distaff) : (modDst s f).boot = s.boot := rfl
@[simp] theorem modDst_spindles (s : State) (f : Distaff → Distaff) : (modDst s f).spindles = s.spindles := rfl
@[simp] theorem modDst_skeins (s : State) (f : Distaff → Distaff) : (modDst s f).skeins = s.skeins := rfl
@[simp] theorem modDst_drafts (s : State) (f : Distaff → Distaff) : (modDst s f).drafts = s.drafts := rfl
@[simp] theorem modDst_nextHandle (s : State) (f : Distaff → Distaff) : (modDst s f).nextHandle = s.nextHandle := rfl
@[simp] theorem modDst_jobs (s : State) (f : Distaff → Distaff) : (modDst s f).jobs = s.jobs := rfl
@[simp] theorem modDst_plies (s : State) (f : Distaff → Distaff) : (modDst s f).plies = s.plies := rfl
@[simp] theorem modDst_bobbins (s : State) (f : Distaff → Distaff) : (modDst s f).bobbins = s.bobbins := rfl
@[simp] theorem modDst_journal (s : State) (f : Distaff → Distaff) : (modDst s f).journal = s.journal := rfl
@[simp] theorem modDst_stores (s : State) (f : Distaff → Distaff) : (modDst s f).stores = s.stores := rfl
@[simp] theorem modDst_fences (s : State) (f : Distaff → Distaff) : (modDst s f).fences = s.fences := rfl
@[simp] theorem modDst_selfTest (s : State) (f : Distaff → Distaff) : (modDst s f).selfTest = s.selfTest := rfl
@[simp] theorem modDst_strand (s : State) (f : Distaff → Distaff) : (modDst s f).strand = s.strand := rfl
@[simp] theorem modDst_card (s : State) (f : Distaff → Distaff) : (modDst s f).card = s.card := rfl
@[simp] theorem modDst_ras (s : State) (f : Distaff → Distaff) : (modDst s f).ras = s.ras := rfl
@[simp] theorem modDst_memStacks (s : State) (f : Distaff → Distaff) : (modDst s f).memStacks = s.memStacks := rfl
@[simp] theorem modDst_mem (s : State) (f : Distaff → Distaff) : (modDst s f).mem = s.mem := rfl
@[simp] theorem modDst_sideband (s : State) (f : Distaff → Distaff) : (modDst s f).sideband = s.sideband := rfl
@[simp] theorem modDst_jtag (s : State) (f : Distaff → Distaff) : (modDst s f).jtag = s.jtag := rfl

/-! ### modPly -/

@[simp] theorem modPly_pending (s : State) (q : Nat) (f : Ply → Ply) : (modPly s q f).pending = s.pending := rfl
@[simp] theorem modPly_free (s : State) (q : Nat) (f : Ply → Ply) : (modPly s q f).free = s.free := rfl
@[simp] theorem modPly_clock (s : State) (q : Nat) (f : Ply → Ply) : (modPly s q f).clock = s.clock := rfl
@[simp] theorem modPly_opSeq (s : State) (q : Nat) (f : Ply → Ply) : (modPly s q f).opSeq = s.opSeq := rfl
@[simp] theorem modPly_latch (s : State) (q : Nat) (f : Ply → Ply) : (modPly s q f).latch = s.latch := rfl
@[simp] theorem modPly_readData (s : State) (q : Nat) (f : Ply → Ply) : (modPly s q f).readData = s.readData := rfl
@[simp] theorem modPly_glb (s : State) (q : Nat) (f : Ply → Ply) : (modPly s q f).glb = s.glb := rfl
@[simp] theorem modPly_ports (s : State) (q : Nat) (f : Ply → Ply) : (modPly s q f).ports = s.ports := rfl
@[simp] theorem modPly_ops (s : State) (q : Nat) (f : Ply → Ply) : (modPly s q f).ops = s.ops := rfl
@[simp] theorem modPly_pwr (s : State) (q : Nat) (f : Ply → Ply) : (modPly s q f).pwr = s.pwr := rfl
@[simp] theorem modPly_pins (s : State) (q : Nat) (f : Ply → Ply) : (modPly s q f).pins = s.pins := rfl
@[simp] theorem modPly_trd (s : State) (q : Nat) (f : Ply → Ply) : (modPly s q f).trd = s.trd := rfl
@[simp] theorem modPly_sec (s : State) (q : Nat) (f : Ply → Ply) : (modPly s q f).sec = s.sec := rfl
@[simp] theorem modPly_dst (s : State) (q : Nat) (f : Ply → Ply) : (modPly s q f).dst = s.dst := rfl
@[simp] theorem modPly_slices (s : State) (q : Nat) (f : Ply → Ply) : (modPly s q f).slices = s.slices := rfl
@[simp] theorem modPly_sched (s : State) (q : Nat) (f : Ply → Ply) : (modPly s q f).sched = s.sched := rfl
@[simp] theorem modPly_rotation (s : State) (q : Nat) (f : Ply → Ply) : (modPly s q f).rotation = s.rotation := rfl
@[simp] theorem modPly_nextRotation (s : State) (q : Nat) (f : Ply → Ply) : (modPly s q f).nextRotation = s.nextRotation := rfl
@[simp] theorem modPly_meterRing (s : State) (q : Nat) (f : Ply → Ply) : (modPly s q f).meterRing = s.meterRing := rfl
@[simp] theorem modPly_meterQueue (s : State) (q : Nat) (f : Ply → Ply) : (modPly s q f).meterQueue = s.meterQueue := rfl
@[simp] theorem modPly_meterGaps (s : State) (q : Nat) (f : Ply → Ply) : (modPly s q f).meterGaps = s.meterGaps := rfl
@[simp] theorem modPly_boot (s : State) (q : Nat) (f : Ply → Ply) : (modPly s q f).boot = s.boot := rfl
@[simp] theorem modPly_spindles (s : State) (q : Nat) (f : Ply → Ply) : (modPly s q f).spindles = s.spindles := rfl
@[simp] theorem modPly_skeins (s : State) (q : Nat) (f : Ply → Ply) : (modPly s q f).skeins = s.skeins := rfl
@[simp] theorem modPly_drafts (s : State) (q : Nat) (f : Ply → Ply) : (modPly s q f).drafts = s.drafts := rfl
@[simp] theorem modPly_nextHandle (s : State) (q : Nat) (f : Ply → Ply) : (modPly s q f).nextHandle = s.nextHandle := rfl
@[simp] theorem modPly_jobs (s : State) (q : Nat) (f : Ply → Ply) : (modPly s q f).jobs = s.jobs := rfl
@[simp] theorem modPly_plies (s : State) (q : Nat) (f : Ply → Ply) : (modPly s q f).plies = adjust s.plies q f := rfl
@[simp] theorem modPly_bobbins (s : State) (q : Nat) (f : Ply → Ply) : (modPly s q f).bobbins = s.bobbins := rfl
@[simp] theorem modPly_journal (s : State) (q : Nat) (f : Ply → Ply) : (modPly s q f).journal = s.journal := rfl
@[simp] theorem modPly_stores (s : State) (q : Nat) (f : Ply → Ply) : (modPly s q f).stores = s.stores := rfl
@[simp] theorem modPly_fences (s : State) (q : Nat) (f : Ply → Ply) : (modPly s q f).fences = s.fences := rfl
@[simp] theorem modPly_selfTest (s : State) (q : Nat) (f : Ply → Ply) : (modPly s q f).selfTest = s.selfTest := rfl
@[simp] theorem modPly_strand (s : State) (q : Nat) (f : Ply → Ply) : (modPly s q f).strand = s.strand := rfl
@[simp] theorem modPly_card (s : State) (q : Nat) (f : Ply → Ply) : (modPly s q f).card = s.card := rfl
@[simp] theorem modPly_ras (s : State) (q : Nat) (f : Ply → Ply) : (modPly s q f).ras = s.ras := rfl
@[simp] theorem modPly_memStacks (s : State) (q : Nat) (f : Ply → Ply) : (modPly s q f).memStacks = s.memStacks := rfl
@[simp] theorem modPly_mem (s : State) (q : Nat) (f : Ply → Ply) : (modPly s q f).mem = s.mem := rfl
@[simp] theorem modPly_sideband (s : State) (q : Nat) (f : Ply → Ply) : (modPly s q f).sideband = s.sideband := rfl
@[simp] theorem modPly_jtag (s : State) (q : Nat) (f : Ply → Ply) : (modPly s q f).jtag = s.jtag := rfl

/-! ### modRas -/

@[simp] theorem modRas_pending (s : State) (f : Ras → Ras) : (modRas s f).pending = s.pending := rfl
@[simp] theorem modRas_free (s : State) (f : Ras → Ras) : (modRas s f).free = s.free := rfl
@[simp] theorem modRas_clock (s : State) (f : Ras → Ras) : (modRas s f).clock = s.clock := rfl
@[simp] theorem modRas_opSeq (s : State) (f : Ras → Ras) : (modRas s f).opSeq = s.opSeq := rfl
@[simp] theorem modRas_latch (s : State) (f : Ras → Ras) : (modRas s f).latch = s.latch := rfl
@[simp] theorem modRas_readData (s : State) (f : Ras → Ras) : (modRas s f).readData = s.readData := rfl
@[simp] theorem modRas_glb (s : State) (f : Ras → Ras) : (modRas s f).glb = s.glb := rfl
@[simp] theorem modRas_ports (s : State) (f : Ras → Ras) : (modRas s f).ports = s.ports := rfl
@[simp] theorem modRas_ops (s : State) (f : Ras → Ras) : (modRas s f).ops = s.ops := rfl
@[simp] theorem modRas_pwr (s : State) (f : Ras → Ras) : (modRas s f).pwr = s.pwr := rfl
@[simp] theorem modRas_pins (s : State) (f : Ras → Ras) : (modRas s f).pins = s.pins := rfl
@[simp] theorem modRas_trd (s : State) (f : Ras → Ras) : (modRas s f).trd = s.trd := rfl
@[simp] theorem modRas_sec (s : State) (f : Ras → Ras) : (modRas s f).sec = s.sec := rfl
@[simp] theorem modRas_dst (s : State) (f : Ras → Ras) : (modRas s f).dst = s.dst := rfl
@[simp] theorem modRas_slices (s : State) (f : Ras → Ras) : (modRas s f).slices = s.slices := rfl
@[simp] theorem modRas_sched (s : State) (f : Ras → Ras) : (modRas s f).sched = s.sched := rfl
@[simp] theorem modRas_rotation (s : State) (f : Ras → Ras) : (modRas s f).rotation = s.rotation := rfl
@[simp] theorem modRas_nextRotation (s : State) (f : Ras → Ras) : (modRas s f).nextRotation = s.nextRotation := rfl
@[simp] theorem modRas_meterRing (s : State) (f : Ras → Ras) : (modRas s f).meterRing = s.meterRing := rfl
@[simp] theorem modRas_meterQueue (s : State) (f : Ras → Ras) : (modRas s f).meterQueue = s.meterQueue := rfl
@[simp] theorem modRas_meterGaps (s : State) (f : Ras → Ras) : (modRas s f).meterGaps = s.meterGaps := rfl
@[simp] theorem modRas_boot (s : State) (f : Ras → Ras) : (modRas s f).boot = s.boot := rfl
@[simp] theorem modRas_spindles (s : State) (f : Ras → Ras) : (modRas s f).spindles = s.spindles := rfl
@[simp] theorem modRas_skeins (s : State) (f : Ras → Ras) : (modRas s f).skeins = s.skeins := rfl
@[simp] theorem modRas_drafts (s : State) (f : Ras → Ras) : (modRas s f).drafts = s.drafts := rfl
@[simp] theorem modRas_nextHandle (s : State) (f : Ras → Ras) : (modRas s f).nextHandle = s.nextHandle := rfl
@[simp] theorem modRas_jobs (s : State) (f : Ras → Ras) : (modRas s f).jobs = s.jobs := rfl
@[simp] theorem modRas_plies (s : State) (f : Ras → Ras) : (modRas s f).plies = s.plies := rfl
@[simp] theorem modRas_bobbins (s : State) (f : Ras → Ras) : (modRas s f).bobbins = s.bobbins := rfl
@[simp] theorem modRas_journal (s : State) (f : Ras → Ras) : (modRas s f).journal = s.journal := rfl
@[simp] theorem modRas_stores (s : State) (f : Ras → Ras) : (modRas s f).stores = s.stores := rfl
@[simp] theorem modRas_fences (s : State) (f : Ras → Ras) : (modRas s f).fences = s.fences := rfl
@[simp] theorem modRas_selfTest (s : State) (f : Ras → Ras) : (modRas s f).selfTest = s.selfTest := rfl
@[simp] theorem modRas_strand (s : State) (f : Ras → Ras) : (modRas s f).strand = s.strand := rfl
@[simp] theorem modRas_card (s : State) (f : Ras → Ras) : (modRas s f).card = s.card := rfl
@[simp] theorem modRas_ras (s : State) (f : Ras → Ras) : (modRas s f).ras = f s.ras := rfl
@[simp] theorem modRas_memStacks (s : State) (f : Ras → Ras) : (modRas s f).memStacks = s.memStacks := rfl
@[simp] theorem modRas_mem (s : State) (f : Ras → Ras) : (modRas s f).mem = s.mem := rfl
@[simp] theorem modRas_sideband (s : State) (f : Ras → Ras) : (modRas s f).sideband = s.sideband := rfl
@[simp] theorem modRas_jtag (s : State) (f : Ras → Ras) : (modRas s f).jtag = s.jtag := rfl

/-! ### modStack -/

@[simp] theorem modStack_pending (s : State) (i : Nat) (f : Stack → Stack) : (modStack s i f).pending = s.pending := rfl
@[simp] theorem modStack_free (s : State) (i : Nat) (f : Stack → Stack) : (modStack s i f).free = s.free := rfl
@[simp] theorem modStack_clock (s : State) (i : Nat) (f : Stack → Stack) : (modStack s i f).clock = s.clock := rfl
@[simp] theorem modStack_opSeq (s : State) (i : Nat) (f : Stack → Stack) : (modStack s i f).opSeq = s.opSeq := rfl
@[simp] theorem modStack_latch (s : State) (i : Nat) (f : Stack → Stack) : (modStack s i f).latch = s.latch := rfl
@[simp] theorem modStack_readData (s : State) (i : Nat) (f : Stack → Stack) : (modStack s i f).readData = s.readData := rfl
@[simp] theorem modStack_glb (s : State) (i : Nat) (f : Stack → Stack) : (modStack s i f).glb = s.glb := rfl
@[simp] theorem modStack_ports (s : State) (i : Nat) (f : Stack → Stack) : (modStack s i f).ports = s.ports := rfl
@[simp] theorem modStack_ops (s : State) (i : Nat) (f : Stack → Stack) : (modStack s i f).ops = s.ops := rfl
@[simp] theorem modStack_pwr (s : State) (i : Nat) (f : Stack → Stack) : (modStack s i f).pwr = s.pwr := rfl
@[simp] theorem modStack_pins (s : State) (i : Nat) (f : Stack → Stack) : (modStack s i f).pins = s.pins := rfl
@[simp] theorem modStack_trd (s : State) (i : Nat) (f : Stack → Stack) : (modStack s i f).trd = s.trd := rfl
@[simp] theorem modStack_sec (s : State) (i : Nat) (f : Stack → Stack) : (modStack s i f).sec = s.sec := rfl
@[simp] theorem modStack_dst (s : State) (i : Nat) (f : Stack → Stack) : (modStack s i f).dst = s.dst := rfl
@[simp] theorem modStack_slices (s : State) (i : Nat) (f : Stack → Stack) : (modStack s i f).slices = s.slices := rfl
@[simp] theorem modStack_sched (s : State) (i : Nat) (f : Stack → Stack) : (modStack s i f).sched = s.sched := rfl
@[simp] theorem modStack_rotation (s : State) (i : Nat) (f : Stack → Stack) : (modStack s i f).rotation = s.rotation := rfl
@[simp] theorem modStack_nextRotation (s : State) (i : Nat) (f : Stack → Stack) : (modStack s i f).nextRotation = s.nextRotation := rfl
@[simp] theorem modStack_meterRing (s : State) (i : Nat) (f : Stack → Stack) : (modStack s i f).meterRing = s.meterRing := rfl
@[simp] theorem modStack_meterQueue (s : State) (i : Nat) (f : Stack → Stack) : (modStack s i f).meterQueue = s.meterQueue := rfl
@[simp] theorem modStack_meterGaps (s : State) (i : Nat) (f : Stack → Stack) : (modStack s i f).meterGaps = s.meterGaps := rfl
@[simp] theorem modStack_boot (s : State) (i : Nat) (f : Stack → Stack) : (modStack s i f).boot = s.boot := rfl
@[simp] theorem modStack_spindles (s : State) (i : Nat) (f : Stack → Stack) : (modStack s i f).spindles = s.spindles := rfl
@[simp] theorem modStack_skeins (s : State) (i : Nat) (f : Stack → Stack) : (modStack s i f).skeins = s.skeins := rfl
@[simp] theorem modStack_drafts (s : State) (i : Nat) (f : Stack → Stack) : (modStack s i f).drafts = s.drafts := rfl
@[simp] theorem modStack_nextHandle (s : State) (i : Nat) (f : Stack → Stack) : (modStack s i f).nextHandle = s.nextHandle := rfl
@[simp] theorem modStack_jobs (s : State) (i : Nat) (f : Stack → Stack) : (modStack s i f).jobs = s.jobs := rfl
@[simp] theorem modStack_plies (s : State) (i : Nat) (f : Stack → Stack) : (modStack s i f).plies = s.plies := rfl
@[simp] theorem modStack_bobbins (s : State) (i : Nat) (f : Stack → Stack) : (modStack s i f).bobbins = s.bobbins := rfl
@[simp] theorem modStack_journal (s : State) (i : Nat) (f : Stack → Stack) : (modStack s i f).journal = s.journal := rfl
@[simp] theorem modStack_stores (s : State) (i : Nat) (f : Stack → Stack) : (modStack s i f).stores = s.stores := rfl
@[simp] theorem modStack_fences (s : State) (i : Nat) (f : Stack → Stack) : (modStack s i f).fences = s.fences := rfl
@[simp] theorem modStack_selfTest (s : State) (i : Nat) (f : Stack → Stack) : (modStack s i f).selfTest = s.selfTest := rfl
@[simp] theorem modStack_strand (s : State) (i : Nat) (f : Stack → Stack) : (modStack s i f).strand = s.strand := rfl
@[simp] theorem modStack_card (s : State) (i : Nat) (f : Stack → Stack) : (modStack s i f).card = s.card := rfl
@[simp] theorem modStack_ras (s : State) (i : Nat) (f : Stack → Stack) : (modStack s i f).ras = s.ras := rfl
@[simp] theorem modStack_mem (s : State) (i : Nat) (f : Stack → Stack) : (modStack s i f).mem = s.mem := rfl
@[simp] theorem modStack_sideband (s : State) (i : Nat) (f : Stack → Stack) : (modStack s i f).sideband = s.sideband := rfl
@[simp] theorem modStack_jtag (s : State) (i : Nat) (f : Stack → Stack) : (modStack s i f).jtag = s.jtag := rfl

/-! ### modPwr -/

@[simp] theorem modPwr_pending (s : State) (f : Pwr → Pwr) : (modPwr s f).pending = s.pending := rfl
@[simp] theorem modPwr_free (s : State) (f : Pwr → Pwr) : (modPwr s f).free = s.free := rfl
@[simp] theorem modPwr_clock (s : State) (f : Pwr → Pwr) : (modPwr s f).clock = s.clock := rfl
@[simp] theorem modPwr_opSeq (s : State) (f : Pwr → Pwr) : (modPwr s f).opSeq = s.opSeq := rfl
@[simp] theorem modPwr_latch (s : State) (f : Pwr → Pwr) : (modPwr s f).latch = s.latch := rfl
@[simp] theorem modPwr_readData (s : State) (f : Pwr → Pwr) : (modPwr s f).readData = s.readData := rfl
@[simp] theorem modPwr_glb (s : State) (f : Pwr → Pwr) : (modPwr s f).glb = s.glb := rfl
@[simp] theorem modPwr_ports (s : State) (f : Pwr → Pwr) : (modPwr s f).ports = s.ports := rfl
@[simp] theorem modPwr_ops (s : State) (f : Pwr → Pwr) : (modPwr s f).ops = s.ops := rfl
@[simp] theorem modPwr_pwr (s : State) (f : Pwr → Pwr) : (modPwr s f).pwr = f s.pwr := rfl
@[simp] theorem modPwr_pins (s : State) (f : Pwr → Pwr) : (modPwr s f).pins = s.pins := rfl
@[simp] theorem modPwr_trd (s : State) (f : Pwr → Pwr) : (modPwr s f).trd = s.trd := rfl
@[simp] theorem modPwr_sec (s : State) (f : Pwr → Pwr) : (modPwr s f).sec = s.sec := rfl
@[simp] theorem modPwr_dst (s : State) (f : Pwr → Pwr) : (modPwr s f).dst = s.dst := rfl
@[simp] theorem modPwr_slices (s : State) (f : Pwr → Pwr) : (modPwr s f).slices = s.slices := rfl
@[simp] theorem modPwr_sched (s : State) (f : Pwr → Pwr) : (modPwr s f).sched = s.sched := rfl
@[simp] theorem modPwr_rotation (s : State) (f : Pwr → Pwr) : (modPwr s f).rotation = s.rotation := rfl
@[simp] theorem modPwr_nextRotation (s : State) (f : Pwr → Pwr) : (modPwr s f).nextRotation = s.nextRotation := rfl
@[simp] theorem modPwr_meterRing (s : State) (f : Pwr → Pwr) : (modPwr s f).meterRing = s.meterRing := rfl
@[simp] theorem modPwr_meterQueue (s : State) (f : Pwr → Pwr) : (modPwr s f).meterQueue = s.meterQueue := rfl
@[simp] theorem modPwr_meterGaps (s : State) (f : Pwr → Pwr) : (modPwr s f).meterGaps = s.meterGaps := rfl
@[simp] theorem modPwr_boot (s : State) (f : Pwr → Pwr) : (modPwr s f).boot = s.boot := rfl
@[simp] theorem modPwr_spindles (s : State) (f : Pwr → Pwr) : (modPwr s f).spindles = s.spindles := rfl
@[simp] theorem modPwr_skeins (s : State) (f : Pwr → Pwr) : (modPwr s f).skeins = s.skeins := rfl
@[simp] theorem modPwr_drafts (s : State) (f : Pwr → Pwr) : (modPwr s f).drafts = s.drafts := rfl
@[simp] theorem modPwr_nextHandle (s : State) (f : Pwr → Pwr) : (modPwr s f).nextHandle = s.nextHandle := rfl
@[simp] theorem modPwr_jobs (s : State) (f : Pwr → Pwr) : (modPwr s f).jobs = s.jobs := rfl
@[simp] theorem modPwr_plies (s : State) (f : Pwr → Pwr) : (modPwr s f).plies = s.plies := rfl
@[simp] theorem modPwr_bobbins (s : State) (f : Pwr → Pwr) : (modPwr s f).bobbins = s.bobbins := rfl
@[simp] theorem modPwr_journal (s : State) (f : Pwr → Pwr) : (modPwr s f).journal = s.journal := rfl
@[simp] theorem modPwr_stores (s : State) (f : Pwr → Pwr) : (modPwr s f).stores = s.stores := rfl
@[simp] theorem modPwr_fences (s : State) (f : Pwr → Pwr) : (modPwr s f).fences = s.fences := rfl
@[simp] theorem modPwr_selfTest (s : State) (f : Pwr → Pwr) : (modPwr s f).selfTest = s.selfTest := rfl
@[simp] theorem modPwr_strand (s : State) (f : Pwr → Pwr) : (modPwr s f).strand = s.strand := rfl
@[simp] theorem modPwr_card (s : State) (f : Pwr → Pwr) : (modPwr s f).card = s.card := rfl
@[simp] theorem modPwr_ras (s : State) (f : Pwr → Pwr) : (modPwr s f).ras = s.ras := rfl
@[simp] theorem modPwr_memStacks (s : State) (f : Pwr → Pwr) : (modPwr s f).memStacks = s.memStacks := rfl
@[simp] theorem modPwr_mem (s : State) (f : Pwr → Pwr) : (modPwr s f).mem = s.mem := rfl
@[simp] theorem modPwr_sideband (s : State) (f : Pwr → Pwr) : (modPwr s f).sideband = s.sideband := rfl
@[simp] theorem modPwr_jtag (s : State) (f : Pwr → Pwr) : (modPwr s f).jtag = s.jtag := rfl

/-! ### modGlb -/

@[simp] theorem modGlb_pending (s : State) (f : Glb → Glb) : (modGlb s f).pending = s.pending := rfl
@[simp] theorem modGlb_free (s : State) (f : Glb → Glb) : (modGlb s f).free = s.free := rfl
@[simp] theorem modGlb_clock (s : State) (f : Glb → Glb) : (modGlb s f).clock = s.clock := rfl
@[simp] theorem modGlb_opSeq (s : State) (f : Glb → Glb) : (modGlb s f).opSeq = s.opSeq := rfl
@[simp] theorem modGlb_latch (s : State) (f : Glb → Glb) : (modGlb s f).latch = s.latch := rfl
@[simp] theorem modGlb_readData (s : State) (f : Glb → Glb) : (modGlb s f).readData = s.readData := rfl
@[simp] theorem modGlb_glb (s : State) (f : Glb → Glb) : (modGlb s f).glb = f s.glb := rfl
@[simp] theorem modGlb_ports (s : State) (f : Glb → Glb) : (modGlb s f).ports = s.ports := rfl
@[simp] theorem modGlb_ops (s : State) (f : Glb → Glb) : (modGlb s f).ops = s.ops := rfl
@[simp] theorem modGlb_pwr (s : State) (f : Glb → Glb) : (modGlb s f).pwr = s.pwr := rfl
@[simp] theorem modGlb_pins (s : State) (f : Glb → Glb) : (modGlb s f).pins = s.pins := rfl
@[simp] theorem modGlb_trd (s : State) (f : Glb → Glb) : (modGlb s f).trd = s.trd := rfl
@[simp] theorem modGlb_sec (s : State) (f : Glb → Glb) : (modGlb s f).sec = s.sec := rfl
@[simp] theorem modGlb_dst (s : State) (f : Glb → Glb) : (modGlb s f).dst = s.dst := rfl
@[simp] theorem modGlb_slices (s : State) (f : Glb → Glb) : (modGlb s f).slices = s.slices := rfl
@[simp] theorem modGlb_sched (s : State) (f : Glb → Glb) : (modGlb s f).sched = s.sched := rfl
@[simp] theorem modGlb_rotation (s : State) (f : Glb → Glb) : (modGlb s f).rotation = s.rotation := rfl
@[simp] theorem modGlb_nextRotation (s : State) (f : Glb → Glb) : (modGlb s f).nextRotation = s.nextRotation := rfl
@[simp] theorem modGlb_meterRing (s : State) (f : Glb → Glb) : (modGlb s f).meterRing = s.meterRing := rfl
@[simp] theorem modGlb_meterQueue (s : State) (f : Glb → Glb) : (modGlb s f).meterQueue = s.meterQueue := rfl
@[simp] theorem modGlb_meterGaps (s : State) (f : Glb → Glb) : (modGlb s f).meterGaps = s.meterGaps := rfl
@[simp] theorem modGlb_boot (s : State) (f : Glb → Glb) : (modGlb s f).boot = s.boot := rfl
@[simp] theorem modGlb_spindles (s : State) (f : Glb → Glb) : (modGlb s f).spindles = s.spindles := rfl
@[simp] theorem modGlb_skeins (s : State) (f : Glb → Glb) : (modGlb s f).skeins = s.skeins := rfl
@[simp] theorem modGlb_drafts (s : State) (f : Glb → Glb) : (modGlb s f).drafts = s.drafts := rfl
@[simp] theorem modGlb_nextHandle (s : State) (f : Glb → Glb) : (modGlb s f).nextHandle = s.nextHandle := rfl
@[simp] theorem modGlb_jobs (s : State) (f : Glb → Glb) : (modGlb s f).jobs = s.jobs := rfl
@[simp] theorem modGlb_plies (s : State) (f : Glb → Glb) : (modGlb s f).plies = s.plies := rfl
@[simp] theorem modGlb_bobbins (s : State) (f : Glb → Glb) : (modGlb s f).bobbins = s.bobbins := rfl
@[simp] theorem modGlb_journal (s : State) (f : Glb → Glb) : (modGlb s f).journal = s.journal := rfl
@[simp] theorem modGlb_stores (s : State) (f : Glb → Glb) : (modGlb s f).stores = s.stores := rfl
@[simp] theorem modGlb_fences (s : State) (f : Glb → Glb) : (modGlb s f).fences = s.fences := rfl
@[simp] theorem modGlb_selfTest (s : State) (f : Glb → Glb) : (modGlb s f).selfTest = s.selfTest := rfl
@[simp] theorem modGlb_strand (s : State) (f : Glb → Glb) : (modGlb s f).strand = s.strand := rfl
@[simp] theorem modGlb_card (s : State) (f : Glb → Glb) : (modGlb s f).card = s.card := rfl
@[simp] theorem modGlb_ras (s : State) (f : Glb → Glb) : (modGlb s f).ras = s.ras := rfl
@[simp] theorem modGlb_memStacks (s : State) (f : Glb → Glb) : (modGlb s f).memStacks = s.memStacks := rfl
@[simp] theorem modGlb_mem (s : State) (f : Glb → Glb) : (modGlb s f).mem = s.mem := rfl
@[simp] theorem modGlb_sideband (s : State) (f : Glb → Glb) : (modGlb s f).sideband = s.sideband := rfl
@[simp] theorem modGlb_jtag (s : State) (f : Glb → Glb) : (modGlb s f).jtag = s.jtag := rfl

/-! ### modSb -/

@[simp] theorem modSb_pending (s : State) (f : Sideband → Sideband) : (modSb s f).pending = s.pending := rfl
@[simp] theorem modSb_free (s : State) (f : Sideband → Sideband) : (modSb s f).free = s.free := rfl
@[simp] theorem modSb_clock (s : State) (f : Sideband → Sideband) : (modSb s f).clock = s.clock := rfl
@[simp] theorem modSb_opSeq (s : State) (f : Sideband → Sideband) : (modSb s f).opSeq = s.opSeq := rfl
@[simp] theorem modSb_latch (s : State) (f : Sideband → Sideband) : (modSb s f).latch = s.latch := rfl
@[simp] theorem modSb_readData (s : State) (f : Sideband → Sideband) : (modSb s f).readData = s.readData := rfl
@[simp] theorem modSb_glb (s : State) (f : Sideband → Sideband) : (modSb s f).glb = s.glb := rfl
@[simp] theorem modSb_ports (s : State) (f : Sideband → Sideband) : (modSb s f).ports = s.ports := rfl
@[simp] theorem modSb_ops (s : State) (f : Sideband → Sideband) : (modSb s f).ops = s.ops := rfl
@[simp] theorem modSb_pwr (s : State) (f : Sideband → Sideband) : (modSb s f).pwr = s.pwr := rfl
@[simp] theorem modSb_pins (s : State) (f : Sideband → Sideband) : (modSb s f).pins = s.pins := rfl
@[simp] theorem modSb_trd (s : State) (f : Sideband → Sideband) : (modSb s f).trd = s.trd := rfl
@[simp] theorem modSb_sec (s : State) (f : Sideband → Sideband) : (modSb s f).sec = s.sec := rfl
@[simp] theorem modSb_dst (s : State) (f : Sideband → Sideband) : (modSb s f).dst = s.dst := rfl
@[simp] theorem modSb_slices (s : State) (f : Sideband → Sideband) : (modSb s f).slices = s.slices := rfl
@[simp] theorem modSb_sched (s : State) (f : Sideband → Sideband) : (modSb s f).sched = s.sched := rfl
@[simp] theorem modSb_rotation (s : State) (f : Sideband → Sideband) : (modSb s f).rotation = s.rotation := rfl
@[simp] theorem modSb_nextRotation (s : State) (f : Sideband → Sideband) : (modSb s f).nextRotation = s.nextRotation := rfl
@[simp] theorem modSb_meterRing (s : State) (f : Sideband → Sideband) : (modSb s f).meterRing = s.meterRing := rfl
@[simp] theorem modSb_meterQueue (s : State) (f : Sideband → Sideband) : (modSb s f).meterQueue = s.meterQueue := rfl
@[simp] theorem modSb_meterGaps (s : State) (f : Sideband → Sideband) : (modSb s f).meterGaps = s.meterGaps := rfl
@[simp] theorem modSb_boot (s : State) (f : Sideband → Sideband) : (modSb s f).boot = s.boot := rfl
@[simp] theorem modSb_spindles (s : State) (f : Sideband → Sideband) : (modSb s f).spindles = s.spindles := rfl
@[simp] theorem modSb_skeins (s : State) (f : Sideband → Sideband) : (modSb s f).skeins = s.skeins := rfl
@[simp] theorem modSb_drafts (s : State) (f : Sideband → Sideband) : (modSb s f).drafts = s.drafts := rfl
@[simp] theorem modSb_nextHandle (s : State) (f : Sideband → Sideband) : (modSb s f).nextHandle = s.nextHandle := rfl
@[simp] theorem modSb_jobs (s : State) (f : Sideband → Sideband) : (modSb s f).jobs = s.jobs := rfl
@[simp] theorem modSb_plies (s : State) (f : Sideband → Sideband) : (modSb s f).plies = s.plies := rfl
@[simp] theorem modSb_bobbins (s : State) (f : Sideband → Sideband) : (modSb s f).bobbins = s.bobbins := rfl
@[simp] theorem modSb_journal (s : State) (f : Sideband → Sideband) : (modSb s f).journal = s.journal := rfl
@[simp] theorem modSb_stores (s : State) (f : Sideband → Sideband) : (modSb s f).stores = s.stores := rfl
@[simp] theorem modSb_fences (s : State) (f : Sideband → Sideband) : (modSb s f).fences = s.fences := rfl
@[simp] theorem modSb_selfTest (s : State) (f : Sideband → Sideband) : (modSb s f).selfTest = s.selfTest := rfl
@[simp] theorem modSb_strand (s : State) (f : Sideband → Sideband) : (modSb s f).strand = s.strand := rfl
@[simp] theorem modSb_card (s : State) (f : Sideband → Sideband) : (modSb s f).card = s.card := rfl
@[simp] theorem modSb_ras (s : State) (f : Sideband → Sideband) : (modSb s f).ras = s.ras := rfl
@[simp] theorem modSb_memStacks (s : State) (f : Sideband → Sideband) : (modSb s f).memStacks = s.memStacks := rfl
@[simp] theorem modSb_mem (s : State) (f : Sideband → Sideband) : (modSb s f).mem = s.mem := rfl
@[simp] theorem modSb_sideband (s : State) (f : Sideband → Sideband) : (modSb s f).sideband = f s.sideband := rfl
@[simp] theorem modSb_jtag (s : State) (f : Sideband → Sideband) : (modSb s f).jtag = s.jtag := rfl

/-! ### modJtag -/

@[simp] theorem modJtag_pending (s : State) (f : Jtag → Jtag) : (modJtag s f).pending = s.pending := rfl
@[simp] theorem modJtag_free (s : State) (f : Jtag → Jtag) : (modJtag s f).free = s.free := rfl
@[simp] theorem modJtag_clock (s : State) (f : Jtag → Jtag) : (modJtag s f).clock = s.clock := rfl
@[simp] theorem modJtag_opSeq (s : State) (f : Jtag → Jtag) : (modJtag s f).opSeq = s.opSeq := rfl
@[simp] theorem modJtag_latch (s : State) (f : Jtag → Jtag) : (modJtag s f).latch = s.latch := rfl
@[simp] theorem modJtag_readData (s : State) (f : Jtag → Jtag) : (modJtag s f).readData = s.readData := rfl
@[simp] theorem modJtag_glb (s : State) (f : Jtag → Jtag) : (modJtag s f).glb = s.glb := rfl
@[simp] theorem modJtag_ports (s : State) (f : Jtag → Jtag) : (modJtag s f).ports = s.ports := rfl
@[simp] theorem modJtag_ops (s : State) (f : Jtag → Jtag) : (modJtag s f).ops = s.ops := rfl
@[simp] theorem modJtag_pwr (s : State) (f : Jtag → Jtag) : (modJtag s f).pwr = s.pwr := rfl
@[simp] theorem modJtag_pins (s : State) (f : Jtag → Jtag) : (modJtag s f).pins = s.pins := rfl
@[simp] theorem modJtag_trd (s : State) (f : Jtag → Jtag) : (modJtag s f).trd = s.trd := rfl
@[simp] theorem modJtag_sec (s : State) (f : Jtag → Jtag) : (modJtag s f).sec = s.sec := rfl
@[simp] theorem modJtag_dst (s : State) (f : Jtag → Jtag) : (modJtag s f).dst = s.dst := rfl
@[simp] theorem modJtag_slices (s : State) (f : Jtag → Jtag) : (modJtag s f).slices = s.slices := rfl
@[simp] theorem modJtag_sched (s : State) (f : Jtag → Jtag) : (modJtag s f).sched = s.sched := rfl
@[simp] theorem modJtag_rotation (s : State) (f : Jtag → Jtag) : (modJtag s f).rotation = s.rotation := rfl
@[simp] theorem modJtag_nextRotation (s : State) (f : Jtag → Jtag) : (modJtag s f).nextRotation = s.nextRotation := rfl
@[simp] theorem modJtag_meterRing (s : State) (f : Jtag → Jtag) : (modJtag s f).meterRing = s.meterRing := rfl
@[simp] theorem modJtag_meterQueue (s : State) (f : Jtag → Jtag) : (modJtag s f).meterQueue = s.meterQueue := rfl
@[simp] theorem modJtag_meterGaps (s : State) (f : Jtag → Jtag) : (modJtag s f).meterGaps = s.meterGaps := rfl
@[simp] theorem modJtag_boot (s : State) (f : Jtag → Jtag) : (modJtag s f).boot = s.boot := rfl
@[simp] theorem modJtag_spindles (s : State) (f : Jtag → Jtag) : (modJtag s f).spindles = s.spindles := rfl
@[simp] theorem modJtag_skeins (s : State) (f : Jtag → Jtag) : (modJtag s f).skeins = s.skeins := rfl
@[simp] theorem modJtag_drafts (s : State) (f : Jtag → Jtag) : (modJtag s f).drafts = s.drafts := rfl
@[simp] theorem modJtag_nextHandle (s : State) (f : Jtag → Jtag) : (modJtag s f).nextHandle = s.nextHandle := rfl
@[simp] theorem modJtag_jobs (s : State) (f : Jtag → Jtag) : (modJtag s f).jobs = s.jobs := rfl
@[simp] theorem modJtag_plies (s : State) (f : Jtag → Jtag) : (modJtag s f).plies = s.plies := rfl
@[simp] theorem modJtag_bobbins (s : State) (f : Jtag → Jtag) : (modJtag s f).bobbins = s.bobbins := rfl
@[simp] theorem modJtag_journal (s : State) (f : Jtag → Jtag) : (modJtag s f).journal = s.journal := rfl
@[simp] theorem modJtag_stores (s : State) (f : Jtag → Jtag) : (modJtag s f).stores = s.stores := rfl
@[simp] theorem modJtag_fences (s : State) (f : Jtag → Jtag) : (modJtag s f).fences = s.fences := rfl
@[simp] theorem modJtag_selfTest (s : State) (f : Jtag → Jtag) : (modJtag s f).selfTest = s.selfTest := rfl
@[simp] theorem modJtag_strand (s : State) (f : Jtag → Jtag) : (modJtag s f).strand = s.strand := rfl
@[simp] theorem modJtag_card (s : State) (f : Jtag → Jtag) : (modJtag s f).card = s.card := rfl
@[simp] theorem modJtag_ras (s : State) (f : Jtag → Jtag) : (modJtag s f).ras = s.ras := rfl
@[simp] theorem modJtag_memStacks (s : State) (f : Jtag → Jtag) : (modJtag s f).memStacks = s.memStacks := rfl
@[simp] theorem modJtag_mem (s : State) (f : Jtag → Jtag) : (modJtag s f).mem = s.mem := rfl
@[simp] theorem modJtag_sideband (s : State) (f : Jtag → Jtag) : (modJtag s f).sideband = s.sideband := rfl
@[simp] theorem modJtag_jtag (s : State) (f : Jtag → Jtag) : (modJtag s f).jtag = f s.jtag := rfl

/-! ### modTrd -/

@[simp] theorem modTrd_pending (s : State) (f : Trd → Trd) : (modTrd s f).pending = s.pending := rfl
@[simp] theorem modTrd_free (s : State) (f : Trd → Trd) : (modTrd s f).free = s.free := rfl
@[simp] theorem modTrd_clock (s : State) (f : Trd → Trd) : (modTrd s f).clock = s.clock := rfl
@[simp] theorem modTrd_opSeq (s : State) (f : Trd → Trd) : (modTrd s f).opSeq = s.opSeq := rfl
@[simp] theorem modTrd_latch (s : State) (f : Trd → Trd) : (modTrd s f).latch = s.latch := rfl
@[simp] theorem modTrd_readData (s : State) (f : Trd → Trd) : (modTrd s f).readData = s.readData := rfl
@[simp] theorem modTrd_glb (s : State) (f : Trd → Trd) : (modTrd s f).glb = s.glb := rfl
@[simp] theorem modTrd_ports (s : State) (f : Trd → Trd) : (modTrd s f).ports = s.ports := rfl
@[simp] theorem modTrd_ops (s : State) (f : Trd → Trd) : (modTrd s f).ops = s.ops := rfl
@[simp] theorem modTrd_pwr (s : State) (f : Trd → Trd) : (modTrd s f).pwr = s.pwr := rfl
@[simp] theorem modTrd_pins (s : State) (f : Trd → Trd) : (modTrd s f).pins = s.pins := rfl
@[simp] theorem modTrd_trd (s : State) (f : Trd → Trd) : (modTrd s f).trd = f s.trd := rfl
@[simp] theorem modTrd_sec (s : State) (f : Trd → Trd) : (modTrd s f).sec = s.sec := rfl
@[simp] theorem modTrd_dst (s : State) (f : Trd → Trd) : (modTrd s f).dst = s.dst := rfl
@[simp] theorem modTrd_slices (s : State) (f : Trd → Trd) : (modTrd s f).slices = s.slices := rfl
@[simp] theorem modTrd_sched (s : State) (f : Trd → Trd) : (modTrd s f).sched = s.sched := rfl
@[simp] theorem modTrd_rotation (s : State) (f : Trd → Trd) : (modTrd s f).rotation = s.rotation := rfl
@[simp] theorem modTrd_nextRotation (s : State) (f : Trd → Trd) : (modTrd s f).nextRotation = s.nextRotation := rfl
@[simp] theorem modTrd_meterRing (s : State) (f : Trd → Trd) : (modTrd s f).meterRing = s.meterRing := rfl
@[simp] theorem modTrd_meterQueue (s : State) (f : Trd → Trd) : (modTrd s f).meterQueue = s.meterQueue := rfl
@[simp] theorem modTrd_meterGaps (s : State) (f : Trd → Trd) : (modTrd s f).meterGaps = s.meterGaps := rfl
@[simp] theorem modTrd_boot (s : State) (f : Trd → Trd) : (modTrd s f).boot = s.boot := rfl
@[simp] theorem modTrd_spindles (s : State) (f : Trd → Trd) : (modTrd s f).spindles = s.spindles := rfl
@[simp] theorem modTrd_skeins (s : State) (f : Trd → Trd) : (modTrd s f).skeins = s.skeins := rfl
@[simp] theorem modTrd_drafts (s : State) (f : Trd → Trd) : (modTrd s f).drafts = s.drafts := rfl
@[simp] theorem modTrd_nextHandle (s : State) (f : Trd → Trd) : (modTrd s f).nextHandle = s.nextHandle := rfl
@[simp] theorem modTrd_jobs (s : State) (f : Trd → Trd) : (modTrd s f).jobs = s.jobs := rfl
@[simp] theorem modTrd_plies (s : State) (f : Trd → Trd) : (modTrd s f).plies = s.plies := rfl
@[simp] theorem modTrd_bobbins (s : State) (f : Trd → Trd) : (modTrd s f).bobbins = s.bobbins := rfl
@[simp] theorem modTrd_journal (s : State) (f : Trd → Trd) : (modTrd s f).journal = s.journal := rfl
@[simp] theorem modTrd_stores (s : State) (f : Trd → Trd) : (modTrd s f).stores = s.stores := rfl
@[simp] theorem modTrd_fences (s : State) (f : Trd → Trd) : (modTrd s f).fences = s.fences := rfl
@[simp] theorem modTrd_selfTest (s : State) (f : Trd → Trd) : (modTrd s f).selfTest = s.selfTest := rfl
@[simp] theorem modTrd_strand (s : State) (f : Trd → Trd) : (modTrd s f).strand = s.strand := rfl
@[simp] theorem modTrd_card (s : State) (f : Trd → Trd) : (modTrd s f).card = s.card := rfl
@[simp] theorem modTrd_ras (s : State) (f : Trd → Trd) : (modTrd s f).ras = s.ras := rfl
@[simp] theorem modTrd_memStacks (s : State) (f : Trd → Trd) : (modTrd s f).memStacks = s.memStacks := rfl
@[simp] theorem modTrd_mem (s : State) (f : Trd → Trd) : (modTrd s f).mem = s.mem := rfl
@[simp] theorem modTrd_sideband (s : State) (f : Trd → Trd) : (modTrd s f).sideband = s.sideband := rfl
@[simp] theorem modTrd_jtag (s : State) (f : Trd → Trd) : (modTrd s f).jtag = s.jtag := rfl

/-! ### startOp -/

@[simp] theorem startOp_pending (s : State) (id : Nat) : (startOp s id).pending = s.pending := rfl
@[simp] theorem startOp_free (s : State) (id : Nat) : (startOp s id).free = s.free := rfl
@[simp] theorem startOp_clock (s : State) (id : Nat) : (startOp s id).clock = s.clock := rfl
@[simp] theorem startOp_opSeq (s : State) (id : Nat) : (startOp s id).opSeq = s.opSeq := rfl
@[simp] theorem startOp_latch (s : State) (id : Nat) : (startOp s id).latch = s.latch := rfl
@[simp] theorem startOp_readData (s : State) (id : Nat) : (startOp s id).readData = s.readData := rfl
@[simp] theorem startOp_glb (s : State) (id : Nat) : (startOp s id).glb = s.glb := rfl
@[simp] theorem startOp_ports (s : State) (id : Nat) : (startOp s id).ports = s.ports := rfl
@[simp] theorem startOp_pwr (s : State) (id : Nat) : (startOp s id).pwr = s.pwr := rfl
@[simp] theorem startOp_pins (s : State) (id : Nat) : (startOp s id).pins = s.pins := rfl
@[simp] theorem startOp_trd (s : State) (id : Nat) : (startOp s id).trd = s.trd := rfl
@[simp] theorem startOp_sec (s : State) (id : Nat) : (startOp s id).sec = s.sec := rfl
@[simp] theorem startOp_dst (s : State) (id : Nat) : (startOp s id).dst = s.dst := rfl
@[simp] theorem startOp_slices (s : State) (id : Nat) : (startOp s id).slices = s.slices := rfl
@[simp] theorem startOp_sched (s : State) (id : Nat) : (startOp s id).sched = s.sched := rfl
@[simp] theorem startOp_rotation (s : State) (id : Nat) : (startOp s id).rotation = s.rotation := rfl
@[simp] theorem startOp_nextRotation (s : State) (id : Nat) : (startOp s id).nextRotation = s.nextRotation := rfl
@[simp] theorem startOp_meterRing (s : State) (id : Nat) : (startOp s id).meterRing = s.meterRing := rfl
@[simp] theorem startOp_meterQueue (s : State) (id : Nat) : (startOp s id).meterQueue = s.meterQueue := rfl
@[simp] theorem startOp_meterGaps (s : State) (id : Nat) : (startOp s id).meterGaps = s.meterGaps := rfl
@[simp] theorem startOp_boot (s : State) (id : Nat) : (startOp s id).boot = s.boot := rfl
@[simp] theorem startOp_spindles (s : State) (id : Nat) : (startOp s id).spindles = s.spindles := rfl
@[simp] theorem startOp_skeins (s : State) (id : Nat) : (startOp s id).skeins = s.skeins := rfl
@[simp] theorem startOp_drafts (s : State) (id : Nat) : (startOp s id).drafts = s.drafts := rfl
@[simp] theorem startOp_nextHandle (s : State) (id : Nat) : (startOp s id).nextHandle = s.nextHandle := rfl
@[simp] theorem startOp_jobs (s : State) (id : Nat) : (startOp s id).jobs = s.jobs := rfl
@[simp] theorem startOp_plies (s : State) (id : Nat) : (startOp s id).plies = s.plies := rfl
@[simp] theorem startOp_bobbins (s : State) (id : Nat) : (startOp s id).bobbins = s.bobbins := rfl
@[simp] theorem startOp_journal (s : State) (id : Nat) : (startOp s id).journal = s.journal := rfl
@[simp] theorem startOp_stores (s : State) (id : Nat) : (startOp s id).stores = s.stores := rfl
@[simp] theorem startOp_fences (s : State) (id : Nat) : (startOp s id).fences = s.fences := rfl
@[simp] theorem startOp_selfTest (s : State) (id : Nat) : (startOp s id).selfTest = s.selfTest := rfl
@[simp] theorem startOp_strand (s : State) (id : Nat) : (startOp s id).strand = s.strand := rfl
@[simp] theorem startOp_card (s : State) (id : Nat) : (startOp s id).card = s.card := rfl
@[simp] theorem startOp_ras (s : State) (id : Nat) : (startOp s id).ras = s.ras := rfl
@[simp] theorem startOp_stacks (s : State) (id : Nat) : (startOp s id).memStacks = s.memStacks := rfl
@[simp] theorem startOp_mem (s : State) (id : Nat) : (startOp s id).mem = s.mem := rfl
@[simp] theorem startOp_sideband (s : State) (id : Nat) : (startOp s id).sideband = s.sideband := rfl
@[simp] theorem startOp_jtag (s : State) (id : Nat) : (startOp s id).jtag = s.jtag := rfl

/-! ### wake -/

@[simp] theorem wake_pending (s : State) (n : Nat) : (wake s n).pending = s.pending := by unfold wake; split <;> rfl
@[simp] theorem wake_free (s : State) (n : Nat) : (wake s n).free = s.free := by unfold wake; split <;> rfl
@[simp] theorem wake_clock (s : State) (n : Nat) : (wake s n).clock = s.clock := by unfold wake; split <;> rfl
@[simp] theorem wake_opSeq (s : State) (n : Nat) : (wake s n).opSeq = s.opSeq := by unfold wake; split <;> rfl
@[simp] theorem wake_latch (s : State) (n : Nat) : (wake s n).latch = s.latch := by unfold wake; split <;> rfl
@[simp] theorem wake_readData (s : State) (n : Nat) : (wake s n).readData = s.readData := by unfold wake; split <;> rfl
@[simp] theorem wake_glb (s : State) (n : Nat) : (wake s n).glb = s.glb := by unfold wake; split <;> rfl
@[simp] theorem wake_ports (s : State) (n : Nat) : (wake s n).ports = s.ports := by unfold wake; split <;> rfl
@[simp] theorem wake_ops (s : State) (n : Nat) : (wake s n).ops = s.ops := by unfold wake; split <;> rfl
@[simp] theorem wake_pins (s : State) (n : Nat) : (wake s n).pins = s.pins := by unfold wake; split <;> rfl
@[simp] theorem wake_trd (s : State) (n : Nat) : (wake s n).trd = s.trd := by unfold wake; split <;> rfl
@[simp] theorem wake_sec (s : State) (n : Nat) : (wake s n).sec = s.sec := by unfold wake; split <;> rfl
@[simp] theorem wake_dst (s : State) (n : Nat) : (wake s n).dst = s.dst := by unfold wake; split <;> rfl
@[simp] theorem wake_slices (s : State) (n : Nat) : (wake s n).slices = s.slices := by unfold wake; split <;> rfl
@[simp] theorem wake_sched (s : State) (n : Nat) : (wake s n).sched = s.sched := by unfold wake; split <;> rfl
@[simp] theorem wake_rotation (s : State) (n : Nat) : (wake s n).rotation = s.rotation := by unfold wake; split <;> rfl
@[simp] theorem wake_nextRotation (s : State) (n : Nat) : (wake s n).nextRotation = s.nextRotation := by unfold wake; split <;> rfl
@[simp] theorem wake_meterRing (s : State) (n : Nat) : (wake s n).meterRing = s.meterRing := by unfold wake; split <;> rfl
@[simp] theorem wake_meterQueue (s : State) (n : Nat) : (wake s n).meterQueue = s.meterQueue := by unfold wake; split <;> rfl
@[simp] theorem wake_meterGaps (s : State) (n : Nat) : (wake s n).meterGaps = s.meterGaps := by unfold wake; split <;> rfl
@[simp] theorem wake_boot (s : State) (n : Nat) : (wake s n).boot = s.boot := by unfold wake; split <;> rfl
@[simp] theorem wake_spindles (s : State) (n : Nat) : (wake s n).spindles = s.spindles := by unfold wake; split <;> rfl
@[simp] theorem wake_skeins (s : State) (n : Nat) : (wake s n).skeins = s.skeins := by unfold wake; split <;> rfl
@[simp] theorem wake_drafts (s : State) (n : Nat) : (wake s n).drafts = s.drafts := by unfold wake; split <;> rfl
@[simp] theorem wake_nextHandle (s : State) (n : Nat) : (wake s n).nextHandle = s.nextHandle := by unfold wake; split <;> rfl
@[simp] theorem wake_jobs (s : State) (n : Nat) : (wake s n).jobs = s.jobs := by unfold wake; split <;> rfl
@[simp] theorem wake_plies (s : State) (n : Nat) : (wake s n).plies = s.plies := by unfold wake; split <;> rfl
@[simp] theorem wake_bobbins (s : State) (n : Nat) : (wake s n).bobbins = s.bobbins := by unfold wake; split <;> rfl
@[simp] theorem wake_journal (s : State) (n : Nat) : (wake s n).journal = s.journal := by unfold wake; split <;> rfl
@[simp] theorem wake_stores (s : State) (n : Nat) : (wake s n).stores = s.stores := by unfold wake; split <;> rfl
@[simp] theorem wake_fences (s : State) (n : Nat) : (wake s n).fences = s.fences := by unfold wake; split <;> rfl
@[simp] theorem wake_selfTest (s : State) (n : Nat) : (wake s n).selfTest = s.selfTest := by unfold wake; split <;> rfl
@[simp] theorem wake_strand (s : State) (n : Nat) : (wake s n).strand = s.strand := by unfold wake; split <;> rfl
@[simp] theorem wake_card (s : State) (n : Nat) : (wake s n).card = s.card := by unfold wake; split <;> rfl
@[simp] theorem wake_ras (s : State) (n : Nat) : (wake s n).ras = s.ras := by unfold wake; split <;> rfl
@[simp] theorem wake_stacks (s : State) (n : Nat) : (wake s n).memStacks = s.memStacks := by unfold wake; split <;> rfl
@[simp] theorem wake_mem (s : State) (n : Nat) : (wake s n).mem = s.mem := by unfold wake; split <;> rfl
@[simp] theorem wake_sideband (s : State) (n : Nat) : (wake s n).sideband = s.sideband := by unfold wake; split <;> rfl
@[simp] theorem wake_jtag (s : State) (n : Nat) : (wake s n).jtag = s.jtag := by unfold wake; split <;> rfl

/-! ### What is read back of a table of units -/

@[simp] theorem getPort_modPort_same (s : State) (p : Nat) (f : Port → Port) : getPort (modPort s p f) p = f (getPort s p) := by
  simp [getPort, readD_writeD]

@[simp] theorem getPort_modPort_other (s : State) (p q : Nat) (f : Port → Port) (h : q ≠ p) : getPort (modPort s p f) q = getPort s q := by
  simp [getPort, readD_writeD, h]

@[simp] theorem getSpn_modSpn_same (s : State) (p : Nat) (f : Spindle → Spindle) : getSpn (modSpn s p f) p = f (getSpn s p) := by
  simp [getSpn, modSpn, readD_writeD]

@[simp] theorem getSpn_modSpn_other (s : State) (p q : Nat) (f : Spindle → Spindle) (h : q ≠ p) : getSpn (modSpn s p f) q = getSpn s q := by
  simp [getSpn, modSpn, readD_writeD, h]

@[simp] theorem getBob_modBob_same (s : State) (p : Nat) (f : Bobbin → Bobbin) : getBob (modBob s p f) p = f (getBob s p) := by
  simp [getBob, modBob, readD_writeD]

@[simp] theorem getBob_modBob_other (s : State) (p q : Nat) (f : Bobbin → Bobbin) (h : q ≠ p) : getBob (modBob s p f) q = getBob s q := by
  simp [getBob, modBob, readD_writeD, h]

@[simp] theorem getLane_modLane_same (s : State) (p : Nat) (f : Lane → Lane) : getLane (modLane s p f) p = f (getLane s p) := by
  simp [getLane, modLane, readD_writeD]

@[simp] theorem getLane_modLane_other (s : State) (p q : Nat) (f : Lane → Lane) (h : q ≠ p) : getLane (modLane s p f) q = getLane s q := by
  simp [getLane, modLane, readD_writeD, h]

@[simp] theorem lookup_modSlice (s : State) (n m : Nat) (f : Slice → Slice) :
    lookup (modSlice s n f).slices m = if m = n then (lookup s.slices m).map f else lookup s.slices m := lookup_adjust _ _ _ _

@[simp] theorem lookup_modJob (s : State) (n m : Nat) (f : Job → Job) :
    lookup (modJob s n f).jobs m = if m = n then (lookup s.jobs m).map f else lookup s.jobs m := lookup_adjust _ _ _ _

@[simp] theorem lookup_modStore (s : State) (n m : Nat) (f : Store → Store) :
    lookup (modStore s n f).stores m = if m = n then (lookup s.stores m).map f else lookup s.stores m := lookup_adjust _ _ _ _

end Sys2Proof.Machine
end

