-- ==== Sys2Proof/Laws/Ops.lean ====
section
/-! SUPPORT. What each shared operation of the rows can do, said once. -/

namespace Sys2Proof.Machine

/-- The meaning of a row is given the operation when that is ready and the row's. -/
theorem runRow_ready {s : State} {id opcode need : Nat} {o : Op} (h : Ready s id opcode need o) (sel : Op → Bool) (body : Op → State → State)
    (hs : sel o = true) : runRow s id opcode need sel body = body o (started s id need) := by
  obtain ⟨h1, h2, h3, h4, h5, h6⟩ := h
  simp [runRow, h1, h2, h3, h4, h5, h6, hs, started]

theorem runOp_ready {s : State} {id opcode need : Nat} {o : Op} (h : Ready s id opcode need o) (body : Op → State → State) :
    runOp s id opcode need body = body o (started s id need) := runRow_ready h _ _ rfl

/-- A row that is not the operation's does nothing. -/
theorem runRow_other {s : State} {id opcode need : Nat} {o : Op} (h : lookup s.ops id = some o) (sel : Op → Bool) (body : Op → State → State)
    (hs : sel o = false) : runRow s id opcode need sel body = s := by
  simp [runRow, h, hs]

/-- With no failing check the rest runs. -/
theorem checks_pass (s : State) (id : Nat) (cs : List (Bool × Nat × Nat)) (ok : State) (h : cs.find? (fun c => c.1) = none) : checks s id cs ok = ok := by
  simp [checks, h]

/-- The first failing check decides. -/
theorem checks_fail (s : State) (id : Nat) (cs : List (Bool × Nat × Nat)) (ok : State) (b : Bool) (st d : Nat)
    (h : cs.find? (fun c => c.1) = some (b, st, d)) : checks s id cs ok = fail s id st d := by
  simp [checks, h]

/-- With every partner range in reach the rest runs. -/
theorem withPartner_reach {s : State} {o : Op} {rs : List (Nat × Nat × Bool)} (h : Reaches s o rs) (id : Nat) (ok : State) :
    withPartner s id o rs ok = ok := by
  simp only [withPartner, h.1, h.2]
  simp

/-- A buffer that answers lets the rest run. -/
theorem reach_ready {s u : State} {port slice tier addr n : Nat} {wr : Bool} (h : BufferReady s port slice tier addr n wr u) (k : State → Served) :
    reach s port slice tier addr n wr k = k u := by
  rcases h with ⟨h1, h2, rfl⟩ | ⟨h1, h2, h3⟩
  · simp [reach, h1, h2]
  · simp only [reach, h1, h3]
    rw [if_neg (by simp), if_neg (by omega)]

/-- A storage command that runs has its effect. -/
theorem runStorage_runs {s t : State} {id opcode : Nat} {o : Op} {st : Store} {bufs : List (Nat × Nat)} (h : StorageRuns s id opcode o st bufs t)
    (k : Op → Store → List (Nat × Nat) → State → State) (hk : opcode = 0x04 → bufs = []) : runStorage s id opcode k = k o st bufs t := by
  obtain ⟨h1, rfl, h4, h5, h6, h7, h8⟩ := h
  unfold runStorage
  rw [runOp_ready h1]
  dsimp only
  rw [if_neg (by rw [h4]; decide), checks_pass _ _ _ _ h5, if_neg (by rw [h6]; decide), h7]
  dsimp only
  by_cases hc : opcode = 0x04
  · rw [if_pos hc, hk hc]
  · obtain ⟨h9, h10, rfl, h12⟩ := h8 hc
    rw [if_neg hc, withPartner_reach h9, h10]
    dsimp only
    rw [withPartner_reach h12]

/-- A term list that is read is handed on. -/
theorem withTerms_read {t : State} {id : Nat} {o : Op} {addr n len : Nat} {b : List Byte} {ts : List Term} (h : TermsRead t id o addr n len b ts)
    (ok : List Byte → List Term → State) : withTerms t id o addr n len ok = ok b ts := by
  rcases h with ⟨rfl, rfl, rfl⟩ | ⟨h1, h2, h3 | ⟨h3, h4, rfl, h5, rfl⟩⟩
  · rfl
  · unfold withTerms
    rw [if_neg h1, h3]
    dsimp only
    rw [h2]
  · unfold withTerms
    rw [if_neg h1, h3]
    dsimp only
    rw [withPartner_reach h4, h2]
    dsimp only
    rw [withPartner_reach h5]

/-- A verified image is handed on. -/
theorem withImage_verified {t u : State} {o : Op} {st : Store} {bad : List Byte → Option Nat} {entry : List Byte → Nat}
    {tables : List Byte → List Byte → Option Nat} {image : List Byte} (h : VerifiedImage t o st bad entry tables image u) (id : Nat)
    (ok : List Byte → State → State) : withImage t id o bad entry tables ok = ok image u := by
  obtain ⟨h1, h2, h3, h4, h5, h6, h7, h8⟩ := h
  unfold withImage
  rw [h1]
  dsimp only
  rw [h2]
  dsimp only
  rw [h3, h5, ← h6, ← h8, if_pos h7]
  by_cases hb : badSector t st (o.f 16 8 * 4096 + entry (readStore t st (o.f 16 8 * 4096) 128)) 32 = none
  · rw [h4 hb]
    simp
  · have hs : (badSector t st (o.f 16 8 * 4096 + entry (readStore t st (o.f 16 8 * 4096) 128)) 32).isNone = false := by
      simpa only [Option.isNone_iff_eq_none, Bool.eq_false_iff, ne_eq] using hb
    rw [hs]
    simp

/-- A control-space write that may take effect does. -/
theorem ctlWrite_pass {s : State} {who : Requester} (h : mayWrite s who) (off : Nat) (k : State → State) : ctlWrite s who off k = k s := by
  obtain ⟨h1, h2⟩ := h
  unfold ctlWrite
  rw [if_neg (by simpa using h1), if_neg (by simp [h2])]

/-- Without a core fault to report, nothing is reported. -/
theorem reportCoreFault_none (s : State) (h : s.ras.coreFault = none) : reportCoreFault s = s := by
  simp [reportCoreFault, h]

/-- The instruction at the rank's position is handed to its meaning. -/
theorem present_issues {s t : State} {sp : Nat} {w : IWord} {e : Seat} {j : Job} (h : Issues s sp w e j t) {sel : Bool} (hs : sel = true)
    (go : Seat → State → State) : present s sp w sel go = go e t := by
  obtain ⟨h1, rfl, h3, h4, h5, h6⟩ := h
  obtain ⟨e', h3⟩ := Option.isSome_iff_exists.1 h3
  simp [present, hs, h1, h3, h4, h5, h6]

/-- A unit instruction that nothing hinders runs, and the rank goes on. -/
theorem issueUnit_runs {t u : State} {e : Seat} {w : IWord} (h : Unhindered t e w) (hr : runInstr t e w (getCtx t e.phys).x = .done u) :
    issueUnit w e t = advance u e := by
  obtain ⟨h1, h2, h3, h4⟩ := h
  simp [issueUnit, h1, h2, h3, h4, hr]

/-- A device that is awake enough and heads nowhere deeper is left alone by a waking. -/
theorem wake_awake (s : State) : wake s 4 = s := rfl

/-- A REPAIR of the row's KIND and OPT is given to its meaning, no full erase being prepared. -/
theorem repairRow_ready {s : State} {id kind : Nat} {o : Op} (h : Ready s id 0x6C 4 o) (hk : o.f 8 1 = kind) (hm : kind ≤ 7) (opt : Option Nat)
    (ho : opt.all (fun n => n = o.f 9 1) = true) (h9 : kind = 0 → o.f 9 1 ≤ 2) (he : s.sec.erase = none) (body : Op → State → State) :
    repairRow s id kind opt body = body o (started s id 4) := by
  subst hk
  have e : (started s id 4).sec.erase = none := by simpa [started] using he
  unfold repairRow
  rw [runRow_ready h _ _ (by simp [ho])]
  dsimp only
  rw [if_neg (by omega), if_neg (by simpa using h9), e, if_neg (by simp)]

/-- Logging touches nothing but the log. -/
theorem logRas_only (s : State) (a b c d e : Nat) : logRas s a b c d e = { s with ras := (logRas s a b c d e).ras } := by
  unfold logRas
  dsimp only
  split <;> rfl

@[simp] theorem logRas_dst (s : State) (a b c d e : Nat) : (logRas s a b c d e).dst = s.dst := by rw [logRas_only]

/-! ### `started` -/

@[simp] theorem started_op (s : State) (id need : Nat) (o : Op) (h : lookup s.ops id = some o) :
    lookup (started s id need).ops id = some (if o.phase = .fetched then { o with phase := .started } else o) := by
  simp [started, startOp, lookup_adjust, h]

@[simp] theorem getPort_started (s : State) (id need p : Nat) : getPort (started s id need) p = getPort s p := by
  simp [getPort, started]

@[simp] theorem getSpn_started (s : State) (id need p : Nat) : getSpn (started s id need) p = getSpn s p := by
  simp [getSpn, started]

@[simp] theorem getBob_started (s : State) (id need p : Nat) : getBob (started s id need) p = getBob s p := by
  simp [getBob, started]

@[simp] theorem getLane_started (s : State) (id need p : Nat) : getLane (started s id need) p = getLane s p := by
  simp [getLane, started]

@[simp] theorem started_pending (s : State) (id need : Nat) : (started s id need).pending = s.pending := by simp [started]
@[simp] theorem started_free (s : State) (id need : Nat) : (started s id need).free = s.free := by simp [started]
@[simp] theorem started_clock (s : State) (id need : Nat) : (started s id need).clock = s.clock := by simp [started]
@[simp] theorem started_opSeq (s : State) (id need : Nat) : (started s id need).opSeq = s.opSeq := by simp [started]
@[simp] theorem started_latch (s : State) (id need : Nat) : (started s id need).latch = s.latch := by simp [started]
@[simp] theorem started_readData (s : State) (id need : Nat) : (started s id need).readData = s.readData := by simp [started]
@[simp] theorem started_glb (s : State) (id need : Nat) : (started s id need).glb = s.glb := by simp [started]
@[simp] theorem started_ports (s : State) (id need : Nat) : (started s id need).ports = s.ports := by simp [started]
@[simp] theorem started_pins (s : State) (id need : Nat) : (started s id need).pins = s.pins := by simp [started]
@[simp] theorem started_trd (s : State) (id need : Nat) : (started s id need).trd = s.trd := by simp [started]
@[simp] theorem started_sec (s : State) (id need : Nat) : (started s id need).sec = s.sec := by simp [started]
@[simp] theorem started_dst (s : State) (id need : Nat) : (started s id need).dst = s.dst := by simp [started]
@[simp] theorem started_slices (s : State) (id need : Nat) : (started s id need).slices = s.slices := by simp [started]
@[simp] theorem started_sched (s : State) (id need : Nat) : (started s id need).sched = s.sched := by simp [started]
@[simp] theorem started_rotation (s : State) (id need : Nat) : (started s id need).rotation = s.rotation := by simp [started]
@[simp] theorem started_nextRotation (s : State) (id need : Nat) : (started s id need).nextRotation = s.nextRotation := by simp [started]
@[simp] theorem started_meterRing (s : State) (id need : Nat) : (started s id need).meterRing = s.meterRing := by simp [started]
@[simp] theorem started_meterQueue (s : State) (id need : Nat) : (started s id need).meterQueue = s.meterQueue := by simp [started]
@[simp] theorem started_meterGaps (s : State) (id need : Nat) : (started s id need).meterGaps = s.meterGaps := by simp [started]
@[simp] theorem started_boot (s : State) (id need : Nat) : (started s id need).boot = s.boot := by simp [started]
@[simp] theorem started_spindles (s : State) (id need : Nat) : (started s id need).spindles = s.spindles := by simp [started]
@[simp] theorem started_skeins (s : State) (id need : Nat) : (started s id need).skeins = s.skeins := by simp [started]
@[simp] theorem started_drafts (s : State) (id need : Nat) : (started s id need).drafts = s.drafts := by simp [started]
@[simp] theorem started_nextHandle (s : State) (id need : Nat) : (started s id need).nextHandle = s.nextHandle := by simp [started]
@[simp] theorem started_jobs (s : State) (id need : Nat) : (started s id need).jobs = s.jobs := by simp [started]
@[simp] theorem started_plies (s : State) (id need : Nat) : (started s id need).plies = s.plies := by simp [started]
@[simp] theorem started_bobbins (s : State) (id need : Nat) : (started s id need).bobbins = s.bobbins := by simp [started]
@[simp] theorem started_journal (s : State) (id need : Nat) : (started s id need).journal = s.journal := by simp [started]
@[simp] theorem started_stores (s : State) (id need : Nat) : (started s id need).stores = s.stores := by simp [started]
@[simp] theorem started_fences (s : State) (id need : Nat) : (started s id need).fences = s.fences := by simp [started]
@[simp] theorem started_selfTest (s : State) (id need : Nat) : (started s id need).selfTest = s.selfTest := by simp [started]
@[simp] theorem started_strand (s : State) (id need : Nat) : (started s id need).strand = s.strand := by simp [started]
@[simp] theorem started_card (s : State) (id need : Nat) : (started s id need).card = s.card := by simp [started]
@[simp] theorem started_ras (s : State) (id need : Nat) : (started s id need).ras = s.ras := by simp [started]
@[simp] theorem started_stacks (s : State) (id need : Nat) : (started s id need).memStacks = s.memStacks := by simp [started]
@[simp] theorem started_mem (s : State) (id need : Nat) : (started s id need).mem = s.mem := by simp [started]
@[simp] theorem started_sideband (s : State) (id need : Nat) : (started s id need).sideband = s.sideband := by simp [started]
@[simp] theorem started_jtag (s : State) (id need : Nat) : (started s id need).jtag = s.jtag := by simp [started]

/-- An arriving packet that its flow accepts is applied (11 R220). -/
theorem servePacket_arrives {s t : State} {n op admitted : Nat} {k : Packet} {serve : State → Served} (h : Arrives s n k t) (ho : k.op = op) :
    servePacket s n op k admitted serve = applyPacket t k admitted serve := by
  obtain ⟨h1, h2, h3, h4, h5⟩ := h
  subst h4
  simp [servePacket, ho, h1, h2, h3, h5]

/-- What is served is acknowledged and waits no longer (11 R220). -/
theorem applyPacket_done {s u : State} {k : Packet} {serve : State → Served} {st : Nat} (h : serve s = .done st u) :
    applyPacket s k stOk serve = acknowledge (unqueue u k) k st := by
  simp [applyPacket, h]

/-- A request that was not admitted is acknowledged with its status (11 R219). -/
theorem applyPacket_refused {s : State} {k : Packet} {serve : State → Served} {st : Nat} (h : st ≠ stOk) :
    applyPacket s k st serve = acknowledge (unqueue s k) k st := by
  simp [applyPacket, h]

/-- What the fetch of a card command fixes touches no operation and no port (12 R230, R239). -/
@[simp] theorem takeSnap_ops (s : State) (id : Nat) (o : Op) : (takeSnap s id o).ops = s.ops := by unfold takeSnap; split <;> rfl
@[simp] theorem takeSnap_opSeq (s : State) (id : Nat) (o : Op) : (takeSnap s id o).opSeq = s.opSeq := by unfold takeSnap; split <;> rfl
@[simp] theorem takeSnap_port (s : State) (id : Nat) (o : Op) (p : Nat) : getPort (takeSnap s id o) p = getPort s p := by unfold takeSnap; split <;> rfl

end Sys2Proof.Machine
end

