-- ==== Sys2Proof/WellFormed.lean ====
section
/-! DEFINITION. Which commands are well formed: an operand that is a field of a flit, a packet, a marker, a vote, a slot header or another message fits the
width the spec gives that field, and an operand that is a line or a data block has its size. Descriptors and control-space values need no check here: what is
wrong with them is reported by the commands themselves. -/

namespace Sys2Proof

/-- Stores of the partner to its own memory: 48-bit byte addresses (02 "Addressing"). -/
def storesFormed (l : List (Nat × Byte)) : Bool := l.all (fun e => e.1 < 2 ^ 48)

/-- A flit carries 240 payload bytes between its header word and its CRC word (11 "Flits"). -/
def flitFormed (f : Flit) : Bool := f.payload.length = 240

/-- The fields of the 32-byte packet header fit their widths and a packet carries at most 4,096 data bytes; a read request asks for at most as many
(11 "Packets"). -/
def packetFormed (k : Packet) : Bool :=
  k.dst < 2 ^ 18 && k.src < 2 ^ 18 && k.sslice < 2 ^ 8 && k.op < 2 ^ 8 && k.route < 2 ^ 9 && k.epoch < 2 ^ 8 && k.fseq < 2 ^ 16 && k.ep < 2 ^ 16 &&
  k.key < 2 ^ 32 && k.rop < 2 ^ 8 && k.status < 2 ^ 8 && k.offset < 2 ^ 64 && k.len ≤ 4096 && (k.op = 2 || k.data.length = k.len)

/-- The fields of a beat marker and its TXSTAMP fit their widths (09 R167, 11 R207). -/
def markerFormed (m : Marker) : Bool :=
  m.beat < 2 ^ 64 && m.anchor < 2 ^ 18 && m.sender < 2 ^ 18 && m.hops < 2 ^ 8 && m.txSub < 2 ^ 11 && m.txPhase < 2 ^ 6

/-- The fields of a vote record fit their widths (10 "Votes and holds"). -/
def voteFormed (v : Vote) : Bool :=
  v.step < 2 ^ 64 && v.decide < 2 ^ 64 && v.member < 2 ^ 16 && v.cause ≤ 5 && v.status < 2 ^ 8 && v.shape ≤ 3 && v.sslot < 2 ^ 8 && v.noticeAt < 2 ^ 64

/-- The fields of a slot header fit their widths (11 "Scheduled transfers on the wire"). -/
def headerFormed (h : SlotHeader) : Bool :=
  h.step < 2 ^ 64 && h.ord < 2 ^ 16 && (h.kind = 1 || h.kind = 4) && h.rgroup < 2 ^ 8 && h.bytes < 2 ^ 32

/-- An M line written back is 64 bytes (02 R21). -/
def answerFormed : RecallAnswer → Bool
  | .writeBack data => data.length = 64
  | .keepS => true
  | .drop => true

/-- What STR_PEER and STR_DELAY can hold of the far end (11). -/
def farFormed (f : FarEnd) : Bool := f.node < 2 ^ 18 && f.logical < 2 ^ 7 && f.bond < 2 ^ 8 && f.delay < 2 ^ 16

/-- What PLY_REFORM found fits the widths it is reported in (10 R197). -/
def exchangeFormed : PlyExchange → Bool
  | .formed d hops beat => d < 2 ^ 8 && hops < 2 ^ 8 && beat < 2 ^ 64
  | .digestDiffers => true
  | .unreachable => true
  | .tooFar => true

/-- The counts of a self-test result record fit their fields (14 R303). -/
def findingsFormed (f : TestFindings) : Bool :=
  f.pages < 2 ^ 64 && f.refresh < 2 ^ 32 && f.uncorr < 2 ^ 32 && f.first < 2 ^ 32

/-- A core addresses the 64 MiB array and stores words of 32 bytes (16 R334). -/
def pathFormed : DistaffPath → Bool
  | .dst _ _ => true
  | .core _ addr data _ => addr < 2 ^ 26 && data.length ≤ 32

/-- A field of a step-program word. -/
def bitsAre (w : IWord) (lo n v : Nat) : Bool := w.toNat / 2 ^ lo % 2 ^ n = v

/-- The OPCODE byte of a step-program word (06 "Encodings"). -/
def wordIs (w : IWord) (opcode : Nat) : Bool := bitsAre w 0 8 opcode

/-- A command is one its sender can send. The word of a step-program row is a word of that row. -/
def wellFormed (i : Instr) : Bool :=
  match i with
  | .registerWrite _ off _ _ => decide (off < 2 ^ 48)
  | .loRegisterRead _ off _ => decide (off < 2 ^ 48)
  | .glbLockWrite _ _ => true
  | .adminRingsEnable _ _ _ => true
  | .adminRingsDisable _ _ _ => true
  | .portReady _ => true
  | .doorbellInvalidate _ line stores => decide (line % 64 = 0) && decide (line < 2 ^ 48) && storesFormed stores
  | .doorbellPoll _ stores => storesFormed stores
  | .descriptorFetch _ _ => true
  | .heldEntryPost _ => true
  | .interruptCoalesceTimeout _ _ => true
  | .coherentRead _ addr => decide (addr % 64 = 0) && decide (addr < 2 ^ 48)
  | .readForOwnership _ addr => decide (addr % 64 = 0) && decide (addr < 2 ^ 48)
  | .nonAllocatingWrite _ addr data => decide (addr + data.length ≤ 2 ^ 48) && decide (0 < data.length) && decide (addr % 64 + data.length ≤ 64)
  | .recallTimeout _ => true
  | .ahlLinkLost _ => true
  | .ahlLinkRestored _ => true
  | .holdBeatsExpiry _ => true
  | .partnerLinkReset _ => true
  | .teardownComplete _ => true
  | .ahlLaneFailure _ _ => true
  | .cqCreate _ => true
  | .sqCreate _ => true
  | .ringDelete _ => true
  | .ringDeleteComplete _ => true
  | .windowMap _ => true
  | .windowUnmap _ => true
  | .matmul _ w => wordIs w 0x01
  | .conv _ w => wordIs w 0x02
  | .bandRecv _ w => wordIs w 0x08
  | .broadcastStart _ => true
  | .load _ w => wordIs w 0x09
  | .store _ w => wordIs w 0x0A
  | .drain _ w => wordIs w 0x10
  | .requant _ w => wordIs w 0x11
  | .vld _ w => wordIs w 0x18 && bitsAre w 8 8 0x00
  | .vst _ w => wordIs w 0x18 && bitsAre w 8 8 0x01
  | .add _ w => wordIs w 0x18 && bitsAre w 8 8 0x08
  | .sub _ w => wordIs w 0x18 && bitsAre w 8 8 0x09
  | .mul _ w => wordIs w 0x18 && bitsAre w 8 8 0x0a
  | .fma _ w => wordIs w 0x18 && bitsAre w 8 8 0x0b
  | .max _ w => wordIs w 0x18 && bitsAre w 8 8 0x0c
  | .min _ w => wordIs w 0x18 && bitsAre w 8 8 0x0d
  | .abs _ w => wordIs w 0x18 && bitsAre w 8 8 0x0e
  | .neg _ w => wordIs w 0x18 && bitsAre w 8 8 0x0f
  | .relu _ w => wordIs w 0x18 && bitsAre w 8 8 0x10
  | .clamp _ w => wordIs w 0x18 && bitsAre w 8 8 0x11
  | .select _ w => wordIs w 0x18 && bitsAre w 8 8 0x12
  | .cvt _ w => wordIs w 0x18 && bitsAre w 8 8 0x18
  | .qcvt _ w => wordIs w 0x18 && bitsAre w 8 8 0x19
  | .deq _ w => wordIs w 0x18 && bitsAre w 8 8 0x1a
  | .recip _ w => wordIs w 0x18 && bitsAre w 8 8 0x20
  | .sqrt _ w => wordIs w 0x18 && bitsAre w 8 8 0x21
  | .rsqrt _ w => wordIs w 0x18 && bitsAre w 8 8 0x22
  | .exp2 _ w => wordIs w 0x18 && bitsAre w 8 8 0x23
  | .log2 _ w => wordIs w 0x18 && bitsAre w 8 8 0x24
  | .exp _ w => wordIs w 0x18 && bitsAre w 8 8 0x28
  | .sigmoid _ w => wordIs w 0x18 && bitsAre w 8 8 0x29
  | .tanh _ w => wordIs w 0x18 && bitsAre w 8 8 0x2a
  | .silu _ w => wordIs w 0x18 && bitsAre w 8 8 0x2b
  | .gelu _ w => wordIs w 0x18 && bitsAre w 8 8 0x2c
  | .redsum _ w => wordIs w 0x18 && bitsAre w 8 8 0x30
  | .redmax _ w => wordIs w 0x18 && bitsAre w 8 8 0x31
  | .softmax _ w => wordIs w 0x19 && bitsAre w 8 6 0x00
  | .rmsnorm _ w => wordIs w 0x19 && bitsAre w 8 6 0x01
  | .layernorm _ w => wordIs w 0x19 && bitsAre w 8 6 0x02
  | .frowRedsum _ w => wordIs w 0x19 && bitsAre w 8 6 0x03
  | .frowRedmax _ w => wordIs w 0x19 && bitsAre w 8 6 0x04
  | .l2sq _ w => wordIs w 0x19 && bitsAre w 8 6 0x08
  | .ip _ w => wordIs w 0x19 && bitsAre w 8 6 0x09
  | .cos _ w => wordIs w 0x19 && bitsAre w 8 6 0x0a
  | .signal _ w => wordIs w 0x20
  | .signalEffect _ => true
  | .wait _ w => wordIs w 0x21
  | .rankResume _ _ => true
  | .workLocal _ w => wordIs w 0x22 && bitsAre w 8 2 0
  | .workCounter _ w => wordIs w 0x22 && bitsAre w 8 2 1
  | .workInit _ w => wordIs w 0x22 && bitsAre w 8 2 2
  | .shape _ w => wordIs w 0x23
  | .fence _ w => wordIs w 0x24
  | .stepEnd _ => true
  | .jobSubmit _ => true
  | .jobIssue _ => true
  | .jobDispatch _ => true
  | .jobStepTimeLimit _ => true
  | .jobAbort _ => true
  | .poolMap _ => true
  | .skeinLoad _ => true
  | .skeinRelease _ => true
  | .skeinPin _ => true
  | .skeinUnpin _ => true
  | .hankPark _ => true
  | .hankRestore _ => true
  | .demandRestore _ _ => true
  | .prefetchDirectiveIssue _ _ => true
  | .lateLimitExpiry _ => true
  | .beat => true
  | .referenceQualified _ => true
  | .referenceLost _ => true
  | .pllLock => true
  | .epochPulse _ _ => true
  | .epochMissing _ => true
  | .refSelWrite _ _ => true
  | .beatMarker _ m _ => markerFormed m
  | .skewLost => true
  | .draftLoad _ => true
  | .draftRelease _ => true
  | .draftStart _ => true
  | .stepStart _ => true
  | .voteSend _ => true
  | .voteRecord _ _ v => voteFormed v
  | .voteDecide _ => true
  | .slotOpen _ _ => true
  | .scheduledTransfer _ _ hdr data => headerFormed hdr && decide (data.length = hdr.bytes)
  | .markerTimeout _ _ => true
  | .freezeStopTimeout _ => true
  | .plyReformForm _ found => exchangeFormed found
  | .plyReformResume _ found => exchangeFormed found
  | .plyReformDissolve _ => true
  | .laneTrainingComplete _ far => farFormed far
  | .dataFlit _ f => flitFormed f
  | .markerFlit _ f => flitFormed f
  | .voteFlit _ f => flitFormed f
  | .nakFlit _ f => flitFormed f
  | .ackFlit _ f => flitFormed f
  | .trainFlit _ f => flitFormed f
  | .idleFlit _ f => flitFormed f
  | .ackTimer _ => true
  | .ackseqTimeout _ => true
  | .retrainComplete r => farFormed r.far
  | .retrainFail _ => true
  | .packetRoute _ _ _ k => packetFormed k
  | .writePacket _ k => packetFormed k
  | .readRequestPacket _ k => packetFormed k
  | .readResponsePacket _ k => packetFormed k
  | .messagePacket _ k => packetFormed k
  | .reducePacket _ k => packetFormed k
  | .acknowledgementPacket _ k => packetFormed k
  | .managementPacket _ k => packetFormed k
  | .fabricSet _ => true
  | .strOpen _ => true
  | .strClose _ => true
  | .strWrite _ => true
  | .strRead _ => true
  | .strMsg _ => true
  | .strReduce _ => true
  | .strGather _ => true
  | .transactionTimeout _ => true
  | .laneDisable _ _ _ => true
  | .laneEnable _ _ _ => true
  | .filterScan _ => true
  | .cardCreate _ => true
  | .cardDrop _ => true
  | .cardInsert _ => true
  | .cardDelete _ => true
  | .cardPublish _ => true
  | .cardQuery _ => true
  | .cardPass _ => true
  | .rerankUnit _ => true
  | .shardRequest _ k => packetFormed k
  | .shardReply _ k => packetFormed k
  | .queryDeadline _ => true
  | .programRefused _ _ _ => true
  | .nandProgramFailure _ _ _ => true
  | .nandEraseFailure _ _ => true
  | .gcMove _ _ => true
  | .landingFold _ _ => true
  | .gcRegimeChange _ => true
  | .readSuspend _ _ => true
  | .journalPageProgram => true
  | .journalTimer => true
  | .mapCheckpoint => true
  | .lifeProjection => true
  | .flashReport _ => true
  | .migrateDone _ => true
  | .read _ => true
  | .write _ => true
  | .trim _ => true
  | .flush _ => true
  | .storageFence _ => true
  | .storeCreate _ => true
  | .storeDelete _ => true
  | .selfTestShort _ => true
  | .selfTestExtended _ => true
  | .selfTestAbort _ => true
  | .selfTestDone found => findingsFormed found
  | .holdupOkFall => true
  | .holdupOkRise => true
  | .sliceCreate _ => true
  | .storeShareGrant _ => true
  | .storeShareRevoke _ => true
  | .sliceDelete _ => true
  | .schedSet _ => true
  | .sliceBoundary => true
  | .sliceSwitch _ => true
  | .meterRecordCut => true
  | .meterSet _ => true
  | .meterRecordWrite => true
  | .dstUnlock _ _ => true
  | .distaffRead _ _ => true
  | .distaffProgram path => pathFormed path
  | .distaffErase path => pathFormed path
  | .distaffSuspend path => pathFormed path
  | .distaffResume path => pathFormed path
  | .erasePulse _ => true
  | .distaffOpEnd => true
  | .dstStatWrite _ _ => true
  | .watchdogExpiry => true
  | .logCopy => true
  | .levelSetDevice _ => true
  | .levelSetStore _ => true
  | .sanitise _ => true
  | .sanitiseErase => true
  | .keyImport _ => true
  | .fwStage _ => true
  | .fwCommit _ => true
  | .attest _ => true
  | .computeFault c => decide (c.row < 8192) && decide (c.column < 128)
  | .resumeCompute _ testFails => decide (testFails.Nodup)
  | .controlCoreFault _ _ => true
  | .correctedError _ _ _ _ => true
  | .repairSpindleSpare _ => true
  | .repairSpindleReinstate _ => true
  | .repairSpindleWithdraw _ => true
  | .repairCore _ => true
  | .repairStrandLane _ => true
  | .repairAhlLane _ => true
  | .repairPseudoChannel _ => true
  | .repairDramRow _ => true
  | .repairNandDie _ => true
  | .repairRegPhase _ => true
  | .repairCopyDone _ bad => decide (bad.Nodup)
  | .regPhaseFailure _ _ => true
  | .setPowerEnter _ => true
  | .setPowerLimit _ => true
  | .pwrLimitWrite _ _ => true
  | .idleTimerExpiry _ => true
  | .psExitDone _ => true
  | .powerLoss => true
  | .coldResetAssert => true
  | .coldBoot env => decide (env.ports.Nodup)
  | .warmReset _ => true
  | .thermalThrottle _ => true
  | .thermNAlert _ => true
  | .entdaa _ => true
  | .setdasa _ _ => true
  | .rstdaa => true
  | .getpid => true
  | .getbcr => true
  | .getdcr => true
  | .getstatus => true
  | .enec => true
  | .disec => true
  | .sidebandReadRequest bytes => decide (bytes.length ≤ 256)
  | .sidebandReadData => true
  | .sidebandWrite bytes => decide (bytes.length ≤ 256)
  | .bypass => true
  | .idcode => true
  | .samplePreload _ => true
  | .extest _ => true
  | .extestPulse _ => true
  | .extestTrain _ => true
  | .highz => true
  | .jtagClamp => true
  | .vendorDebugInstruction _ => true
  | .recallResponse _ addr answer => decide (addr % 64 = 0) && decide (addr < 2 ^ 48) && answerFormed answer
  | .powerStateEntered => true
  | .dieStopsAnswering _ _ => true

end Sys2Proof
end

