-- ==== Sys2Proof/Tests/Slice0.lean ====
section
/-! SUPPORT. Own tests: ill-formed commands, small steps, and for every clause of a statement that has hypotheses a state and operands that meet them. -/

namespace Sys2Proof.Machine

set_option maxRecDepth 8000

/- One thread: each evaluation by the kernel waits for the declarations before it, and many waiting threads would ask for more memory than there is. -/
set_option Elab.async false

/-! ### Small states and operands -/

/-- `n` bytes with some fields set: offset, size, value. -/
def bytesOf (n : Nat) (l : List (Nat × Nat × Nat)) : List Byte :=
  l.foldl (fun b e => b.take e.1 ++ leBytes e.2.1 e.2.2 ++ b.drop (e.1 + e.2.1)) (List.replicate n 0#8)

/-- The 64 bytes of a descriptor. -/
def desc (l : List (Nat × Nat × Nat)) : List Byte := bytesOf 64 l

/-- An operation of ring 0 of port 0, just fetched. -/
def opOf (opcode slice : Nat) (l : List (Nat × Nat × Nat)) : Op :=
  { port := 0, sq := 0, cq := 0, seq := 0, opcode := opcode, flags := 0, slice := slice, tag := 7, bytes := desc l, phase := .fetched, fetchedAt := 0,
    lowHoldup := false, silent := false, left := none, sofar := 0 }

/-- A submission ring of 16 slots. -/
def ring : SubRing := newSubRing 0x1000 16 0x4000 0 0xFF 0 0

/-- A completion ring of 16 slots. -/
def compRing : CompRing := newCompRing 0x2000 16 0x4000 1 (some 9) 1 0

/-- The device up, no port running. -/
def booted : State := { State.reset with glb := { State.reset.glb with stage := 9 } }

/-- The device up, port 0 running its admin rings. -/
def running : State :=
  modPort booted 0 (fun x =>
    { x with regs := { x.regs with en := true, rdy := true, run := true }, link := { x.link with up := true }, sqs := [(0, ring)], cqs := [(0, compRing)] })

/-- The device up with an operation in flight. -/
def withOp (o : Op) : State := { running with ops := [(0, o)] }

/-- A slice. -/
def slice0 : Slice :=
  { conf := { shared := false, sems := 4096, counters := 64, spindles := 48, commons := 16, floor := 0, ceiling := 1024, park := 0, fast := 0, bulk := 0,
              strand := 0, jobs := 8, operands := [] },
    sems := [], ctrValue := [], ctrLimit := [], commons := [], pages := [], pool := [], skeinPages := [], pins := [],
    meter := { seq := 0, begin_ := 0, short := false, holdover := false, restart := false, spindle := 0, switch_ := 0, band := 0, flashRead := 0,
               flashWrite := 0, flashMove := 0, strandTx := 0, strandRx := 0, cardCmp := 0, pageBeats := 0, overrun := 0, deducted := 0, jobsDone := 0,
               holds := 0 },
    timeSlice := none, owed := 0, overAt := none }


/-- A job of slice 63 that runs `prog` on one rank. -/
def jobOf (prog : List IWord) : Job :=
  { slice := 63, port := 0, sq := 0, tag := 7, place := some 0, ranks := 1, prio := 0, late := 0, nsteps := 1, jaddr := 0, shapesAddr := 0, prog := prog, dirs := [],
    dirStates := [], skeins := [], shapes := [], issuedAt := 0, step := 0, phase := .running 0, spindles := [0], rankStates := [.running], saved := [],
    switchSaved := [], holds := [], records := [], owned := [], touched := [], waitSince := 0, abortAtEnd := none, failing := none, draft := none }

/-- The device up, a job's rank on logical spindle 0 with this context. -/
def seated (prog : List IWord) (c : Ctx) : State :=
  { running with slices := [(63, slice0)], jobs := [(0, jobOf prog)], spindles := [(0, { Spindle.zero with rank := some (0, 0), ctx := c })] }

/-- The seat of that rank. -/
def seat0 : Seat := { phys := 0, job := 0, rank := 0, slice := 63, place := 0 }

/-- An instruction with some fields set: first bit, value. -/
def iword (l : List (Nat × Nat)) : IWord := l.foldl (fun w f => w ||| BitVec.ofNat 128 (f.2 * 2 ^ f.1)) 0

/-- The premises of `Issues` but that about the settled state. -/
def issuesIn (s : State) (w : IWord) (j : Job) : Bool :=
  seatOf s 0 = some seat0 && (seatOf (settle s seat0) 0).isSome && lookup (settle s seat0).jobs 0 = some j && j.failing.isNone &&
    (progOf (settle s seat0) j 0)[(getCtx (settle s seat0) 0).pos]? = some w

theorem issuesIn_issues {s : State} {w : IWord} {j : Job} (h : issuesIn s w j = true) : Issues s 0 w seat0 j (settle s seat0) := by
  simp only [issuesIn, Bool.and_eq_true, decide_eq_true_eq] at h
  exact ⟨h.1.1.1.1, rfl, h.1.1.1.2, h.1.1.2, by simpa using h.1.2, h.2⟩

/-- A run of draft 0. -/
def drafted : DraftRun :=
  { handle := 0, late := 0, ply := 0, sblock := 0, total := 0, start := 0, first := false, decision := 0, decStatus := 0, decSlot := 0, decResult := 0, ran := 0, hLateW := 0, hLateI := 0,
    hThermal := 0, hSlice := 0, hRepair := 0, reforms := 0, holdsNow := 0, lateNow := 0, firstCause := 0, firstMember := 0, frozen := none, stopped := false,
    lastEnded := none, lastStep := none, slots := [], reds := [], voted := false, go := false }

/-- A draft of slice 63 with one step, whose rank 0 runs `prog`. -/
def oneDraft (prog : List IWord) (slots : List SlotEnt) (reds : List RedEnt) : Draft :=
  { slice := 63, store := 0, sector := 0, sectors := 1, member := 0, members := 1, nsteps := 1, ranks := 1, canon := true, loop := false, maxps := 0, iterSlot := 0,
    period := 4000, vmax := 1, digest := [], skeinDigests := [], mship := [], steps := [{ start := 0, length := 100, progs := [0], dirs := [], slots := slots, reds := reds }],
    progs := [(0, prog)], pages := 1, releasing := false }

/-- The device up with an operation in flight and slice 63. -/
def withSlice (o : Op) : State := { withOp o with slices := [(63, slice0)] }

/-- That, with some bytes in the partner's memory. -/
def withMem (o : Op) (bytes : List (Nat × Nat × Nat)) : State :=
  bytes.foldl (fun s e => modPort s 0 (fun x => { x with mem := writeBytes x.mem e.1 (leBytes e.2.1 e.2.2) })) (withSlice o)

/-- Slice 63 with a job, given the draft 0 of these slots and chains. -/
def withJob (j : Job) (slots : List SlotEnt) (reds : List RedEnt) : State :=
  { running with slices := [(63, slice0)], jobs := [(0, j)], drafts := [(0, oneDraft [] slots reds)] }

/-- A job's run of that draft. -/
def drafting (slots : List SlotState) (reds : List RedState) : Job :=
  { jobOf [] with draft := some { drafted with slots := slots, reds := reds } }

/-- A ply. -/
def ply0 : Ply := { id := 5, nodes := [0], anchor := 0, self := 0, v := 1, d := 0, hops := 0, digest := [], timing := none, links := [], quiet := [], notice := none, votes := [], silent := false, ended := none }

/-! ### Ill-formed commands -/

/-- A packet without data. -/
def plainPacket : Packet :=
  { dst := 0, src := 0, sslice := 0, op := 1, route := 0, epoch := 0, sync := false, last := false, fseq := 0, ep := 0, key := 0, rop := 0, status := 0, offset := 0, len := 0,
    data := [] }

/-- A packet for a node there is none of. -/
def widePacket : Packet := { plainPacket with dst := 2 ^ 18 }

def plainMarker : Marker := { beat := 0, anchor := 0, sender := 0, hops := 0, txSub := 0, txPhase := 0 }
def plainVote : Vote := { step := 0, decide := 0, member := 0, cause := 0, isEnd := false, notice := false, status := 0, shape := 0, sslot := 0, noticeAt := 0 }
def plainHeader : SlotHeader := { step := 0, ord := 0, kind := 1, rgroup := 0, bytes := 0 }
def plainFar : FarEnd := { node := 0, logical := 0, fecLL := false, bond := 0, delay := 0 }

/-- The terms those tests change are well formed themselves. -/
theorem test_accepts :
    wellFormed (.writePacket 0 plainPacket) = true ∧ wellFormed (.beatMarker 0 plainMarker 0) = true ∧ wellFormed (.voteRecord 0 0 plainVote) = true ∧
      wellFormed (.scheduledTransfer 0 0 plainHeader []) = true ∧ wellFormed (.laneTrainingComplete 0 plainFar) = true ∧ wellFormed (.matmul 0 1) = true := by
  decide

/-- Step-program rows refuse a word of another OPCODE (06 "Encodings"). -/
theorem test_refuses_other_opcodes :
    wellFormed (.matmul 0 0x7F) = false ∧ wellFormed (.conv 0 0x7F) = false ∧ wellFormed (.bandRecv 0 0x7F) = false ∧
      wellFormed (.load 0 0x7F) = false ∧ wellFormed (.store 0 0x7F) = false ∧ wellFormed (.drain 0 0x7F) = false ∧
      wellFormed (.requant 0 0x7F) = false ∧ wellFormed (.vld 0 0x7F) = false ∧ wellFormed (.vst 0 0x7F) = false ∧
      wellFormed (.add 0 0x7F) = false ∧ wellFormed (.sub 0 0x7F) = false ∧ wellFormed (.mul 0 0x7F) = false ∧
      wellFormed (.fma 0 0x7F) = false ∧ wellFormed (.max 0 0x7F) = false ∧ wellFormed (.min 0 0x7F) = false ∧
      wellFormed (.abs 0 0x7F) = false ∧ wellFormed (.neg 0 0x7F) = false ∧ wellFormed (.relu 0 0x7F) = false ∧
      wellFormed (.clamp 0 0x7F) = false ∧ wellFormed (.select 0 0x7F) = false ∧ wellFormed (.cvt 0 0x7F) = false ∧
      wellFormed (.qcvt 0 0x7F) = false ∧ wellFormed (.deq 0 0x7F) = false ∧ wellFormed (.recip 0 0x7F) = false ∧
      wellFormed (.sqrt 0 0x7F) = false ∧ wellFormed (.rsqrt 0 0x7F) = false ∧ wellFormed (.exp2 0 0x7F) = false ∧
      wellFormed (.log2 0 0x7F) = false ∧ wellFormed (.exp 0 0x7F) = false ∧ wellFormed (.sigmoid 0 0x7F) = false ∧
      wellFormed (.tanh 0 0x7F) = false ∧ wellFormed (.silu 0 0x7F) = false ∧ wellFormed (.gelu 0 0x7F) = false ∧
      wellFormed (.redsum 0 0x7F) = false ∧ wellFormed (.redmax 0 0x7F) = false ∧ wellFormed (.softmax 0 0x7F) = false ∧
      wellFormed (.rmsnorm 0 0x7F) = false ∧ wellFormed (.layernorm 0 0x7F) = false ∧ wellFormed (.frowRedsum 0 0x7F) = false ∧
      wellFormed (.frowRedmax 0 0x7F) = false ∧ wellFormed (.l2sq 0 0x7F) = false ∧ wellFormed (.ip 0 0x7F) = false ∧
      wellFormed (.cos 0 0x7F) = false ∧ wellFormed (.signal 0 0x7F) = false ∧ wellFormed (.wait 0 0x7F) = false ∧
      wellFormed (.workLocal 0 0x7F) = false ∧ wellFormed (.workCounter 0 0x7F) = false ∧ wellFormed (.workInit 0 0x7F) = false ∧
      wellFormed (.shape 0 0x7F) = false ∧ wellFormed (.fence 0 0x7F) = false := by
  decide

/-- Rows that share an OPCODE refuse a word with another selector (06 "Encodings"). -/
theorem test_refuses_other_selectors :
    wellFormed (.vld 0 0x118) = false ∧ wellFormed (.vst 0 0x218) = false ∧ wellFormed (.add 0 0x918) = false ∧ wellFormed (.sub 0 0xA18) = false ∧
      wellFormed (.mul 0 0xB18) = false ∧ wellFormed (.fma 0 0xC18) = false ∧ wellFormed (.max 0 0xD18) = false ∧
      wellFormed (.min 0 0xE18) = false ∧ wellFormed (.abs 0 0xF18) = false ∧ wellFormed (.neg 0 0x1018) = false ∧
      wellFormed (.relu 0 0x1118) = false ∧ wellFormed (.clamp 0 0x1218) = false ∧ wellFormed (.select 0 0x1318) = false ∧
      wellFormed (.cvt 0 0x1918) = false ∧ wellFormed (.qcvt 0 0x1A18) = false ∧ wellFormed (.deq 0 0x1B18) = false ∧
      wellFormed (.recip 0 0x2118) = false ∧ wellFormed (.sqrt 0 0x2218) = false ∧ wellFormed (.rsqrt 0 0x2318) = false ∧
      wellFormed (.exp2 0 0x2418) = false ∧ wellFormed (.log2 0 0x2518) = false ∧ wellFormed (.exp 0 0x2918) = false ∧
      wellFormed (.sigmoid 0 0x2A18) = false ∧ wellFormed (.tanh 0 0x2B18) = false ∧ wellFormed (.silu 0 0x2C18) = false ∧
      wellFormed (.gelu 0 0x2D18) = false ∧ wellFormed (.redsum 0 0x3118) = false ∧ wellFormed (.redmax 0 0x3218) = false ∧
      wellFormed (.softmax 0 0x119) = false ∧ wellFormed (.rmsnorm 0 0x219) = false ∧ wellFormed (.layernorm 0 0x319) = false ∧
      wellFormed (.frowRedsum 0 0x419) = false ∧ wellFormed (.frowRedmax 0 0x519) = false ∧ wellFormed (.l2sq 0 0x919) = false ∧
      wellFormed (.ip 0 0xA19) = false ∧ wellFormed (.cos 0 0xB19) = false ∧ wellFormed (.workLocal 0 0x122) = false ∧
      wellFormed (.workCounter 0 0x222) = false ∧ wellFormed (.workInit 0 0x322) = false := by
  decide

/-- A field too wide for the packet header, too many data bytes, a LEN that is not theirs (11 "Packets"). -/
theorem test_refuses_packets :
    wellFormed (.writePacket 0 { plainPacket with dst := 2 ^ 18 }) = false ∧
      wellFormed (.writePacket 0 { plainPacket with src := 2 ^ 18 }) = false ∧
      wellFormed (.writePacket 0 { plainPacket with sslice := 256 }) = false ∧
      wellFormed (.writePacket 0 { plainPacket with op := 256 }) = false ∧
      wellFormed (.writePacket 0 { plainPacket with route := 512 }) = false ∧
      wellFormed (.writePacket 0 { plainPacket with epoch := 256 }) = false ∧
      wellFormed (.writePacket 0 { plainPacket with fseq := 2 ^ 16 }) = false ∧
      wellFormed (.writePacket 0 { plainPacket with ep := 2 ^ 16 }) = false ∧
      wellFormed (.writePacket 0 { plainPacket with key := 2 ^ 32 }) = false ∧
      wellFormed (.writePacket 0 { plainPacket with rop := 256 }) = false ∧
      wellFormed (.writePacket 0 { plainPacket with status := 256 }) = false ∧
      wellFormed (.writePacket 0 { plainPacket with offset := 2 ^ 64 }) = false ∧
      wellFormed (.writePacket 0 { plainPacket with len := 4097 }) = false ∧ wellFormed (.writePacket 0 { plainPacket with len := 1 }) = false := by
  decide

/-- Every row that brings a packet checks it. -/
theorem test_refuses_packet_rows :
    wellFormed (.packetRoute 0 false none widePacket) = false ∧ wellFormed (.readRequestPacket 0 widePacket) = false ∧
      wellFormed (.readResponsePacket 0 widePacket) = false ∧ wellFormed (.messagePacket 0 widePacket) = false ∧
      wellFormed (.reducePacket 0 widePacket) = false ∧ wellFormed (.acknowledgementPacket 0 widePacket) = false ∧
      wellFormed (.managementPacket 0 widePacket) = false ∧ wellFormed (.shardRequest 0 widePacket) = false ∧
      wellFormed (.shardReply 0 widePacket) = false := by
  decide

/-- A flit without its 240 payload bytes (11 "Flits"). -/
theorem test_refuses_flits :
    wellFormed (.dataFlit 0 { hdr := 0, payload := [], crc := 0 }) = false ∧
      wellFormed (.markerFlit 0 { hdr := 0, payload := [], crc := 0 }) = false ∧
      wellFormed (.voteFlit 0 { hdr := 0, payload := [], crc := 0 }) = false ∧
      wellFormed (.nakFlit 0 { hdr := 0, payload := [], crc := 0 }) = false ∧
      wellFormed (.ackFlit 0 { hdr := 0, payload := [], crc := 0 }) = false ∧
      wellFormed (.trainFlit 0 { hdr := 0, payload := [], crc := 0 }) = false ∧
      wellFormed (.idleFlit 0 { hdr := 0, payload := [], crc := 0 }) = false := by
  decide

/-- Marker fields too wide (09 R167). -/
theorem test_refuses_markers :
    wellFormed (.beatMarker 0 { plainMarker with beat := 2 ^ 64 } 0) = false ∧
      wellFormed (.beatMarker 0 { plainMarker with anchor := 2 ^ 18 } 0) = false ∧
      wellFormed (.beatMarker 0 { plainMarker with sender := 2 ^ 18 } 0) = false ∧
      wellFormed (.beatMarker 0 { plainMarker with hops := 256 } 0) = false ∧
      wellFormed (.beatMarker 0 { plainMarker with txSub := 2048 } 0) = false ∧
      wellFormed (.beatMarker 0 { plainMarker with txPhase := 64 } 0) = false := by
  decide

/-- Vote fields too wide, and a CAUSE or SHAPE there is none of (10). -/
theorem test_refuses_votes :
    wellFormed (.voteRecord 0 0 { plainVote with step := 2 ^ 64 }) = false ∧
      wellFormed (.voteRecord 0 0 { plainVote with decide := 2 ^ 64 }) = false ∧
      wellFormed (.voteRecord 0 0 { plainVote with member := 2 ^ 16 }) = false ∧
      wellFormed (.voteRecord 0 0 { plainVote with cause := 6 }) = false ∧
      wellFormed (.voteRecord 0 0 { plainVote with status := 256 }) = false ∧
      wellFormed (.voteRecord 0 0 { plainVote with shape := 4 }) = false ∧
      wellFormed (.voteRecord 0 0 { plainVote with sslot := 256 }) = false ∧
      wellFormed (.voteRecord 0 0 { plainVote with noticeAt := 2 ^ 64 }) = false := by
  decide

/-- Slot headers out of shape, and data of another length (11). -/
theorem test_refuses_transfers :
    wellFormed (.scheduledTransfer 0 0 { plainHeader with step := 2 ^ 64 } []) = false ∧
      wellFormed (.scheduledTransfer 0 0 { plainHeader with ord := 2 ^ 16 } []) = false ∧
      wellFormed (.scheduledTransfer 0 0 { plainHeader with kind := 2 } []) = false ∧
      wellFormed (.scheduledTransfer 0 0 { plainHeader with rgroup := 256 } []) = false ∧
      wellFormed (.scheduledTransfer 0 0 { plainHeader with bytes := 2 ^ 32 } []) = false ∧
      wellFormed (.scheduledTransfer 0 0 { plainHeader with bytes := 1 } []) = false := by
  decide

/-- Lines and addresses that are none (02). -/
theorem test_refuses_lines :
    wellFormed (.registerWrite .sideband (2 ^ 48) 4 0) = false ∧ wellFormed (.loRegisterRead .sideband (2 ^ 48) 4) = false ∧
      wellFormed (.doorbellInvalidate 0 1 []) = false ∧ wellFormed (.doorbellInvalidate 0 (2 ^ 48) []) = false ∧
      wellFormed (.doorbellInvalidate 0 0 [(2 ^ 48, 0)]) = false ∧ wellFormed (.doorbellPoll 0 [(2 ^ 48, 0)]) = false ∧
      wellFormed (.coherentRead 0 1) = false ∧ wellFormed (.coherentRead 0 (2 ^ 48)) = false ∧ wellFormed (.readForOwnership 0 1) = false ∧
      wellFormed (.readForOwnership 0 (2 ^ 48)) = false ∧ wellFormed (.nonAllocatingWrite 0 (2 ^ 48) [0]) = false ∧
      wellFormed (.nonAllocatingWrite 0 0 []) = false ∧ wellFormed (.nonAllocatingWrite 0 63 [0, 0]) = false ∧
      wellFormed (.recallResponse 0 1 .drop) = false ∧ wellFormed (.recallResponse 0 (2 ^ 48) .drop) = false ∧
      wellFormed (.recallResponse 0 0 (.writeBack [])) = false := by
  decide

/-- Findings too wide for their reports, lists with repeats, sideband transfers over 256 bytes. -/
theorem test_refuses_findings :
    wellFormed (.laneTrainingComplete 0 { plainFar with node := 2 ^ 18 }) = false ∧
      wellFormed (.laneTrainingComplete 0 { plainFar with logical := 128 }) = false ∧
      wellFormed (.laneTrainingComplete 0 { plainFar with bond := 256 }) = false ∧
      wellFormed (.laneTrainingComplete 0 { plainFar with delay := 2 ^ 16 }) = false ∧ wellFormed (.plyReformForm 0 (.formed 256 0 0)) = false ∧
      wellFormed (.plyReformForm 0 (.formed 0 256 0)) = false ∧ wellFormed (.plyReformForm 0 (.formed 0 0 (2 ^ 64))) = false ∧
      wellFormed (.plyReformResume 0 (.formed 256 0 0)) = false ∧
      wellFormed (.selfTestDone { fails := 0, pages := 2 ^ 64, refresh := 0, uncorr := 0, first := 0 }) = false ∧
      wellFormed (.selfTestDone { fails := 0, pages := 0, refresh := 2 ^ 32, uncorr := 0, first := 0 }) = false ∧
      wellFormed (.selfTestDone { fails := 0, pages := 0, refresh := 0, uncorr := 2 ^ 32, first := 0 }) = false ∧
      wellFormed (.selfTestDone { fails := 0, pages := 0, refresh := 0, uncorr := 0, first := 2 ^ 32 }) = false ∧
      wellFormed (.distaffProgram (.core 0 (2 ^ 26) [] none)) = false ∧ wellFormed (.distaffErase (.core 0 (2 ^ 26) [] none)) = false ∧
      wellFormed (.distaffSuspend (.core 0 (2 ^ 26) [] none)) = false ∧ wellFormed (.distaffResume (.core 0 (2 ^ 26) [] none)) = false ∧
      wellFormed (.distaffProgram (.core 0 0 (List.replicate 33 0) none)) = false ∧
      wellFormed (.computeFault { phys := none, kind := 5, row := 8192, column := 0 }) = false ∧
      wellFormed (.computeFault { phys := none, kind := 5, row := 0, column := 128 }) = false ∧ wellFormed (.resumeCompute 0 [1, 1]) = false ∧
      wellFormed (.repairCopyDone 0 [64, 64]) = false ∧ wellFormed (.coldBoot { ports := [0, 0], slotId := 0 }) = false ∧
      wellFormed (.sidebandReadRequest (List.replicate 257 0)) = false ∧ wellFormed (.sidebandWrite (List.replicate 257 0)) = false := by
  decide

/-! ### Small steps -/

/-- The state a command leads to. -/
def after (c : Instr) (s : State) : State :=
  match exec c s with
  | .next t => t
  | _ => s

/-- A step takes the first of two commands and leaves the second (log entry 1). -/
theorem test_step_takes_first : (match step { running with pending := [.enec, .disec] } with | .next t => (t.pending, t.sideband.ibiEnabled) | _ => ([], false)) =
    ([.disec], true) := by
  decide

/-- No row of the table gives bits. -/
theorem test_no_word : decodeTableWord 0 0 = none ∧ (State.reset.withFetchWord 0 0).pending = [] := by
  decide

/-- A boot from reset reaches stage 9 with its ports' links up (19 R390). -/
theorem test_boot : (after (.coldBoot { ports := [0, 2], slotId := 54 }) State.reset).glb.stage = 9 ∧
    (after (.coldBoot { ports := [0, 2], slotId := 54 }) State.reset).glb.i3cSa = 0x48 ∧
    (getPort (after (.coldBoot { ports := [0, 2], slotId := 54 }) State.reset) 2).link.up = true := by
  decide +kernel

/-- IDCODE of the first stepping, bit 0 first (21 R409). -/
theorem test_idcode : (after .idcode running).jtag.dr = (List.range 32).map (Nat.testBit 0x1C2E4ACB) := by
  decide

/-- The first key of the DST path, then a wrong one: counted, ERR KEY (16 R336). -/
theorem test_wrong_key : (after (.dstUnlock (.port 0) 0x4C9E2A17) (after (.dstUnlock (.port 0) 0x4C9E2A17) running)).dst.keyFails = 1 ∧
    (after (.dstUnlock (.port 0) 0x4C9E2A17) (after (.dstUnlock (.port 0) 0x4C9E2A17) running)).dst.stat.err = 0x70 := by
  decide

/-- A word programmed by a core reads back, and is not programmed again (16 R331). -/
theorem test_program_once :
    let s := after .distaffOpEnd (after (.distaffProgram (.core 0 0x3A00000 (List.replicate 32 0x5A) none)) running)
    (getWord s 0x1D0000).written = true ∧ (getWord s 0x1D0000).data.getLsbD 1 = true ∧
      (after (.distaffProgram (.core 0 0x3A00000 (List.replicate 32 0) none)) s).dst.fstat.err = 0x61 := by
  decide +kernel

/-- 1.5 + 2.5 = 4 and 1 + 2^-24 rounds to 1 in FP32, to even. -/
theorem test_add : vAdd 0x3FC00000 0x40200000 = 0x40800000 ∧ vAdd 0x3F800000 0x33800000 = 0x3F800000 := by
  decide +kernel

/-- 3 × 3 − 9 is exact; a product that overflows is infinite. -/
theorem test_fma : vFma 0x40400000 0x40400000 0xC1100000 = 0 ∧ vMul 0x7F000000 0x7F000000 = 0x7F800000 := by
  decide +kernel

/-- 2^3 and log2 8, 1 / 4, the root of 9. -/
theorem test_functions : vExp2 0x40400000 = 0x41000000 ∧ vLog2 0x41000000 = 0x40400000 ∧ vRecip 0x40800000 = 0x3E800000 ∧ vSqrt 0x41100000 = 0x40400000 := by
  decide +kernel

/-- E4M3 448 and E2M1 6 widen to FP32; 1.0 narrows to BF16. -/
theorem test_formats : w32 (decodeF e4m3 0x7E) = 0x43E00000 ∧ w32 (decodeF e2m1 7) = 0x40C00000 ∧ encodeF bf16 (f32 0x3F800000) = 0x3F80 := by
  decide +kernel

/-- SHAKE256 of the empty message, first bytes (FIPS 202). -/
theorem test_shake : (shake256 []).take 4 = [0x46, 0xB9, 0xDD, 0x2B] := by
  decide +kernel

/-- The keeper of a LO half: RAS_LOG_SEQ reads both halves of one moment (01 R15). -/
theorem test_latch :
    let s := after (.loRegisterRead (.port 0) (rasBase + 8) 4) { running with ras := { running.ras with logSeq := 2 ^ 32 + 7 } }
    let t := after (.loRegisterRead (.port 0) (rasBase + 12) 4) { s with ras := { s.ras with logSeq := 0 } }
    readD 0#32 s.readData (requesterNumber (.port 0)) = 7 ∧ readD 0#32 t.readData (requesterNumber (.port 0)) = 1 := by
  decide +kernel

/-! ### What meets the hypotheses of the statements -/


theorem witness_emptyQueueIdles_idle :
    ∃ (s : State), (s.pending = []) :=
  ⟨State.reset, by decide⟩

theorem witness_queueUntouched_queue :
    ∃ (c : Instr) (s : State) (t : State), (exec c s = .next t) :=
  ⟨.beat, State.reset, _, rfl⟩



theorem witness_stepKeepsSound_step :
    ∃ (s : State) (t : State), (sound s) ∧ (step s = .next t) :=
  ⟨State.reset, State.reset, ⟨⟨by decide, by decide, by simp [State.reset], by decide, by decide, by decide, by decide, by decide, by decide⟩, rfl⟩⟩

theorem witness_fuseAndCounterOneWay_step :
    ∃ (s : State) (t : State), (step s = .next t) :=
  ⟨State.reset, State.reset, rfl⟩


theorem witness_controlSpaceAccess_badWrite :
    ∃ (off : Nat) (width : Nat), (badShape off width = true) :=
  ⟨2, 4, by decide⟩

theorem witness_controlSpaceAccess_badRead :
    ∃ (off : Nat) (width : Nat), (badShape off width = true) :=
  ⟨0, 8, by decide⟩

theorem witness_controlSpaceAccess_noSideband :
    ∃ (off : Nat) (width : Nat) (s : State), (badShape off width = false) ∧ (s.glb.sbWrite = false) :=
  ⟨0x80, 4, { State.reset with glb := { State.reset.glb with sbWrite := false } }, ⟨by decide, by decide⟩⟩

theorem witness_controlSpaceAccess_scratchWrite :
    ∃ (who : Requester) (s : State), (mayWrite s who) :=
  ⟨.sideband, State.reset, by decide⟩

theorem witness_controlSpaceAccess_halves :
    ∃ (s : State), (s.ras.logSeq < 2 ^ 64) :=
  ⟨{ State.reset with ras := { State.reset.ras with logSeq := 2 ^ 64 - 1 } }, by decide⟩

theorem witness_controlSpaceAccess_lock :
    ∃ (who : Requester) (s : State), (mayWrite s who) :=
  ⟨.port 0, State.reset, by decide⟩

theorem witness_adminRings_enable :
    ∃ (who : Requester) (p : Fin 4) (v : Word) (s : State),
      (mayWrite s who) ∧ (v.getLsbD 0 = true) ∧ (s.ras.coreFault = none) ∧ ((getPort s p.val).regs.en = false) ∧ ((getPort s p.val).regs.rdy = true) :=
  ⟨.port 0, 0, 1, { State.reset with ports := [(0, { Port.zero with regs := { Port.zero.regs with rdy := true } })] }, ⟨by decide, by decide, by decide,
      by decide, by decide⟩⟩

theorem witness_adminRings_illegal :
    ∃ (x : Port), (setupIllegal x = true) :=
  ⟨Port.zero, by decide⟩

theorem witness_adminRings_legal :
    ∃ (x : Port), (setupIllegal x = false) :=
  ⟨{ Port.zero with regs := { Port.zero.regs with asq := 0x1000, acq := 0x2000, evt := 0x3000, adb := 0x4000, asize := 0x444 } }, by decide⟩

theorem witness_adminRings_ready :
    ∃ (p : Fin 4) (s : State),
      (s.ras.coreFault = none) ∧ (s.glb.stage = 9) ∧ (s.glb.held = false) ∧ ((getPort s p.val).regs.rdy = false) ∧
      ((getPort s p.val).regs.teardown = false) ∧ ((getPort s p.val).link.up = true) :=
  ⟨3, { booted with ports := [(3, { Port.zero with link := { Port.zero.link with up := true } })] }, ⟨by decide, by decide, by decide, by decide,
      by decide, by decide⟩⟩

theorem witness_adminRings_disable :
    ∃ (who : Requester) (p : Fin 4) (v : Word) (s : State), (mayWrite s who) ∧ (v.getLsbD 0 = false) ∧ ((getPort s p.val).regs.en = true) :=
  ⟨.port 0, 0, 0, running, ⟨by decide, by decide, by decide⟩⟩

theorem witness_adminRings_teardown :
    ∃ (p : Fin 4) (s : State), ((getPort s p.val).regs.teardown = true) ∧ (s.ops.any (fun e => e.2.port = p.val) = false) :=
  ⟨1, { State.reset with ports := [(1, { Port.zero with regs := { Port.zero.regs with teardown := true } })] }, ⟨by decide, by decide⟩⟩

theorem witness_doorbellsAndFetch_invalidate :
    ∃ (p : Fin 4) (line : Nat) (s : State),
      ((getPort s p.val).regs.run = true) ∧ ((getPort s p.val).link.up = true) ∧ ((watched s p.val).contains line = true) :=
  ⟨0, 0x4000, running, ⟨by decide, by decide, by decide⟩⟩

theorem witness_doorbellsAndFetch_otherLine :
    ∃ (p : Fin 4) (line : Nat) (s : State), ((watched s p.val).contains line = false) :=
  ⟨0, 0x5000, running, by decide⟩

theorem witness_doorbellsAndFetch_poll :
    ∃ (p : Fin 4) (s : State),
      ((getPort s p.val).regs.run = true) ∧ ((getPort s p.val).link.up = true) ∧ ((getPort s p.val).regs.poll = true) ∧ (s.pwr.state ≤ 3) :=
  ⟨0, modPort running 0 (fun x => { x with regs := { x.regs with poll := true } }), ⟨by decide, by decide, by decide, by decide⟩⟩

theorem witness_doorbellsAndFetch_tail :
    ∃ (v : Nat) (r : SubRing), (v < r.size) :=
  ⟨15, ring, by decide⟩

theorem witness_doorbellsAndFetch_badTail :
    ∃ (v : Nat) (r : SubRing), (r.size ≤ v) :=
  ⟨16, ring, by decide⟩

theorem witness_doorbellsAndFetch_head :
    ∃ (v : Nat) (r : CompRing), (v < r.size) :=
  ⟨15, compRing, by decide⟩

theorem witness_doorbellsAndFetch_badHead :
    ∃ (v : Nat) (r : CompRing), (r.size ≤ v) :=
  ⟨16, compRing, by decide⟩

theorem witness_doorbellsAndFetch_fetch :
    ∃ (p : Fin 4) (sq : Fin 256) (s : State) (r : SubRing),
      (fetchable s p.val (getPort s p.val) sq.val = true) ∧ (s.pwr.state ≤ 3) ∧ (lookup (getPort (refillCredits s) p.val).sqs sq.val = some r) ∧
      (mayFetch (refillCredits s) p.val sq.val = true) :=
  ⟨0, 0, modPort running 0 (fun x => { x with sqs := [(0, { ring with tail := 1 })] }), { ring with tail := 1, credit := 8 }, ⟨by decide, by decide,
      by decide, by decide⟩⟩

theorem witness_doorbellsAndFetch_fetched :
    ∃ (s : State) (p : Nat) (sq : Nat) (r : SubRing),
      (headerCheck (readBytes (getPort s p).mem (r.base + 64 * r.fetch) 64) sq r.slice = none) ∧ (s.sec.erase = none) ∧
      (field (readBytes (getPort s p).mem (r.base + 64 * r.fetch) 64) 0 1 ≠ 0x08) :=
  ⟨modPort running 0 (fun x => { x with mem := [(0x1000, 0x71), (0x1002, 0xFF)] }), 0, 0, ring, ⟨by decide, by decide, by decide⟩⟩

theorem witness_completionRings_slot :
    ∃ (r : CompRing), (r.slot + 1 < r.size) :=
  ⟨{ compRing with slot := 14 }, by decide⟩

theorem witness_completionRings_wrap :
    ∃ (r : CompRing), (r.size ≤ r.slot + 1) :=
  ⟨{ compRing with slot := 15 }, by decide⟩

theorem witness_completionRings_posted :
    ∃ (s : State) (o : Op) (r : CompRing), (lookup (getPort s o.port).cqs o.cq = some r) :=
  ⟨running, opOf 0x70 0 [], compRing, by decide⟩

theorem witness_completionRings_ends :
    ∃ (s : State) (t : State) (id : Nat) (o : Op) (status : Nat) (detail : Nat) (result : Nat),
      (lookup s.ops id = some o) ∧ (o.silent = false) ∧ ((getPort s o.port).held = []) ∧ ((getPort s o.port).dropped = 0) ∧
      (t = modPort { s with ops := insertKey s.ops id { o with phase := .done status detail result } } o.port (fun x => { x with held := [.comp id] })) ∧
      (mayPost t { o with phase := .done status detail result } status = true) :=
  ⟨withOp (opOf 0x70 0 []), _, 0, opOf 0x70 0 [], 0, 0, 0, by decide, by decide, by decide, by decide, rfl, by decide⟩

theorem witness_completionRings_silent :
    ∃ (s : State) (id : Nat) (o : Op), (lookup s.ops id = some o) ∧ (o.silent = true) :=
  ⟨withOp { opOf 0x70 0 [] with silent := true }, 0, { opOf 0x70 0 [] with silent := true }, ⟨by decide, by decide⟩⟩

theorem witness_completionRings_heldPost :
    ∃ (p : Fin 4) (s : State), ((getPort s p.val).dropped = 0) :=
  ⟨0, running, by decide⟩

theorem witness_completionRings_lost :
    ∃ (p : Fin 4) (s : State) (u : State),
      ((getPort s p.val).regs.run = true) ∧ ((getPort s p.val).link.lostAt = none) ∧ ((getPort s p.val).dropped ≠ 0) ∧
      ((getPort s p.val).evtRing.any ringRoom = true) ∧ (u = spreadEvent (modPort s p.val (fun x => { x with dropped := 0 })) []
      { code := 0x13, slice := 0xFF, detail := sat32 (getPort s p.val).dropped, beat := s.trd.beat }) :=
  ⟨0, modPort running 0 (fun x => { x with regs := { x.regs with run := true }, dropped := 3, evtRing := some compRing }), _, ⟨by decide, by decide,
      by decide, by decide, rfl⟩⟩

theorem witness_completionRings_nothingHeld :
    ∃ (s : State) (p : Nat), ((getPort s p).dropped = 0) ∧ (postOne s p (getPort s p).held = none) :=
  ⟨running, 0, ⟨by decide, by decide⟩⟩

theorem witness_completionRings_coalesce :
    ∃ (p : Fin 4) (cq : Fin 256) (s : State) (r : CompRing) (vec : Nat),
      (lookup (getPort s p.val).cqs cq.val = some r) ∧ ((getPort s p.val).link.lostAt = none) ∧ (r.unsig ≠ 0) ∧ (r.unsigAt + r.coalBeats ≤ s.clock) ∧
      (r.ivec = some vec) :=
  ⟨0, 0, modPort running 0 (fun x => { x with cqs := [(0, { compRing with unsig := 1 })] }), { compRing with unsig := 1 }, 9, ⟨by decide, by decide,
      by decide, by decide, by decide⟩⟩

theorem witness_completionRings_coalesceLost :
    ∃ (p : Fin 4) (s : State), ((getPort s p.val).link.lostAt ≠ none) :=
  ⟨0, modPort running 0 (fun x => { x with link := { x.link with lostAt := some 5 } }), by decide⟩

theorem witness_windowLines_read :
    ∃ (p : Fin 4) (addr : Nat) (s : State) (w : Window) (off : Nat),
      (inWindow (getPort s p.val) addr = some (w, off)) ∧ ((getPort s p.val).link.up = true) ∧ (underRecall (getPort s p.val) (off / 64) = false) ∧
      (s.pwr.state ≤ 2) ∧ (lookup (getPort s p.val).lines (off / 64) ≠ some .exclusive) :=
  ⟨0, 64, modPort booted 0 (fun x => { x with link := { x.link with up := true }, window := some { caddr := 0, pages := 1, slice := 3, first := 0 } }),
      { caddr := 0, pages := 1, slice := 3, first := 0 }, 64, ⟨by decide, by decide, by decide, by decide, by decide⟩⟩

theorem witness_windowLines_own :
    ∃ (p : Fin 4) (addr : Nat) (s : State) (w : Window) (off : Nat),
      (inWindow (getPort s p.val) addr = some (w, off)) ∧ ((getPort s p.val).link.up = true) ∧ (underRecall (getPort s p.val) (off / 64) = false) ∧
      (s.pwr.state ≤ 2) :=
  ⟨0, 64, modPort booted 0 (fun x => { x with link := { x.link with up := true }, window := some { caddr := 0, pages := 1, slice := 3, first := 0 } }),
      { caddr := 0, pages := 1, slice := 3, first := 0 }, 64, ⟨by decide, by decide, by decide, by decide⟩⟩

theorem witness_windowLines_write :
    ∃ (p : Fin 4) (addr : Nat) (data : List Byte) (s : State) (w : Window) (off : Nat),
      (inWindow (getPort s p.val) addr = some (w, off)) ∧ ((getPort s p.val).link.up = true) ∧ (data ≠ []) ∧ (off / 64 = (off + data.length - 1) / 64) ∧
      (underRecall (getPort s p.val) (off / 64) = false) ∧ (s.pwr.state ≤ 2) :=
  ⟨0, 127, [0xFF],
      modPort booted 0 (fun x => { x with link := { x.link with up := true }, window := some { caddr := 0, pages := 1, slice := 3, first := 0 } }),
      { caddr := 0, pages := 1, slice := 3, first := 0 }, 127, ⟨by decide, by decide, by decide, by decide, by decide, by decide⟩⟩

theorem witness_windowLines_back :
    ∃ (p : Fin 4) (addr : Nat) (data : List Byte) (s : State) (w : Window) (off : Nat),
      (inWindow (getPort s p.val) addr = some (w, off)) ∧ ((getPort s p.val).recalls.any (fun r => r.line = off / 64) = true) ∧
      ((getPort s p.val).recalls.any (fun r => r.line = off / 64 && r.forWrite) = false) ∧ (data.length = 64) ∧
      (lookup (getPort s p.val).lines (off / 64) = some .exclusive) :=
  ⟨0, 0, List.replicate 64 0#8,
      modPort booted 0 (fun x => { x with link := { x.link with up := true }, window := some { caddr := 0, pages := 1, slice := 3, first := 0 }, lines := [(0, .exclusive)], recalls := [{ line := 0, forWrite := false, at_ := 0 }] }), { caddr := 0, pages := 1, slice := 3, first := 0 }, 0, ⟨by decide, by decide, by decide, by decide, by decide⟩⟩

theorem witness_windowLines_used :
    ∃ (s : State) (w : Window) (l : Nat) (n : Nat) (x : Slice) (q : Page),
      (lookup s.slices w.slice = some x) ∧ (lookup x.pages n = some q) ∧ (n = w.first + 64 * l / pageBytes) :=
  ⟨{ booted with slices := [(3, { slice0 with pages := [(0, { kind := .window 0, lastUse := 0, parked := [] })] })] },
      { caddr := 0, pages := 1, slice := 3, first := 0 }, 32767, 0, _, _, ⟨rfl, rfl, by decide⟩⟩

theorem witness_windowLines_drop :
    ∃ (p : Fin 4) (addr : Nat) (s : State) (w : Window) (off : Nat),
      (inWindow (getPort s p.val) addr = some (w, off)) ∧ ((getPort s p.val).recalls.any (fun r => r.line = off / 64) = true) :=
  ⟨0, 0, modPort booted 0 (fun x => { x with link := { x.link with up := true }, window := some { caddr := 0, pages := 1, slice := 3, first := 0 }, lines := [(0, .exclusive)], recalls := [{ line := 0, forWrite := false, at_ := 0 }] }), { caddr := 0, pages := 1, slice := 3, first := 0 }, 0, ⟨by decide, by decide⟩⟩

theorem witness_windowLines_keep :
    ∃ (p : Fin 4) (addr : Nat) (s : State) (w : Window) (off : Nat),
      (inWindow (getPort s p.val) addr = some (w, off)) ∧ ((getPort s p.val).recalls.any (fun r => r.line = off / 64) = true) :=
  ⟨0, 0, modPort booted 0 (fun x => { x with link := { x.link with up := true }, window := some { caddr := 0, pages := 1, slice := 3, first := 0 }, lines := [(0, .exclusive)], recalls := [{ line := 0, forWrite := false, at_ := 0 }] }), { caddr := 0, pages := 1, slice := 3, first := 0 }, 0, ⟨by decide, by decide⟩⟩

theorem witness_windowLines_timeout :
    ∃ (p : Fin 4) (s : State), ((getPort s p.val).recalls.any (fun r => r.at_ + 10 ≤ s.clock) = true) :=
  ⟨0, { (modPort booted 0 (fun x => { x with link := { x.link with up := true }, window := some { caddr := 0, pages := 1, slice := 3, first := 0 }, lines := [(0, .exclusive)], recalls := [{ line := 0, forWrite := false, at_ := 0 }] })) with clock := 10 }, by decide⟩

theorem witness_hostLinkFailures_lost :
    ∃ (p : Fin 4) (s : State), ((getPort s p.val).link.up = true) :=
  ⟨0, modPort booted 0 (fun x => { x with link := { x.link with up := true } }), by decide⟩

theorem witness_hostLinkFailures_restored :
    ∃ (p : Fin 4) (s : State),
      ((getPort s p.val).link.up = false) ∧ (lanesServe (getPort s p.val).link = true) ∧ (8 ≤ s.glb.stage) ∧ ((∀ t,
      (getPort s p.val).link.lostAt = some t → s.clock ≤ t + (getPort s p.val).link.holdBeats.toNat)) :=
  ⟨0, booted, ⟨by decide, by decide, by decide, fun t h => by cases h⟩⟩

theorem witness_hostLinkFailures_expiry :
    ∃ (p : Fin 4) (s : State) (t : Nat), ((getPort s p.val).link.lostAt = some t) ∧ (t + (getPort s p.val).link.holdBeats.toNat ≤ s.clock) :=
  ⟨0, { (modPort booted 0 (fun x => { x with link := { x.link with lostAt := some 0, holdBeats := 5 } })) with clock := 5 }, 0, ⟨by decide, by decide⟩⟩

theorem witness_hostLinkFailures_spared :
    ∃ (p : Fin 4) (lane : Fin 9) (s : State) (u : State),
      (u = (logRas (modPort s p.val (fun x => { x with link := { x.link with failed := x.link.failed ||| (1#9 <<< lane.val), lanesOk := x.link.lanesOk &&& ~~~(1#9 <<< lane.val) } })) 3 1 (p.val * 9 + lane.val) 0 lane.val)) ∧ (lanesServe (getPort u p.val).link = true) :=
  ⟨0, 8, modPort booted 0 (fun x => { x with link := { x.link with up := true } }), _, ⟨rfl, by decide⟩⟩

theorem witness_hostLinkFailures_down :
    ∃ (p : Fin 4) (lane : Fin 9) (s : State) (u : State),
      (u = (logRas (modPort s p.val (fun x => { x with link := { x.link with failed := x.link.failed ||| (1#9 <<< lane.val), lanesOk := x.link.lanesOk &&& ~~~(1#9 <<< lane.val) } })) 3 1 (p.val * 9 + lane.val) 0 lane.val)) ∧ (lanesServe (getPort u p.val).link = false) :=
  ⟨0, 7, modPort booted 0 (fun x => { x with link := { x.link with up := true } }), _, ⟨rfl, by decide⟩⟩

theorem witness_ringsCreatedAndDeleted_cq :
    ∃ (op : Nat) (o : Op) (s : State) (x : Port),
      (Ready s op 0x62 4 o) ∧ (x = getPort s o.port) ∧ (o.f 8 8 % 4096 = 0) ∧ (hitsRing x (o.f 8 8) (2 ^ o.f 18 1 * 16) = false) ∧
      (hitsLine x (o.f 8 8) (2 ^ o.f 18 1 * 16) = false) ∧ (1 ≤ o.f 16 2) ∧ (o.f 16 2 ≤ 255) ∧ (lookup x.cqs (o.f 16 2) = none) ∧ (4 ≤ o.f 18 1) ∧
      (o.f 18 1 ≤ 14) ∧ (o.f 19 1 ≠ 0) ∧ (badLine x (o.f 20 8) (o.f 8 8) (2 ^ o.f 18 1 * 16) = false) ∧ (badWord x (o.f 20 8) (o.f 28 1) = false) ∧
      ((o.f 30 2 ≤ 255 ∨ o.f 30 2 = 0xFFFF)) :=
  ⟨0, opOf 0x62 0xFF [(8, 8, 0x10000), (16, 2, 255), (18, 1, 14), (19, 1, 1), (20, 8, 0x80000), (28, 1, 15), (30, 2, 0xFFFF)], withOp (opOf 0x62 0xFF [(8,
      8, 0x10000), (16, 2, 255), (18, 1, 14), (19, 1, 1), (20, 8, 0x80000), (28, 1, 15), (30, 2, 0xFFFF)]), _, ⟨by decide, rfl, by decide, by decide,
      by decide, by decide, by decide, by decide, by decide, by decide, by decide, by decide, by decide, by decide⟩⟩

theorem witness_ringsCreatedAndDeleted_sq :
    ∃ (op : Nat) (o : Op) (s : State) (x : Port),
      (Ready s op 0x63 4 o) ∧ (x = getPort s o.port) ∧ (o.f 8 8 % 4096 = 0) ∧ (hitsRing x (o.f 8 8) (2 ^ o.f 18 1 * 64) = false) ∧
      (hitsLine x (o.f 8 8) (2 ^ o.f 18 1 * 64) = false) ∧ (1 ≤ o.f 16 2) ∧ (o.f 16 2 ≤ 255) ∧ (lookup x.sqs (o.f 16 2) = none) ∧ (4 ≤ o.f 18 1) ∧
      (o.f 18 1 ≤ 12) ∧ (o.f 19 1 ≤ 3) ∧ (badLine x (o.f 20 8) (o.f 8 8) (2 ^ o.f 18 1 * 64) = false) ∧ (badWord x (o.f 20 8) (o.f 28 1) = false) ∧
      ((lookup s.slices (o.f 29 1)).isSome = true) ∧ (o.f 30 2 ≠ 0) ∧ ((lookup x.cqs (o.f 30 2)).isSome = true) :=
  ⟨0, opOf 0x63 0xFF [(8, 8, 0x10000), (16, 2, 1), (18, 1, 4), (19, 1, 3), (20, 8, 0x80000), (28, 1, 0), (29, 1, 63), (30, 2, 9)],
      { (modPort (withOp (opOf 0x63 0xFF [(8, 8, 0x10000), (16, 2, 1), (18, 1, 4), (19, 1, 3), (20, 8, 0x80000), (28, 1, 0), (29, 1, 63), (30, 2, 9)])) 0 (fun x => { x with cqs := insertKey x.cqs 9 compRing })) with slices := [(63, slice0)] }, _, ⟨by decide, rfl, by decide, by decide, by decide, by decide, by decide, by decide, by decide, by decide, by decide, by decide, by decide, by decide, by decide, by decide⟩⟩

theorem witness_ringsCreatedAndDeleted_delete :
    ∃ (op : Nat) (o : Op) (s : State) (r : SubRing),
      (Ready s op 0x64 4 o) ∧ (o.phase = .fetched) ∧ (o.f 8 1 = 0) ∧ (1 ≤ o.f 10 2) ∧ (o.f 10 2 ≤ 255) ∧
      (lookup (getPort s o.port).sqs (o.f 10 2) = some r) ∧ (r.deleting = false) :=
  ⟨0, opOf 0x64 0xFF [(10, 2, 1)], modPort (withOp (opOf 0x64 0xFF [(10, 2, 1)])) 0 (fun x => { x with sqs := insertKey x.sqs 1 ring }), ring, ⟨by decide,
      by decide, by decide, by decide, by decide, by decide, by decide⟩⟩

theorem witness_ringsCreatedAndDeleted_deleteCq :
    ∃ (op : Nat) (o : Op) (s : State),
      (Ready s op 0x64 4 o) ∧ (o.phase = .fetched) ∧ (o.f 8 1 = 1) ∧ (1 ≤ o.f 10 2) ∧ (o.f 10 2 ≤ 255) ∧
      ((lookup (getPort s o.port).cqs (o.f 10 2)).isSome = true) ∧ ((getPort s o.port).sqs.any (fun e => e.2.cq = o.f 10 2) = false) :=
  ⟨0, opOf 0x64 0xFF [(8, 1, 1), (10, 2, 255)], modPort (withOp (opOf 0x64 0xFF [(8, 1, 1), (10, 2,
      255)])) 0 (fun x => { x with cqs := insertKey x.cqs 255 compRing }), ⟨by decide, by decide, by decide, by decide, by decide, by decide, by decide⟩⟩

theorem witness_ringsCreatedAndDeleted_complete :
    ∃ (op : Nat) (o : Op) (s : State),
      (Ready s op 0x64 4 o) ∧ (o.phase = .started) ∧ (o.f 8 1 = 0) ∧
      ((started s op 4).ops.any (fun e => e.2.port = o.port && e.2.sq = o.f 10 2) = false) :=
  ⟨0, { opOf 0x64 0xFF [(10, 2, 1)] with phase := .started },
      modPort (withOp { opOf 0x64 0xFF [(10, 2, 1)] with phase := .started }) 0 (fun x => { x with sqs := insertKey x.sqs 1 { ring with deleting := true } }), ⟨by decide, by decide, by decide, by decide⟩⟩

theorem witness_windowMapping_map :
    ∃ (op : Nat) (o : Op) (s : State) (t : State),
      (Ready s op 0x66 2 o) ∧ (o.f 16 4 ≠ 0) ∧ (o.f 8 8 % pageBytes = 0) ∧ ((getPort s o.port).window = none) ∧
      ((lookup s.slices (o.f 20 1)).isSome = true) ∧ (mayHold (started s op 2) (o.f 20 1) (o.f 16 4) = true) ∧ (windowTotal s + o.f 16 4 ≤ 32768) ∧
      (o.f 24 4 + o.f 16 4 ≤ slicePages) ∧ ((∀ x,
      lookup s.slices (o.f 20 1) = some x → x.pages.any (fun p => o.f 24 4 ≤ p.1 && p.1 < o.f 24 4 + o.f 16 4) = false)) ∧
      (mapPages (started s op 2) (o.f 20 1) (o.f 24 4) (.window o.port) (o.f 16 4) = .got t) :=
  ⟨0, opOf 0x66 0xFF [(16, 4, 1), (20, 1, 63)],
      { withOp (opOf 0x66 0xFF [(16, 4, 1), (20, 1, 63)]) with slices := [(63, { slice0 with conf := { slice0.conf with floor := 1000 } })] }, _,
      ⟨by decide, by decide, by decide, by decide, by decide, by decide, by decide, by decide, fun x h => by injection h with h; subst h; decide, rfl⟩⟩

theorem witness_windowMapping_unmap :
    ∃ (op : Nat) (o : Op) (s : State) (w : Window),
      (Ready s op 0x66 2 o) ∧ (o.f 16 4 = 0) ∧ (o.f 8 8 % pageBytes = 0) ∧ ((getPort s o.port).window = some w) ∧
      (linesToRecall (getPort s o.port) 0 (pageBytes * w.pages) false = []) :=
  ⟨0, opOf 0x66 0xFF [], modPort (withOp (opOf 0x66 0xFF [])) 0 (fun x => { x with window := some { caddr := 0, pages := 1, slice := 3, first := 0 } }),
      { caddr := 0, pages := 1, slice := 3, first := 0 }, ⟨by decide, by decide, by decide, by decide, by decide⟩⟩

theorem witness_windowMapping_none :
    ∃ (op : Nat) (o : Op) (s : State), (Ready s op 0x66 2 o) ∧ (o.f 16 4 = 0) ∧ (o.f 8 8 % pageBytes = 0) ∧ ((getPort s o.port).window = none) :=
  ⟨0, opOf 0x66 0xFF [], withOp (opOf 0x66 0xFF []), ⟨by decide, by decide, by decide, by decide⟩⟩

/-- The operations of FVEC whose statements these states meet the premises of. -/
def fops : List Nat := [0x08, 0x09, 0x0A, 0x0B, 0x0C, 0x0D, 0x0E, 0x0F, 0x10, 0x11, 0x12, 0x18, 0x19, 0x1A, 0x20, 0x21, 0x22, 0x23, 0x24, 0x28, 0x29, 0x2A,
      0x2B, 0x2C]

/-- An FVEC of that operation on all 256 lanes, V2 from V1, V0 and V3. -/
def fvec (fop : Nat) : IWord := iword [(0, 0x18), (8, fop), (16, 2), (21, 1), (31, 3), (36, 256)]

theorem witness_elementwiseLanes : ∀ fop ∈ fops, isFvec (fvec fop) fop = true ∧ 
    Issues (seated [fvec fop] Ctx.zero) 0 (fvec fop) seat0 (jobOf [(fvec fop)]) (settle (seated [fvec fop] Ctx.zero) seat0) ∧
      Unhindered (settle (seated [fvec fop] Ctx.zero) seat0) seat0 (fvec fop) := by
  have a : ∀ fop ∈ fops, isFvec (fvec fop) fop = true ∧ issuesIn (seated [fvec fop] Ctx.zero) (fvec fop) (jobOf [(fvec fop)]) = true := by decide +kernel
  have b : ∀ fop ∈ fops, Unhindered (settle (seated [fvec fop] Ctx.zero) seat0) seat0 (fvec fop) := by decide +kernel
  intro fop h
  exact ⟨(a fop h).1, issuesIn_issues (a fop h).2, b fop h⟩

theorem witness_vectorMemoryAndReductions : ∀ fop ∈ [0x00, 0x01, 0x30, 0x31], isFvec (fvec fop) fop = true ∧ 
    Issues (seated [fvec fop] Ctx.zero) 0 (fvec fop) seat0 (jobOf [(fvec fop)]) (settle (seated [fvec fop] Ctx.zero) seat0) ∧
      Unhindered (settle (seated [fvec fop] Ctx.zero) seat0) seat0 (fvec fop) := by
  have a : ∀ fop ∈ [0x00, 0x01, 0x30, 0x31], isFvec (fvec fop) fop = true ∧
      issuesIn (seated [fvec fop] Ctx.zero) (fvec fop) (jobOf [(fvec fop)]) = true := by decide +kernel
  have b : ∀ fop ∈ [0x00, 0x01, 0x30, 0x31], Unhindered (settle (seated [fvec fop] Ctx.zero) seat0) seat0 (fvec fop) := by decide +kernel
  intro fop h
  exact ⟨(a fop h).1, issuesIn_issues (a fop h).2, b fop h⟩

/-- A tree over one active lane has a value. -/
theorem witness_reductionValue : ∃ v, tree vMax ((List.range 1).map (fun l => some (lane Ctx.zero 0 l))) = some v := ⟨_, rfl⟩

theorem witness_reductionOfNothing : ∀ fop ∈ [0x30, 0x31], isFvec (iword [(0, 0x18), (8, fop)]) fop = true ∧ vLn (iword [(0, 0x18), (8,
      fop)]) = 0 := by decide

/-- An FROW of that operation on two rows of 8 elements. -/
def frow (fop : Nat) : IWord := iword [(0, 0x19), (8, fop), (20, 1), (37, 2), (54, 3), (71, 7), (87, 1), (100, 1)]

theorem witness_rowOperations : ∀ fop ∈ [0, 1, 2, 3, 4, 8, 9, 10], isFrow (frow fop) fop = true ∧ 
    Issues (seated [frow fop] Ctx.zero) 0 (frow fop) seat0 (jobOf [(frow fop)]) (settle (seated [frow fop] Ctx.zero) seat0) ∧
      Unhindered (settle (seated [frow fop] Ctx.zero) seat0) seat0 (frow fop) := by
  have a : ∀ fop ∈ [0, 1, 2, 3, 4, 8, 9, 10], isFrow (frow fop) fop = true ∧
      issuesIn (seated [frow fop] Ctx.zero) (frow fop) (jobOf [(frow fop)]) = true := by decide +kernel
  have b : ∀ fop ∈ [0, 1, 2, 3, 4, 8, 9, 10], Unhindered (settle (seated [frow fop] Ctx.zero) seat0) seat0 (frow fop) := by decide +kernel
  intro fop h
  exact ⟨(a fop h).1, issuesIn_issues (a fop h).2, b fop h⟩

/-- A matrix instruction of INT8 weights and activations, H 2, NT 4, KC 8, one block. -/
def matrix (op more : Nat) : IWord := iword [(0, op), (8, 1), (12, 1), (19, more), (33, 1), (46, 3), (53, 7), (81, 1)]

/-- A context whose queue holds one block, with a geometry record at 64. -/
def matrixCtx (geom : List Byte) : Ctx := { Ctx.zero with blocks := [(0, { wfmt := 1, data := [1#8] })], scratch := writeBytes [] 64 geom }

/-- A geometry record of one-wide shapes. -/
def geomOnes : List Byte := [0#8, 0#8, 0#8, 0#8] ++ ((List.replicate 8 [1#8, 0#8]).flatMap id) ++ List.replicate 9 1#8 ++ [0#8, 0#8, 0#8]

theorem witness_matrixInstructions : ∀ i ∈ [(1, 0, geomOnes), (1, 1, geomOnes), (2, 0, geomOnes), (2, 0, [])], opcodeOf (matrix i.1 i.2.1) = i.1 ∧ 
    Issues (seated [matrix i.1 i.2.1] (matrixCtx i.2.2)) 0 (matrix i.1 i.2.1) seat0 (jobOf [(matrix i.1 i.2.1)]) (settle (seated [matrix i.1 i.2.1] (matrixCtx i.2.2)) seat0) ∧ Unhindered (settle (seated [matrix i.1 i.2.1] (matrixCtx i.2.2)) seat0) seat0 (matrix i.1 i.2.1) := by
  have a : ∀ i ∈ [(1, 0, geomOnes), (1, 1, geomOnes), (2, 0, geomOnes), (2, 0, [])], opcodeOf (matrix i.1 i.2.1) = i.1 ∧
      issuesIn (seated [matrix i.1 i.2.1] (matrixCtx i.2.2)) (matrix i.1 i.2.1) (jobOf [(matrix i.1 i.2.1)]) = true := by decide +kernel
  have b : ∀ i ∈ [(1, 0, geomOnes), (1, 1, geomOnes), (2, 0, geomOnes), (2, 0, [])],
      Unhindered (settle (seated [matrix i.1 i.2.1] (matrixCtx i.2.2)) seat0) seat0 (matrix i.1 i.2.1) := by decide +kernel
  intro i h
  exact ⟨(a i h).1, issuesIn_issues (a i h).2, b i h⟩

theorem witness_matrixForms : (∃ rows, matmulRows (matrixCtx geomOnes) (matrix 1 0) [] = some rows) ∧
    matmulRows (matrixCtx (List.replicate 8 0xFF#8)) (iword [(0, 1), (8, 1), (12, 1), (19, 1), (81, 4)]) [] = some [] ∧
    matmulRows (matrixCtx [0#8, 0#8, 0xFF#8]) (iword [(0, 1), (8, 1), (12, 1), (19, 1), (81, 4)]) [] = none ∧
    geomBad (readGeom (matrixCtx geomOnes) 64) 1 = false ∧ geomBad (readGeom (matrixCtx []) 64) 1 = true := ⟨⟨_, rfl⟩, by decide⟩

theorem witness_issueRules_count :
    ∃ (w : IWord) (e : Seat) (t : State), (countBad (getCtx t e.phys) w = true) :=
  ⟨matrix 1 0, seat0, seated [matrix 1 0] Ctx.zero, by decide⟩

theorem witness_issueRules_queued :
    ∃ (w : IWord) (e : Seat) (t : State),
      (countBad (getCtx t e.phys) w = false) ∧
      ((blockedBy w (accesses w (readX (getCtx t e.phys).x (rowReg w)).toNat) (getCtx t e.phys).issued || (getCtx t e.phys).bandq.any (fun b => anyConflict (accesses w (readX (getCtx t e.phys).x (rowReg w)).toNat) (reqAccess b)) || !blocksReady (getCtx t e.phys) w) = true) ∧ (queueFull (getCtx t e.phys) w = false) :=
  ⟨fvec 8, seat0, seated [] { Ctx.zero with issued := [{ at_ := 0, w := fvec 8, x := [], serial := 0 }] }, ⟨by decide, by decide, by decide⟩⟩

theorem witness_issueRules_full :
    ∃ (w : IWord) (e : Seat) (t : State),
      (countBad (getCtx t e.phys) w = false) ∧
      ((blockedBy w (accesses w (readX (getCtx t e.phys).x (rowReg w)).toNat) (getCtx t e.phys).issued || (getCtx t e.phys).bandq.any (fun b => anyConflict (accesses w (readX (getCtx t e.phys).x (rowReg w)).toNat) (reqAccess b)) || !blocksReady (getCtx t e.phys) w) = true) ∧ (queueFull (getCtx t e.phys) w = true) :=
  ⟨fvec 8, seat0, seated [] { Ctx.zero with issued := List.replicate 8 { at_ := 0, w := fvec 8, x := [], serial := 0 } }, ⟨by decide, by decide,
      by decide⟩⟩

/-- The device up, a rank with this instruction, in a slice with a commons share. -/
def moving (w : IWord) (tier : Nat) : State := { seated [w] Ctx.zero with slices := [(63, { slice0 with commons := writeBytes [] 0 (List.replicate tier 7#8) })] }

/-- A LOAD or STORE of two rows of 64 bytes of the commons. -/
def mover (op tier far : Nat) : IWord := iword [(0, op), (8, tier), (11, far), (67, 1), (90, 1), (106, 1)]

/-- Instructions of the mover and port units. -/
def moverWord : Nat → IWord
  | 0 => mover 9 1 0
  | 1 => mover 9 1 (2 ^ 38)
  | 2 => mover 0x0A 1 0
  | 3 => mover 0x0A 2 0
  | 4 => iword [(0, 0x10), (39, 3)]
  | _ => iword [(0, 0x11), (22, 1), (35, 3)]

theorem witness_moverAndPort : ∀ k ∈ [0, 1, 2, 3, 4, 5], 
    Issues (moving (moverWord k) 0) 0 (moverWord k) seat0 (jobOf [(moverWord k)]) (settle (moving (moverWord k) 0) seat0) ∧
      Unhindered (settle (moving (moverWord k) 0) seat0) seat0 (moverWord k) := by
  have a : ∀ k ∈ [0, 1, 2, 3, 4, 5], True ∧ issuesIn (moving (moverWord k) 0) (moverWord k) (jobOf [(moverWord k)]) = true := by decide +kernel
  have b : ∀ k ∈ [0, 1, 2, 3, 4, 5], Unhindered (settle (moving (moverWord k) 0) seat0) seat0 (moverWord k) := by decide +kernel
  intro k h
  exact ⟨issuesIn_issues (a k h).2, b k h⟩

/-- A BAND_RECV of one block. -/
def band : IWord := iword [(0, 8), (10, 1), (18, 1), (66, 0)]

/-- A request of a set of ranks for one block of scratch. -/
def request (src set : Nat) : BandReq :=
  { at_ := 0, band := 0, wfmt := 1, set := set, tier := 0, src := src, nb := 1, first := 0, got := 0, serial := 0, since := 0, stamp := 0 }

/-- A rank with a request in front. -/
def waiting (src set : Nat) : State := seated [] { Ctx.zero with bandq := [request src set] }

/-- Two jobs of one rank whose broadcasts could both start, the second one's first. -/
def twoBands : State :=
  { seated [] { Ctx.zero with bandq := [{ request 0 1 with stamp := 1 }] } with
    jobs := [(0, jobOf []), (1, { jobOf [] with place := some 1, spindles := [1] })],
    spindles := [(0, { Spindle.zero with rank := some (0, 0), ctx := { Ctx.zero with bandq := [{ request 0 1 with stamp := 1 }] } }),
                 (1, { Spindle.zero with rank := some (1, 0), ctx := { Ctx.zero with bandq := [request 0 1] } })] }

theorem issuesIn_issuesJ {s : State} {w : IWord} {j : Job} (h : issuesIn s w j = true) : Issues s 0 w seat0 j (settle s seat0) := issuesIn_issues h

theorem witness_theBand_recv :
    ∃ (sp : Fin 48) (w : IWord) (s : State) (t : State) (e : Seat) (j : Job),
      (Issues s sp.val w e j t) ∧ (opcodeOf w = opBandRecv) ∧ ((getCtx t e.phys).bandq.length < 8) :=
  ⟨0, band, (seated [band] Ctx.zero), settle (seated [band] Ctx.zero) seat0, seat0, jobOf [band], ⟨issuesIn_issues (by decide), by decide, by decide⟩⟩

theorem witness_theBand_full :
    ∃ (sp : Fin 48) (w : IWord) (s : State) (t : State) (e : Seat) (j : Job),
      (Issues s sp.val w e j t) ∧ (opcodeOf w = opBandRecv) ∧ (8 ≤ (getCtx t e.phys).bandq.length) :=
  ⟨0, band, (seated [band] ({ Ctx.zero with bandq := List.replicate 8 (request 0 0) })),
      settle (seated [band] ({ Ctx.zero with bandq := List.replicate 8 (request 0 0) })) seat0, seat0, jobOf [band], ⟨issuesIn_issues (by decide),
      by decide, by decide⟩⟩

theorem witness_theBand_start :
    ∃ (sp : Fin 48) (s : State) (t : State) (e : Seat) (r : BandReq) (rest : List BandReq) (es : List Seat),
      (seatOf s sp.val = some e) ∧ ((getCtx s e.phys).bandq = r :: rest) ∧ (r.got = 0) ∧ (t = (seatsOf s e.job).foldl settleSeat s) ∧
      (receivers t e.job r = some es) ∧ (isFailing t e.job = false) ∧ (bandBusy t e.job r (completedAt t es) = false) ∧
      ((List.range r.nb).any (fun n => tierOutside t e r.tier r.src (blockAt r n) (blockStride r.wfmt)) = false) :=
  ⟨0, waiting 0 1, _, seat0, request 0 1, [], [seat0], ⟨by decide, by decide, by decide, rfl, by decide, by decide, by decide, by decide⟩⟩

theorem witness_theBand_goesOn :
    ∃ (sp : Fin 48) (s : State) (t : State) (e : Seat) (r : BandReq) (rest : List BandReq),
      (seatOf s sp.val = some e) ∧ ((getCtx s e.phys).bandq = r :: rest) ∧ (r.got ≠ 0) ∧ (t = (seatsOf s e.job).foldl settleSeat s) :=
  ⟨0, seated [] { Ctx.zero with bandq := [{ request 0 1 with nb := 2, got := 1 }] }, _, seat0, { request 0 1 with nb := 2, got := 1 }, [], ⟨by decide,
      by decide, by decide, rfl⟩⟩

theorem witness_theBand_block :
    ∃ (s : State) (u : State) (e : Seat) (r : BandReq) (es : List Seat) (k : Nat) (bs : List Byte),
      (isFailing s e.job = false) ∧ (es.any (fun d => shadowFull (getCtx s d.phys)) = false) ∧
      (readTierFor s e r.tier r.src (blockAt r k) (blockStride r.wfmt) = .bytes u bs) :=
  ⟨waiting 0 1, _, seat0, request 0 1, [seat0], 0, _, ⟨by decide, by decide, rfl⟩⟩

theorem witness_theBand_noRoom :
    ∃ (s : State) (e : Seat) (es : List Seat), (isFailing s e.job = false) ∧ (es.any (fun d => shadowFull (getCtx s d.phys)) = true) :=
  ⟨seated [] { Ctx.zero with blocks := [(0, { wfmt := 1, data := [] })] }, seat0, [seat0], ⟨by decide, by decide⟩⟩

theorem witness_theBand_received :
    ∃ (s : State) (e : Seat) (b : BandReq) (rest : List BandReq), ((getCtx s e.phys).bandq = b :: rest) :=
  ⟨waiting 0 1, seat0, request 0 1, [], by decide⟩

theorem witness_theBand_missing :
    ∃ (sp : Fin 48) (s : State) (t : State) (e : Seat) (r : BandReq) (rest : List BandReq),
      (seatOf s sp.val = some e) ∧ ((getCtx s e.phys).bandq = r :: rest) ∧ (r.got = 0) ∧ (t = (seatsOf s e.job).foldl settleSeat s) ∧
      (receivers t e.job r = none) ∧ (isFailing t e.job = false) :=
  ⟨0, waiting 0 3, _, seat0, request 0 3, [], ⟨by decide, by decide, by decide, rfl, by decide, by decide⟩⟩

theorem witness_theBand_later :
    ∃ (sp : Fin 48) (s : State) (t : State) (e : Seat) (r : BandReq) (rest : List BandReq) (es : List Seat),
      (seatOf s sp.val = some e) ∧ ((getCtx s e.phys).bandq = r :: rest) ∧ (r.got = 0) ∧ (t = (seatsOf s e.job).foldl settleSeat s) ∧
      (receivers t e.job r = some es) ∧ (isFailing t e.job = false) ∧ (bandBusy t e.job r (completedAt t es) = true) :=
  ⟨0, twoBands, _, seat0, { request 0 1 with stamp := 1 }, [], [seat0], ⟨by decide, by decide, by decide, rfl, by decide, by decide, by decide⟩⟩

theorem witness_theBand_outside :
    ∃ (sp : Fin 48) (s : State) (t : State) (e : Seat) (l : Seat) (r : BandReq) (r' : BandReq) (rest : List BandReq) (q : List BandReq) (es : List Seat),
      (seatOf s sp.val = some e) ∧ ((getCtx s e.phys).bandq = r :: rest) ∧ (r.got = 0) ∧ (t = (seatsOf s e.job).foldl settleSeat s) ∧
      (receivers t e.job r = some (l :: es)) ∧ ((getCtx t l.phys).bandq = r' :: q) ∧ (isFailing t e.job = false) ∧
      (bandBusy t e.job r (completedAt t (l :: es)) = false) ∧
      ((List.range r.nb).any (fun n => tierOutside t e r.tier r.src (blockAt r n) (blockStride r.wfmt)) = true) :=
  ⟨0, waiting (2 ^ 38) 1, _, seat0, seat0, request (2 ^ 38) 1, request (2 ^ 38) 1, [], [], [], ⟨by decide, by decide, by decide, rfl, by decide, by decide,
      by decide, by decide, by decide⟩⟩

/-- A rank in a slice with room for its context. -/
def seatedRoom : State := { seated [] Ctx.zero with slices := [(63, { slice0 with conf := { slice0.conf with floor := 1000, ceiling := 1024 } })] }

/-- A SIGNAL of semaphore 4095 by 1, and a WAIT for it. -/
def signalWord : IWord := iword [(0, 0x20), (8, 4095), (20, 1)]
def waitWord : IWord := iword [(0, 0x21), (8, 4095), (20, 1)]

/-- That SIGNAL, issued. -/
def pendSig : PendSig := { at_ := 0, sem := 4095, n := 1, hold := false, rel := 0, serial := 0 }

/-- A rank with a pending SIGNAL of semaphore 4095, whose value is `v`. -/
def pendingSig (v : Nat) : State :=
  { seated [] { Ctx.zero with sigs := [pendSig] } with slices := [(63, { slice0 with sems := [(4095, v)] })] }

theorem witness_semaphores_signal :
    ∃ (sp : Fin 48) (w : IWord) (s : State) (t : State) (e : Seat) (j : Job),
      (Issues s sp.val w e j t) ∧ (opcodeOf w = opSignal) ∧ ((getCtx t e.phys).sigs.length < 64) :=
  ⟨0, signalWord, (seated [signalWord] Ctx.zero), settle (seated [signalWord] Ctx.zero) seat0, seat0, jobOf [signalWord], ⟨issuesIn_issues (by decide),
      by decide, by decide⟩⟩

theorem witness_semaphores_many :
    ∃ (sp : Fin 48) (w : IWord) (s : State) (t : State) (e : Seat) (j : Job),
      (Issues s sp.val w e j t) ∧ (opcodeOf w = opSignal) ∧ (64 ≤ (getCtx t e.phys).sigs.length) :=
  ⟨0, signalWord, (seated [signalWord] ({ Ctx.zero with sigs := List.replicate 64 pendSig })),
      settle (seated [signalWord] ({ Ctx.zero with sigs := List.replicate 64 pendSig })) seat0, seat0, jobOf [signalWord], ⟨issuesIn_issues (by decide),
      by decide, by decide⟩⟩

theorem witness_semaphores_effect :
    ∃ (sp : Fin 48) (s : State) (t : State) (e : Seat) (g : PendSig) (rest : List PendSig),
      (seatOf s sp.val = some e) ∧ (t = settle s e) ∧ ((seatOf t sp.val).isSome = true) ∧ ((getCtx t e.phys).sigs = g :: rest) ∧
      (isFailing t e.job = false) ∧ (sigReady (getCtx t e.phys) g = true) ∧ (sigBad t e g = false) :=
  ⟨0, pendingSig 0, settle (pendingSig 0) seat0, seat0, pendSig, [], ⟨by decide, rfl, by decide, by decide, by decide, by decide, by decide⟩⟩

theorem witness_semaphores_bad :
    ∃ (sp : Fin 48) (s : State) (t : State) (e : Seat) (g : PendSig) (rest : List PendSig),
      (seatOf s sp.val = some e) ∧ (t = settle s e) ∧ ((seatOf t sp.val).isSome = true) ∧ ((getCtx t e.phys).sigs = g :: rest) ∧
      (isFailing t e.job = false) ∧ (sigReady (getCtx t e.phys) g = true) ∧ (sigBad t e g = true) :=
  ⟨0, pendingSig 0xFFFFFFFF, settle (pendingSig 0xFFFFFFFF) seat0, seat0, pendSig, [], ⟨by decide, rfl, by decide, by decide, by decide, by decide,
      by decide⟩⟩

theorem witness_semaphores_value :
    ∃ (s : State) (e : Seat), ((lookup s.slices e.slice).isSome = true) :=
  ⟨pendingSig 5, seat0, by decide⟩

theorem witness_semaphores_wait :
    ∃ (sp : Fin 48) (w : IWord) (s : State) (t : State) (e : Seat) (j : Job),
      (Issues s sp.val w e j t) ∧ (opcodeOf w = opWait) ∧ (sN w ≤ semValue t e.slice (sSem w)) :=
  ⟨0, waitWord, ({ seated [waitWord] Ctx.zero with slices := [(63, { slice0 with sems := [(4095, 1)] })] }),
      settle ({ seated [waitWord] Ctx.zero with slices := [(63, { slice0 with sems := [(4095, 1)] })] }) seat0, seat0, jobOf [waitWord],
      ⟨issuesIn_issues (by decide), by decide, by decide⟩⟩

theorem witness_semaphores_inDraft :
    ∃ (sp : Fin 48) (w : IWord) (s : State) (t : State) (e : Seat) (j : Job),
      (Issues s sp.val w e j t) ∧ (opcodeOf w = opWait) ∧ (semValue t e.slice (sSem w) < sN w) ∧ (j.draft.isSome = true) :=
  ⟨0, waitWord,
      ({ seated [waitWord] Ctx.zero with jobs := [(0, { jobOf [waitWord] with draft := some drafted })], drafts := [(0, oneDraft [waitWord] [] [])] }),
      settle ({ seated [waitWord] Ctx.zero with jobs := [(0, { jobOf [waitWord] with draft := some drafted })], drafts := [(0, oneDraft [waitWord] [] [])] }) seat0, seat0, { jobOf [waitWord] with draft := some drafted }, ⟨issuesIn_issuesJ (by decide), by decide, by decide, by decide⟩⟩

theorem witness_semaphores_yields :
    ∃ (sp : Fin 48) (w : IWord) (s : State) (t : State) (e : Seat) (j : Job),
      (Issues s sp.val w e j t) ∧ (opcodeOf w = opWait) ∧ (semValue t e.slice (sSem w) < sN w) ∧ (j.draft = none) :=
  ⟨0, waitWord, (seated [waitWord] Ctx.zero), settle (seated [waitWord] Ctx.zero) seat0, seat0, jobOf [waitWord], ⟨issuesIn_issues (by decide), by decide,
      by decide, by decide⟩⟩

theorem witness_semaphores_yielded :
    ∃ (t : State) (u : State) (e : Seat),
      ((getCtx t e.phys).issued = []) ∧ ((getCtx t e.phys).bandq = []) ∧ ((getCtx t e.phys).sigs = []) ∧ (mayHold t e.slice 6 = true) ∧
      (obtainPages t e.slice 6 = .got u) :=
  ⟨seatedRoom, (match obtainPages seatedRoom 63 6 with | .got u => u | _ => seatedRoom), seat0, ⟨by decide, by decide, by decide, by decide, by rfl⟩⟩

/-- A WORK of that mode: X1 bounds, X2 receives, stride 1, scale 1. -/
def work (mode : Nat) : IWord := iword [(0, 0x22), (8, mode), (22, 2), (26, 3), (30, 1), (34, 1), (42, 1), (58, 1)]

/-- A SHAPE of the rank plus a signed 16-bit number. -/
def shapeWord (add : Nat) : IWord := iword [(0, 0x23), (8, 1), (12, 1), (20, 1), (36, add)]

/-- A FENCE of the band class. -/
def fenceWord : IWord := iword [(0, 0x24), (8, 2)]

theorem witness_loopsShapesFences_localEnter :
    ∃ (sp : Fin 48) (w : IWord) (s : State) (t : State) (e : Seat) (j : Job) (i : Nat),
      (Issues s sp.val w e j t) ∧ (opcodeOf w = opWork) ∧ (kMode w = 0) ∧
      (i = ((getCtx t e.phys).loop.map Loop.t).getD (readX (getCtx t e.phys).x (kXs w)).toNat) ∧
      (i * kScale w < (readX (getCtx t e.phys).x (kXl w)).toNat) :=
  ⟨0, (work 0), (seated [(work 0)] ({ Ctx.zero with x := [(1, 9)] })), settle (seated [(work 0)] ({ Ctx.zero with x := [(1, 9)] })) seat0, seat0,
      jobOf [(work 0)], 0, ⟨issuesIn_issues (by decide), by decide, by decide, by decide, by decide⟩⟩

theorem witness_loopsShapesFences_localLeave :
    ∃ (sp : Fin 48) (w : IWord) (s : State) (t : State) (e : Seat) (j : Job) (i : Nat),
      (Issues s sp.val w e j t) ∧ (opcodeOf w = opWork) ∧ (kMode w = 0) ∧
      (i = ((getCtx t e.phys).loop.map Loop.t).getD (readX (getCtx t e.phys).x (kXs w)).toNat) ∧
      ((readX (getCtx t e.phys).x (kXl w)).toNat ≤ i * kScale w) :=
  ⟨0, (work 0), (seated [(work 0)] Ctx.zero), settle (seated [(work 0)] Ctx.zero) seat0, seat0, jobOf [(work 0)], 0, ⟨issuesIn_issues (by decide),
      by decide, by decide, by decide, by decide⟩⟩

theorem witness_loopsShapesFences_counterEnter :
    ∃ (sp : Fin 48) (w : IWord) (s : State) (t : State) (e : Seat) (j : Job) (x : Slice),
      (Issues s sp.val w e j t) ∧ (opcodeOf w = opWork) ∧ (kMode w = 1) ∧ (lookup t.slices e.slice = some x) ∧
      (readD 0 x.ctrValue (kCtr w) < readD 0 x.ctrLimit (kCtr w)) :=
  ⟨0, (work 1), ({ seated [(work 1)] Ctx.zero with slices := [(63, { slice0 with ctrLimit := [(0, 1)] })] }),
      settle ({ seated [(work 1)] Ctx.zero with slices := [(63, { slice0 with ctrLimit := [(0, 1)] })] }) seat0, seat0, jobOf [(work 1)],
      { slice0 with ctrLimit := [(0, 1)] }, ⟨issuesIn_issues (by decide), by decide, by decide, by decide, by decide⟩⟩

theorem witness_loopsShapesFences_counterLeave :
    ∃ (sp : Fin 48) (w : IWord) (s : State) (t : State) (e : Seat) (j : Job) (x : Slice),
      (Issues s sp.val w e j t) ∧ (opcodeOf w = opWork) ∧ (kMode w = 1) ∧ (lookup t.slices e.slice = some x) ∧
      (readD 0 x.ctrLimit (kCtr w) ≤ readD 0 x.ctrValue (kCtr w)) :=
  ⟨0, (work 1), (seated [(work 1)] Ctx.zero), settle (seated [(work 1)] Ctx.zero) seat0, seat0, jobOf [(work 1)], slice0, ⟨issuesIn_issues (by decide),
      by decide, by decide, by decide, by decide⟩⟩

theorem witness_loopsShapesFences_init :
    ∃ (sp : Fin 48) (w : IWord) (s : State) (t : State) (e : Seat) (j : Job), (Issues s sp.val w e j t) ∧ (opcodeOf w = opWork) ∧ (kMode w = 2) :=
  ⟨0, (work 2), (seated [(work 2)] Ctx.zero), settle (seated [(work 2)] Ctx.zero) seat0, seat0, jobOf [(work 2)], ⟨issuesIn_issues (by decide), by decide,
      by decide⟩⟩

theorem witness_loopsShapesFences_shape :
    ∃ (sp : Fin 48) (w : IWord) (s : State) (t : State) (e : Seat) (j : Job),
      (Issues s sp.val w e j t) ∧ (opcodeOf w = opShape) ∧ (0 ≤ shapeValue j e.rank w) ∧ (shapeValue j e.rank w < 2 ^ 32) :=
  ⟨0, (shapeWord 0x7FFF), (seated [(shapeWord 0x7FFF)] Ctx.zero), settle (seated [(shapeWord 0x7FFF)] Ctx.zero) seat0, seat0, jobOf [(shapeWord 0x7FFF)],
      ⟨issuesIn_issues (by decide), by decide, by decide, by decide⟩⟩

theorem witness_loopsShapesFences_shapeBad :
    ∃ (sp : Fin 48) (w : IWord) (s : State) (t : State) (e : Seat) (j : Job),
      (Issues s sp.val w e j t) ∧ (opcodeOf w = opShape) ∧ ((shapeValue j e.rank w < 0 ∨ 2 ^ 32 ≤ shapeValue j e.rank w)) :=
  ⟨0, (shapeWord 0xFFFF), (seated [(shapeWord 0xFFFF)] Ctx.zero), settle (seated [(shapeWord 0xFFFF)] Ctx.zero) seat0, seat0, jobOf [(shapeWord 0xFFFF)],
      ⟨issuesIn_issues (by decide), by decide, by decide⟩⟩

theorem witness_loopsShapesFences_fence :
    ∃ (sp : Fin 48) (w : IWord) (s : State) (t : State) (e : Seat) (j : Job),
      (Issues s sp.val w e j t) ∧ (opcodeOf w = opFence) ∧ (classesDone (getCtx t e.phys) (fClass w) (getCtx t e.phys).serial = true) :=
  ⟨0, fenceWord, (seated [fenceWord] Ctx.zero), settle (seated [fenceWord] Ctx.zero) seat0, seat0, jobOf [fenceWord], ⟨issuesIn_issues (by decide),
      by decide, by decide⟩⟩

theorem witness_loopsShapesFences_fenceHolds :
    ∃ (sp : Fin 48) (w : IWord) (s : State) (t : State) (e : Seat) (j : Job),
      (Issues s sp.val w e j t) ∧ (opcodeOf w = opFence) ∧ (classesDone (getCtx t e.phys) (fClass w) (getCtx t e.phys).serial = false) :=
  ⟨0, fenceWord, (seated [fenceWord] ({ Ctx.zero with bandq := [request 0 1], serial := 1 })),
      settle (seated [fenceWord] ({ Ctx.zero with bandq := [request 0 1], serial := 1 })) seat0, seat0, jobOf [fenceWord], ⟨issuesIn_issues (by decide),
      by decide, by decide⟩⟩

/-- A JOB_SUBMIT of one rank and one step, its block at 0x10000 and its two-instruction program at 0x10100. -/
def submitOp : Op := opOf 0x20 63 [(8, 8, 0x10000), (16, 1, 1), (20, 4, 1)]
def submitState : State :=
  { withMem submitOp [(0x10008, 8, 0x10100), (0x10010, 2, 2), (0x10020, 16, 2 ^ 128 - 1), (0x10100, 16, 0x24)] with
    slices := [(63, { slice0 with conf := { slice0.conf with spindles := 2 ^ 48 - 1 } })] }

/-- A job whose shape table has a value over its bound in slot 0. -/
def overShape : State :=
  modPort (withJob { jobOf [] with phase := .submitted, place := none, shapesAddr := 0x8000 } [] []) 0 (fun x =>
    { x with mem := writeBytes x.mem 0x8000 (leBytes 16 (1 + 5 * 2 ^ 32 + 9 * 2 ^ 64)) })

/-- A job whose shape table lies in the port's window, in a line the partner holds. -/
def recallShape : State :=
  modPort (withJob { jobOf [] with phase := .submitted, place := none, shapesAddr := 0x8000, jaddr := 0x10000 } [] []) 0 (fun x =>
    { x with window := some { caddr := 0, pages := 1, slice := 63, first := 0 }, lines := [(512, .exclusive)] })

/-- A job in a slice with dedicated spindles 5 and 6. -/
def roomFor (j : Job) : State :=
  { withJob j [] [] with slices := [(63, { slice0 with conf := { slice0.conf with spindles := 0x60 } })] }

/-- A job with a yielded rank at a WAIT for nothing. -/
def yieldedJob : Job := { jobOf [iword [(0, 0x21)]] with rankStates := [.yielded], saved := [(0, Ctx.zero)] }

theorem witness_jobsOutsideDrafts_submit :
    ∃ (op : Nat) (o : Op) (s : State) (t : State) (b : List Byte),
      (Ready s op 0x20 2 o) ∧ (t = started s op 2) ∧ (lookup s.jobs op = none) ∧ ((o.f 8 8) % 64 = 0) ∧ (1 ≤ o.f 16 1) ∧ (o.f 16 1 ≤ 48) ∧ (o.f 17 1 ≤ 7) ∧
      (o.f 20 4 ≠ 0) ∧ (Reaches t o [((o.f 8 8), 256, true)]) ∧ (homeFails t o.port (o.f 8 8) 192 = false) ∧ (b = readPartner t o.port (o.f 8 8) 192) ∧
      (jobBlockBad b = none) ∧ (Reaches t o [(field b 8 8, 16 * field b 16 2, false), (field b 24 8, 32 * field b 18 2, false)]) ∧
      (homeFails t o.port (field b 8 8) (16 * field b 16 2) = false) ∧ (homeFails t o.port (field b 24 8) (32 * field b 18 2) = false) :=
  ⟨0, submitOp, submitState, _, _, ⟨by decide, rfl, by decide, by decide, by decide, by decide, by decide, by decide, by decide, by decide, rfl, by decide,
      by decide, by decide, by decide⟩⟩

theorem witness_jobsOutsideDrafts_accepted :
    ∃ (o : Op) (t : State) (b : List Byte) (pb : List Byte),
      (field b 18 2 = 0) ∧ (o.f 16 1 ≤ (usable t o.slice).length) ∧ (badSlot t o.slice ((List.range 32).map (slotHandle b 32)) [] = none) ∧
      (checkProgramFrom (progCtx t o.slice (o.f 16 1) (List.range (o.f 16 1)) (field b 16 2)) ((List.range (field b 16 2)).map (readInstr pb)) 0 0 = none) :=
  ⟨submitOp, submitState, leBytes 32 (2 * 2 ^ 128) ++ List.replicate 128 0xFF#8, leBytes 16 0x24 ++ leBytes 16 0x24, ⟨by decide, by decide, by decide,
      by decide⟩⟩

theorem witness_jobsOutsideDrafts_issue :
    ∃ (op : Nat) (s : State) (t : State) (u : State) (j : Job) (vals : List Nat),
      (lookup s.jobs op = some j) ∧ (j.phase = .submitted) ∧ (j.draft = none) ∧ (starved s j = false) ∧ (j.place = none) ∧ (mayIssue s op j = true) ∧
      (awake s 2 = true) ∧ (statusLines s j = []) ∧ (t = takePlace s op) ∧ (shapeDecision t j.port j.slice j.shapesAddr = .run u vals) :=
  ⟨0, withJob { jobOf [] with phase := .submitted, place := none } [] [], _, _, { jobOf [] with phase := .submitted, place := none }, _, ⟨by decide,
      by decide, by decide, by decide, by decide, by decide, by decide, by decide, rfl, rfl⟩⟩

theorem witness_jobsOutsideDrafts_over :
    ∃ (op : Nat) (s : State) (t : State) (u : State) (j : Job) (st : Nat) (d : Nat) (r : Nat),
      (lookup s.jobs op = some j) ∧ (j.phase = .submitted) ∧ (j.draft = none) ∧ (starved s j = false) ∧ (j.place = none) ∧ (mayIssue s op j = true) ∧
      (awake s 2 = true) ∧ (statusLines s j = []) ∧ (t = takePlace s op) ∧ (shapeDecision t j.port j.slice j.shapesAddr = .ends u st d r) :=
  ⟨0, overShape, _, _, { jobOf [] with phase := .submitted, place := none, shapesAddr := 0x8000 }, stShapeOver, 0, 9, ⟨by decide, by decide, by decide,
      by decide, by decide, by decide, by decide, by decide, rfl, rfl⟩⟩

theorem witness_jobsOutsideDrafts_recalls :
    ∃ (op : Nat) (s : State) (t : State) (u : State) (j : Job),
      (lookup s.jobs op = some j) ∧ (j.phase = .submitted) ∧ (j.draft = none) ∧ (starved s j = false) ∧ (j.place = none) ∧ (mayIssue s op j = true) ∧
      (awake s 2 = true) ∧ (statusLines s j = []) ∧ (t = takePlace s op) ∧ (shapeDecision t j.port j.slice j.shapesAddr = .wait u) :=
  ⟨0, recallShape, _, _, { jobOf [] with phase := .submitted, place := none, shapesAddr := 0x8000, jaddr := 0x10000 }, ⟨by decide, by decide, by decide,
      by decide, by decide, by decide, by decide, by decide, rfl, rfl⟩⟩

theorem witness_jobsOutsideDrafts_starved :
    ∃ (op : Nat) (s : State) (j : Job), (lookup s.jobs op = some j) ∧ (j.phase = .submitted) ∧ (j.draft = none) ∧ (starved s j = true) :=
  ⟨0, withJob { jobOf [] with phase := .submitted, ranks := 48 } [] [], { jobOf [] with phase := .submitted, ranks := 48 }, ⟨by decide, by decide,
      by decide, by decide⟩⟩

theorem witness_jobsOutsideDrafts_dispatch :
    ∃ (job : Nat) (s : State) (j : Job) (sps : List Nat),
      (lookup s.jobs job = some j) ∧ (j.phase = .ready) ∧ (j.draft = none) ∧ (s.ras.halted = false) ∧ (s.pins.throttle = false) ∧ (powerPending s = false) ∧
      (starved s j = false) ∧ (awake s 0 = true) ∧ (requiredDone j j.step = true) ∧ (mayDispatch s job j = true) ∧ (placementOf s j = some sps) ∧
      (statusLines s j = []) ∧ ((j.saved.isEmpty || s.memStacks.all (fun k => k.uncorr.isEmpty)) = true) :=
  ⟨0, roomFor { jobOf [] with phase := .ready, spindles := [] }, { jobOf [] with phase := .ready, spindles := [] }, [5], ⟨by decide, by decide, by decide,
      by decide, by decide, by decide, by decide, by decide, by decide, by decide, by decide, by decide, by decide⟩⟩

theorem witness_jobsOutsideDrafts_limit :
    ∃ (job : Nat) (since : Nat) (s : State) (j : Job),
      (lookup s.jobs job = some j) ∧ (j.phase = .running since) ∧ (j.draft = none) ∧ (since + 64 ≤ s.clock) ∧ (j.failing = none) ∧
      (j.rankStates.any (fun r => r = .running) = true) :=
  ⟨0, 0, { withJob (jobOf []) [] [] with clock := 64 }, jobOf [], ⟨by decide, by decide, by decide, by decide, by decide, by decide⟩⟩

theorem witness_jobsOutsideDrafts_abort :
    ∃ (op : Nat) (jid : Nat) (o : Op) (s : State) (u : State),
      (Ready s op 0x21 4 o) ∧ (o.phase = .fetched) ∧ (abortTarget (started s op 4) o = some jid) ∧ (u = abortJob (started s op 4) jid) :=
  ⟨9, 0, opOf 0x21 63 [(8, 2, 0), (10, 2, 7)], { withJob (jobOf []) [] [] with ops := [(9, opOf 0x21 63 [(8, 2, 0), (10, 2, 7)])] }, _, ⟨by decide,
      by decide, by decide, rfl⟩⟩

theorem witness_jobsOutsideDrafts_abortNone :
    ∃ (op : Nat) (o : Op) (s : State),
      (Ready s op 0x21 4 o) ∧ (o.phase = .fetched) ∧ (abortTarget (started s op 4) o = none) ∧ (abortUnissued (started s op 4) op o = none) :=
  ⟨9, opOf 0x21 63 [(8, 2, 0), (10, 2, 8)], { withJob (jobOf []) [] [] with ops := [(9, opOf 0x21 63 [(8, 2, 0), (10, 2, 8)])] }, ⟨by decide, by decide,
      by decide, by decide⟩⟩

theorem witness_jobsOutsideDrafts_abortUnissued :
    ∃ (op : Nat) (id : Nat) (o : Op) (s : State),
      (Ready s op 0x21 4 o) ∧ (o.phase = .fetched) ∧ (abortTarget (started s op 4) o = none) ∧ (abortUnissued (started s op 4) op o = some id) :=
  ⟨9, 3, opOf 0x21 63 [(8, 2, 0), (10, 2, 8)],
      { withJob (jobOf []) [] [] with ops := [(3, { opOf 0x20 63 [] with tag := 8 }), (9, opOf 0x21 63 [(8, 2, 0), (10, 2, 8)])] }, ⟨by decide, by decide,
      by decide, by decide⟩⟩

theorem witness_jobsOutsideDrafts_abortEnds :
    ∃ (op : Nat) (o : Op) (s : State), (Ready s op 0x21 4 o) ∧ (o.phase ≠ .fetched) ∧ (abortTarget (started s op 4) o = none) :=
  ⟨9, { opOf 0x21 63 [(8, 2, 0), (10, 2, 8)] with phase := .started },
      { withJob (jobOf []) [] [] with ops := [(9, { opOf 0x21 63 [(8, 2, 0), (10, 2, 8)] with phase := .started })] }, ⟨by decide, by decide, by decide⟩⟩

theorem witness_jobsOutsideDrafts_abortIdle :
    ∃ (s : State) (jid : Nat) (j : Job), (lookup s.jobs jid = some j) ∧ (jobIdle j = true) ∧ (j.phase ≠ .frozen) :=
  ⟨withJob { jobOf [] with phase := .ready } [] [], 0, { jobOf [] with phase := .ready }, ⟨by decide, by decide, by decide⟩⟩

theorem witness_jobsOutsideDrafts_abortRuns :
    ∃ (s : State) (jid : Nat) (j : Job), (lookup s.jobs jid = some j) ∧ (jobIdle j = false) :=
  ⟨withJob (jobOf []) [] [], 0, jobOf [], ⟨by decide, by decide⟩⟩

theorem witness_jobsOutsideDrafts_resume :
    ∃ (job : Nat) (since : Nat) (l : Nat) (rank : Fin 48) (s : State) (j : Job) (c : Ctx) (w : IWord),
      (lookup s.jobs job = some j) ∧ (lookup j.saved rank.val = some c) ∧ (j.phase = .running since) ∧ (j.rankStates[rank.val]? = some .yielded) ∧
      (j.prog[c.pos]? = some w) ∧ (sN w ≤ semValue s j.slice (sSem w)) ∧ (s.ras.halted = false) ∧ (j.abortAtEnd = none) ∧ (j.failing = none) ∧
      (awake s 0 = true) ∧ (bestSpindle s j (freeFor s j.slice) = some l) ∧ (s.memStacks.all (fun k => k.uncorr.isEmpty) = true) :=
  ⟨0, 0, 5, 0, roomFor yieldedJob, yieldedJob, Ctx.zero, iword [(0, 0x21)], ⟨by decide, by decide, by decide, by decide, by decide, by decide, by decide,
      by decide, by decide, by decide, by decide, by decide⟩⟩

/-- A PLY_REFORM of this device alone, its table at 0x20000. -/
def reformOp (kind : Nat) : Op := opOf 0x7C 0xFF [(8, 8, 0x20000), (16, 2, 1), (20, 1, kind), (21, 1, 63), (22, 2, 5), (40, 8, 1000)]
def reformState (kind : Nat) : State := withMem (reformOp kind) [(0x20000, 4, 0x80000000)]

/-- A PLY_REFORM of member 1 of two, member 0 the anchor. -/
def reformMember : Op := opOf 0x7C 0xFF [(8, 8, 0x20000), (16, 2, 2), (18, 2, 1), (20, 1, 0), (21, 1, 63), (22, 2, 5)]

/-- A frozen draft of slice 63, whose member table is the one of `reformOp`. -/
def frozenState : State :=
  { reformState 1 with
    jobs := [(7, { jobOf [] with phase := .frozen, draft := some { drafted with total := 1 } })],
    drafts := [(0, { oneDraft [] [] [] with mship := (shake256 (leBytes 4 0x80000000)).take 32, vmax := 200 })] }

theorem witness_plies_form :
    ∃ (op : Nat) (d : Nat) (hops : Nat) (beat : Nat) (o : Op) (s : State) (t : State) (u : State) (b : List Byte) (p : Ply),
      (Ready s op 0x7C 2 o) ∧ (o.f 20 1 = 0) ∧ (t = started s op 2) ∧ (o.left = none) ∧ (Clear (reformChecks t o)) ∧ (Reaches t o [(o.f 8 8, 4 * o.f 16 2,
      false)]) ∧ (homeFails t o.port (o.f 8 8) (4 * o.f 16 2) = false) ∧ (b = (readPartner t o.port (o.f 8 8) (4 * o.f 16 2))) ∧
      (membershipBad t b (o.f 16 2) (o.f 18 2) = false) ∧ (d ≤ 48) ∧ (hops ≤ 24) ∧ (p = newPly t o b d hops) ∧
      (u = { adoptNumbering t (memberAnchor b p.self) hops beat with plies := insertKey (adoptNumbering t (memberAnchor b p.self) hops beat).plies (o.f 21 1) p }) ∧ (u.trd.load = none) :=
  ⟨0, 48, 24, 1000, reformOp 0, reformState 0, _, _, _, _, ⟨by decide, by decide, rfl, by decide, by decide, by decide, by decide, rfl, by decide,
      by decide, by decide, rfl, rfl, by decide⟩⟩

theorem witness_plies_loads :
    ∃ (op : Nat) (d : Nat) (hops : Nat) (beat : Nat) (o : Op) (s : State) (t : State) (u : State) (b : List Byte) (p : Ply),
      (Ready s op 0x7C 2 o) ∧ (o.f 20 1 = 0) ∧ (t = started s op 2) ∧ (o.left = none) ∧ (Clear (reformChecks t o)) ∧ (Reaches t o [(o.f 8 8, 4 * o.f 16 2,
      false)]) ∧ (homeFails t o.port (o.f 8 8) (4 * o.f 16 2) = false) ∧ (b = (readPartner t o.port (o.f 8 8) (4 * o.f 16 2))) ∧
      (membershipBad t b (o.f 16 2) (o.f 18 2) = false) ∧ (d ≤ 48) ∧ (hops ≤ 24) ∧ (p = newPly t o b d hops) ∧
      (u = { adoptNumbering t (memberAnchor b p.self) hops beat with plies := insertKey (adoptNumbering t (memberAnchor b p.self) hops beat).plies (o.f 21 1) p }) ∧ (u.trd.load ≠ none) :=
  ⟨0, 2, 1, 7, reformMember, withMem reformMember [(0x20000, 4, 0x80000009)], _, _, _, _, ⟨by decide, by decide, rfl, by decide, by decide, by decide,
      by decide, rfl, by decide, by decide, by decide, rfl, rfl, by decide⟩⟩

theorem witness_plies_loaded :
    ∃ (op : Nat) (o : Op) (s : State) (t : State) (l : List Nat) (p : Ply),
      (Ready s op 0x7C 2 o) ∧ (o.f 20 1 = 0) ∧ (t = started s op 2) ∧ (o.left = some l) ∧ (lookup s.plies (o.f 21 1) = some p) ∧ (s.trd.load = none) :=
  ⟨0, { reformOp 0 with left := some [], phase := .started },
      { withSlice { reformOp 0 with left := some [], phase := .started } with plies := [(63, ply0)] }, _, [], ply0, ⟨by decide, by decide, rfl, by decide,
      by decide, by decide⟩⟩

theorem witness_plies_digest :
    ∃ (op : Nat) (o : Op) (s : State) (t : State) (b : List Byte),
      (Ready s op 0x7C 2 o) ∧ (o.f 20 1 = 0) ∧ (t = started s op 2) ∧ (o.left = none) ∧ (Clear (reformChecks t o)) ∧ (Reaches t o [(o.f 8 8, 4 * o.f 16 2,
      false)]) ∧ (homeFails t o.port (o.f 8 8) (4 * o.f 16 2) = false) ∧ (b = (readPartner t o.port (o.f 8 8) (4 * o.f 16 2))) ∧
      (membershipBad t b (o.f 16 2) (o.f 18 2) = false) :=
  ⟨0, reformOp 0, reformState 0, _, _, ⟨by decide, by decide, rfl, by decide, by decide, by decide, by decide, rfl, by decide⟩⟩

theorem witness_plies_unreachable :
    ∃ (op : Nat) (o : Op) (s : State) (t : State) (b : List Byte),
      (Ready s op 0x7C 2 o) ∧ (o.f 20 1 = 0) ∧ (t = started s op 2) ∧ (o.left = none) ∧ (Clear (reformChecks t o)) ∧ (Reaches t o [(o.f 8 8, 4 * o.f 16 2,
      false)]) ∧ (homeFails t o.port (o.f 8 8) (4 * o.f 16 2) = false) ∧ (b = (readPartner t o.port (o.f 8 8) (4 * o.f 16 2))) ∧
      (membershipBad t b (o.f 16 2) (o.f 18 2) = false) :=
  ⟨0, reformOp 0, reformState 0, _, _, ⟨by decide, by decide, rfl, by decide, by decide, by decide, by decide, rfl, by decide⟩⟩

theorem witness_plies_far :
    ∃ (op : Nat) (d : Nat) (hops : Nat) (o : Op) (s : State) (t : State) (b : List Byte),
      (Ready s op 0x7C 2 o) ∧ (o.f 20 1 = 0) ∧ (t = started s op 2) ∧ (o.left = none) ∧ (Clear (reformChecks t o)) ∧ (Reaches t o [(o.f 8 8, 4 * o.f 16 2,
      false)]) ∧ (homeFails t o.port (o.f 8 8) (4 * o.f 16 2) = false) ∧ (b = (readPartner t o.port (o.f 8 8) (4 * o.f 16 2))) ∧
      (membershipBad t b (o.f 16 2) (o.f 18 2) = false) ∧ ((48 < d ∨ 24 < hops)) :=
  ⟨0, 49, 24, reformOp 0, reformState 0, _, _, ⟨by decide, by decide, rfl, by decide, by decide, by decide, by decide, rfl, by decide, by decide⟩⟩

theorem witness_plies_resume :
    ∃ (op : Nat) (d : Nat) (hops : Nat) (beat : Nat) (jid : Nat) (total : Nat) (o : Op) (s : State) (t : State) (u : State) (v : State) (b : List Byte) (p : Ply) (j : Job) (r : DraftRun),
      (Ready s op 0x7C 2 o) ∧ (o.f 20 1 = 1) ∧ (t = started s op 2) ∧ (o.left = none) ∧ (Clear (reformChecks t o)) ∧ (Reaches t o [(o.f 8 8, 4 * o.f 16 2,
      false)]) ∧ (homeFails t o.port (o.f 8 8) (4 * o.f 16 2) = false) ∧ (b = (readPartner t o.port (o.f 8 8) (4 * o.f 16 2))) ∧
      (membershipBad t b (o.f 16 2) (o.f 18 2) = false) ∧ (d ≤ 48) ∧ (hops ≤ 24) ∧ (p = newPly t o b d hops) ∧
      (u = adoptNumbering t (memberAnchor b p.self) hops beat) ∧ (v = { u with plies := insertKey u.plies (o.f 21 1) p }) ∧ (v.trd.load = none) ∧
      (frozenDraft v (o.f 21 1) = some (jid, j, r)) ∧ (total = ((lookup v.drafts (o.f 24 4)).map (resumedTotal v r)).getD 0) ∧
      (resumeBad v (o.f 21 1) p r (o.f 24 4) = false) ∧ (o.f 32 8 < total) ∧ (v.trd.beat + p.v + 8 ≤ o.f 40 8) :=
  ⟨0, 2, 1, 0, 7, _, reformOp 1, frozenState, _, _, _, _, _, _, _, ⟨by decide, by decide, rfl, by decide, by decide, by decide, by decide, rfl, by decide,
      by decide, by decide, rfl, rfl, rfl, by decide +kernel, rfl, rfl, by decide +kernel, by decide +kernel, by decide +kernel⟩⟩

theorem witness_plies_resumeLoaded :
    ∃ (op : Nat) (jid : Nat) (total : Nat) (o : Op) (s : State) (v : State) (l : List Nat) (p : Ply) (j : Job) (r : DraftRun),
      (Ready s op 0x7C 2 o) ∧ (o.f 20 1 = 1) ∧ (v = started s op 2) ∧ (o.left = some l) ∧ (lookup s.plies (o.f 21 1) = some p) ∧ (s.trd.load = none) ∧
      (frozenDraft v (o.f 21 1) = some (jid, j, r)) ∧ (total = ((lookup v.drafts (o.f 24 4)).map (resumedTotal v r)).getD 0) ∧
      (resumeBad v (o.f 21 1) p r (o.f 24 4) = false) ∧ (o.f 32 8 < total) ∧ (v.trd.beat + p.v + 8 ≤ o.f 40 8) :=
  ⟨0, 7, _, { reformOp 1 with left := some [], phase := .started },
      { frozenState with ops := [(0, { reformOp 1 with left := some [], phase := .started })], plies := [(63, { ply0 with digest := (shake256 (leBytes 4 0x80000000)).take 32 })] }, _, [], _, _, _, ⟨by decide, by decide, rfl, rfl, rfl, by decide, rfl, rfl, by decide +kernel, by decide +kernel, by decide +kernel⟩⟩

theorem witness_plies_dissolve :
    ∃ (op : Nat) (o : Op) (s : State) (p : Ply),
      (Ready s op 0x7C 4 o) ∧ (o.f 20 1 = 2) ∧ (o.f 21 1 ≤ 63) ∧ (lookup s.plies (o.f 21 1) = some p) ∧ (p.id = o.f 22 2) ∧
      (plyJob (started s op 4) (o.f 21 1) = none) :=
  ⟨0, reformOp 2, { reformState 2 with plies := [(63, ply0)] }, ply0, ⟨by decide, by decide, by decide, by decide, by decide, by decide⟩⟩

/-- A slot entry of 64 bytes of the commons on link 0 with that gate, and a reduction chain between those members. -/
def slotEnt (kind sem : Nat) : SlotEnt := 
  { kind := kind, link := 0, peer := 0, beat := 0, rgroup := 1, sub := 0, flits := 1, sem := sem, tier := 1, addr := 0, bytes := 64 }
def redEnt (prev next : Nat) : RedEnt := 
  { op := 1, all := true, round := false, rgroup := 1, prev := prev, next := next, e := 1, nseg := 1, tier := 1, base := 0, seg0 := 0, sem := 0xFFFF, estride := 0 }

theorem witness_scheduledSlots_transmit :
    ∃ (job : Nat) (idx : Nat) (s : State) (u : State) (v : State) (j : Job) (d : DraftRun) (r : StepRec) (e : SlotEnt),
      (lookup s.jobs job = some j) ∧ (runningStep s j = some (d, r)) ∧ (s.ras.halted = false) ∧ (j.failing = none) ∧ (r.slots[idx]? = some e) ∧
      (d.slots[idx]? = some .waiting) ∧ (d.start + e.beat ≤ s.trd.beat) ∧ (e.kind = 1) ∧ ((e.sem = 0xFFFF ∨ semValue s j.slice e.sem ≠ 0)) ∧
      (touch s j.slice e.tier (e.addr * 64) e.bytes false = .ready u) ∧ (v = noteTouched u job 48 e.tier (e.addr * 64) e.bytes) :=
  ⟨0, 0, withJob (drafting [.waiting] []) [slotEnt 1 0xFFFF] [], _, _, (drafting [.waiting] []), { drafted with slots := [.waiting], reds := [] }, _,
      slotEnt 1 0xFFFF, ⟨by decide, rfl, by decide, by decide, rfl, by decide, by decide, by decide, by decide, rfl, rfl⟩⟩

theorem witness_scheduledSlots_gated :
    ∃ (job : Nat) (idx : Nat) (s : State) (j : Job) (d : DraftRun) (r : StepRec) (e : SlotEnt),
      (lookup s.jobs job = some j) ∧ (runningStep s j = some (d, r)) ∧ (s.ras.halted = false) ∧ (j.failing = none) ∧ (r.slots[idx]? = some e) ∧
      (d.slots[idx]? = some .waiting) ∧ (d.start + e.beat ≤ s.trd.beat) ∧ (e.kind = 1) ∧ (e.sem ≠ 0xFFFF) ∧ (semValue s j.slice e.sem = 0) :=
  ⟨0, 0, withJob (drafting [.waiting] []) [slotEnt 1 3] [], (drafting [.waiting] []), { drafted with slots := [.waiting], reds := [] }, _, slotEnt 1 3,
      ⟨by decide, rfl, by decide, by decide, rfl, by decide, by decide, by decide, by decide, by decide⟩⟩

theorem witness_scheduledSlots_result :
    ∃ (job : Nat) (idx : Nat) (k : Nat) (s : State) (j : Job) (d : DraftRun) (r : StepRec) (e : SlotEnt) (red : RedEnt) (x : RedState) (acc : List Byte),
      (lookup s.jobs job = some j) ∧ (runningStep s j = some (d, r)) ∧ (s.ras.halted = false) ∧ (j.failing = none) ∧ (r.slots[idx]? = some e) ∧
      (d.slots[idx]? = some .waiting) ∧ (d.start + e.beat ≤ s.trd.beat) ∧ (e.kind = 4) ∧ (redOf r e = some (k, red)) ∧
      (redRole r e idx = some .giveResult) ∧ (d.reds[k]? = some x) ∧ (x.written = true) ∧ (x.acc = some acc) :=
  ⟨0, 1, 0, withJob (drafting [.waiting, .waiting] [{ acc := some [1#8], forwarded := true, written := true }]) [slotEnt 4 0xFFFF,
      { slotEnt 4 0xFFFF with sub := 1 }] [redEnt 0 1], drafting [.waiting, .waiting] [{ acc := some [1#8], forwarded := true, written := true }],
      { drafted with slots := [.waiting, .waiting], reds := [{ acc := some [1#8], forwarded := true, written := true }] }, _,
      { slotEnt 4 0xFFFF with sub := 1 }, redEnt 0 1, { acc := some [1#8], forwarded := true, written := true }, [1#8], ⟨by decide, rfl, by decide,
      by decide, rfl, by decide, by decide, by decide, by decide, by decide, by decide, by decide, by decide⟩⟩

theorem witness_scheduledSlots_early :
    ∃ (job : Nat) (idx : Nat) (s : State) (j : Job) (d : DraftRun) (r : StepRec) (e : SlotEnt),
      (lookup s.jobs job = some j) ∧ (runningStep s j = some (d, r)) ∧ (s.ras.halted = false) ∧ (r.slots[idx]? = some e) ∧
      (s.trd.beat < d.start + e.beat) :=
  ⟨0, 0, withJob (drafting [.waiting] []) [{ slotEnt 1 0xFFFF with beat := 9 }] [], (drafting [.waiting] []),
      { drafted with slots := [.waiting], reds := [] }, _, { slotEnt 1 0xFFFF with beat := 9 }, ⟨by decide, rfl, by decide, rfl, by decide⟩⟩

theorem witness_scheduledSlots_received :
    ∃ (job : Nat) (i : Nat) (link : Fin 96) (hdr : SlotHeader) (data : List Byte) (s : State) (j : Job) (d : DraftRun) (r : StepRec) (e : SlotEnt) (u : State),
      (lookup s.jobs job = some j) ∧ (runningStep s j = some (d, r)) ∧ (s.ras.halted = false) ∧ (j.failing = none) ∧ (hdr.step = j.step) ∧
      ((r.slots.zipIdx).find? (fun f => takesOn s j.slice r link.val f.1 f.2 && ordOf r (takesOn s j.slice r link.val) f.1 f.2 = hdr.ord) = some (e, i)) ∧
      (d.slots[i]? = some .waiting) ∧ (e.kind = 2) ∧ (hdr.bytes = e.bytes) ∧ (data.length = e.bytes) ∧
      (touch s j.slice e.tier (e.addr * 64) e.bytes true = .ready u) :=
  ⟨0, 0, 0, { step := 0, ord := 0, kind := 1, rgroup := 0, bytes := 64 }, List.replicate 64 0#8, withJob (drafting [.waiting] []) [slotEnt 2 0xFFFF] [],
      (drafting [.waiting] []), { drafted with slots := [.waiting], reds := [] }, _, slotEnt 2 0xFFFF, _, ⟨by decide, rfl, by decide, by decide, by decide,
      by decide, by decide, by decide, by decide, by decide, rfl⟩⟩

theorem witness_scheduledSlots_forwarded :
    ∃ (job : Nat) (i : Nat) (link : Fin 96) (hdr : SlotHeader) (data : List Byte) (s : State) (j : Job) (d : DraftRun) (r : StepRec) (e : SlotEnt),
      (lookup s.jobs job = some j) ∧ (runningStep s j = some (d, r)) ∧ (s.ras.halted = false) ∧ (j.failing = none) ∧ (hdr.step = j.step) ∧
      ((r.slots.zipIdx).find? (fun f => takesOn s j.slice r link.val f.1 f.2 && ordOf r (takesOn s j.slice r link.val) f.1 f.2 = hdr.ord) = some (e, i)) ∧
      (d.slots[i]? = some .waiting) ∧ (e.kind = 3) ∧ (data.length = hdr.bytes) :=
  ⟨0, 0, 0, { step := 0, ord := 0, kind := 1, rgroup := 0, bytes := 0 }, [],
      { withJob (drafting [.waiting] []) [{ slotEnt 3 0xFFFF with link := 1 }] [] with plies := [(63, ply0)] }, (drafting [.waiting] []),
      { drafted with slots := [.waiting], reds := [] }, _, { slotEnt 3 0xFFFF with link := 1 }, ⟨by decide, rfl, by decide, by decide, by decide,
      by decide, by decide, by decide, by decide⟩⟩

theorem witness_scheduledSlots_taken :
    ∃ (job : Nat) (i : Nat) (link : Fin 96) (hdr : SlotHeader) (data : List Byte) (s : State) (j : Job) (d : DraftRun) (r : StepRec) (e : SlotEnt) (k : Nat) (red : RedEnt),
      (lookup s.jobs job = some j) ∧ (runningStep s j = some (d, r)) ∧ (s.ras.halted = false) ∧ (j.failing = none) ∧ (hdr.step = j.step) ∧
      ((r.slots.zipIdx).find? (fun f => takesOn s j.slice r link.val f.1 f.2 && ordOf r (takesOn s j.slice r link.val) f.1 f.2 = hdr.ord) = some (e, i)) ∧
      (d.slots[i]? = some .waiting) ∧ (e.kind = 4) ∧ (redOf r e = some (k, red)) ∧ (redRole r e i = some .takeValue) ∧
      (hdr.bytes = red.e * redElem red.op) ∧ (data.length = hdr.bytes) :=
  ⟨0, 0, 0, { step := 0, ord := 0, kind := 1, rgroup := 0, bytes := 8 }, List.replicate 8 0#8,
      withJob (drafting [.waiting] []) [slotEnt 4 0xFFFF] [redEnt 0 0xFFFF], (drafting [.waiting] []), { drafted with slots := [.waiting], reds := [] }, _,
      slotEnt 4 0xFFFF, 0, redEnt 0 0xFFFF, ⟨by decide, rfl, by decide, by decide, by decide, by decide, by decide, by decide, by decide, by decide,
      by decide, by decide⟩⟩

theorem witness_scheduledSlots_resultTaken :
    ∃ (job : Nat) (i : Nat) (link : Fin 96) (hdr : SlotHeader) (data : List Byte) (s : State) (j : Job) (d : DraftRun) (r : StepRec) (e : SlotEnt) (k : Nat) (red : RedEnt) (u : State),
      (lookup s.jobs job = some j) ∧ (runningStep s j = some (d, r)) ∧ (s.ras.halted = false) ∧ (j.failing = none) ∧ (hdr.step = j.step) ∧
      ((r.slots.zipIdx).find? (fun f => takesOn s j.slice r link.val f.1 f.2 && ordOf r (takesOn s j.slice r link.val) f.1 f.2 = hdr.ord) = some (e, i)) ∧
      (d.slots[i]? = some .waiting) ∧ (e.kind = 4) ∧ (redOf r e = some (k, red)) ∧ (redRole r e i = some .takeResult) ∧
      (hdr.bytes = red.e * redElem red.op) ∧ (data.length = hdr.bytes) ∧ (touch s j.slice red.tier red.base (segSpan red 1) true = .ready u) :=
  ⟨0, 1, 0, { step := 0, ord := 0, kind := 1, rgroup := 0, bytes := 8 }, List.replicate 8 0#8, withJob (drafting [.waiting,
      .waiting] []) [slotEnt 4 0xFFFF, slotEnt 4 0xFFFF] [redEnt 0xFFFF 0], drafting [.waiting, .waiting] [],
      { drafted with slots := [.waiting, .waiting], reds := [] }, _, slotEnt 4 0xFFFF, 0, redEnt 0xFFFF 0, _, ⟨by decide, rfl, by decide, by decide,
      by decide, by decide, by decide, by decide, by decide, by decide, by decide, by decide, rfl⟩⟩

theorem witness_scheduledSlots_metered :
    ∃ (s : State) (job : Nat) (i : Nat) (d : DraftRun), ((lookup s.jobs job).bind Job.draft = some d) ∧ (d.slots[i]? ≠ some .waiting) :=
  ⟨withJob (drafting [.sent] []) [] [], 0, 0, { drafted with slots := [.sent] }, ⟨by decide, by decide⟩⟩

theorem witness_scheduledSlots_untaken :
    ∃ (s : State) (job : Nat) (i : Nat) (d : DraftRun), ((lookup s.jobs job).bind Job.draft = some d) ∧ (d.slots[i]? = some .waiting) :=
  ⟨withJob (drafting [.waiting] []) [] [], 0, 0, { drafted with slots := [.waiting] }, ⟨by decide, by decide⟩⟩

theorem witness_scheduledSlots_unmatched :
    ∃ (job : Nat) (hdr : SlotHeader) (s : State) (j : Job) (d : DraftRun) (r : StepRec),
      (lookup s.jobs job = some j) ∧ (runningStep s j = some (d, r)) ∧ (s.ras.halted = false) ∧ (j.failing = none) ∧ (hdr.step ≠ j.step) :=
  ⟨0, { step := 5, ord := 0, kind := 1, rgroup := 0, bytes := 0 }, withJob (drafting [] []) [] [], drafting [] [],
      { drafted with slots := [], reds := [] }, _, ⟨by decide, rfl, by decide, by decide, by decide⟩⟩

theorem witness_scheduledSlots_mismatch :
    ∃ (job : Nat) (i : Nat) (link : Fin 96) (hdr : SlotHeader) (data : List Byte) (s : State) (j : Job) (d : DraftRun) (r : StepRec) (e : SlotEnt),
      (lookup s.jobs job = some j) ∧ (runningStep s j = some (d, r)) ∧ (s.ras.halted = false) ∧ (j.failing = none) ∧ (hdr.step = j.step) ∧
      ((r.slots.zipIdx).find? (fun f => takesOn s j.slice r link.val f.1 f.2 && ordOf r (takesOn s j.slice r link.val) f.1 f.2 = hdr.ord) = some (e, i)) ∧
      (d.slots[i]? = some .waiting) ∧ ((hdr.bytes ≠ expectedBytes r e hdr ∨ data.length ≠ hdr.bytes)) :=
  ⟨0, 0, 0, { step := 0, ord := 0, kind := 1, rgroup := 0, bytes := 63 }, [], withJob (drafting [.waiting] []) [slotEnt 2 0xFFFF] [],
      (drafting [.waiting] []), { drafted with slots := [.waiting], reds := [] }, _, slotEnt 2 0xFFFF, ⟨by decide, rfl, by decide, by decide, by decide,
      by decide, by decide, by decide⟩⟩

theorem witness_lanes_trained :
    ∃ (n : Fin 104) (far : FarEnd) (s : State),
      ((getLane s n.val).en = true) ∧ ((getLane s n.val).up = false) ∧ ((getLane s n.val).trainFails < 3) ∧ (far.fecLL = (getLane s n.val).ctrlFec) ∧
      (far.bond = (getLane s n.val).ctrlBond) :=
  ⟨103, { node := 1, logical := 3, fecLL := false, bond := 0, delay := 19201 }, booted, ⟨by decide, by decide, by decide, by decide, by decide⟩⟩

theorem witness_lanes_disagrees :
    ∃ (n : Fin 104) (far : FarEnd) (s : State),
      ((getLane s n.val).en = true) ∧ ((getLane s n.val).up = false) ∧ ((getLane s n.val).trainFails < 3) ∧
      ((far.fecLL ≠ (getLane s n.val).ctrlFec ∨ far.bond ≠ (getLane s n.val).ctrlBond)) :=
  ⟨0, { node := 1, logical := 3, fecLL := true, bond := 0, delay := 0 }, booted, ⟨by decide, by decide, by decide, by decide⟩⟩

theorem witness_lanes_staysDown :
    ∃ (n : Fin 104) (s : State), (3 ≤ (getLane s n.val).trainFails) :=
  ⟨5, modLane booted 5 (fun x => { x with trainFails := 3 }), by decide⟩

theorem witness_lanes_retrained :
    ∃ (n : Fin 104) (far : FarEnd) (s : State),
      ((getLane s n.val).retraining = true) ∧ (far.fecLL = (getLane s n.val).ctrlFec) ∧ (far.bond = (getLane s n.val).ctrlBond) :=
  ⟨5, { node := 1, logical := 3, fecLL := false, bond := 0, delay := 0 }, modLane booted 5 (fun x => { x with retraining := true }), ⟨by decide, by decide,
      by decide⟩⟩

theorem witness_lanes_retrainDisagrees :
    ∃ (n : Fin 104) (far : FarEnd) (s : State),
      ((getLane s n.val).retraining = true) ∧ ((far.fecLL ≠ (getLane s n.val).ctrlFec ∨ far.bond ≠ (getLane s n.val).ctrlBond)) :=
  ⟨5, { node := 1, logical := 3, fecLL := false, bond := 1, delay := 0 }, modLane booted 5 (fun x => { x with retraining := true }), ⟨by decide,
      by decide⟩⟩

theorem witness_lanes_again :
    ∃ (n : Fin 104) (s : State), ((getLane s n.val).retraining = true) ∧ ((getLane s n.val).trainFails < 2) :=
  ⟨5, modLane booted 5 (fun x => { x with retraining := true, trainFails := 1 }), ⟨by decide, by decide⟩⟩

theorem witness_lanes_gaveUp :
    ∃ (n : Fin 104) (s : State) (u : State),
      ((getLane s n.val).retraining = true) ∧ (2 ≤ (getLane s n.val).trainFails) ∧
      (u = modLane s n.val (fun x => { x with trainFails := 3, retraining := false, up := false, downSaid := true })) :=
  ⟨5, modLane booted 5 (fun x => { x with retraining := true, trainFails := 2 }), _, ⟨by decide, by decide, rfl⟩⟩

theorem witness_lanes_disable :
    ∃ (who : Requester) (n : Fin 104) (v : Word) (s : State) (u : State),
      (mayWrite s who) ∧ (v.getLsbD 0 = false) ∧
      (u = modLane s n.val (fun x => { writeCtrl x v with up := false, trained := false, retraining := false })) :=
  ⟨.sideband, 5, 0, modLane booted 5 (fun x => { x with up := true }), _, ⟨by decide, by decide, rfl⟩⟩

theorem witness_lanes_enable :
    ∃ (who : Requester) (n : Fin 104) (v : Word) (s : State), (mayWrite s who) ∧ (v.getLsbD 0 = true) ∧ ((getLane s n.val).en = false) :=
  ⟨.port 0, 5, 1, modLane booted 5 (fun x => { x with en := false }), ⟨by decide, by decide, by decide⟩⟩

theorem witness_lanes_enabled :
    ∃ (who : Requester) (n : Fin 104) (v : Word) (s : State), (mayWrite s who) ∧ (v.getLsbD 0 = true) ∧ ((getLane s n.val).en = true) :=
  ⟨.port 0, 5, 1, booted, ⟨by decide, by decide, by decide⟩⟩

theorem witness_lanes_acks :
    ∃ (n : Fin 104) (s : State), (linkOf s n.val ≠ 0x7F) ∧ (linkUp s (linkOf s n.val) = true) :=
  ⟨5, modLane booted 5 (fun x => { x with up := true }), ⟨by decide, by decide⟩⟩

theorem witness_lanes_stuck :
    ∃ (n : Fin 104) (s : State) (h : Nat),
      (headOf s (linkOf s n.val) = some h) ∧ ((getLane s n.val).up = true) ∧ ((getLane s h).link.replayBuf ≠ []) ∧
      ((getLane s h).link.ackAt + 10 ≤ s.clock) :=
  ⟨5, { modLane booted 5 (fun x => { x with up := true, link := { x.link with replayBuf := [newFlit 1 0 0 true true []] } }) with clock := 10 }, 5,
      ⟨by decide, by decide, by decide, by decide⟩⟩

/-- Lane 5 up. -/
def laneUp : State := modLane booted 5 (fun x => { x with up := true })

/-- Lanes 4 and 5 plied and up. -/
def pliedLink : State :=
  [4, 5].foldl (fun s n => modLane s n (fun x => { x with up := true, bond := 1 })) booted

/-- A flit with that header and a good CRC, and one with a bad one. -/
def goodFlit (hdr : BitVec 64) : Flit := { hdr := hdr, payload := [], crc := Config.crc64 (leBytes 8 hdr.toNat ++ []) }
def badFlit : Flit := { hdr := 0, payload := [], crc := ~~~Config.crc64 (leBytes 8 (0 : BitVec 64).toNat ++ []) }

theorem badFlit_bad : crcGood badFlit = false := by
  have h : ∀ x : BitVec 64, x ≠ ~~~x := fun x h => by
    have := congrArg BitVec.toNat h
    simp only [BitVec.toNat_not] at this
    omega
  exact decide_eq_false (h _)

theorem witness_flits_data :
    ∃ (n : Fin 104) (f : Flit) (s : State) (t : State) (u : State) (v : State) (h : Nat),
      (f.hdr.toNat % 16 = 1) ∧ ((getLane s n.val).up = true) ∧ (crcGood f = true) ∧
      (t = modLane s n.val (fun x => { x with ctr := { x.ctr with rx := x.ctr.rx + 1 } })) ∧ (headOf t (linkOf s n.val) = some h) ∧
      (u = modLink t h (fun k => takeStall k f)) ∧ (bits f.hdr.toNat 8 12 = (getLane t h).link.expect) ∧ (v = acceptFlit u (linkOf s n.val) h f) :=
  ⟨5, goodFlit 1, laneUp, _, _, _, 5, ⟨by decide, by decide, decide_eq_true rfl, rfl, by decide, rfl, by rfl, rfl⟩⟩

theorem witness_flits_vote :
    ∃ (n : Fin 104) (f : Flit) (s : State) (t : State) (u : State) (v : State) (h : Nat),
      (f.hdr.toNat % 16 = 3) ∧ ((getLane s n.val).up = true) ∧ (crcGood f = true) ∧
      (t = modLane s n.val (fun x => { x with ctr := { x.ctr with rx := x.ctr.rx + 1 } })) ∧ (headOf t (linkOf s n.val) = some h) ∧
      (u = modLink t h (fun k => takeStall k f)) ∧ (bits f.hdr.toNat 8 12 = (getLane t h).link.expect) ∧ (v = acceptFlit u (linkOf s n.val) h f) :=
  ⟨5, goodFlit 3, laneUp, _, _, _, 5, ⟨by decide, by decide, decide_eq_true rfl, rfl, by decide, rfl, by rfl, rfl⟩⟩

theorem witness_flits_nak :
    ∃ (n : Fin 104) (f : Flit) (s : State) (t : State) (u : State) (v : State) (h : Nat),
      (f.hdr.toNat % 16 = 4) ∧ ((getLane s n.val).up = true) ∧ (crcGood f = true) ∧
      (t = modLane s n.val (fun x => { x with ctr := { x.ctr with rx := x.ctr.rx + 1 } })) ∧ (headOf t (linkOf s n.val) = some h) ∧
      (u = modLink t h (fun k => takeStall k f)) ∧ (bits f.hdr.toNat 8 12 = (getLane t h).link.expect) ∧ (v = acceptFlit u (linkOf s n.val) h f) :=
  ⟨5, goodFlit 4, laneUp, _, _, _, 5, ⟨by decide, by decide, decide_eq_true rfl, rfl, by decide, rfl, by rfl, rfl⟩⟩

theorem witness_flits_marker :
    ∃ (n : Fin 104) (f : Flit) (s : State) (t : State) (u : State) (v : State) (h : Nat),
      (f.hdr.toNat % 16 = 2) ∧ ((getLane s n.val).up = true) ∧ (crcGood f = true) ∧
      (t = modLane s n.val (fun x => { x with ctr := { x.ctr with rx := x.ctr.rx + 1 } })) ∧ (headOf t (linkOf s n.val) = some h) ∧
      (u = modLink t h (fun k => takeStall k f)) ∧ (v = acceptFlit u (linkOf s n.val) h f) :=
  ⟨5, goodFlit 2, laneUp, _, _, _, 5, ⟨by decide, by decide, decide_eq_true rfl, rfl, by decide, rfl, rfl⟩⟩

theorem witness_flits_ack :
    ∃ (n : Fin 104) (f : Flit) (s : State) (t : State) (u : State) (v : State) (h : Nat),
      (f.hdr.toNat % 16 = 5) ∧ ((getLane s n.val).up = true) ∧ (crcGood f = true) ∧
      (t = modLane s n.val (fun x => { x with ctr := { x.ctr with rx := x.ctr.rx + 1 } })) ∧ (headOf t (linkOf s n.val) = some h) ∧
      (u = modLink t h (fun k => takeStall k f)) ∧ (v = acceptFlit u (linkOf s n.val) h f) :=
  ⟨5, goodFlit 5, laneUp, _, _, _, 5, ⟨by decide, by decide, decide_eq_true rfl, rfl, by decide, rfl, rfl⟩⟩

theorem witness_flits_idle :
    ∃ (n : Fin 104) (f : Flit) (s : State) (t : State) (u : State) (v : State) (h : Nat),
      (f.hdr.toNat % 16 = 0) ∧ ((getLane s n.val).up = true) ∧ (crcGood f = true) ∧
      (t = modLane s n.val (fun x => { x with ctr := { x.ctr with rx := x.ctr.rx + 1 } })) ∧ (headOf t (linkOf s n.val) = some h) ∧
      (u = modLink t h (fun k => takeStall k f)) ∧ (v = acceptFlit u (linkOf s n.val) h f) :=
  ⟨5, goodFlit 0, laneUp, _, _, _, 5, ⟨by decide, by decide, decide_eq_true rfl, rfl, by decide, rfl, rfl⟩⟩

theorem witness_flits_acceptData :
    ∃ (f : Flit), (f.hdr.toNat % 16 = 1) :=
  ⟨goodFlit 1, by decide⟩

theorem witness_flits_acceptVote :
    ∃ (f : Flit), (f.hdr.toNat % 16 = 3) :=
  ⟨goodFlit 3, by decide⟩

theorem witness_flits_acceptNak :
    ∃ (f : Flit), (f.hdr.toNat % 16 = 4) :=
  ⟨goodFlit 4, by decide⟩

theorem witness_flits_acceptOther :
    ∃ (f : Flit), ((f.hdr.toNat % 16 = 0 ∨ f.hdr.toNat % 16 = 2 ∨ f.hdr.toNat % 16 = 5)) :=
  ⟨goodFlit 2, by decide⟩

theorem witness_flits_ahead :
    ∃ (n : Fin 104) (f : Flit) (s : State) (t : State) (u : State) (h : Nat),
      (f.hdr.toNat % 16 = 1) ∧ ((getLane s n.val).up = true) ∧ (crcGood f = true) ∧
      (t = modLane s n.val (fun x => { x with ctr := { x.ctr with rx := x.ctr.rx + 1 } })) ∧ (headOf t (linkOf s n.val) = some h) ∧
      (u = modLink t h (fun k => takeStall k f)) ∧ (bits f.hdr.toNat 8 12 ≠ (getLane t h).link.expect) ∧
      (withinSkew u (linkOf s n.val) (getLane t h).link f = true) :=
  ⟨5, goodFlit 257, pliedLink, _, _, 4, ⟨by decide, by decide, decide_eq_true rfl, rfl, by decide, rfl, by decide, by decide⟩⟩

theorem witness_flits_outOfOrder :
    ∃ (n : Fin 104) (f : Flit) (s : State) (t : State) (u : State) (h : Nat),
      (f.hdr.toNat % 16 = 1) ∧ ((getLane s n.val).up = true) ∧ (crcGood f = true) ∧
      (t = modLane s n.val (fun x => { x with ctr := { x.ctr with rx := x.ctr.rx + 1 } })) ∧ (headOf t (linkOf s n.val) = some h) ∧
      (u = modLink t h (fun k => takeStall k f)) ∧ (bits f.hdr.toNat 8 12 ≠ (getLane t h).link.expect) ∧
      (withinSkew u (linkOf s n.val) (getLane t h).link f = false) :=
  ⟨5, goodFlit 257, laneUp, _, _, 5, ⟨by decide, by decide, decide_eq_true rfl, rfl, by decide, rfl, by decide, by decide⟩⟩

theorem witness_flits_badCrc :
    ∃ (n : Fin 104) (f : Flit) (s : State) (t : State),
      ((getLane s n.val).up = true) ∧ (crcGood f = false) ∧
      (t = sendAllFlows (sendNak (modLane (draw s).2 n.val (fun x => { x with ctr := { x.ctr with crcErr := sat32 (x.ctr.crcErr + 1), fecUncorr := sat32 (x.ctr.fecUncorr + (draw s).1 % 2) } })) (linkOf s n.val))) :=
  ⟨5, badFlit, laneUp, _, ⟨by decide, badFlit_bad, rfl⟩⟩

theorem witness_flits_train :
    ∃ (n : Fin 104) (s : State), ((getLane s n.val).en = true) :=
  ⟨0, booted, by decide⟩

/-- An endpoint of 4,096 bytes of the commons of slice 63, open to every node. -/
def endpoint0 : Endpoint :=
  { slice := 63, tier := 1, perm := 15, key := 0, base := 0, size := 4096, peer := 2 ^ 31, sem := some 0, ivec := some 3, port := 0, card := none, closing := false }
def endpointed : State :=
  { running with slices := [(63, slice0)], strand := { running.strand with eps := [(0, endpoint0)] } }

/-- A packet from this node to itself with that OP, `n` bytes at an offset. -/
def packet (op offset n : Nat) : Packet :=
  { dst := 0, src := 0, sslice := 63, op := op, route := 0, epoch := 0, sync := false, last := true, fseq := 0, ep := 0, key := 0, rop := 1, status := 0,
    offset := offset, len := n, data := List.replicate n 1#8 }

theorem witness_fabricAndEndpoints_torus :
    ∃ (op : Nat) (o : Op) (s : State) (t : State) (sides : List Nat),
      (Ready s op 0x7D 2 o) ∧ (o.f 12 1 = 0) ∧ ((o.f 8 4 % 2 ^ 18 = s.strand.node ∨ anyPly s = false)) ∧ (t = started s op 2) ∧
      (sides = (List.range 6).map (fun d => bits (o.f 13 3) (3 * d) 3 + 1)) :=
  ⟨0, opOf 0x7D 0xFF [(8, 4, 3), (13, 3, 7)], withOp (opOf 0x7D 0xFF [(8, 4, 3), (13, 3, 7)]), _, _, ⟨by decide, by decide, by decide, rfl, rfl⟩⟩

theorem witness_fabricAndEndpoints_routeTable :
    ∃ (op : Nat) (o : Op) (s : State) (t : State) (routes : Tbl Nat),
      (Ready s op 0x7D 2 o) ∧ (t = started s op 2) ∧ (o.f 12 1 = 1) ∧ (o.f 16 8 % 4096 = 0) ∧ ((o.f 8 4 % 2 ^ 18 = s.strand.node ∨ anyPly s = false)) ∧
      (Reaches t o [(o.f 16 8, 524288, false)]) ∧ (homeFails t o.port (o.f 16 8) 524288 = false) ∧
      (routes = routeTable (readPartner t o.port (o.f 16 8) 524288) 0 262144) :=
  ⟨0, opOf 0x7D 0xFF [(8, 4, 3), (12, 1, 1)], withOp (opOf 0x7D 0xFF [(8, 4, 3), (12, 1, 1)]), _, _, ⟨by decide, rfl, by decide, by decide, by decide,
      by decide, by decide, rfl⟩⟩

theorem witness_fabricAndEndpoints_plied :
    ∃ (op : Nat) (o : Op) (s : State), (Ready s op 0x7D 2 o) ∧ (o.f 12 1 = 0) ∧ (o.f 8 4 % 2 ^ 18 ≠ s.strand.node) ∧ (anyPly s = true) :=
  ⟨0, opOf 0x7D 0xFF [(8, 4, 3)], { withOp (opOf 0x7D 0xFF [(8, 4, 3)]) with plies := [(63, ply0)] }, ⟨by decide, by decide, by decide, by decide⟩⟩

theorem witness_fabricAndEndpoints_go :
    ∃ (vc1 : Bool) (dim : Option (Fin 6)) (k : Packet) (s : State) (l : Nat) (vc : Nat), (routeOf s k (dim.map Fin.val) vc1 = .go l vc) :=
  ⟨false, none, { packet 1 0 0 with dst := 1 }, { laneUp with strand := { laneUp.strand with sides := [2, 1, 1, 1, 1, 1] } }, 5, 0, by decide⟩

theorem witness_fabricAndEndpoints_drop :
    ∃ (vc1 : Bool) (dim : Option (Fin 6)) (k : Packet) (s : State), (routeOf s k (dim.map Fin.val) vc1 = .drop) :=
  ⟨false, none, { packet 1 0 0 with dst := 1 }, { booted with strand := { booted.strand with sides := [2, 1, 1, 1, 1, 1] } }, by decide⟩

theorem witness_fabricAndEndpoints_here :
    ∃ (vc1 : Bool) (dim : Option (Fin 6)) (k : Packet) (s : State), (routeOf s k (dim.map Fin.val) vc1 = .here) :=
  ⟨false, none, packet 1 0 0, endpointed, by decide⟩

theorem witness_fabricAndEndpoints_open :
    ∃ (op : Nat) (o : Op) (s : State) (t : State),
      (Ready s op 0x88 3 o) ∧ (t = started s op 3) ∧ (Clear (openChecks t o)) ∧
      ((o.f 10 1 = 0 → partnerDenied t o.port o.slice (o.f 16 8) (o.f 24 8) = false)) :=
  ⟨0, opOf 0x88 63 [(8, 2, 4095), (10, 1, 1), (24, 8, 64), (36, 2, 0xFFFF), (38, 2, 255)], withSlice (opOf 0x88 63 [(8, 2, 4095), (10, 1, 1), (24, 8, 64),
      (36, 2, 0xFFFF), (38, 2, 255)]), _, ⟨by decide, rfl, by decide, by decide⟩⟩

theorem witness_fabricAndEndpoints_close :
    ∃ (op : Nat) (o : Op) (s : State) (e : Endpoint),
      (Ready s op 0x89 3 o) ∧ (lookup s.strand.eps (o.f 8 2) = some e) ∧ (e.slice = o.slice) ∧ (admittedTo (started s op 3) (o.f 8 2) = false) :=
  ⟨0, opOf 0x89 63 [], { endpointed with ops := [(0, opOf 0x89 63 [])] }, endpoint0, ⟨by decide, by decide, by decide, by decide⟩⟩

theorem witness_fabricAndEndpoints_closing :
    ∃ (op : Nat) (o : Op) (s : State) (e : Endpoint),
      (Ready s op 0x89 3 o) ∧ (lookup s.strand.eps (o.f 8 2) = some e) ∧ (e.slice = o.slice) ∧ (admittedTo (started s op 3) (o.f 8 2) = true) :=
  ⟨0, opOf 0x89 63 [], { endpointed with ops := [(0, opOf 0x89 63 [])], strand := { endpointed.strand with waiting := [(packet 1 0 0, 0)] } }, endpoint0,
      ⟨by decide, by decide, by decide, by decide⟩⟩

theorem witness_fabricAndEndpoints_write :
    ∃ (n : Fin 104) (k : Packet) (s : State) (t : State) (u : State) (e : Endpoint),
      (k.op = 1) ∧ (Arrives s n.val k t) ∧ (lookup t.strand.eps k.ep = some e) ∧ (admission s k 0 k.data.length = stOk) ∧
      (BufferReady t e.port e.slice e.tier (e.base + k.offset) k.data.length true u) :=
  ⟨0, packet 1 64 8, endpointed, _, _, endpoint0, ⟨by decide, ⟨by decide, by decide, by decide, rfl, by decide⟩, by decide, by decide, Or.inr ⟨by decide,
      by decide, rfl⟩⟩⟩

theorem witness_fabricAndEndpoints_message :
    ∃ (n : Fin 104) (k : Packet) (s : State) (t : State) (u : State) (e : Endpoint),
      (k.op = 4) ∧ (Arrives s n.val k t) ∧ (lookup t.strand.eps k.ep = some e) ∧ (admission s k 3 k.data.length = stOk) ∧
      (BufferReady t e.port e.slice e.tier (e.base + k.offset) k.data.length true u) :=
  ⟨0, packet 4 64 8, endpointed, _, _, endpoint0, ⟨by decide, ⟨by decide, by decide, by decide, rfl, by decide⟩, by decide, by decide, Or.inr ⟨by decide,
      by decide, rfl⟩⟩⟩

theorem witness_fabricAndEndpoints_reduce :
    ∃ (n : Fin 104) (k : Packet) (s : State) (t : State) (u : State) (e : Endpoint),
      (k.op = 5) ∧ (Arrives s n.val k t) ∧ (lookup t.strand.eps k.ep = some e) ∧ (admission s k 2 k.data.length = stOk) ∧ (1 ≤ k.rop) ∧ (k.rop ≤ 3) ∧
      (BufferReady t e.port e.slice e.tier (e.base + k.offset) k.data.length true u) :=
  ⟨0, packet 5 64 8, endpointed, _, _, endpoint0, ⟨by decide, ⟨by decide, by decide, by decide, rfl, by decide⟩, by decide, by decide, by decide,
      by decide, Or.inr ⟨by decide, by decide, rfl⟩⟩⟩

theorem witness_fabricAndEndpoints_read :
    ∃ (n : Fin 104) (k : Packet) (s : State) (t : State) (u : State) (e : Endpoint),
      (k.op = 2) ∧ (Arrives s n.val k t) ∧ (lookup t.strand.eps k.ep = some e) ∧ (admission s k 1 k.len = stOk) ∧
      (BufferReady t e.port e.slice e.tier (e.base + k.offset) k.len false u) :=
  ⟨0, packet 2 64 8, endpointed, _, _, endpoint0, ⟨by decide, ⟨by decide, by decide, by decide, rfl, by decide⟩, by decide, by decide, Or.inr ⟨by decide,
      by decide, rfl⟩⟩⟩

theorem witness_fabricAndEndpoints_refused :
    ∃ (n : Fin 104) (k : Packet) (s : State) (t : State), (Arrives s n.val k t) :=
  ⟨0, packet 1 0 0, endpointed, _, ⟨by decide, by decide, by decide, rfl, by decide⟩⟩

theorem witness_fabricAndEndpoints_outOfFlow :
    ∃ (n : Fin 104) (k : Packet) (s : State),
      (k.op = 1) ∧ (routeOf s k none false = .here) ∧ (s.strand.waiting.find? (fun w => w.1 = k) = none) ∧ (accepts (takenOff s n.val k) k = false) :=
  ⟨0, { packet 1 0 0 with fseq := 1 }, endpointed, ⟨by decide, by decide, by decide, by decide⟩⟩

theorem witness_fabricAndEndpoints_management :
    ∃ (n : Fin 104) (k : Packet) (s : State) (t : State), (k.op = 7) ∧ (Arrives s n.val k t) :=
  ⟨0, packet 7 0 0, endpointed, _, ⟨by decide, ⟨by decide, by decide, by decide, rfl, by decide⟩⟩⟩

theorem witness_fabricAndEndpoints_queued :
    ∃ (n : Nat) (op : Nat) (k : Packet) (s : State) (t : State),
      (k.op = op) ∧ (routeOf s k none false = .here) ∧ (s.strand.waiting.find? (fun w => w.1 = k) = none) ∧ (accepts (takenOff s n k) k = true) ∧
      (t = acceptPacket (takenOff s n k) k) ∧ (behindWaiting t k = true) :=
  ⟨0, 1, packet 1 0 1, { endpointed with strand := { endpointed.strand with waiting := [(packet 1 0 0, 0)] } }, _, ⟨by decide, by decide, by decide,
      by decide, rfl, by decide⟩⟩

theorem witness_fabricAndEndpoints_again :
    ∃ (op : Nat) (k : Packet) (s : State) (w : Packet × Nat),
      (k.op = op) ∧ (routeOf s k none false = .here) ∧ (s.strand.waiting.find? (fun w => w.1 = k) = some w) ∧ (behindWaiting s k = false) :=
  ⟨1, packet 1 0 0, { endpointed with strand := { endpointed.strand with waiting := [(packet 1 0 0, 0)] } }, (packet 1 0 0, 0), ⟨by decide, by decide,
      by decide, by decide⟩⟩

theorem witness_fabricAndEndpoints_waits :
    ∃ (s : State) (u : State) (k : Packet) (serve : State → Served), (serve s = .wait u) ∧ (u.strand.waiting.any (fun w => w.1 = k) = false) :=
  ⟨endpointed, endpointed, packet 1 0 0, Served.wait, ⟨rfl, by decide⟩⟩

/-- A strand descriptor of 64 bytes of the commons. -/
def strOp (opcode : Nat) : Op := opOf opcode 63 [(14, 1, 1), (15, 1, 1), (32, 4, 64)]

/-- A read of 8 bytes on its way from this node. -/
def outTxn : Txn :=
  { kind := .single, op := 0, entry := 0, slice := 63, node := 0, opc := 2, ep := 0, key := 0, rop := 0, roff := 0,
    pkts := [{ fseq := some 0, offset := 0, bytes := 8, data := [], acked := false, got := false, status := 0 }], port := 0, ltier := 1, laddr := 64,
    leftAt := some 0, timeout := 125, ended := none }
def readOut : State := { endpointed with strand := { endpointed.strand with txns := [outTxn] } }

theorem witness_strandTransactions_write :
    ∃ (op : Nat) (o : Op) (s : State) (t : State) (u : State),
      (Ready s op 0x80 3 o) ∧ (t = started s op 3) ∧ (hasTxns t op = false) ∧ (Clear (strChecks t o)) ∧
      ((o.f 15 1 = 0 → partnerDenied t o.port o.slice (o.f 16 8) (o.f 32 4) = false)) ∧
      (BufferReady t o.port o.slice (o.f 15 1) (o.f 16 8) (o.f 32 4) false u) :=
  ⟨0, strOp 0x80, withSlice (strOp 0x80), _, _, ⟨by decide, rfl, by decide, by decide, by decide, Or.inr ⟨by decide, by decide, rfl⟩⟩⟩

theorem witness_strandTransactions_msg :
    ∃ (op : Nat) (o : Op) (s : State) (t : State) (u : State),
      (Ready s op 0x82 3 o) ∧ (t = started s op 3) ∧ (hasTxns t op = false) ∧ (Clear (strChecks t o)) ∧
      ((o.f 15 1 = 0 → partnerDenied t o.port o.slice (o.f 16 8) (o.f 32 4) = false)) ∧
      (BufferReady t o.port o.slice (o.f 15 1) (o.f 16 8) (o.f 32 4) false u) :=
  ⟨0, strOp 0x82, withSlice (strOp 0x82), _, _, ⟨by decide, rfl, by decide, by decide, by decide, Or.inr ⟨by decide, by decide, rfl⟩⟩⟩

theorem witness_strandTransactions_reduce :
    ∃ (op : Nat) (o : Op) (s : State) (t : State) (u : State),
      (Ready s op 0x83 3 o) ∧ (t = started s op 3) ∧ (hasTxns t op = false) ∧ (Clear (strChecks t o)) ∧
      ((o.f 15 1 = 0 → partnerDenied t o.port o.slice (o.f 16 8) (o.f 32 4) = false)) ∧
      (BufferReady t o.port o.slice (o.f 15 1) (o.f 16 8) (o.f 32 4) false u) :=
  ⟨0, strOp 0x83, withSlice (strOp 0x83), _, _, ⟨by decide, rfl, by decide, by decide, by decide, Or.inr ⟨by decide, by decide, rfl⟩⟩⟩

theorem witness_strandTransactions_read :
    ∃ (op : Nat) (o : Op) (s : State) (t : State),
      (Ready s op 0x81 3 o) ∧ (t = started s op 3) ∧ (hasTxns t op = false) ∧ (Clear (strChecks t o)) ∧
      ((o.f 15 1 = 0 → partnerDenied t o.port o.slice (o.f 16 8) (o.f 32 4) = false)) :=
  ⟨0, strOp 0x81, withSlice (strOp 0x81), _, ⟨by decide, rfl, by decide, by decide, by decide⟩⟩

theorem witness_strandTransactions_gather :
    ∃ (op : Nat) (o : Op) (s : State) (t : State) (es : List (List Byte)),
      (Ready s op 0x84 3 o) ∧ (t = started s op 3) ∧ (hasTxns t op = false) ∧ (o.f 8 8 % 64 = 0) ∧ (1 ≤ o.f 16 1) ∧ (o.f 16 1 ≤ 64) ∧ (o.f 17 1 ≤ 2) ∧
      (Reaches t o [(o.f 8 8, 32 * o.f 16 1, false)]) ∧ (homeFails t o.port (o.f 8 8) (32 * o.f 16 1) = false) ∧
      (es = (List.range (o.f 16 1)).map (gatherEntry (readPartner t o.port (o.f 8 8) (32 * o.f 16 1)))) ∧ (es.any gatherBad = false) ∧
      (es.any (fun e => localBad t o (o.f 17 1) (o.f 24 8 + field e 24 8) (field e 12 4)) = false) ∧
      ((o.f 17 1 = 0 → es.any (fun e => partnerDenied t o.port o.slice (o.f 24 8 + field e 24 8) (field e 12 4)) = false)) :=
  ⟨0, opOf 0x84 63 [(16, 1, 1), (17, 1, 1)], withMem (opOf 0x84 63 [(16, 1, 1), (17, 1, 1)]) [(12, 4, 64)], _, _, ⟨by decide, rfl, by decide, by decide,
      by decide, by decide, by decide, by decide, by decide, rfl, by decide, by decide, by decide⟩⟩

theorem witness_strandTransactions_response :
    ∃ (n : Fin 104) (k : Packet) (s : State) (r : State) (u : State) (i : Nat) (j : Nat) (t : Txn),
      (k.op = 3) ∧ (Arrives s n.val k r) ∧ (answeredBy r k = some (i, j)) ∧ (r.strand.txns[i]? = some t) ∧
      (BufferReady r t.port t.slice t.ltier (t.laddr + (k.offset - t.roff)) k.data.length true u) :=
  ⟨0, packet 3 0 8, readOut, _, _, 0, 0, outTxn, ⟨by decide, ⟨by decide, by decide, by decide, rfl, by decide⟩, by decide, by decide, Or.inr ⟨by decide,
      by decide, rfl⟩⟩⟩

theorem witness_strandTransactions_ack :
    ∃ (n : Fin 104) (k : Packet) (s : State) (i : Nat) (j : Nat),
      (k.op = 6) ∧ (routeOf s k none false = .here) ∧ (ackedBy (takenOff s n.val k) k = some (i, j)) :=
  ⟨0, packet 6 0 0, readOut, 0, 0, ⟨by decide, by decide, by decide⟩⟩

theorem witness_strandTransactions_lateAck :
    ∃ (n : Fin 104) (k : Packet) (s : State), (k.op = 6) ∧ (routeOf s k none false = .here) ∧ (ackedBy (takenOff s n.val k) k = none) :=
  ⟨0, packet 6 0 0, endpointed, ⟨by decide, by decide, by decide⟩⟩

theorem witness_strandTransactions_arbiter :
    ∃ (s : State) (l : List (Nat × Nat × Txn × TxPkt)) (c : Nat × Nat × Txn × TxPkt), (arbitrate s l = some c) :=
  ⟨endpointed, [(0, 0, outTxn, { fseq := none, offset := 0, bytes := 8, data := [], acked := false, got := false, status := 0 })], _, rfl⟩

/-- A store of 16 sectors whose first unit is page 0 of bobbin 0 and holds some bytes. -/
def imageStore : Store :=
  { slice := 63, bulk := false, sectors := 16, key := 0, level := 0, grants := [], index := none, deleting := false, map := [(0, 0)] }
def withImageIn (o : Op) (bytes : List Byte) : State :=
  modBob { withSlice o with stores := [(3, imageStore)] } 0 (fun x =>
    { x with pages := [(0, { owner := 3, unit := 0, wseq := 0, jseq := 0, crc := 0, key := 0, data := writeBytes [] 0 bytes, uncorr := false })] })

/-- The image of a draft of one member, one rank and one step, in which no rank has a program. Its digest was computed by another implementation; so was that
of the image whose step has LENGTH 0. -/
def draftBytes (length digest : Nat) : List Byte :=
  bytesOf 320 [(0, 8, 0x3154464152445441), (8, 2, 1), (10, 2, 1), (12, 4, 1), (16, 8, 320), (24, 8, 128), (32, 1, 1), (35, 1, 255),
    (64, 64, digest), (128, 8, 160), (160, 8, 192), (200, 1, length), (208, 32, 2 ^ 256 - 1), (240, 32, 2 ^ 256 - 1), (272, 32, 2 ^ 256 - 1)]
def draftImage : List Byte :=
  draftBytes 1 0x3a1019a78e2808964d821dad9c71ca6d164c01a7f2cfa31f29fa759d0006348cb3a702a0bbb89e389e8f5334fa5659dc465da5f015dddbae510ea0ed50a096cb
def badDraftImage : List Byte :=
  draftBytes 0 0x1de090c028edca4f1a723b4835b588f3b68e1c4c5b96f3f0bdf5eb9c57a13fb32e8af146e7066857f06a90b3f3fe013dca5904d8cb45845961c2f0eab4b7fcfe
def draftLoadOp : Op := opOf 0x24 63 [(8, 2, 3), (24, 8, 4)]
def draftLoadState : State :=
  { withImageIn draftLoadOp draftImage with slices := [(63, { slice0 with conf := { slice0.conf with floor := 1000 } })] }
def verifiedSlice : Slice :=
  { slice0 with conf := { slice0.conf with floor := 1000 }, meter := { slice0.meter with flashRead := 320 } }
def draftSteps : List StepRec := [{ start := 0, length := 1, progs := [0xFFFF], dirs := [], slots := [], reds := [] }]
/-- The state in which the image is verified; `bs` are the bobbins after the read. -/
def verifiedDraft (bs : Tbl Bobbin) : State :=
  charge { started draftLoadState 0 2 with free := (started draftLoadState 0 2).free + 1, bobbins := bs } 63 (fun m => { m with flashRead := m.flashRead + 320 })
theorem draft_read : ∃ bs, countReads (started draftLoadState 0 2) 3 (unitsOf 0 320) =
    { started draftLoadState 0 2 with free := (started draftLoadState 0 2).free + 1, bobbins := bs } := by
  have h : countReads (started draftLoadState 0 2) 3 (unitsOf 0 320) =
      (let s := modBob { started draftLoadState 0 2 with free := (started draftLoadState 0 2).free + 1 } 0
        (fun x => { x with ctr := { x.ctr with read := x.ctr.read + unitBytes, uncorr := x.ctr.uncorr } })
       if Config.freeNat (started draftLoadState 0 2).free % 2 = 1 then modBob s 0 (fun x => queueRefresh x 0) else s) := by rfl
  rw [h]
  by_cases c : Config.freeNat (started draftLoadState 0 2).free % 2 = 1
  · simp only [c, if_true]
    exact ⟨_, rfl⟩
  · simp only [c, if_false]
    exact ⟨_, rfl⟩

/-- A release of the draft 0. -/
def releaseOp : Op := opOf 0x24 63 [(10, 2, 0xFFFF)]
def releaseState (j : Job) : State := { withJob j [] [] with ops := [(9, releaseOp)] }

theorem witness_draftImages_load :
    ∃ (op : Nat) (n : Nat) (o : Op) (s : State) (t : State) (u : State) (v : State) (st : Store) (image : List Byte) (steps : List StepRec) (progs : Tbl (List IWord)),
      (Ready s op 0x24 2 o) ∧ (o.f 10 2 ≠ 0xFFFF) ∧ (t = started s op 2) ∧ (Clear (imageChecks t op o)) ∧
      (VerifiedImage t o st (draftHeaderBad (o.f 24 8) (o.f 10 2)) (fun h => field h 24 8 + 32 * o.f 10 2) memberTablesBad image u) ∧
      (((List.range (field image 12 4)).map (fun k => stepRecordAt image (stepOffset image (o.f 10 2) k))).findIdx? (stepBad image (o.f 10 2)) = none) ∧
      (steps = ((List.range (field image 12 4)).map (fun k => stepRecordAt image (stepOffset image (o.f 10 2) k))).map (readStep (field image 32 1))) ∧
      (gapBad (field image 49 1) (field image 36 4) (bit (field image 33 1) 1) steps = none) ∧ (progs = progsOf image (o.f 10 2) steps) ∧
      (steps.findSome? (stepProgramError u o.slice (field image 32 1) progs) = none) ∧
      ((bit (field image 33 1) 0 = true → steps.findIdx? (fun r => r.reds.any (fun e => e.op = 2)) = none)) ∧
      (n = ceilDiv (copyBytes image (o.f 10 2) progs) pageBytes) ∧ (mayHold u o.slice n = true) ∧ (obtainPages u o.slice n = .got v) := by
  obtain ⟨f, hf⟩ := draft_read
  have a : lookup (verifiedDraft f).slices 63 = some verifiedSlice := by rfl
  have b : ¬(residentPages (verifiedDraft f) 63 + 0 ≥ verifiedSlice.conf.ceiling) := by
    have h : residentPages (verifiedDraft f) 63 = 0 := rfl
    rw [h]
    decide
  have c : freePages (verifiedDraft f) > 0 := by
    have h : freePages (verifiedDraft f) = 94208 := rfl
    rw [h]
    decide
  refine ⟨0, 1, draftLoadOp, draftLoadState, started draftLoadState 0 2, verifiedDraft f, verifiedDraft f, imageStore, draftImage, draftSteps, [],
      by decide, by decide,
    rfl, by decide +kernel, ⟨by decide, by decide +kernel, by decide +kernel, by decide +kernel, by decide +kernel, by decide +kernel, by decide +kernel,
      ?_⟩,
    by decide +kernel, by decide +kernel, by decide +kernel, by decide +kernel, rfl, by decide +kernel, by decide +kernel, ?_, ?_⟩
  · have h : field (readStore (started draftLoadState 0 2) imageStore (draftLoadOp.f 16 8 * 4096) 128) 16 8 = 320 := by decide +kernel
    rw [h]
    exact congrArg (fun t => charge t 63 (fun m => { m with flashRead := m.flashRead + 320 })) hf.symm
  · have h : mayHold (verifiedDraft f) draftLoadOp.slice 1 = mayHold (verifiedDraft []) 63 1 := rfl
    rw [h]
    decide +kernel
  · have e : draftLoadOp.slice = 63 := rfl
    simp only [e, obtainPages, obtainPagesFrom, obtainAfter, a]
    rw [if_neg (by decide), if_neg b, if_pos c]

theorem witness_draftImages_badStep :
    ∃ (op : Nat) (k : Nat) (o : Op) (s : State) (t : State) (u : State) (st : Store) (image : List Byte),
      (Ready s op 0x24 2 o) ∧ (o.f 10 2 ≠ 0xFFFF) ∧ (t = started s op 2) ∧ (Clear (imageChecks t op o)) ∧
      (VerifiedImage t o st (draftHeaderBad (o.f 24 8) (o.f 10 2)) (fun h => field h 24 8 + 32 * o.f 10 2) memberTablesBad image u) ∧
      (((List.range (field image 12 4)).map (fun k => stepRecordAt image (stepOffset image (o.f 10 2) k))).findIdx? (stepBad image (o.f 10 2)) = some k) := by
  refine ⟨0, 0, draftLoadOp, withImageIn draftLoadOp badDraftImage, started (withImageIn draftLoadOp badDraftImage) 0 2, _, imageStore, badDraftImage,
    by decide, by decide, rfl, by decide +kernel, ⟨by decide, by decide +kernel, by decide +kernel, by decide +kernel, by decide +kernel,
      by decide +kernel, by decide +kernel, rfl⟩, by decide +kernel⟩

theorem witness_draftImages_release :
    ∃ (op : Nat) (o : Op) (s : State),
      (Ready s op 0x24 2 o) ∧ (o.f 10 2 = 0xFFFF) ∧
      ((o.phase = .fetched → (lookup s.drafts (o.f 12 4)).any (fun d => d.slice = o.slice && !d.releasing) = true)) ∧ (draftInUse s (o.f 12 4) = false) :=
  ⟨9, releaseOp, releaseState (jobOf []), ⟨by decide, by decide, by decide, by decide⟩⟩

theorem witness_draftImages_waits :
    ∃ (op : Nat) (o : Op) (s : State),
      (Ready s op 0x24 2 o) ∧ (o.f 10 2 = 0xFFFF) ∧
      ((o.phase = .fetched → (lookup s.drafts (o.f 12 4)).any (fun d => d.slice = o.slice && !d.releasing) = true)) ∧ (draftInUse s (o.f 12 4) = true) :=
  ⟨9, releaseOp, releaseState (drafting [] []), ⟨by decide, by decide, by decide, by decide⟩⟩

/-- The image of a skein of one layer without weights or seeds, and one whose layer has KIND 3. Their digests were computed by another implementation. -/
def skeinBytes (kind digest : Nat) : List Byte :=
  bytesOf 256 [(0, 8, 0x314e49454b535441), (8, 2, 1), (12, 4, 1), (16, 8, 256), (24, 8, 128), (64, 64, digest), (128, 1, kind)]
def skeinImage : List Byte :=
  skeinBytes 0 0x9db2c42d025426bc67b6df41a9450c50439c8653e3b17a63e0eab44d0dfb99df2d85b344ddd66ee5026abb45b97c9b70a6cbb5b3e67dd843721cc939176bc4e0
def badSkeinImage : List Byte :=
  skeinBytes 3 0xc3e00d8b58440024d55cc966f3a00157cb3f8912e0fdc8eb92e3a98a8133ca7af614536665476f7178cb4f85fd3154eed005e40087288cd777010dcd5eb7d6a6
def skeinLoadOp : Op := opOf 0x22 63 [(8, 2, 3), (24, 8, 4)]
def skeinState : State := withImageIn skeinLoadOp skeinImage

/-- A loaded skein of that image, and an operation on it. -/
def skein0 : Skein := { slice := 63, store := 3, sector := 0, sectors := 4, size := 256, nlayers := 1, digest := [], releasing := false }
def skeinOp (o : Op) : State := { withImageIn o skeinImage with skeins := [(0, skein0)] }
def pinOp (unpin tier : Nat) : Op := opOf 0x23 63 [(12, 1, unpin), (13, 1, tier), (24, 8, if tier = 1 then 0 else 128)]

theorem witness_skeins_load :
    ∃ (op : Nat) (o : Op) (s : State) (t : State) (u : State) (st : Store) (image : List Byte) (layers : List (List Byte)) (k : Skein),
      (Ready s op 0x22 2 o) ∧ (o.f 10 1 = 0) ∧ (t = started s op 2) ∧ (Clear (imageChecks t op o)) ∧
      (VerifiedImage t o st (skeinHeaderBad (o.f 24 8)) (fun _ => 0) (fun _ _ => none) image u) ∧
      (layers = (List.range (field image 12 4)).map (fun i => cut image (field image 24 8 + 128 * i) 128)) ∧
      (layers.findIdx? (fun l => layerBad l (field image 16 8)) = none) ∧ (seedCheck image layers = none) ∧
      (k = { slice := o.slice, store := o.f 8 2, sector := o.f 16 8, sectors := o.f 24 8, size := field image 16 8, nlayers := field image 12 4, digest := cut image 64 64, releasing := false }) := by
  refine ⟨0, skeinLoadOp, skeinState, started skeinState 0 2, _, imageStore, skeinImage, _, _, by decide, by decide, rfl, by decide +kernel,
    ⟨by decide, by decide +kernel, by decide +kernel, by decide +kernel, by decide +kernel, by decide +kernel, by decide +kernel, rfl⟩, rfl,
      by decide +kernel,
    by decide +kernel, rfl⟩

theorem witness_skeins_badLayer :
    ∃ (op : Nat) (i : Nat) (o : Op) (s : State) (t : State) (u : State) (st : Store) (image : List Byte) (layers : List (List Byte)),
      (Ready s op 0x22 2 o) ∧ (o.f 10 1 = 0) ∧ (t = started s op 2) ∧ (Clear (imageChecks t op o)) ∧
      (VerifiedImage t o st (skeinHeaderBad (o.f 24 8)) (fun _ => 0) (fun _ _ => none) image u) ∧
      (layers = (List.range (field image 12 4)).map (fun i => cut image (field image 24 8 + 128 * i) 128)) ∧
      (layers.findIdx? (fun l => layerBad l (field image 16 8)) = some i) := by
  refine ⟨0, 0, skeinLoadOp, withImageIn skeinLoadOp badSkeinImage, started (withImageIn skeinLoadOp badSkeinImage) 0 2, _, imageStore, badSkeinImage, _,
    by decide, by decide, rfl, by decide +kernel, ⟨by decide, by decide +kernel, by decide +kernel, by decide +kernel, by decide +kernel,
      by decide +kernel, by decide +kernel, rfl⟩, rfl, by decide +kernel⟩

theorem witness_skeins_release :
    ∃ (op : Nat) (o : Op) (s : State),
      (Ready s op 0x22 2 o) ∧ (o.f 10 1 = 1) ∧ ((o.phase = .fetched → ownSkein s o.slice (o.f 12 4) = true)) ∧ (skeinInUse s (o.f 12 4) = false) :=
  ⟨0, opOf 0x22 63 [(10, 1, 1)], skeinOp (opOf 0x22 63 [(10, 1, 1)]), ⟨by decide, by decide, by decide, by decide⟩⟩

theorem witness_skeins_waits :
    ∃ (op : Nat) (o : Op) (s : State),
      (Ready s op 0x22 2 o) ∧ (o.f 10 1 = 1) ∧ ((o.phase = .fetched → ownSkein s o.slice (o.f 12 4) = true)) ∧ (skeinInUse s (o.f 12 4) = true) :=
  ⟨0, opOf 0x22 63 [(10, 1, 1)], { skeinOp (opOf 0x22 63 [(10, 1, 1)]) with jobs := [(7, { jobOf [] with skeins := [0] })] }, ⟨by decide, by decide,
      by decide, by decide⟩⟩

theorem witness_skeins_poolPin :
    ∃ (op : Nat) (o : Op) (s : State) (t : State) (u : State) (k : Skein) (bs : List Byte),
      (Ready s op 0x23 2 o) ∧ (o.f 12 1 = 0) ∧ (t = started s op 2) ∧ (Clear (pinChecks t o)) ∧ (lookup t.skeins (o.f 8 4) = some k) ∧
      (pinOutside t o k = false) ∧ (o.f 13 1 = 1) ∧ (pinAll o.slice (o.f 8 4) k (pinPages o) t = .bytes u bs) :=
  ⟨0, pinOp 0 1, skeinOp (pinOp 0 1), _, _, skein0, _, ⟨by decide, by decide, rfl, by decide, by decide, by decide, by decide, rfl⟩⟩

theorem witness_skeins_commonsPin :
    ∃ (op : Nat) (o : Op) (s : State) (t : State) (u : State) (k : Skein) (bs : List Byte) (pin : CommonsPin),
      (Ready s op 0x23 2 o) ∧ (o.f 12 1 = 0) ∧ (t = started s op 2) ∧ (Clear (pinChecks t o)) ∧ (lookup t.skeins (o.f 8 4) = some k) ∧
      (pinOutside t o k = false) ∧ (o.f 13 1 = 0) ∧ (readSkein t o.slice (o.f 8 4) k (o.f 16 8) (o.f 24 8) = .bytes u bs) ∧
      (pin = { handle := o.f 8 4, offset := o.f 16 8, length := o.f 24 8, caddr := o.f 32 8 }) :=
  ⟨0, pinOp 0 0, skeinOp (pinOp 0 0), _, _, skein0, _, _, ⟨by decide, by decide, rfl, by decide, by decide, by decide, by decide, rfl, rfl⟩⟩

theorem witness_skeins_outside :
    ∃ (op : Nat) (o : Op) (s : State) (t : State) (k : Skein),
      (Ready s op 0x23 2 o) ∧ (o.f 12 1 = 0) ∧ (t = started s op 2) ∧ (Clear (pinChecks t o)) ∧ (lookup t.skeins (o.f 8 4) = some k) ∧
      (pinOutside t o k = true) :=
  ⟨0, opOf 0x23 63 [(24, 8, 320)], skeinOp (opOf 0x23 63 [(24, 8, 320)]), _, skein0, ⟨by decide, by decide, rfl, by decide, by decide, by decide⟩⟩

theorem witness_skeins_cachedPage :
    ∃ (s : State) (q : Nat) (h : Nat) (page : Nat) (x : Slice) (p : SkeinPage), (lookup s.slices q = some x) ∧ (poolCopy x h page = some p) :=
  ⟨{ running with slices := [(63, { slice0 with skeinPages := [{ handle := 0, page := 1, pinned := false, lastUse := 0, data := [] }] })] }, 63, 0, 1,
      { slice0 with skeinPages := [{ handle := 0, page := 1, pinned := false, lastUse := 0, data := [] }] },
      { handle := 0, page := 1, pinned := false, lastUse := 0, data := [] }, ⟨by decide, by decide⟩⟩

theorem witness_skeins_poolUnpin :
    ∃ (op : Nat) (o : Op) (s : State) (t : State),
      (Ready s op 0x23 2 o) ∧ (o.f 12 1 = 1) ∧ (t = started s op 2) ∧ (Clear (pinChecks t o)) ∧ (o.f 13 1 = 1) :=
  ⟨0, pinOp 1 1, skeinOp (pinOp 1 1), _, ⟨by decide, by decide, rfl, by decide, by decide⟩⟩

theorem witness_skeins_commonsUnpin :
    ∃ (op : Nat) (o : Op) (s : State) (t : State),
      (Ready s op 0x23 2 o) ∧ (o.f 12 1 = 1) ∧ (t = started s op 2) ∧ (Clear (pinChecks t o)) ∧ (o.f 13 1 = 0) :=
  ⟨0, pinOp 1 0, skeinOp (pinOp 1 0), _, ⟨by decide, by decide, rfl, by decide, by decide⟩⟩

/-- A hank of slice 63 at page 5 of that kind, with an operation. -/
def hank (k : HankState) (bad : Bool) : Page := { kind := .hank k, lastUse := 0, parked := if bad then [(0, lostEntry)] else [] }
def roomy : Slice := { slice0 with conf := { slice0.conf with floor := 1000, park := 10 } }
def withPages (o : Op) (ps : Tbl Page) : State := { withOp o with slices := [(63, { roomy with pages := ps })] }
def mapOp (kind : Nat) : Op := opOf 0x28 63 [(8, 4, 5), (12, 4, 1), (16, 1, kind)]
/-- A directive for page 5, and a job with it that a step waits for. -/
def directive (required : Bool) : Directive := { target := 0, kind := 2, required := required, lead := 4, slot := 0, ahead := 1, count := 1, first := 5 }
def directed (required : Bool) : Job :=
  { jobOf [] with phase := .ready, late := 1, dirs := [{ directive required with kind := 1 }], dirStates := [.waiting] }
/-- Every bobbin is read-only. -/
def fullFlash (s : State) : State := { s with bobbins := (List.range 16).map (fun b => (b, { getBob s b with readOnly := true })) }
theorem placeUnit_none (s : State) (owner u jseq : Nat) (d : Mem) (h : (List.range (nBobbins s)).filter (fun b => !(getBob s b).readOnly) = []) :
    placeUnit s owner u jseq d = none := by
  have e : ∀ n, placeable { s with free := n } = fun _ => [] := by
    intro n
    funext m
    simp only [placeable]
    have h' : (List.range (nBobbins { s with free := n })).filter (fun b => !(getBob { s with free := n } b).readOnly) = [] := h
    rw [h']
    simp [rotate]
  simp [placeUnit, draw, e]
theorem writePark_none (s : State) (q page : Nat) (d : Mem) (h : (List.range (nBobbins s)).filter (fun b => !(getBob s b).readOnly) = []) :
    writePark s q page d = none := by
  have n : ∀ (f : List MapChange × State → Nat → Option (List MapChange × State)) (l : List Nat),
      l.foldl (fun acc i => acc.bind (fun a => f a i)) none = none := by
    intro f l
    induction l with
    | nil => rfl
    | cons i l ih => simpa using ih
  simp only [writePark, placePark, show List.range 128 = 0 :: (List.range 127).map (· + 1) from by decide, List.foldl_cons, Option.bind_some,
    placeUnit_none s _ _ _ _ h, Option.map_none, n]

theorem witness_poolPagesAndHanks_unmap :
    ∃ (op : Nat) (o : Op) (s : State) (t : State) (x : Slice),
      (Ready s op 0x28 2 o) ∧ (t = started s op 2) ∧ (o.f 8 4 < slicePages) ∧ (1 ≤ o.f 12 4) ∧ (o.f 8 4 + o.f 12 4 ≤ slicePages) ∧
      (lookup t.slices o.slice = some x) ∧ (o.f 16 1 = 0) ∧ (mapOffence t o.slice x 0 (o.f 8 4) (o.f 12 4) = none) ∧
      (firstPage (o.f 8 4) (o.f 12 4) (pageProtected t o.slice) = none) :=
  ⟨0, mapOp 0, withPages (mapOp 0) [(5, hank .clean false)], _, { roomy with pages := [(5, hank .clean false)] }, ⟨by decide, rfl, by decide, by decide,
      by decide, by decide, by decide, by decide, by decide⟩⟩

theorem witness_poolPagesAndHanks_work :
    ∃ (op : Nat) (o : Op) (s : State) (t : State) (u : State) (x : Slice),
      (Ready s op 0x28 2 o) ∧ (t = started s op 2) ∧ (o.f 8 4 < slicePages) ∧ (1 ≤ o.f 12 4) ∧ (o.f 8 4 + o.f 12 4 ≤ slicePages) ∧
      (lookup t.slices o.slice = some x) ∧ (o.f 16 1 = 1) ∧ (mapOffence t o.slice x 1 (o.f 8 4) (o.f 12 4) = none) ∧
      (mapPages t o.slice (o.f 8 4) .work (o.f 12 4) = .got u) :=
  ⟨0, mapOp 1, withPages (mapOp 1) [], _, _, roomy, ⟨by decide, rfl, by decide, by decide, by decide, by decide, by decide, by decide, rfl⟩⟩

theorem witness_poolPagesAndHanks_hank :
    ∃ (op : Nat) (o : Op) (s : State) (t : State) (x : Slice),
      (Ready s op 0x28 2 o) ∧ (t = started s op 2) ∧ (o.f 8 4 < slicePages) ∧ (1 ≤ o.f 12 4) ∧ (o.f 8 4 + o.f 12 4 ≤ slicePages) ∧
      (lookup t.slices o.slice = some x) ∧ (o.f 16 1 = 2) ∧ (mapOffence t o.slice x 2 (o.f 8 4) (o.f 12 4) = none) :=
  ⟨0, mapOp 2, withPages (mapOp 2) [], _, roomy, ⟨by decide, rfl, by decide, by decide, by decide, by decide, by decide, by decide⟩⟩

theorem witness_poolPagesAndHanks_offence :
    ∃ (op : Nat) (p : Nat) (o : Op) (s : State) (t : State) (x : Slice),
      (Ready s op 0x28 2 o) ∧ (t = started s op 2) ∧ (o.f 8 4 < slicePages) ∧ (1 ≤ o.f 12 4) ∧ (o.f 8 4 + o.f 12 4 ≤ slicePages) ∧
      (lookup t.slices o.slice = some x) ∧ (o.f 16 1 ≤ 2) ∧ (mapOffence t o.slice x (o.f 16 1) (o.f 8 4) (o.f 12 4) = some p) :=
  ⟨0, 5, mapOp 0, withPages (mapOp 0) [], _, roomy, ⟨by decide, rfl, by decide, by decide, by decide, by decide, by decide, by decide⟩⟩

theorem witness_poolPagesAndHanks_park :
    ∃ (op : Nat) (o : Op) (s : State) (t : State), (Ready s op 0x26 2 o) ∧ (t = started s op 2) ∧ (Clear (hankChecks t o)) ∧ (o.left = none) :=
  ⟨0, opOf 0x26 63 [(8, 4, 5), (12, 4, 1)], withPages (opOf 0x26 63 [(8, 4, 5), (12, 4, 1)]) [(5, hank .dirty false)], _, ⟨by decide, rfl, by decide,
      by decide⟩⟩

theorem witness_poolPagesAndHanks_goesOn :
    ∃ (op : Nat) (o : Op) (s : State) (todo : List Nat), (Ready s op 0x26 2 o) ∧ (o.left = some todo) :=
  ⟨0, { (opOf 0x26 63 [(8, 4, 5), (12, 4, 1)]) with left := some [5] }, withPages ({ (opOf 0x26 63 [(8, 4, 5), (12, 4, 1)]) with left := some [5] }) [(5,
      hank .dirty false)], [5], ⟨by decide, by decide⟩⟩

theorem witness_poolPagesAndHanks_allParked :
    ∃ (o : Op) (s : State) (t : State) (todo : List Nat),
      ((todo.any (fun p => pageProtected s o.slice p)) = false) ∧ (parkEach s o.slice (bit (o.f 16 1) 0) todo = (t, true)) :=
  ⟨opOf 0x26 63 [(8, 4, 5), (12, 4, 1)], withPages (opOf 0x26 63 [(8, 4, 5), (12, 4, 1)]) [(5, hank .clean false)], _, [5], ⟨by decide, rfl⟩⟩

theorem witness_poolPagesAndHanks_protected :
    ∃ (o : Op) (s : State) (todo : List Nat), (todo ≠ []) ∧ ((todo.all (fun p => pageProtected s o.slice p)) = true) :=
  ⟨opOf 0x26 63 [(8, 4, 5), (12, 4, 1)],
      { withPages (opOf 0x26 63 [(8, 4, 5), (12, 4, 1)]) [(5, hank .clean false)] with jobs := [(0, { directed true with dirs := [directive true], dirStates := [.issued 0 0] })] }, [5], ⟨by decide, by decide⟩⟩

theorem witness_poolPagesAndHanks_noRoom :
    ∃ (o : Op) (s : State) (t : State) (todo : List Nat),
      (parkEach s o.slice (bit (o.f 16 1) 0) (todo.filter (fun p => !pageProtected s o.slice p)) = (t, false)) := by
  refine ⟨opOf 0x26 63 [(8, 4, 5), (12, 4, 1)], fullFlash (withPages (opOf 0x26 63 [(8, 4, 5), (12, 4, 1)]) [(5, hank .dirty false)]),
      fullFlash (withPages (opOf 0x26 63 [(8, 4, 5), (12, 4, 1)]) [(5, hank .dirty false)]), [5], ?_⟩
  have h : writePark (fullFlash (withPages (opOf 0x26 63 [(8, 4, 5), (12, 4, 1)]) [(5,
      hank .dirty false)])) 63 5 (pageData { roomy with pages := [(5, hank .dirty false)] } 5) = none :=
    writePark_none _ _ _ _ (by decide +kernel)
  show parkEach _ 63 _ [5] = (fullFlash (withPages (opOf 0x26 63 [(8, 4, 5), (12, 4, 1)]) [(5, hank .dirty false)]), false)
  simp only [parkEach, parkHank, parkCopy]
  have a : lookup (fullFlash (withPages (opOf 0x26 63 [(8, 4, 5), (12, 4, 1)]) [(5,
      hank .dirty false)])).slices 63 = some { roomy with pages := [(5, hank .dirty false)] } := rfl
  simp only [a]
  have b : lookup ({ roomy with pages := [(5, hank .dirty false)] } : Slice).pages 5 = some (hank .dirty false) := rfl
  simp only [b, h]
  rfl

theorem witness_poolPagesAndHanks_dirty :
    ∃ (q : Nat) (page : Nat) (s : State) (x : Slice) (p : Page), (lookup s.slices q = some x) ∧ (lookup x.pages page = some p) ∧ (p.kind = .hank .dirty) :=
  ⟨63, 5, { running with slices := [(63, { roomy with pages := [(5, hank .dirty false)] })] }, _, _, ⟨rfl, rfl, by decide⟩⟩

theorem witness_poolPagesAndHanks_restore :
    ∃ (op : Nat) (o : Op) (s : State) (t : State), (Ready s op 0x27 2 o) ∧ (t = started s op 2) ∧ (Clear (hankChecks t o)) :=
  ⟨0, opOf 0x27 63 [(8, 4, 5), (12, 4, 1)], withPages (opOf 0x27 63 [(8, 4, 5), (12, 4, 1)]) [(5, hank .parked false)], _, ⟨by decide, rfl, by decide⟩⟩

theorem witness_poolPagesAndHanks_each :
    ∃ (q : Nat) (page : Nat) (s : State) (t : State), (restoreHank s q page = .done t) :=
  ⟨63, 5, { running with slices := [(63, { roomy with pages := [(5, hank .parked false)] })] }, _, rfl⟩

theorem witness_poolPagesAndHanks_parked :
    ∃ (s : State) (t : State) (u : State) (q : Nat) (page : Nat) (p : Page) (m : Mem),
      ((lookup s.slices q).bind (fun x => lookup x.pages page) = some p) ∧ (pageResident p = false) ∧ (parkData s q page = some m) ∧
      (obtainPage s q = .got t) ∧
      (u = clearPages (modSlice t q (fun x => { x with pages := adjust x.pages page (fun p => { p with kind := .hank .clean, lastUse := t.trd.beat }), pool := pasteRange x.pool (pageBytes * page) pageBytes m })) q page 1) :=
  ⟨{ running with slices := [(63, { roomy with pages := [(5, hank .parked false)] })] }, _, _, 63, 5, hank .parked false, _, ⟨by decide, by decide, rfl,
      rfl, rfl⟩⟩

theorem witness_poolPagesAndHanks_lost :
    ∃ (s : State) (q : Nat) (page : Nat) (p : Page),
      ((lookup s.slices q).bind (fun x => lookup x.pages page) = some p) ∧ (pageResident p = false) ∧ (parkData s q page = none) :=
  ⟨{ running with slices := [(63, { roomy with pages := [(5, hank .parked true)] })] }, 63, 5, hank .parked true, ⟨by decide, by decide, by decide⟩⟩

theorem witness_poolPagesAndHanks_demand :
    ∃ (slice : Fin 64) (page : Nat) (s : State) (t : State) (p : Page),
      ((lookup s.slices slice.val).bind (fun x => lookup x.pages page) = some p) ∧ (p.kind = .hank .restoring) ∧
      (restoreHank s slice.val page = .done t) :=
  ⟨63, 5, { running with slices := [(63, { roomy with pages := [(5, hank .restoring false)] })] }, _, hank .restoring false, ⟨by decide, by decide, rfl⟩⟩

theorem witness_poolPagesAndHanks_noPage :
    ∃ (slice : Fin 64) (page : Nat) (s : State) (p : Page),
      ((lookup s.slices slice.val).bind (fun x => lookup x.pages page) = some p) ∧ (p.kind = .hank .restoring) ∧
      (restoreHank s slice.val page = .noPage) :=
  ⟨63, 5, { running with slices := [(63, { { roomy with conf := { roomy.conf with floor := 0, ceiling := 0 } } with pages := [(5, hank .restoring false)] })] }, hank .restoring false, ⟨by decide, by decide, rfl⟩⟩

theorem witness_poolPagesAndHanks_unreadable :
    ∃ (slice : Fin 64) (page : Nat) (s : State) (t : State) (p : Page),
      ((lookup s.slices slice.val).bind (fun x => lookup x.pages page) = some p) ∧ (p.kind = .hank .restoring) ∧ (restoreHank s slice.val page = .bad t) :=
  ⟨63, 5, { running with slices := [(63, { roomy with pages := [(5, hank .restoring true)] })] }, _, hank .restoring true, ⟨by decide, by decide, rfl⟩⟩

/-- A draft whose second step waits for such a directive. -/
def directedDraft : State :=
  { withJob (drafting [] []) [] [] with
    drafts := [(0,
      { oneDraft [] [] [] with loop := true, steps := [{ start := 0, length := 100, progs := [0], dirs := [directive true], slots := [], reds := [] }] })],
    jobs := [(0, { drafting [] [] with phase := .ready, draft := some { drafted with total := 2 } })] }

theorem witness_prefetchDirectives_due :
    ∃ (job : Nat) (idx : Nat) (s : State) (j : Job) (d : Directive) (st : DirState),
      (lookup s.jobs job = some j) ∧ (s.ras.halted = false) ∧ (j.draft = none) ∧ (j.dirs[idx]? = some d) ∧ (j.dirStates[idx]? = some st) ∧
      (directiveDue j d = true) :=
  ⟨0, 0, withJob (directed true) [] [], directed true, _, _, ⟨by decide, by decide, by decide, rfl, rfl, by decide⟩⟩

theorem witness_prefetchDirectives_notDue :
    ∃ (job : Nat) (idx : Nat) (s : State) (j : Job) (d : Directive) (st : DirState),
      (lookup s.jobs job = some j) ∧ (j.draft = none) ∧ (j.dirs[idx]? = some d) ∧ (j.dirStates[idx]? = some st) ∧ (directiveDue j d = false) :=
  ⟨0, 0, withJob { directed true with dirs := [{ directive true with target := 7 }] } [] [],
      { directed true with dirs := [{ directive true with target := 7 }] }, _, _, ⟨by decide, by decide, rfl, rfl, by decide⟩⟩

theorem witness_prefetchDirectives_inDraft :
    ∃ (job : Nat) (idx : Nat) (s : State) (j : Job) (d : Directive) (r : DraftRun) (x : Draft),
      (lookup s.jobs job = some j) ∧ (s.ras.halted = false) ∧ (j.draft = some r) ∧ (lookup s.drafts r.handle = some x) ∧
      ((stepDirectives x (idx / 1024))[idx % 1024]? = some d) ∧ (j.dirs = []) ∧ (nextStep j ≤ idx / 1024) ∧ (idx / 1024 < r.total) ∧ (j.phase ≠ .frozen) ∧
      (beatOf x j r (idx / 1024) ≤ s.trd.beat + d.lead) :=
  ⟨0, 1024, { directedDraft with trd := { directedDraft.trd with beat := 3996 } }, _, _, _, _, ⟨rfl, by decide, rfl, rfl, rfl, rfl, by decide, by decide,
      by decide, by decide⟩⟩

theorem witness_prefetchDirectives_issue :
    ∃ (job : Nat) (i : Nat) (s : State) (u : State), (u = setDir s job i (.issued 0 (nextIssue s))) :=
  ⟨0, 0, running, _, rfl⟩

theorem witness_prefetchDirectives_had :
    ∃ (q : Nat) (k : Nat) (s : State) (t : State) (j : Job) (d : Directive),
      ((prefetchPage s q j d (d.first + k) = .done t ∨ prefetchPage s q j d (d.first + k) = .bad t)) :=
  ⟨63, 0, { running with slices := [(63, { roomy with pages := [(5, hank .clean false)] })] }, _, directed true, directive true, Or.inl rfl⟩

theorem witness_prefetchDirectives_skipped :
    ∃ (q : Nat) (k : Nat) (s : State) (j : Job) (d : Directive), (prefetchPage s q j d (d.first + k) = .noPage) ∧ (d.required = false) :=
  ⟨63, 0, { running with slices := [(63, { { roomy with conf := { roomy.conf with floor := 0, ceiling := 0 } } with pages := [(5, hank .parked false)] })] }, directed false, directive false, ⟨rfl, by decide⟩⟩

theorem witness_prefetchDirectives_awaited :
    ∃ (q : Nat) (k : Nat) (s : State) (j : Job) (d : Directive), (prefetchPage s q j d (d.first + k) = .noPage) ∧ (d.required = true) :=
  ⟨63, 0, { running with slices := [(63, { { roomy with conf := { roomy.conf with floor := 0, ceiling := 0 } } with pages := [(5, hank .parked false)] })] }, directed true, directive true, ⟨rfl, by decide⟩⟩

theorem witness_prefetchDirectives_late :
    ∃ (job : Nat) (since : Nat) (idx : Nat) (rank : Nat) (s : State) (j : Job),
      (lookup s.jobs job = some j) ∧ (j.late ≠ 0) ∧ (j.draft = none) ∧ (j.place.isSome = true) ∧
      ((lateSince s job j).find? (fun t => s.clock > t.1 + 8 * j.late) = some (since, idx, rank)) :=
  ⟨0, 0, 0, 0, { withJob (directed true) [] [] with clock := 9 }, directed true, ⟨by decide, by decide, by decide, by decide, by decide⟩⟩

theorem witness_prefetchDirectives_inTime :
    ∃ (job : Nat) (s : State) (j : Job), (lookup s.jobs job = some j) ∧ ((lateSince s job j).find? (fun t => s.clock > t.1 + 8 * j.late) = none) :=
  ⟨0, { withJob (directed true) [] [] with clock := 8 }, directed true, ⟨by decide, by decide⟩⟩

/-- A DRAFT_START of the draft 0 at beat 1,000, and a ready draft's job that has voted or not. -/
def startOp0 : Op := opOf 0x25 63 [(16, 8, 1000), (24, 8, 0x10000)]
def startable : State :=
  { withJob (jobOf []) [] [] with
    ops := [(9, startOp0)], jobs := [], trd := { running.trd with numbered := true },
    slices := [(63, { slice0 with conf := { slice0.conf with spindles := 0x60 } })] }
def readyDraft (voted go : Bool) : Job := { jobOf [] with phase := .ready, draft := some { drafted with total := 1, voted := voted, go := go, late := 1 } }
def readyState (voted go : Bool) : State :=
  let s := withJob (readyDraft voted go) [] []
  { s with trd := { s.trd with numbered := true, locked := true } }

/-- A ply of two members over link 5, this one having voted. -/
def vote0 (m : Nat) : Vote :=
  { step := 0, decide := 0, member := m, cause := 0, isEnd := false, notice := false, status := 0, shape := 0, sslot := 0, noticeAt := 0 }
def ply2 : Ply := { ply0 with nodes := [0, 1], links := [5], quiet := [(5, 4)] }
def plied (voted : Bool) (votes : List Vote) : State :=
  { readyState voted false with
    jobs := [(0, { readyDraft voted false with draft := some { drafted with total := 1, voted := voted, ply := 5 } })],
    plies := [(63, { ply2 with votes := votes })] }

/-- A running step whose rank sits on logical spindle 0 with that context. -/
def ranked (c : Ctx) : State := seated [] c
def noticed : State :=
  let p : Ply := { ply0 with notice := some { beat := 0, member := 0, cause := 0 } }
  { withJob { jobOf [] with draft := some { drafted with ply := 5 } } [] [] with plies := [(63, p)], trd := { running.trd with beat := 108 } }

theorem witness_draftRuns_start :
    ∃ (op : Nat) (o : Op) (s : State) (t : State) (u : State) (x : Draft) (vals : List Nat),
      (Ready s op 0x25 2 o) ∧ (t = started s op 2) ∧ (lookup t.jobs op = none) ∧ (t.ras.halted = false) ∧ (t.trd.load = none) ∧ (o.f 24 8 % 64 = 0) ∧
      (lookup t.drafts (o.f 8 4) = some x) ∧ (x.slice = o.slice) ∧ (x.releasing = false) ∧
      (t.jobs.any (fun j => j.2.slice = o.slice && j.2.draft.isSome) = false) ∧ (x.ranks ≤ (usable t o.slice).length) ∧ (o.f 14 2 = 0) ∧ (x.members = 1) ∧
      (t.trd.numbered = true) ∧ (t.trd.beat + 8 ≤ o.f 16 8 + ((x.steps.head?).map StepRec.start).getD 0) ∧ (Reaches t o [(o.f 24 8, 256, true)]) ∧
      (mayPlace t o.slice = true) ∧ (skeinSlotBad t o.slice (readPartner t o.port (o.f 24 8) 192) x = none) ∧
      (shapeDecision t o.port o.slice (field (readPartner t o.port (o.f 24 8) 192) 0 8) = .run u vals) ∧ (totalSteps x vals ≠ 0) :=
  ⟨9, startOp0, startable, _, _, oneDraft [] [] [], _, ⟨by decide, rfl, by decide, by decide, by decide, by decide, by decide, by decide, by decide,
      by decide, by decide, by decide, by decide, by decide, by decide, by decide, by decide, by decide, rfl, by decide⟩⟩

theorem witness_draftRuns_voteAlone :
    ∃ (job : Nat) (s : State) (j : Job) (d : DraftRun) (x : Draft),
      (lookup s.jobs job = some j) ∧ (j.draft = some d) ∧ (lookup s.drafts d.handle = some x) ∧
      (s.plies.find? (fun e => (e.2.ended.map Prod.fst) = some job) = none) ∧ (d.voted = false) ∧ (d.go = false) ∧
      ((j.phase = .frozen → d.stopped = false)) ∧ (j.phase ≠ .submitted) ∧ (nextStep j < d.total) ∧ (nextBeat x j d ≤ s.trd.beat + leadOf s j d) ∧
      (awake s 0 = true) ∧ (plyOfDraft s j d = none) :=
  ⟨0, readyState false false, _, _, _, ⟨rfl, rfl, rfl, by decide, by decide, by decide, by decide, by decide, by decide, by decide, by decide, by decide⟩⟩

theorem witness_draftRuns_votePly :
    ∃ (job : Nat) (s : State) (t : State) (j : Job) (d : DraftRun) (x : Draft) (p : Ply),
      (lookup s.jobs job = some j) ∧ (j.draft = some d) ∧ (lookup s.drafts d.handle = some x) ∧
      (s.plies.find? (fun e => (e.2.ended.map Prod.fst) = some job) = none) ∧ (d.voted = false) ∧ (d.go = false) ∧
      ((j.phase = .frozen → d.stopped = false)) ∧ (j.phase ≠ .submitted) ∧ (nextStep j < d.total) ∧ (nextBeat x j d ≤ s.trd.beat + leadOf s j d) ∧
      (awake s 0 = true) ∧ (plyOfDraft s j d = some p) ∧ (t = modDraft s job (fun d => { d with voted := true })) :=
  ⟨0, plied false [], _, _, _, _, _, ⟨rfl, rfl, rfl, by decide, by decide, by decide, by decide, by decide, by decide, by decide, by decide, rfl, rfl⟩⟩

theorem witness_draftRuns_tooEarly :
    ∃ (job : Nat) (s : State) (j : Job) (d : DraftRun) (x : Draft),
      (lookup s.jobs job = some j) ∧ (j.draft = some d) ∧ (lookup s.drafts d.handle = some x) ∧
      (s.plies.find? (fun e => (e.2.ended.map Prod.fst) = some job) = none) ∧ (s.trd.beat + leadOf s j d < nextBeat x j d) :=
  ⟨0, { readyState false false with jobs := [(0, { readyDraft false false with draft := some { drafted with start := 9 } })] }, _, _, _, ⟨rfl, rfl, rfl,
      by decide, by decide⟩⟩

theorem witness_draftRuns_voteNext :
    ∃ (job : Nat) (s : State) (e : Nat × Ply), (s.plies.find? (fun e => (e.2.ended.map Prod.fst) = some job) = some e) :=
  ⟨0, { plied true [] with plies := [(63, { ply2 with ended := some (0, { vote0 0 with isEnd := true }) })], trd := { booted.trd with beat := 8 } }, _,
      rfl⟩

theorem witness_draftRuns_endAgain :
    ∃ (q : Nat) (jid : Nat) (s : State) (p : Ply) (v : Vote) (w : Vote),
      (lookup s.plies q = some p) ∧ (p.ended = some (jid, v)) ∧ (v.decide + 8 ≤ s.trd.beat + p.v) ∧ ((List.range p.nodes.length).all (endHeard p) = false) ∧
      (w = { v with decide := s.trd.beat + p.v, notice := p.notice.isSome, noticeAt := (p.notice.map Notice.beat).getD 0 }) :=
  ⟨63, 0, { plied true [] with plies := [(63, { ply2 with ended := some (0, { vote0 0 with isEnd := true }) })], trd := { booted.trd with beat := 8 } }, _,
      _, _, ⟨rfl, rfl, by decide, by decide, rfl⟩⟩

theorem witness_draftRuns_go :
    ∃ (job : Nat) (s : State) (j : Job) (d : DraftRun) (x : Draft),
      (lookup s.jobs job = some j) ∧ (j.draft = some d) ∧ (lookup s.drafts d.handle = some x) ∧ (d.voted = true) ∧ (d.go = false) ∧ (j.phase ≠ .frozen) ∧
      (s.ras.halted = false) ∧ (nextBeat x j d = s.trd.beat) ∧ (plyOfDraft s j d = none) ∧ (s.trd.holdover = false) ∧ (s.trd.locked = true) ∧
      (causeOf s job j x = 0) :=
  ⟨0, { readyState true false with jobs := [(0, { readyDraft true false with spindles := [] })] }, _, _, _, ⟨rfl, rfl, rfl, by decide, by decide,
      by decide, by decide, by decide, by decide, by decide, by decide, by decide⟩⟩

theorem witness_draftRuns_hold :
    ∃ (job : Nat) (s : State) (j : Job) (d : DraftRun) (x : Draft),
      (lookup s.jobs job = some j) ∧ (j.draft = some d) ∧ (lookup s.drafts d.handle = some x) ∧ (d.voted = true) ∧ (d.go = false) ∧ (j.phase ≠ .frozen) ∧
      (s.ras.halted = false) ∧ (nextBeat x j d = s.trd.beat) ∧ (plyOfDraft s j d = none) ∧ (s.trd.holdover = false) ∧ (s.trd.locked = true) ∧
      (causeOf s job j x ≠ 0) ∧ ((causeOf s job j x ≠ 1 ∨ d.late = 0 ∨ d.lateNow + 1 ≤ d.late)) :=
  ⟨0, readyState true false, _, _, _, ⟨rfl, rfl, rfl, by decide, by decide, by decide, by decide, by decide, by decide, by decide, by decide, by decide,
      by decide⟩⟩

theorem witness_draftRuns_late :
    ∃ (job : Nat) (s : State) (j : Job) (d : DraftRun) (x : Draft),
      (lookup s.jobs job = some j) ∧ (j.draft = some d) ∧ (lookup s.drafts d.handle = some x) ∧ (d.voted = true) ∧ (d.go = false) ∧ (j.phase ≠ .frozen) ∧
      (s.ras.halted = false) ∧ (nextBeat x j d = s.trd.beat) ∧ (plyOfDraft s j d = none) ∧ (s.trd.holdover = false) ∧ (s.trd.locked = true) ∧
      (causeOf s job j x = 1) ∧ (d.late ≠ 0) ∧ (d.late < d.lateNow + 1) :=
  ⟨0, { readyState true false with jobs := [(0, { readyDraft true false with spindles := [], draft := some { drafted with total := 1, voted := true, late := 1, lateNow := 1 } })], drafts := [(0, { oneDraft [] [] [] with steps := [{ start := 0, length := 100, progs := [0], dirs := [{ target := 0, kind := 1, required := true, lead := 1, slot := 0, ahead := 0, count := 1, first := 0 }], slots := [], reds := [] }] })] }, _, _, _, ⟨rfl, rfl, rfl, by decide, by decide, by decide, by decide, by decide, by decide, by decide, by decide, by decide, by decide, by decide⟩⟩

theorem witness_draftRuns_passedOver :
    ∃ (job : Nat) (s : State) (j : Job) (d : DraftRun) (x : Draft),
      (lookup s.jobs job = some j) ∧ (j.draft = some d) ∧ (lookup s.drafts d.handle = some x) ∧ (d.voted = true) ∧ (d.go = false) ∧ (j.phase ≠ .frozen) ∧
      (s.ras.halted = false) ∧ (nextBeat x j d < s.trd.beat) ∧ (plyOfDraft s j d = none) ∧ (s.trd.holdover = false) ∧ (s.trd.locked = true) :=
  ⟨0, { readyState true false with trd := { (readyState true false).trd with beat := 3 } }, _, _, _, ⟨rfl, rfl, rfl, by decide, by decide, by decide,
      by decide, by decide, by decide, by decide, by decide⟩⟩

theorem witness_draftRuns_noTimeBase :
    ∃ (job : Nat) (s : State) (j : Job) (d : DraftRun) (x : Draft),
      (lookup s.jobs job = some j) ∧ (j.draft = some d) ∧ (lookup s.drafts d.handle = some x) ∧ (plyOfDraft s j d = none) ∧
      ((s.trd.holdover = true ∨ s.trd.locked = false)) :=
  ⟨0, { readyState true false with trd := booted.trd }, _, _, _, ⟨rfl, rfl, rfl, by decide, by decide⟩⟩

theorem witness_draftRuns_plyGo :
    ∃ (job : Nat) (s : State) (j : Job) (d : DraftRun) (x : Draft) (p : Ply),
      (lookup s.jobs job = some j) ∧ (j.draft = some d) ∧ (lookup s.drafts d.handle = some x) ∧ (d.voted = true) ∧ (d.go = false) ∧ (j.phase ≠ .frozen) ∧
      (s.ras.halted = false) ∧ (nextBeat x j d ≤ s.trd.beat) ∧ (plyOfDraft s j d = some p) ∧
      (p.votes.filter (fun v => v.isEnd && v.status ≠ stOk && v.member ≠ p.self) = []) ∧
      ((d.first = true → shapeVerdict d p.self ((List.range p.nodes.length).filterMap (voteOf p (nextBeat x j d))) = none)) ∧ (p.notice = none) ∧
      (p.silent = false) ∧ ((∀ m < p.nodes.length, ∃ v, voteOf p (nextBeat x j d) m = some v ∧ v.cause = 0)) :=
  ⟨0, plied true [vote0 0, vote0 1], _, _, _, _, ⟨rfl, rfl, rfl, by decide, by decide, by decide, by decide, by decide, rfl, by decide, by decide,
      by decide, by decide, by
    intro m h
    match m, h with
    | 0, _ => exact ⟨vote0 0, by decide, by decide⟩
    | 1, _ => exact ⟨vote0 1, by decide, by decide⟩⟩⟩

theorem witness_draftRuns_plyMissing :
    ∃ (job : Nat) (m : Nat) (s : State) (t : State) (j : Job) (d : DraftRun) (x : Draft) (p : Ply),
      (lookup s.jobs job = some j) ∧ (j.draft = some d) ∧ (lookup s.drafts d.handle = some x) ∧ (d.voted = true) ∧ (d.go = false) ∧ (j.phase ≠ .frozen) ∧
      (s.ras.halted = false) ∧ (nextBeat x j d ≤ s.trd.beat) ∧ (plyOfDraft s j d = some p) ∧
      (p.votes.filter (fun v => v.isEnd && v.status ≠ stOk && v.member ≠ p.self) = []) ∧ (d.first = false) ∧ (p.notice = none) ∧ (p.silent = false) ∧
      ((List.range p.nodes.length).find? (fun m => (voteOf p (nextBeat x j d) m).isNone && !(endHeard p m)) = some m) ∧
      (t = modPly s j.slice (fun p => { p with votes := p.votes.filter (fun v => v.isEnd || nextBeat x j d ≤ v.decide) })) :=
  ⟨0, 1, plied true [vote0 0], _, _, _, _, _, ⟨rfl, rfl, rfl, by decide, by decide, by decide, by decide, by decide, rfl, by decide, by decide, by decide,
      by decide, by decide, rfl⟩⟩

theorem witness_draftRuns_step :
    ∃ (job : Nat) (s : State) (t : State) (u : State) (j : Job) (d : DraftRun) (x : Draft) (r : StepRec),
      (lookup s.jobs job = some j) ∧ (j.draft = some d) ∧ (lookup s.drafts d.handle = some x) ∧ (x.steps[j.step % x.nsteps]? = some r) ∧ (d.go = true) ∧
      (j.phase = .ready) ∧ (s.ras.halted = false) ∧ (s.trd.holdover = false) ∧ (s.trd.locked = true) ∧ (spindleTaken s job j = false) ∧ (awake s 0 = true) ∧
      (s.trd.beat = nextBeat x j d) ∧
      (t = modJob (startStep s job j j.spindles) job (fun j => { j with rankStates := r.progs.map (fun i => if i = 0xFFFF then RankState.ended else .running) })) ∧ (u = writeStartBlock (modDraft t job (fun e => startRun e (nextBeat x j d) j.step r)) job) :=
  ⟨0, readyState true true, _, _, _, _, _, _, ⟨rfl, rfl, rfl, rfl, by decide, by decide, by decide, by decide, by decide, by decide, by decide, by decide,
      rfl, rfl⟩⟩

theorem witness_draftRuns_notAtBeat :
    ∃ (job : Nat) (s : State) (j : Job) (d : DraftRun) (x : Draft),
      (lookup s.jobs job = some j) ∧ (j.draft = some d) ∧ (lookup s.drafts d.handle = some x) ∧ (s.trd.beat ≠ nextBeat x j d) :=
  ⟨0, { readyState true true with trd := { (readyState true true).trd with beat := 1 } }, _, _, _, ⟨rfl, rfl, rfl, by decide⟩⟩

theorem witness_draftRuns_end_ :
    ∃ (job : Nat) (since : Nat) (s : State) (t : State) (k : Job) (j : Job),
      (lookup s.jobs job = some k) ∧ (k.phase = .running since) ∧
      (t = (seatsOf s job).foldl (fun s e => if (lookup s.jobs job).isSome then settle s e else s) s) ∧ (lookup t.jobs job = some j) ∧ (j.failing = none) ∧
      (leftover t j (seatsOf t job) = none) ∧ ((seatsOf t job).any (fun e => !rankEnded t j e) = false) ∧
      (j.draft.any (fun d => !slotsDone t j d) = false) ∧ (j.rankStates.any (fun r => r = .yielded) = false) :=
  ⟨0, 0, ranked Ctx.zero, _, jobOf [], jobOf [], ⟨by decide, by decide, rfl, by decide, by decide, by decide, by decide, by decide, by decide⟩⟩

theorem witness_draftRuns_yielded :
    ∃ (job : Nat) (since : Nat) (s : State) (t : State) (k : Job) (j : Job),
      (lookup s.jobs job = some k) ∧ (k.phase = .running since) ∧
      (t = (seatsOf s job).foldl (fun s e => if (lookup s.jobs job).isSome then settle s e else s) s) ∧ (lookup t.jobs job = some j) ∧ (j.failing = none) ∧
      (leftover t j (seatsOf t job) = none) ∧ ((seatsOf t job).any (fun e => !rankEnded t j e) = false) ∧
      (j.draft.any (fun d => !slotsDone t j d) = false) ∧ (j.rankStates.any (fun r => r = .yielded) = true) ∧ (j.abortAtEnd = none) :=
  ⟨0, 0, { ranked Ctx.zero with jobs := [(0, { jobOf [] with rankStates := [.yielded] })] }, _, _, { jobOf [] with rankStates := [.yielded] }, ⟨rfl, rfl,
      rfl, by decide, by decide, by decide, by decide, by decide, by decide, by decide⟩⟩

theorem witness_draftRuns_leftBlocks :
    ∃ (job : Nat) (since : Nat) (rank : Nat) (idx : Nat) (s : State) (t : State) (k : Job) (j : Job),
      (lookup s.jobs job = some k) ∧ (k.phase = .running since) ∧
      (t = (seatsOf s job).foldl (fun s e => if (lookup s.jobs job).isSome then settle s e else s) s) ∧ (lookup t.jobs job = some j) ∧ (j.failing = none) ∧
      (leftover t j (seatsOf t job) = some (rank, idx)) :=
  ⟨0, 0, 0, 4, ranked { Ctx.zero with blocks := [(4, { wfmt := 1, data := [] })] }, _, jobOf [], jobOf [], ⟨by decide, by decide, rfl, by decide,
      by decide, by decide⟩⟩

theorem witness_draftRuns_ranksRun :
    ∃ (job : Nat) (since : Nat) (s : State) (t : State) (k : Job) (j : Job),
      (lookup s.jobs job = some k) ∧ (k.phase = .running since) ∧
      (t = (seatsOf s job).foldl (fun s e => if (lookup s.jobs job).isSome then settle s e else s) s) ∧ (lookup t.jobs job = some j) ∧ (j.failing = none) ∧
      (leftover t j (seatsOf t job) = none) ∧ ((seatsOf t job).any (fun e => !rankEnded t j e) = true) :=
  ⟨0, 0, seated [iword [(0, 0x24)]] Ctx.zero, _, jobOf [iword [(0, 0x24)]], jobOf [iword [(0, 0x24)]], ⟨by decide, by decide, rfl, by decide, by decide,
      by decide, by decide⟩⟩

theorem witness_draftRuns_freezeStop :
    ∃ (job : Nat) (since : Nat) (s : State) (j : Job) (d : DraftRun) (x : Draft) (p : Ply) (r : StepRec),
      (lookup s.jobs job = some j) ∧ (j.draft = some d) ∧ (lookup s.drafts d.handle = some x) ∧ (j.phase = .running since) ∧ (plyOfDraft s j d = some p) ∧
      (x.steps[j.step % x.nsteps]? = some r) ∧ (p.notice.isSome = true) ∧ (d.start + r.length + 8 ≤ s.trd.beat) :=
  ⟨0, 0, noticed, _, _, _, _, _, ⟨rfl, rfl, rfl, by decide, rfl, rfl, by decide, by decide⟩⟩

theorem witness_draftRuns_stopLater :
    ∃ (job : Nat) (since : Nat) (s : State) (j : Job) (d : DraftRun) (x : Draft) (p : Ply) (r : StepRec),
      (lookup s.jobs job = some j) ∧ (j.draft = some d) ∧ (lookup s.drafts d.handle = some x) ∧ (j.phase = .running since) ∧ (plyOfDraft s j d = some p) ∧
      (x.steps[j.step % x.nsteps]? = some r) ∧ (s.trd.beat < d.start + r.length + 8) :=
  ⟨0, 0, { noticed with trd := booted.trd }, _, _, _, _, _, ⟨rfl, rfl, rfl, by decide, rfl, rfl, by decide⟩⟩

theorem witness_draftRuns_stopped :
    ∃ (job : Nat) (det : Nat) (s : State) (j : Job) (p : Ply) (n : Notice),
      (lookup s.jobs job = some j) ∧ (j.failing = some (stSplit, det)) ∧ (lookup s.plies j.slice = some p) ∧ (p.notice = some n) ∧
      (drained s job = true) :=
  ⟨0, 0, { noticed with jobs := [(0, { jobOf [] with failing := some (stSplit, 0), draft := some { drafted with ply := 5 } })] }, _, _, _, ⟨rfl, rfl, rfl,
      rfl, by decide⟩⟩

theorem witness_draftRuns_record :
    ∃ (n : Fin 104) (slice : Fin 64) (v : Vote) (s : State) (t : State) (p : Ply),
      (lookup s.plies slice.val = some p) ∧ (p.links.contains (groupBase s (linkOf s n.val)) = true) ∧ (v.member ≠ p.self) ∧ (v.member < p.nodes.length) ∧
      (p.votes.contains v = false) ∧ (v.notice = false) ∧
      (t = sendVote (modPly s slice.val (fun p => { p with votes := p.votes.filter (fun w => !(v.isEnd && w.isEnd && w.member = v.member)) ++ [v] })) slice.val v (some (groupBase s (linkOf s n.val)))) :=
  ⟨5, 63, vote0 1, plied true [vote0 0], _, _, ⟨rfl, by decide, by decide, by decide, by decide, by decide, rfl⟩⟩

theorem witness_draftRuns_recordNotice :
    ∃ (n : Fin 104) (slice : Fin 64) (v : Vote) (s : State) (t : State) (u : State) (p : Ply),
      (lookup s.plies slice.val = some p) ∧ (p.links.contains (groupBase s (linkOf s n.val)) = true) ∧ (v.member ≠ p.self) ∧ (v.member < p.nodes.length) ∧
      (p.votes.contains v = false) ∧ (v.notice = true) ∧
      (t = sendVote (modPly s slice.val (fun p => { p with votes := p.votes.filter (fun w => !(v.isEnd && w.isEnd && w.member = v.member)) ++ [v] })) slice.val v (some (groupBase s (linkOf s n.val)))) ∧ (u = takeNotice t slice.val { beat := v.noticeAt, member := v.member, cause := 1 }) :=
  ⟨5, 63, { vote0 1 with notice := true }, plied true [vote0 0], _, _, _, ⟨rfl, by decide, by decide, by decide, by decide, by decide, rfl, rfl⟩⟩

theorem witness_draftRuns_known :
    ∃ (slice : Fin 64) (v : Vote) (s : State) (p : Ply), (lookup s.plies slice.val = some p) ∧ (p.votes.contains v = true) :=
  ⟨63, vote0 0, plied true [vote0 0], _, ⟨rfl, by decide⟩⟩

theorem witness_draftRuns_silent :
    ∃ (n : Fin 104) (slice : Fin 64) (s : State) (p : Ply),
      (lookup s.plies slice.val = some p) ∧ (p.links.contains (groupBase s (linkOf s n.val)) = true) ∧
      (4 ≤ readD 0 p.quiet (groupBase s (linkOf s n.val))) :=
  ⟨5, 63, plied true [vote0 0], _, ⟨rfl, by decide, by decide⟩⟩

theorem witness_draftRuns_heard :
    ∃ (n : Fin 104) (slice : Fin 64) (s : State) (p : Ply), (lookup s.plies slice.val = some p) ∧ (readD 0 p.quiet (groupBase s (linkOf s n.val)) < 4) :=
  ⟨6, 63, plied true [vote0 0], _, ⟨rfl, by decide⟩⟩

theorem witness_draftRuns_notice :
    ∃ (s : State) (q : Nat) (p : Ply), (lookup s.plies q = some p) :=
  ⟨plied true [vote0 0], 63, _, rfl⟩

theorem witness_beatsAndMarkers_beat :
    ∃ (s : State) (u : State), (u = finishBeat s) ∧ (u.trd.load = none) :=
  ⟨booted, _, ⟨rfl, by decide⟩⟩

theorem witness_beatsAndMarkers_loaded :
    ∃ (s : State) (b : Nat) (h : Nat), ((finishBeat s).trd.load = some (b, h)) :=
  ⟨{ booted with trd := { booted.trd with load := some (7, 1) } }, 7, 1, rfl⟩

theorem witness_beatsAndMarkers_noDrafts :
    ∃ (s : State), (s.jobs = []) ∧ (s.plies = []) :=
  ⟨booted, ⟨by decide, by decide⟩⟩

theorem witness_beatsAndMarkers_quiet :
    ∃ (s : State) (t : State) (q : Nat) (l : Nat) (p : Ply),
      (exec .beat s = .next t) ∧ (lookup (finishBeat s).plies q = some p) ∧ (p.links.Nodup) ∧ (l ∈ p.links) :=
  ⟨{ booted with plies := [(63, ply2)] }, _, 63, 5, _, ⟨rfl, rfl, by decide, by decide⟩⟩

theorem witness_beatsAndMarkers_marker :
    ∃ (n : Fin 104) (m : Marker) (s : State) (q : Nat) (p : Ply),
      (s.plies = [(q, p)]) ∧ (p.links = [groupBase s (linkOf s n.val)]) ∧ (p.self ≠ (p.nodes.findIdx? (fun k => k = p.anchor)).getD 512) ∧
      (m.anchor = p.anchor) ∧ (p.timing = none) ∧ (s.trd.plied = true) :=
  ⟨5, { beat := 0, anchor := 7, sender := 0, hops := 2, txSub := 0, txPhase := 0 },
      { booted with plies := [(63, { ply2 with self := 1, nodes := [7, 0], anchor := 7 })], trd := { booted.trd with plied := true } }, 63, _, ⟨rfl,
      by decide, by decide, by decide, by decide, by decide⟩⟩

theorem witness_beatsAndMarkers_elsewhere :
    ∃ (n : Fin 104) (s : State), ((∀ e ∈ s.plies, e.2.links.contains (groupBase s (linkOf s n.val)) = false)) :=
  ⟨6, plied true [vote0 0], by decide⟩

theorem witness_beatsAndMarkers_lost :
    ∃ (s : State), (s.trd.plied = true) ∧ (8 ≤ s.trd.skewBeats) ∧ (s.pwr.state ≤ 3) ∧ (s.trd.holdover = false) :=
  ⟨{ booted with trd := { booted.trd with plied := true, skewBeats := 8 } }, ⟨by decide, by decide, by decide, by decide⟩⟩

theorem witness_beatsAndMarkers_held :
    ∃ (s : State), (s.trd.skewBeats < 8) :=
  ⟨{ booted with trd := { booted.trd with plied := true, skewBeats := 7 } }, by decide⟩

theorem witness_referencesAndEpochs_qualifiedA :
    ∃ (s : State), (s.trd.holdover = false) :=
  ⟨booted, by decide⟩

theorem witness_referencesAndEpochs_qualifiedB :
    ∃ (s : State), (s.trd.holdover = false) :=
  ⟨booted, by decide⟩

theorem witness_referencesAndEpochs_firstBack :
    ∃ (s : State), (s.trd.holdover = true) ∧ (s.trd.lockTo = none) :=
  ⟨{ booted with trd := { booted.trd with holdover := true } }, ⟨by decide, by decide⟩⟩

theorem witness_referencesAndEpochs_otherLost :
    ∃ (s : State), (s.trd.refSel = false) ∧ (s.trd.lockTo = none) :=
  ⟨booted, ⟨by decide, by decide⟩⟩

theorem witness_referencesAndEpochs_switched :
    ∃ (s : State), (s.trd.refSel = false) ∧ (s.trd.lockTo = none) ∧ (s.trd.holdover = false) ∧ (s.trd.refB = true) :=
  ⟨{ booted with trd := { booted.trd with refA := true, refB := true } }, ⟨by decide, by decide, by decide, by decide⟩⟩

theorem witness_referencesAndEpochs_holdover :
    ∃ (s : State), (s.trd.refSel = false) ∧ (s.trd.lockTo = none) ∧ (s.trd.holdover = false) ∧ (s.trd.locked = true) ∧ (s.trd.refB = false) :=
  ⟨{ booted with trd := { booted.trd with locked := true, refA := true } }, ⟨by decide, by decide, by decide, by decide, by decide⟩⟩

theorem witness_referencesAndEpochs_beforeLock :
    ∃ (s : State), (s.trd.refSel = false) ∧ (s.trd.lockTo = none) ∧ (s.trd.holdover = false) ∧ (s.trd.locked = false) ∧ (s.trd.refB = false) :=
  ⟨{ booted with trd := { booted.trd with refA := true } }, ⟨by decide, by decide, by decide, by decide, by decide⟩⟩

theorem witness_referencesAndEpochs_firstLock :
    ∃ (s : State), (s.trd.holdover = false) ∧ (s.trd.locked = false) ∧ (s.trd.refSel = false) ∧ (s.trd.refA = true) :=
  ⟨{ booted with trd := { booted.trd with refA := true } }, ⟨by decide, by decide, by decide, by decide⟩⟩

theorem witness_referencesAndEpochs_unqualified :
    ∃ (s : State), (s.trd.holdover = false) ∧ (refOk s.trd s.trd.refSel = false) :=
  ⟨booted, ⟨by decide, by decide⟩⟩

theorem witness_referencesAndEpochs_relock :
    ∃ (s : State) (t : State) (b : Bool) (n : Nat),
      (s.trd.holdover = true) ∧ (s.trd.lockTo = some b) ∧ (s.trd.holdoverAt = some n) ∧ (anyPly s = true) ∧
      (t = (if b ≠ s.trd.refSel then switchRef s b false else s)) :=
  ⟨{ { booted with trd := { booted.trd with holdover := true, lockTo := some true, holdoverAt := some 3 } } with plies := [(63, ply0)] }, _, true, 3,
      ⟨by decide, by decide, by decide, by decide, rfl⟩⟩

theorem witness_referencesAndEpochs_select :
    ∃ (who : Requester) (v : Word) (s : State), (mayWrite s who) ∧ (v.getLsbD 0 ≠ s.trd.refSel) ∧ (refOk s.trd (v.getLsbD 0) = true) :=
  ⟨.port 0, 1, { booted with trd := { booted.trd with refB := true } }, ⟨by decide, by decide, by decide⟩⟩

theorem witness_referencesAndEpochs_ignored :
    ∃ (who : Requester) (v : Word) (s : State), (mayWrite s who) ∧ ((v.getLsbD 0 = s.trd.refSel ∨ refOk s.trd (v.getLsbD 0) = false)) :=
  ⟨.port 0, 1, booted, ⟨by decide, by decide⟩⟩

theorem witness_referencesAndEpochs_firstEpoch :
    ∃ (s : State) (t : State),
      (s.trd.numbered = false) ∧ (s.trd.locked = true) ∧ (s.trd.refSel = false) ∧
      (t = modTrd s (fun t => { t with beat := 0, subbeat := 0, numbered := true, lastEpochA := some s.clock, lastEpochB := some s.clock })) :=
  ⟨{ booted with trd := { booted.trd with locked := true } }, _, ⟨by decide, by decide, by decide, rfl⟩⟩

theorem witness_referencesAndEpochs_otherEpoch :
    ∃ (s : State), (s.trd.numbered = false) ∧ (s.trd.refSel = false) :=
  ⟨booted, ⟨by decide, by decide⟩⟩

theorem witness_referencesAndEpochs_window :
    ∃ (offset : Int) (s : State), (s.trd.numbered = true) ∧ ((epochOffset s.trd.beat offset).natAbs ≤ 13) :=
  ⟨-13, { booted with trd := { booted.trd with numbered := true } }, ⟨by decide, by decide⟩⟩

theorem witness_referencesAndEpochs_slip :
    ∃ (i : TreadleInput) (offset : Int) (s : State) (t : State),
      (s.trd.numbered = true) ∧ (13 < (epochOffset s.trd.beat offset).natAbs) ∧
      (t = modTrd (noteEpoch s (inputBit i) false s.clock) (fun t => { t with epochSlip := sat32 (t.epochSlip + 1) })) :=
  ⟨.A, 14, { booted with trd := { booted.trd with numbered := true } }, _, ⟨by decide, by decide, rfl⟩⟩

theorem witness_referencesAndEpochs_missing :
    ∃ (n : Nat) (s : State) (t : State),
      (s.trd.numbered = true) ∧ (s.trd.lastEpochB = some n) ∧ (n + 1000010 ≤ s.clock) ∧
      (t = modTrd (noteEpoch s true false (n + 1000000)) (fun t => { t with epochSlip := sat32 (t.epochSlip + 1) })) :=
  ⟨7, { booted with clock := 1000017, trd := { booted.trd with numbered := true, lastEpochB := some 7 } }, _, ⟨by decide, by decide, by decide, rfl⟩⟩

theorem witness_referencesAndEpochs_unnumbered :
    ∃ (n : Nat) (s : State) (t : State),
      (s.trd.numbered = false) ∧ (s.trd.refSel = true) ∧ (s.trd.lastEpochB = some n) ∧ (n + 1000010 ≤ s.clock) ∧
      (t = modTrd (noteEpoch s true false s.clock) (fun t => { t with epochSlip := sat32 (t.epochSlip + 1) })) :=
  ⟨7, { booted with clock := 1000017, trd := { booted.trd with refSel := true, lastEpochB := some 7 } }, _, ⟨by decide, by decide, by decide, by decide,
      rfl⟩⟩

theorem witness_referencesAndEpochs_present :
    ∃ (n : Nat) (s : State), (s.trd.lastEpochA = some n) ∧ (s.clock < n + 1000010) :=
  ⟨7, { booted with clock := 1000016, trd := { booted.trd with numbered := true, lastEpochA := some 7 } }, ⟨by decide, by decide⟩⟩

/-- A storage command of one unit on store 3. -/
def storageOp (opcode count : Nat) : Op := opOf opcode 63 [(8, 2, 3), (12, 4, count), (24, 8, 0x10000)]
def storageState (opcode count : Nat) : State := withImageIn (storageOp opcode count) [1#8]
def lostState (opcode count : Nat) : State := { storageState opcode count with stores := [(3, { imageStore with map := [(0, 0xFFFFFFFE)] })] }

/-- Every bobbin read-only. -/
def fullState : State := (List.range 16).foldl (fun s b => modBob s b (fun x => { x with readOnly := true })) (storageState 1 4)

/-- One bobbin to write to, with an open group. -/
def openState : State := modBob fullState 0 (fun x =>
  { x with readOnly := false, groups := [{ bulk := false, maint := false, plane := 0, blocks := (List.range 8).map (fun b => (b, 1)), parity := [] }] })

/-- Where every element gives something, the first one does. -/
theorem findSome_isSome {α β : Type} (f : α → Option β) (l : List α) (hl : l ≠ []) (h : ∀ a, (f a).isSome = true) : (l.findSome? f).isSome = true := by
  cases l with
  | nil => exact absurd rfl hl
  | cons a t =>
    obtain ⟨b, hb⟩ := Option.isSome_iff_exists.1 (h a)
    simp [List.findSome?, hb]
theorem rotate_range (n m : Nat) (h : n ≠ 0) : rotate (List.range n) m ≠ [] := by
  intro e
  have : (rotate (List.range n) m).length = n := by simp [rotate]; have := Nat.mod_lt m (Nat.pos_of_ne_zero h); omega
  rw [e] at this
  exact h this.symm

/-- A unit is placed where one bobbin can take it. -/
theorem placeUnit_isSome (s : State) (b n u q : Nat) (d : Mem) (hp : ∀ k m, placeable { s with free := k } m = [b])
    (h : ∀ m t pg, (programPage (getBob s b) b false false m t [] pg).isSome = true) : (placeUnit s n u q d).isSome = true := by
  simp only [placeUnit, draw, hp, List.findSome?, Option.isSome_map]
  obtain ⟨r, hr⟩ := Option.isSome_iff_exists.1 (findSome_isSome (fun p => programPage (getBob s b) b false false p s.clock []
    (mkPage n u (s.journal.wseq + 1) q (ownerKey s n) d)) _ (rotate_range 32 (Config.freeNat (s.free + 1)) (by decide)) (fun _ => h _ _ _))
  have e : programAny (getBob { s with free := s.free + 1 + 1 } b) b false false (Config.freeNat (s.free + 1)) s.clock []
      (mkPage n u (s.journal.wseq + 1) q (ownerKey { s with free := s.free + 1 + 1 } n) d) = some r := hr
  rw [e]
  rfl

theorem writeUnits_isSome (s : State) (b n a sector count u : Nat) (st : Store) (src : Nat → Byte) (hp : ∀ k m, placeable { s with free := k } m = [b])
    (h : ∀ m t pg,
      (programPage (getBob s b) b false false m t [] pg).isSome = true) : (writeUnits s n st a false sector count src [u] []).isSome = true := by
  obtain ⟨⟨e, t⟩,
      h1⟩ := Option.isSome_iff_exists.1 (placeUnit_isSome s b n u (commitSeq s [] a u) (mergeUnit ((unitData s st u).getD []) u sector count src) hp h)
  simp [writeUnits, h1]

/-- That state with the operation started; it writes with FUA or without. -/
def wst (fua : Bool) : State := started { openState with ops := [(0, { storageOp 1 4 with flags := if fua then 2 else 0 })] } 0 2
theorem wst_room (fua : Bool) : ∀ m t pg, (programPage (getBob (wst fua) 0) 0 false false m t [] pg).isSome = true := by
  intro m t pg
  have hx : getBob (wst fua) 0 = { Bobbin.zero with
      groups := [{ bulk := false, maint := false, plane := 0, blocks := (List.range 8).map (fun b => (b, 1)), parity := [] }],
      pages := (getBob (wst fua) 0).pages } := by cases fua <;> decide +kernel
  rw [hx]
  rfl
theorem wst_one (fua : Bool) (k m : Nat) : placeable { wst fua with free := k } m = [0] := by
  have h : (List.range (nBobbins { wst fua with free := k })).filter (fun b => !(getBob { wst fua with free := k } b).readOnly) = [0] := by
    show (List.range (nBobbins (wst fua))).filter (fun b => !(getBob (wst fua) b).readOnly) = [0]
    cases fua <;> decide +kernel
  simp only [placeable, h]
  have h2 : (getBob { wst fua with free := k } 0).foreground = false := by
    show (getBob (wst fua) 0).foreground = false
    cases fua <;> decide +kernel
  simp [h2, rotate, Nat.mod_one]

theorem witness_storageCommands_read :
    ∃ (op : Nat) (o : Op) (st : Store) (bufs : List (Nat × Nat)) (s : State) (t : State) (u : State),
      (StorageRuns s op 0x02 o st bufs t) ∧ ((unitsOf (o.f 16 8 * 4096) (o.f 12 4 * 4096)).any (unitFails t st) = false) ∧
      (u = (List.range (o.f 12 4)).foldl (fun x i => toBuffers x o.port bufs (4096 * i) (readStore t st ((o.f 16 8 + i) * 4096) 4096)) t) :=
  ⟨0, storageOp 2 1, imageStore, [(0x10000, 4096)], storageState 2 1, _, _, ⟨⟨by decide, rfl, by decide, by decide +kernel, by decide, by decide,
      fun _ => ⟨by decide, by decide, by decide, by decide⟩⟩, by decide, rfl⟩⟩

theorem witness_storageCommands_readFails :
    ∃ (op : Nat) (b : Nat) (o : Op) (st : Store) (bufs : List (Nat × Nat)) (bad : List Nat) (s : State) (t : State) (u : State),
      (StorageRuns s op 0x02 o st bufs t) ∧ ((unitsOf (o.f 16 8 * 4096) (o.f 12 4 * 4096)).filter (unitFails t st) = b :: bad) ∧
      (u = ((List.range (o.f 12 4)).filter (fun i => !((b :: bad).contains ((o.f 16 8 + i) / 4)))).foldl (fun x i => toBuffers x o.port bufs (4096 * i) (readStore t st ((o.f 16 8 + i) * 4096) 4096)) t) :=
  ⟨0, 0, storageOp 2 1, { imageStore with map := [(0, 0xFFFFFFFE)] }, [(0x10000, 4096)], [], lostState 2 1, _, _, ⟨⟨by decide, rfl, by decide,
      by decide +kernel, by decide, by decide, fun _ => ⟨by decide, by decide, by decide, by decide⟩⟩, by decide, rfl⟩⟩

theorem witness_storageCommands_write :
    ∃ (op : Nat) (o : Op) (st : Store) (bufs : List (Nat × Nat)) (s : State) (t : State) (u : State) (v : State) (w : State) (ps : List Nat) (cs : List MapChange),
      (StorageRuns s op 0x01 o st bufs t) ∧ (ps = (unitsOf (o.f 16 8 * 4096) (o.f 12 4 * 4096)).filter (fun u => !coversUnit (o.f 16 8) (o.f 12 4) u)) ∧
      (ps.find? (unitFails t st) = none) ∧ (w = countReads t (o.f 8 2) ps) ∧
      (writeUnits w (o.f 8 2) ((lookup w.stores (o.f 8 2)).getD st) (atomicUnit t o) false (o.f 16 8) (o.f 12 4) (fromBuffers t o.port bufs) (unitsOf (o.f 16 8 * 4096) (o.f 12 4 * 4096)) [] = some (cs, u)) ∧ (v = charge ((recordsOf (atomicUnit t o) cs).foldl journalRecord u) st.slice (fun m => { m with flashWrite := m.flashWrite + cs.length * unitBytes, flashRead := m.flashRead + ps.length * unitBytes })) ∧ (bit o.flags 1 = false) := by
  have e : unitsOf (Op.f ({ storageOp 1 4 with flags := 0 }) 16 8 * 4096) (Op.f ({ storageOp 1 4 with flags := 0 }) 12 4 * 4096) = [0] := by decide +kernel
  have a : Op.f ({ storageOp 1 4 with flags := 0 }) 8 2 = 3 ∧ Op.f ({ storageOp 1 4 with flags := 0 }) 16 8 = 0 ∧
      Op.f ({ storageOp 1 4 with flags := 0 }) 12 4 = 4 := by decide +kernel
  have l : (lookup (wst false).stores 3).getD imageStore = imageStore := by decide +kernel
  obtain ⟨⟨cs, u⟩,
      h⟩ := Option.isSome_iff_exists.1 (writeUnits_isSome (wst false) 0 3 (atomicUnit (wst false) ({ storageOp 1 4 with flags := 0 })) 0 4 0 imageStore
    (fromBuffers (wst false) 0 [(0x10000, 16384)]) (wst_one false) (wst_room false))
  refine ⟨0, { storageOp 1 4 with flags := 0 }, imageStore, [(0x10000, 16384)], { openState with ops := [(0, { storageOp 1 4 with flags := 0 })] },
      wst false, u, _, wst false, [], cs,
    ⟨by decide, rfl, by decide +kernel, by decide +kernel, by decide +kernel, by decide +kernel,
      fun _ => ⟨by decide +kernel, by decide +kernel, by decide +kernel, by decide +kernel⟩⟩, by decide +kernel, rfl, rfl, ?_, rfl, by decide⟩
  rw [e, a.1, a.2.1, a.2.2, l]
  exact h

theorem witness_storageCommands_writeFua :
    ∃ (op : Nat) (o : Op) (st : Store) (bufs : List (Nat × Nat)) (s : State) (t : State) (u : State) (v : State) (w : State) (ps : List Nat) (cs : List MapChange),
      (StorageRuns s op 0x01 o st bufs t) ∧ (ps = (unitsOf (o.f 16 8 * 4096) (o.f 12 4 * 4096)).filter (fun u => !coversUnit (o.f 16 8) (o.f 12 4) u)) ∧
      (ps.find? (unitFails t st) = none) ∧ (w = countReads t (o.f 8 2) ps) ∧
      (writeUnits w (o.f 8 2) ((lookup w.stores (o.f 8 2)).getD st) (atomicUnit t o) false (o.f 16 8) (o.f 12 4) (fromBuffers t o.port bufs) (unitsOf (o.f 16 8 * 4096) (o.f 12 4 * 4096)) [] = some (cs, u)) ∧ (v = awaitRecords (charge ((recordsOf (atomicUnit t o) cs).foldl journalRecord u) st.slice (fun m => { m with flashWrite := m.flashWrite + cs.length * unitBytes, flashRead := m.flashRead + ps.length * unitBytes })) (o.f 8 2) (unitsOf (o.f 16 8 * 4096) (o.f 12 4 * 4096)) op) ∧ (bit o.flags 1 = true) := by
  have e : unitsOf (Op.f ({ storageOp 1 4 with flags := 2 }) 16 8 * 4096) (Op.f ({ storageOp 1 4 with flags := 2 }) 12 4 * 4096) = [0] := by decide +kernel
  have a : Op.f ({ storageOp 1 4 with flags := 2 }) 8 2 = 3 ∧ Op.f ({ storageOp 1 4 with flags := 2 }) 16 8 = 0 ∧
      Op.f ({ storageOp 1 4 with flags := 2 }) 12 4 = 4 := by decide +kernel
  have l : (lookup (wst true).stores 3).getD imageStore = imageStore := by decide +kernel
  obtain ⟨⟨cs, u⟩,
      h⟩ := Option.isSome_iff_exists.1 (writeUnits_isSome (wst true) 0 3 (atomicUnit (wst true) ({ storageOp 1 4 with flags := 2 })) 0 4 0 imageStore
    (fromBuffers (wst true) 0 [(0x10000, 16384)]) (wst_one true) (wst_room true))
  refine ⟨0, { storageOp 1 4 with flags := 2 }, imageStore, [(0x10000, 16384)], { openState with ops := [(0, { storageOp 1 4 with flags := 2 })] },
      wst true, u, _, wst true, [], cs,
    ⟨by decide, rfl, by decide +kernel, by decide +kernel, by decide +kernel, by decide +kernel,
      fun _ => ⟨by decide +kernel, by decide +kernel, by decide +kernel, by decide +kernel⟩⟩, by decide +kernel, rfl, rfl, ?_, rfl, by decide⟩
  rw [e, a.1, a.2.1, a.2.2, l]
  exact h

theorem witness_storageCommands_noRoom :
    ∃ (op : Nat) (o : Op) (st : Store) (bufs : List (Nat × Nat)) (s : State) (t : State) (w : State) (ps : List Nat),
      (StorageRuns s op 0x01 o st bufs t) ∧ (ps = (unitsOf (o.f 16 8 * 4096) (o.f 12 4 * 4096)).filter (fun u => !coversUnit (o.f 16 8) (o.f 12 4) u)) ∧
      (ps.find? (unitFails t st) = none) ∧ (w = countReads t (o.f 8 2) ps) ∧
      (writeUnits w (o.f 8 2) ((lookup w.stores (o.f 8 2)).getD st) (atomicUnit t o) false (o.f 16 8) (o.f 12 4) (fromBuffers t o.port bufs) (unitsOf (o.f 16 8 * 4096) (o.f 12 4 * 4096)) [] = none) := by
  have e : unitsOf ((storageOp 1 4).f 16 8 * 4096) ((storageOp 1 4).f 12 4 * 4096) = [0] := by decide +kernel
  have a : (storageOp 1 4).f 8 2 = 3 ∧ (storageOp 1 4).f 16 8 = 0 ∧ (storageOp 1 4).f 12 4 = 4 := by decide +kernel
  refine ⟨0, storageOp 1 4, imageStore, [(0x10000, 16384)], fullState, started fullState 0 2, started fullState 0 2, [], ⟨by decide, rfl, by decide,
      by decide +kernel, by decide, by decide, fun _ => ⟨by decide, by decide, by decide, by decide⟩⟩, by decide +kernel, rfl, rfl, ?_⟩
  rw [e, a.1, a.2.1, a.2.2]
  simp only [writeUnits, Bool.false_and, Bool.false_eq_true, if_false]
  rw [placeUnit_none _ _ _ _ _ (by decide +kernel)]

theorem witness_storageCommands_partUnreadable :
    ∃ (op : Nat) (b : Nat) (o : Op) (st : Store) (bufs : List (Nat × Nat)) (s : State) (t : State),
      (StorageRuns s op 0x01 o st bufs t) ∧
      (((unitsOf (o.f 16 8 * 4096) (o.f 12 4 * 4096)).filter (fun u => !coversUnit (o.f 16 8) (o.f 12 4) u)).find? (unitFails t st) = some b) :=
  ⟨0, 0, storageOp 1 1, { imageStore with map := [(0, 0xFFFFFFFE)] }, [(0x10000, 4096)], lostState 1 1, _, ⟨⟨by decide, rfl, by decide, by decide +kernel,
      by decide, by decide, fun _ => ⟨by decide, by decide, by decide, by decide⟩⟩, by decide⟩⟩

theorem witness_storageCommands_trim :
    ∃ (op : Nat) (o : Op) (st : Store) (s : State) (t : State) (u : State) (v : State) (w : State) (ps : List Nat) (cs : List MapChange),
      (StorageRuns s op 0x04 o st [] t) ∧ (ps = (unitsOf (o.f 16 8 * 4096) (o.f 12 4 * 4096)).filter (fun u => !coversUnit (o.f 16 8) (o.f 12 4) u)) ∧
      (ps.find? (unitFails t st) = none) ∧ (w = countReads t (o.f 8 2) ps) ∧
      (writeUnits w (o.f 8 2) ((lookup w.stores (o.f 8 2)).getD st) (atomicUnit t o) true (o.f 16 8) (o.f 12 4) (fun _ => 0) (unitsOf (o.f 16 8 * 4096) (o.f 12 4 * 4096)) [] = some (cs, u)) ∧ (v = charge ((recordsOf (atomicUnit t o) cs).foldl journalRecord u) st.slice (fun m => { m with flashWrite := m.flashWrite + cs.length * unitBytes, flashRead := m.flashRead + ps.length * unitBytes })) ∧ (bit o.flags 1 = false) :=
  ⟨0, storageOp 4 4, imageStore, storageState 4 4, _, _, _, _, _, _, ⟨⟨by decide, rfl, by decide, by decide +kernel, by decide, by decide,
      fun h => absurd rfl h⟩, rfl, by decide, rfl, rfl, rfl, by decide⟩⟩

theorem witness_storageCommands_trimFua :
    ∃ (op : Nat) (o : Op) (st : Store) (s : State) (t : State) (u : State) (v : State) (w : State) (ps : List Nat) (cs : List MapChange),
      (StorageRuns s op 0x04 o st [] t) ∧ (ps = (unitsOf (o.f 16 8 * 4096) (o.f 12 4 * 4096)).filter (fun u => !coversUnit (o.f 16 8) (o.f 12 4) u)) ∧
      (ps.find? (unitFails t st) = none) ∧ (w = countReads t (o.f 8 2) ps) ∧
      (writeUnits w (o.f 8 2) ((lookup w.stores (o.f 8 2)).getD st) (atomicUnit t o) true (o.f 16 8) (o.f 12 4) (fun _ => 0) (unitsOf (o.f 16 8 * 4096) (o.f 12 4 * 4096)) [] = some (cs, u)) ∧ (v = awaitRecords (charge ((recordsOf (atomicUnit t o) cs).foldl journalRecord u) st.slice (fun m => { m with flashWrite := m.flashWrite + cs.length * unitBytes, flashRead := m.flashRead + ps.length * unitBytes })) (o.f 8 2) (unitsOf (o.f 16 8 * 4096) (o.f 12 4 * 4096)) op) ∧ (bit o.flags 1 = true) :=
  ⟨0, { storageOp 4 4 with flags := 2 }, imageStore, { storageState 4 4 with ops := [(0, { storageOp 4 4 with flags := 2 })] }, _, _, _, _, _, _,
      ⟨⟨by decide, rfl, by decide, by decide +kernel, by decide, by decide, fun h => absurd rfl h⟩, rfl, by decide, rfl, rfl, rfl, by decide⟩⟩

theorem witness_storageCommands_covered :
    ∃ (u : Nat) (sector : Nat) (count : Nat) (st : Store), (coversUnit sector count u = true) ∧ (unitEntry st u ≠ unmapped) :=
  ⟨0, 0, 4, imageStore, ⟨by decide, by decide⟩⟩

theorem witness_storageCommands_placed :
    ∃ (s : State) (t : State) (n : Nat) (a : Nat) (u : Nat) (e : Nat) (sector : Nat) (count : Nat) (st : Store) (src : Nat → Byte) (acc : List MapChange),
      (placeUnit s n u (commitSeq s acc a u) (mergeUnit ((unitData s st u).getD []) u sector count src) = some (e, t)) := by
  obtain ⟨⟨e, t⟩, h⟩ := Option.isSome_iff_exists.1 (placeUnit_isSome (wst false) 0 3 0 (commitSeq (wst false) [] 64 0)
    (mergeUnit ((unitData (wst false) imageStore 0).getD []) 0 0 4 (fun _ => 0)) (wst_one false) (wst_room false))
  exact ⟨_, _, _, _, _, _, _, _, _, _, _, h⟩

theorem witness_storageCommands_flush :
    ∃ (op : Nat) (o : Op) (s : State) (t : State),
      (Ready s op 0x00 2 o) ∧ (t = started s op 2) ∧ (o.f 8 2 ≤ 1023) ∧ (deletedAhead t (o.f 8 2) op = false) ∧
      ((lookup t.stores (o.f 8 2)).any (fun st => st.slice = o.slice && st.index.isNone) = true) :=
  ⟨0, opOf 0 63 [(8, 2, 3)], withImageIn (opOf 0 63 [(8, 2, 3)]) [], _, ⟨by decide, rfl, by decide, by decide, by decide⟩⟩

theorem witness_storageCommands_flushAll :
    ∃ (op : Nat) (o : Op) (s : State) (t : State), (Ready s op 0x00 2 o) ∧ (t = started s op 2) ∧ (o.f 8 2 = 0xFFFF) :=
  ⟨0, opOf 0 63 [(8, 2, 0xFFFF)], withImageIn (opOf 0 63 [(8, 2, 0xFFFF)]) [], _, ⟨by decide, rfl, by decide⟩⟩

theorem witness_storageCommands_flushDenied :
    ∃ (op : Nat) (o : Op) (s : State) (t : State),
      (Ready s op 0x00 2 o) ∧ (t = started s op 2) ∧ (o.f 8 2 ≤ 1023) ∧
      ((lookup t.stores (o.f 8 2)).any (fun st => st.slice = o.slice && st.index.isNone) = false) :=
  ⟨0, opOf 0 63 [(8, 2, 4)], withImageIn (opOf 0 63 [(8, 2, 4)]) [], _, ⟨by decide, rfl, by decide, by decide⟩⟩

theorem witness_storageCommands_fence :
    ∃ (op : Nat) (o : Op) (s : State) (t : State) (f : StorageFence),
      (Ready s op 0x08 2 o) ∧ (t = started s op 2) ∧ (o.f 8 1 = 0) ∧ (t.fences.find? (fun f => f.op = op) = some f) ∧ (fenceDone t f = true) :=
  ⟨0, opOf 8 63 [], { withSlice (opOf 8 63 []) with fences := [{ op := 0, slice := 63, tails := [] }] }, _, { op := 0, slice := 63, tails := [] },
      ⟨by decide, rfl, by decide, by decide, by decide⟩⟩

theorem witness_storageCommands_fenceWaits :
    ∃ (op : Nat) (o : Op) (s : State) (t : State) (f : StorageFence),
      (Ready s op 0x08 2 o) ∧ (t = started s op 2) ∧ (o.f 8 1 = 0) ∧ (t.fences.find? (fun f => f.op = op) = some f) ∧ (fenceDone t f = false) :=
  ⟨0, opOf 8 63 [], { withSlice (opOf 8 63 []) with fences := [{ op := 0, slice := 63, tails := [(0, 9)] }] }, _,
      { op := 0, slice := 63, tails := [(0, 9)] }, ⟨by decide, rfl, by decide, by decide, by decide⟩⟩

theorem witness_storageCommands_readThrough :
    ∃ (s : State) (st : Store) (u : Nat) (p : FPage),
      (unitEntry st u ≠ unmapped) ∧ (unitEntry st u ≠ lostEntry) ∧
      (lookup (getBob s (entryBob (unitEntry st u))).pages (pageKey (entryBlock (unitEntry st u)) (entryPage (unitEntry st u))) = some p) ∧
      (p.uncorr = false) ∧ ((getDie (getBob s (entryBob (unitEntry st u))) (dieOf (entryBlock (unitEntry st u)))).answering = true) ∧ (p.key = st.key) :=
  ⟨storageState 2 1, imageStore, 0, { owner := 3, unit := 0, wseq := 0, jseq := 0, crc := 0, key := 0, data := [(0, 1#8)], uncorr := false }, ⟨by decide,
      by decide, by decide, by decide, by decide, by decide⟩⟩

theorem witness_storageCommands_rebuilt :
    ∃ (s : State) (st : Store) (u : Nat) (p : FPage),
      (unitEntry st u ≠ unmapped) ∧ (unitEntry st u ≠ lostEntry) ∧
      (lookup (getBob s (entryBob (unitEntry st u))).pages (pageKey (entryBlock (unitEntry st u)) (entryPage (unitEntry st u))) = some p) ∧
      (p.uncorr = true) :=
  ⟨modBob (storageState 2 1) 0 (fun x => { x with pages := [(0, { owner := 3, unit := 0, wseq := 0, jseq := 0, crc := 0, key := 0, data := [(0, 1#8)], uncorr := true })] }), imageStore, 0, { owner := 3, unit := 0, wseq := 0, jseq := 0, crc := 0, key := 0, data := [(0, 1#8)], uncorr := true }, ⟨by decide, by decide, by decide, by decide⟩⟩

/-- A STORE_CREATE of 4 sectors, and a self-test descriptor. -/
def createOp (key : Nat) : Op := opOf 0x61 63 [(8, 2, 3), (10, 1, 63), (12, 4, key), (16, 8, 4)]
def createState (key : Nat) : State :=
  let s := withSlice (createOp key)
  { s with slices := [(63, { slice0 with conf := { slice0.conf with fast := 3 } })],
           sec := { s.sec with keys := [{ kind := 2, slice := 63, store := 0xFFFF, handle := 5, gen := 0, secret := [] }] } }
def testOp (action : Nat) : Op := opOf 0x68 63 [(8, 1, action), (16, 8, 0x10000)]
def test0 : SelfTest := { op := 7, extended := false, bobbins := [0], raddr := 0, port := 0, begin_ := 0, active := 0 }

theorem witness_storesAndSelfTests_create :
    ∃ (op : Nat) (o : Op) (s : State) (t : State) (c : SliceConf),
      (Ready s op 0x61 2 o) ∧ (t = started s op 2) ∧ (o.f 8 2 ≤ 1023) ∧ ((lookup t.slices (o.f 10 1)).map Slice.conf = some c) ∧ (o.f 11 1 ≤ 1) ∧
      (4 ≤ o.f 16 8) ∧ (o.f 16 8 ≤ 2 ^ 33) ∧ (o.f 16 8 % 4 = 0) ∧ (lookup t.stores (o.f 8 2) = none) ∧ (o.f 12 4 = 0) ∧
      (capacityUsed t (o.f 10 1) (o.f 11 1 = 1) + capacityOf (o.f 11 1 = 1) (o.f 16 8) ≤ (if o.f 11 1 = 1 then c.bulk else c.fast)) :=
  ⟨0, createOp 0, createState 0, _, _, ⟨by decide, rfl, by decide, rfl, by decide, by decide, by decide, by decide, by decide, by decide, by decide⟩⟩

theorem witness_storesAndSelfTests_imported :
    ∃ (op : Nat) (o : Op) (s : State) (t : State) (c : SliceConf),
      (Ready s op 0x61 2 o) ∧ (t = started s op 2) ∧ (o.f 8 2 ≤ 1023) ∧ ((lookup t.slices (o.f 10 1)).map Slice.conf = some c) ∧ (o.f 11 1 ≤ 1) ∧
      (4 ≤ o.f 16 8) ∧ (o.f 16 8 ≤ 2 ^ 33) ∧ (o.f 16 8 % 4 = 0) ∧ (lookup t.stores (o.f 8 2) = none) ∧ (o.f 12 4 ≠ 0) ∧
      (t.sec.keys.any (fun k => k.handle = o.f 12 4 && k.kind = 2 && k.slice = o.f 10 1) = true) ∧
      (capacityUsed t (o.f 10 1) (o.f 11 1 = 1) + capacityOf (o.f 11 1 = 1) (o.f 16 8) ≤ (if o.f 11 1 = 1 then c.bulk else c.fast)) :=
  ⟨0, createOp 5, createState 5, _, _, ⟨by decide, rfl, by decide, rfl, by decide, by decide, by decide, by decide, by decide, by decide, by decide,
      by decide⟩⟩

theorem witness_storesAndSelfTests_delete :
    ∃ (op : Nat) (o : Op) (s : State) (t : State) (st : Store),
      (Ready s op 0x65 2 o) ∧ (t = started s op 2) ∧ (o.f 8 2 ≤ 1023) ∧ (lookup t.stores (o.f 8 2) = some st) ∧ (deletedAhead t (o.f 8 2) op = false) ∧
      (st.index = none) ∧ (storeLocked t (o.f 8 2) = false) ∧ (busyAhead t (o.f 8 2) op = false) :=
  ⟨0, opOf 0x65 63 [(8, 2, 3)], withImageIn (opOf 0x65 63 [(8, 2, 3)]) [], _, imageStore, ⟨by decide, rfl, by decide, by decide, by decide, by decide,
      by decide, by decide⟩⟩

theorem witness_storesAndSelfTests_busy :
    ∃ (op : Nat) (o : Op) (s : State) (t : State) (st : Store),
      (Ready s op 0x65 2 o) ∧ (t = started s op 2) ∧ (o.f 8 2 ≤ 1023) ∧ (lookup t.stores (o.f 8 2) = some st) ∧ (deletedAhead t (o.f 8 2) op = false) ∧
      (st.index = none) ∧ (storeLocked t (o.f 8 2) = false) ∧ (busyAhead t (o.f 8 2) op = true) :=
  ⟨9, opOf 0x65 63 [(8, 2, 3)], { withImageIn (storageOp 2 1) [] with ops := [(0, storageOp 2 1), (9, opOf 0x65 63 [(8, 2, 3)])] }, _, imageStore,
      ⟨by decide, rfl, by decide, by decide, by decide, by decide, by decide, by decide⟩⟩

theorem witness_storesAndSelfTests_short :
    ∃ (op : Nat) (o : Op) (s : State) (t : State),
      (Ready s op 0x68 2 o) ∧ (o.f 8 1 = 0) ∧ (o.phase = .fetched) ∧ (t = started s op 2) ∧ (o.f 16 8 % 64 = 0) ∧ (t.selfTest = none) ∧
      ((bobbinsOf t (o.f 10 2)).any (fun b => b ≥ nBobbins t) = false) ∧ (Reaches t o [(o.f 16 8, 64, true)]) :=
  ⟨0, testOp 0, withSlice (testOp 0), _, ⟨by decide, by decide, by decide, rfl, by decide, by decide, by decide, by decide⟩⟩

theorem witness_storesAndSelfTests_extended :
    ∃ (op : Nat) (o : Op) (s : State) (t : State),
      (Ready s op 0x68 2 o) ∧ (o.f 8 1 = 1) ∧ (o.phase = .fetched) ∧ (t = started s op 2) ∧ (o.f 16 8 % 64 = 0) ∧ (t.selfTest = none) ∧
      ((bobbinsOf t (o.f 10 2)).any (fun b => b ≥ nBobbins t) = false) ∧ (Reaches t o [(o.f 16 8, 64, true)]) :=
  ⟨0, testOp 1, withSlice (testOp 1), _, ⟨by decide, by decide, by decide, rfl, by decide, by decide, by decide, by decide⟩⟩

theorem witness_storesAndSelfTests_oneAtATime :
    ∃ (op : Nat) (o : Op) (s : State) (t : State),
      (Ready s op 0x68 2 o) ∧ (o.f 8 1 = 0) ∧ (o.phase = .fetched) ∧ (t = started s op 2) ∧ (o.f 16 8 % 64 = 0) ∧ (t.selfTest.isSome = true) :=
  ⟨0, testOp 0, { withSlice (testOp 0) with selfTest := some test0 }, _, ⟨by decide, by decide, by decide, rfl, by decide, by decide⟩⟩

theorem witness_storesAndSelfTests_abort :
    ∃ (op : Nat) (o : Op) (s : State), (Ready s op 0x68 4 o) ∧ (o.f 8 1 = 2) :=
  ⟨0, testOp 2, withSlice (testOp 2), ⟨by decide, by decide⟩⟩

theorem witness_storesAndSelfTests_aborted :
    ∃ (s : State) (x : SelfTest), (s.selfTest = some x) :=
  ⟨{ running with selfTest := some test0 }, test0, by decide⟩

theorem witness_storesAndSelfTests_done :
    ∃ (s : State) (x : SelfTest), (s.selfTest = some x) :=
  ⟨{ running with selfTest := some test0 }, test0, by decide⟩

theorem witness_storesAndSelfTests_fall :
    ∃ (s : State) (t : State),
      (s.pins.holdupOk = true) ∧
      (t = { s with pins := { s.pins with holdupOk := false }, ops := s.ops.map (fun e => (e.1, { e.2 with lowHoldup := true })) }) :=
  ⟨{ running with pins := { running.pins with holdupOk := true } }, _, ⟨by decide, rfl⟩⟩

theorem witness_storesAndSelfTests_rise :
    ∃ (s : State) (t : State), (s.pins.holdupOk = false) ∧ (t = { s with pins := { s.pins with holdupOk := true } }) :=
  ⟨{ running with pins := { running.pins with holdupOk := false } }, _, ⟨by decide, rfl⟩⟩

/-- A SLICE_CREATE of slice 5, and a STORE_SHARE of store 3 with slice 62. -/
def sliceOp (spindles : Nat) : Op := opOf 0x60 0xFF [(8, 1, 5), (16, 8, spindles), (32, 4, 1)]
def shareOp (revoke : Nat) : Op := opOf 0x67 63 [(8, 2, 3), (10, 1, 62), (11, 1, revoke)]
def shareState (revoke : Nat) (grants : List Nat) (before : Tbl Op) : State :=
  { withSlice (shareOp revoke) with
    ops := before ++ [(9, shareOp revoke)], slices := [(62, slice0), (63, slice0)], stores := [(3, { imageStore with grants := grants })] }

theorem witness_slicesAndGrants_create :
    ∃ (op : Nat) (o : Op) (s : State) (t : State) (u : State),
      (Ready s op 0x60 4 o) ∧ (t = started s op 4) ∧ (Clear (createChecks t o (sliceConf o))) ∧ (isSealed (sliceConf o) = false) ∧
      (u = { t with slices := insertKey t.slices (o.f 8 1) (newSlice t (sliceConf o)), sec := { t.sec with poolKeys := t.sec.poolKeys ++ [o.f 8 1] } }) :=
  ⟨0, sliceOp 0, withSlice (sliceOp 0), _, _, ⟨by decide, rfl, by decide, by decide, rfl⟩⟩

theorem witness_slicesAndGrants_sealed :
    ∃ (op : Nat) (o : Op) (s : State) (t : State) (u : State) (v : State),
      (Ready s op 0x60 4 o) ∧ (t = started s op 4) ∧ (Clear (createChecks t o (sliceConf o))) ∧ (isSealed (sliceConf o) = true) ∧
      (makeFree (sliceConf o).floor (sliceConf o).floor t = (v, true)) ∧
      (u = { v with slices := insertKey v.slices (o.f 8 1) (newSlice v (sliceConf o)), sec := { v.sec with poolKeys := v.sec.poolKeys ++ [o.f 8 1] } }) :=
  ⟨0, opOf 0x60 0xFF [(8, 1, 5), (9, 1, 1), (28, 4, 100), (32, 4, 100)], withSlice (opOf 0x60 0xFF [(8, 1, 5), (9, 1, 1), (28, 4, 100), (32, 4, 100)]), _,
      _, _, ⟨by decide, rfl, by decide, by decide, rfl, rfl⟩⟩

theorem witness_slicesAndGrants_sealedWaits :
    ∃ (op : Nat) (o : Op) (s : State) (t : State) (v : State),
      (Ready s op 0x60 4 o) ∧ (t = started s op 4) ∧ (Clear (createChecks t o (sliceConf o))) ∧ (isSealed (sliceConf o) = true) ∧
      (makeFree (sliceConf o).floor (sliceConf o).floor t = (v, false)) :=
  ⟨0, opOf 0x60 0xFF [(8, 1, 5), (9, 1, 1), (28, 4, 94208), (32, 4, 94208)],
      { withSlice (opOf 0x60 0xFF [(8, 1, 5), (9, 1, 1), (28, 4, 94208), (32, 4, 94208)]) with slices := [(63, { slice0 with pages := [(5, { kind := .work, lastUse := 0, parked := [] })] })] }, _, _, ⟨by decide, rfl, by decide, by decide, rfl⟩⟩

theorem witness_slicesAndGrants_fieldBad :
    ∃ (op : Nat) (o : Op) (s : State) (t : State) (b : Bool) (st : Nat) (d : Nat),
      (Ready s op 0x60 4 o) ∧ (t = started s op 4) ∧ ((createChecks t o (sliceConf o)).find? (fun c => c.1) = some (b, st, d)) :=
  ⟨0, sliceOp 1, { withSlice (sliceOp 1) with slices := [(63, { slice0 with conf := { slice0.conf with spindles := 1 } })] }, _, true, stBounds, 16,
      ⟨by decide, rfl, by decide⟩⟩

theorem witness_slicesAndGrants_exclusive :
    ∃ (s : State) (o : Op) (q : Nat) (x : Slice),
      (lookup s.slices q = some x) ∧ (setsMeet (sliceConf o).spindles x.conf.spindles = true) ∧ (((sliceConf o).shared = false ∨ x.conf.shared = false)) :=
  ⟨{ withSlice (sliceOp 1) with slices := [(63, { slice0 with conf := { slice0.conf with spindles := 1 } })] }, sliceOp 1, 63,
      { slice0 with conf := { slice0.conf with spindles := 1 } }, ⟨by decide, by decide, by decide⟩⟩

theorem witness_slicesAndGrants_delete :
    ∃ (op : Nat) (o : Op) (s : State) (t : State) (x : Slice),
      (Ready s op 0x69 2 o) ∧ (t = started s op 2) ∧ (lookup t.slices (o.f 8 1) = some x) ∧ (sliceHolds t (o.f 8 1) = false) :=
  ⟨0, opOf 0x69 0xFF [(8, 1, 63)], withSlice (opOf 0x69 0xFF [(8, 1, 63)]), _, slice0, ⟨by decide, rfl, by decide, by decide⟩⟩

theorem witness_slicesAndGrants_kept :
    ∃ (op : Nat) (o : Op) (s : State) (t : State),
      (Ready s op 0x69 2 o) ∧ (t = started s op 2) ∧ ((lookup t.slices (o.f 8 1) = none ∨ sliceHolds t (o.f 8 1) = true)) :=
  ⟨0, opOf 0x69 0xFF [(8, 1, 63)], withOp (opOf 0x69 0xFF [(8, 1, 63)]), _, ⟨by decide, rfl, by decide⟩⟩

theorem witness_slicesAndGrants_grant :
    ∃ (op : Nat) (o : Op) (s : State) (t : State), (Ready s op 0x67 4 o) ∧ (o.f 11 1 = 0) ∧ (t = started s op 4) ∧ (Clear (shareChecks t op o true)) :=
  ⟨9, shareOp 0, shareState 0 [] [], _, ⟨by decide, by decide, rfl, by decide⟩⟩

theorem witness_slicesAndGrants_revoke :
    ∃ (op : Nat) (o : Op) (s : State) (t : State) (st : Store),
      (Ready s op 0x67 4 o) ∧ (o.f 11 1 = 1) ∧ (t = started s op 4) ∧ (Clear (shareChecks t op o false)) ∧ (lookup t.stores (o.f 8 2) = some st) ∧
      (st.slice ≠ o.f 10 1) ∧ (st.grants.contains (o.f 10 1) = true) ∧ (sliceBusy t (o.f 8 2) (o.f 10 1) op = false) :=
  ⟨9, shareOp 1, shareState 1 [62] [], _, { imageStore with grants := [62] }, ⟨by decide, by decide, rfl, by decide, by decide, by decide, by decide,
      by decide⟩⟩

theorem witness_slicesAndGrants_revokeWaits :
    ∃ (op : Nat) (o : Op) (s : State) (t : State) (st : Store),
      (Ready s op 0x67 4 o) ∧ (o.f 11 1 = 1) ∧ (t = started s op 4) ∧ (Clear (shareChecks t op o false)) ∧ (lookup t.stores (o.f 8 2) = some st) ∧
      (st.slice ≠ o.f 10 1) ∧ (st.grants.contains (o.f 10 1) = true) ∧ (sliceBusy t (o.f 8 2) (o.f 10 1) op = true) :=
  ⟨9, shareOp 1, shareState 1 [62] [(0, { storageOp 2 1 with slice := 62 })], _, { imageStore with grants := [62] }, ⟨by decide, by decide, rfl, by decide,
      by decide, by decide, by decide, by decide⟩⟩

theorem witness_slicesAndGrants_noGrant :
    ∃ (op : Nat) (o : Op) (s : State) (t : State) (st : Store),
      (Ready s op 0x67 4 o) ∧ (o.f 11 1 = 1) ∧ (t = started s op 4) ∧ (Clear (shareChecks t op o false)) ∧ (lookup t.stores (o.f 8 2) = some st) ∧
      (st.grants.contains (o.f 10 1) = false) :=
  ⟨9, shareOp 1, shareState 1 [] [], _, imageStore, ⟨by decide, by decide, rfl, by decide, by decide, by decide⟩⟩

/-- A SCHED_SET of one entry, slice 63 for the whole period of 1,000 beats. -/
def rotOp : Op := opOf 0x6B 0xFF [(8, 8, 0x20000), (16, 2, 1), (20, 4, 1000), (24, 8, 1000)]
def rotated (o : Op) : State :=
  { withMem o [(0x20004, 4, 1000), (0x20008, 1, 63)] with slices := [(63, { slice0 with conf := { slice0.conf with shared := true, spindles := 1 }, owed := 3 })] }
def rot0 : Rotation := { entries := [{ start := 0, length := 1000, slice := 63 }], period := 1000, effect := 0 }
def inRotation : State := { rotated rotOp with rotation := some rot0 }
def switching (running want : Option Nat) : State := { inRotation with sched := [(0, { running := running, boundary := some (0, want) })] }

theorem witness_rotationAndSwitches_set :
    ∃ (op : Nat) (o : Op) (s : State) (t : State) (table : List Byte) (es : List RotEntry),
      (Ready s op 0x6B 4 o) ∧ (t = started s op 4) ∧ (o.f 8 8 % 64 = 0) ∧ (o.f 16 2 ≤ 256) ∧ (o.f 20 4 % 1000 = 0) ∧ (1000 ≤ o.f 20 4) ∧
      (o.f 20 4 ≤ minuteBeats) ∧ (Reaches t o [(o.f 8 8, 16 * o.f 16 2, false)]) ∧ ((o.f 16 2 ≠ 0 → homeFails t o.port (o.f 8 8) (16 * o.f 16 2) = false)) ∧
      (table = readPartner t o.port (o.f 8 8) (16 * o.f 16 2)) ∧ ((∀ i < o.f 16 2, field (cut table (16 * i) 16) 9 7 = 0 ∧
      1000 ≤ field (cut table (16 * i) 16) 4 4 ∧ field (cut table (16 * i) 16) 0 4 + field (cut table (16 * i) 16) 4 4 ≤ o.f 20 4)) ∧
      (o.f 24 8 % o.f 20 4 = 0) ∧ (t.trd.beat + 1000 ≤ o.f 24 8) ∧ (es = (List.range (o.f 16 2)).map (fun i => readRotEntry (cut table (16 * i) 16))) ∧
      (rotationBad t es = none) :=
  ⟨0, rotOp, rotated rotOp, _, _, _, ⟨by decide, rfl, by decide, by decide, by decide, by decide, by decide, by decide, by decide, rfl, by decide,
      by decide, by decide, rfl, by decide⟩⟩

theorem witness_rotationAndSwitches_boundary :
    ∃ (s : State) (t : State), (t = (keys (turnRotation s).slices).foldl turnSlice (turnRotation s)) :=
  ⟨inRotation, _, rfl⟩

theorem witness_rotationAndSwitches_effect :
    ∃ (s : State) (r : Rotation), (s.nextRotation = some r) ∧ (s.trd.numbered = true) ∧ (r.effect ≤ s.trd.beat) :=
  ⟨{ running with nextRotation := some rot0, trd := { running.trd with numbered := true } }, rot0, ⟨by decide, by decide, by decide⟩⟩

theorem witness_rotationAndSwitches_begins :
    ∃ (s : State) (t : State) (q : Nat) (b : Nat) (x : Slice) (e : RotEntry),
      (t = planOverrun s q) ∧ (lookup t.slices q = some x) ∧ (x.timeSlice = none) ∧ (entryNow t q = some (b, e)) :=
  ⟨inRotation, _, 63, 0, _, _, ⟨rfl, rfl, by decide, rfl⟩⟩

theorem witness_rotationAndSwitches_goesOn :
    ∃ (s : State) (t : State) (q : Nat) (a : Nat) (b : Nat) (x : Slice),
      (t = planOverrun s q) ∧ (lookup t.slices q = some x) ∧ (x.timeSlice = some (a, b)) ∧ (t.trd.beat < b) :=
  ⟨{ inRotation with slices := [(63, { slice0 with timeSlice := some (9, 10) })] }, _, 63, 9, 10, _, ⟨rfl, rfl, by decide, by decide⟩⟩

theorem witness_rotationAndSwitches_noted :
    ∃ (s : State) (l : Nat) (c : SpindleSched),
      (lookup s.sched l = some c) ∧ (c.boundary = none) ∧ (c.running ≠ coverOf s l) ∧ ((sharedSpindle s l = true ∨ c.running.isSome = true)) :=
  ⟨{ inRotation with sched := [(0, { running := some 5, boundary := none })] }, 0, _, ⟨rfl, by decide, by decide, by decide⟩⟩

theorem witness_rotationAndSwitches_out :
    ∃ (sp : Fin 48) (s : State) (u : State) (z : State) (b : Nat) (p : Nat) (c : SpindleSched),
      (schedOf s sp.val = c) ∧ (c.boundary = some (b, none)) ∧ (s.ras.halted = false) ∧ (stepOn s sp.val = false) ∧ (c.running ≠ none) ∧
      (saveOutgoing s sp.val = some z) ∧ (u = chargeSwitch z c.running) ∧ (physOf u sp.val = some p) :=
  ⟨0, switching (some 63) none, _, _, _, 0, _, ⟨rfl, rfl, by decide, by decide, by decide, rfl, rfl, rfl⟩⟩

theorem witness_rotationAndSwitches_in_ :
    ∃ (sp : Fin 48) (s : State) (u : State) (v : State) (w : State) (z : State) (b : Nat) (p : Nat) (q : Nat) (c : SpindleSched),
      (schedOf s sp.val = c) ∧ (c.boundary = some (b, some q)) ∧ (s.ras.halted = false) ∧ (stepOn s sp.val = false) ∧ (c.running ≠ some q) ∧
      (saveOutgoing s sp.val = some z) ∧ (u = chargeSwitch z c.running) ∧ (physOf u sp.val = some p) ∧ (v = scrubSpn u p) ∧
      (w = (if (switchedOut v q sp.val).isSome then chargeSwitch (restoreIncoming v q sp.val) (some q) else v)) :=
  ⟨0, switching none (some 63), _, _, _, _, _, 0, _, _, ⟨rfl, rfl, by decide, by decide, by decide, rfl, rfl, rfl, rfl, rfl⟩⟩

theorem witness_rotationAndSwitches_noPages :
    ∃ (sp : Fin 48) (s : State) (c : SpindleSched) (b : Nat) (want : Option Nat),
      (schedOf s sp.val = c) ∧ (c.boundary = some (b, want)) ∧ (c.running ≠ want) ∧ (saveOutgoing s sp.val = none) :=
  ⟨0, { seated [] Ctx.zero with slices := [(63, { slice0 with conf := { slice0.conf with ceiling := 0 } })], sched := [(0, { running := some 63, boundary := some (0, none) })] }, _, 0, none, ⟨rfl, rfl, by decide, by decide⟩⟩

theorem witness_rotationAndSwitches_waits :
    ∃ (sp : Fin 48) (s : State), (stepOn s sp.val = true) :=
  ⟨0, seated [] Ctx.zero, by decide⟩

/-- A METER_SET, and a meter ring with a record that waits. -/
def meterOp : Op := opOf 0x6E 0xFF [(8, 8, 0x8000), (16, 1, 4), (17, 1, 3), (18, 2, 7), (20, 8, 0x4000)]
def meterRing0 : MeterRing := { port := 0, ring := newCompRing 0x8000 16 0x4000 3 (some 7) 1 0 }
def metered : State := { running with meterRing := some meterRing0, meterQueue := [(63, List.replicate 510 0#8)] }

theorem witness_meterRecords_cut :
    ∃ (s : State), (s.trd.numbered = true) ∧ (s.trd.beat % minuteBeats = 0) :=
  ⟨{ running with trd := { running.trd with numbered := true, beat := 60000000 } }, ⟨by decide, by decide⟩⟩

theorem witness_meterRecords_notNow :
    ∃ (s : State), ((s.trd.numbered = false ∨ s.trd.beat % minuteBeats ≠ 0)) :=
  ⟨running, by decide⟩

theorem witness_meterRecords_record :
    ∃ (s : State) (q : Nat) (x : Slice), (lookup s.slices q = some x) :=
  ⟨{ running with slices := [(63, slice0)] }, 63, slice0, by decide⟩

theorem witness_meterRecords_dropped :
    ∃ (s : State) (q : Nat), (1440 < (s.meterQueue.filter (fun r => r.1 = q)).length) ∧ (s.meterGaps.contains q = false) :=
  ⟨{ running with meterQueue := List.replicate 1441 (63, []) }, 63, ⟨by decide +kernel, by decide⟩⟩

theorem witness_meterRecords_set :
    ∃ (op : Nat) (o : Op) (s : State) (t : State),
      (Ready s op 0x6E 4 o) ∧ (t = started s op 4) ∧ (o.f 8 8 % 4096 = 0) ∧ (4 ≤ o.f 16 1) ∧ (o.f 16 1 ≤ 12) ∧
      (hitsRing (getPort t o.port) (o.f 8 8) (2 ^ o.f 16 1 * 2048) = false) ∧ (hitsLine (getPort t o.port) (o.f 8 8) (2 ^ o.f 16 1 * 2048) = false) ∧
      (badWord (getPort t o.port) (o.f 20 8) (o.f 17 1) = false) ∧ ((o.f 18 2 ≤ 255 ∨ o.f 18 2 = 0xFFFF)) ∧
      (badLine (getPort t o.port) (o.f 20 8) (o.f 8 8) (2 ^ o.f 16 1 * 2048) = false) :=
  ⟨0, meterOp, withOp meterOp, _, ⟨by decide, rfl, by decide, by decide, by decide, by decide, by decide, by decide, by decide, by decide⟩⟩

theorem witness_meterRecords_write :
    ∃ (s : State) (t : State) (m : MeterRing) (q : Nat) (body : List Byte) (l : List (Nat × List Byte)) (ring : CompRing) (send : Bool),
      (s.meterRing = some m) ∧ (s.meterQueue = (q, body) :: l) ∧ ((getPort s m.port).regs.run = true) ∧ ((getPort s m.port).link.lostAt = none) ∧
      (ringRoom m.ring = true) ∧ (ringSignal (ringNext m.ring) s.clock = (ring, send)) ∧
      (t = modPort s m.port (fun x => sendIrq { x with mem := writeBytes x.mem (m.ring.base + 2048 * m.ring.slot) (signedRecord body (s.meterGaps.contains q) m.ring.phase) } ring send)) :=
  ⟨metered, _, _, _, _, _, _, _, ⟨rfl, rfl, by decide, by decide, by decide, rfl, rfl⟩⟩

theorem witness_meterRecords_full :
    ∃ (s : State) (m : MeterRing), (s.meterRing = some m) ∧ (ringRoom m.ring = false) :=
  ⟨{ metered with meterRing := some { meterRing0 with ring := { meterRing0.ring with fault := true } } }, _, ⟨rfl, by decide⟩⟩

/-- A card command of slice 63 on store 3 or on index 0, with the operation `o` in flight. -/
def index0 : Index :=
  { slice := 63, store := 3, sbits := 0, vfmt := 0, d := 0, rb := 0, ncluster := 1, ep := some 0, key := 0, peer := 2 ^ 31,
    centroids := [List.replicate 32 0#8], epoch := 1, current := [], pending := [], dropping := none }
def carded (o : Op) : State :=
  let s := withImageIn o []
  { s with card := { s.card with indexes := [(0, index0)] } }

/-- A scan of one row of 8 bytes for rows whose first byte is 0. -/
def scanOp : Op := opOf 0x48 63 [(8, 2, 3), (11, 1, 1), (12, 2, 8), (24, 8, 1), (32, 8, 0x20000), (40, 8, 0x30000)]
def scanState : State :=
  modPort (withImageIn scanOp []) 0 (fun x => { x with mem := writeBytes x.mem 0x20002 [1#8] })

/-- CARD_CREATE, CARD_INSERT of one item, CARD_DELETE of one id, CARD_QUERY of one query. -/
def createIndexOp (ep : Nat) : Op := opOf 0x44 63 [(8, 2, 3), (16, 4, 1), (20, 2, ep)]
def changeOp (opcode : Nat) : Op := opOf opcode 63 [(12, 4, 1), (16, 8, 0x20000)]
def queryOp : Op := opOf 0x40 63 [(12, 1, 1), (14, 2, 1), (16, 2, 1), (24, 8, 0x20000), (32, 8, 0x30000)]

/-- A query in progress, with a pass to come on bobbin 0. -/
def query0 : Query :=
  { op := 7, slice := 63, index := 0, remote := none, scan := none, metric := 0, vfmt := 0, k := 1, c := 1, itemBytes := 48, deadline := 1000, epoch := 1,
    specs := [{ sketch := List.replicate 32 0#8, vector := [], probes := [0] }], terms := [], items := [], waiting := [0], cands := [[]], todo := [],
    cmp := 0, nan := 0, ranked := [[]], started := false, expired := false, localStatus := none, localResult := 0, shards := [], answers := [],
    oaddr := 0x30000, halted := 0 }
def querying (o : Op) (q : Query) : State :=
  let s := carded o
  modBob { s with card := { s.card with queries := [q] }, ops := [(0, o), (7, queryOp)] } 0 (fun x => { x with passes := [{ op := 7 }] })

theorem witness_cardCommands_scan :
    ∃ (op : Nat) (o : Op) (s : State) (t : State) (b : List Byte) (ts : List Term),
      (Ready s op 0x48 2 o) ∧ (t = started s op 2) ∧ (getQuery t op = none) ∧ (Clear (scanFields o)) ∧ (Clear (scanStore t op o)) ∧
      (TermsRead t op o (o.f 32 8) (o.f 11 1) (o.f 12 2) b ts) ∧ (Reaches t o [(o.f 40 8, scanOutBytes o, true)]) :=
  ⟨0, scanOp, scanState, _, _, _, ⟨by decide, rfl, by decide, by decide, by decide +kernel, Or.inr ⟨by decide, by decide +kernel,
      Or.inr ⟨by decide +kernel, by decide +kernel, rfl, by decide +kernel, rfl⟩⟩, by decide⟩⟩

theorem witness_cardCommands_create :
    ∃ (op : Nat) (o : Op) (s : State) (t : State) (u : State) (cs : List (List Byte)),
      (Ready s op 0x44 2 o) ∧ (t = started s op 2) ∧ (Clear (cardCreateFields o)) ∧ (Clear (cardCreateChecks t op o)) ∧ (Reaches t o [(o.f 32 8,
      o.f 16 4 * sketchBytes (o.f 10 1), false)]) ∧ (busyAhead t (o.f 8 2) op = false) ∧
      (cs = (List.range (o.f 16 4)).map (fun i => readPartner t o.port (o.f 32 8 + i * sketchBytes (o.f 10 1)) (sketchBytes (o.f 10 1)))) ∧
      (u = modStore (trimStore t (o.f 8 2)) (o.f 8 2) (fun st => { st with index := some t.card.nextHandle })) ∧ (o.f 20 2 = 0xFFFF) :=
  ⟨0, createIndexOp 0xFFFF, withImageIn (createIndexOp 0xFFFF) [1#8], _, _, _, ⟨by decide, rfl, by decide, by decide, by decide, by decide, rfl, rfl,
      by decide⟩⟩

theorem witness_cardCommands_endpoint :
    ∃ (op : Nat) (o : Op) (s : State) (t : State) (u : State) (cs : List (List Byte)),
      (Ready s op 0x44 2 o) ∧ (t = started s op 2) ∧ (Clear (cardCreateFields o)) ∧ (Clear (cardCreateChecks t op o)) ∧ (Reaches t o [(o.f 32 8,
      o.f 16 4 * sketchBytes (o.f 10 1), false)]) ∧ (busyAhead t (o.f 8 2) op = false) ∧
      (cs = (List.range (o.f 16 4)).map (fun i => readPartner t o.port (o.f 32 8 + i * sketchBytes (o.f 10 1)) (sketchBytes (o.f 10 1)))) ∧
      (u = modStore (trimStore t (o.f 8 2)) (o.f 8 2) (fun st => { st with index := some t.card.nextHandle })) ∧ (o.f 20 2 ≠ 0xFFFF) :=
  ⟨0, createIndexOp 5, withImageIn (createIndexOp 5) [1#8], _, _, _, ⟨by decide, rfl, by decide, by decide, by decide, by decide, rfl, rfl, by decide⟩⟩

theorem witness_cardCommands_drop :
    ∃ (op : Nat) (o : Op) (s : State) (t : State) (x : Index),
      (Ready s op 0x45 2 o) ∧ (t = started s op 2) ∧ (lookup t.card.indexes (o.f 8 4) = some x) ∧ (x.slice = o.slice) ∧
      (x.dropping.any (fun d => d ≠ op) = false) ∧ (indexBusy t (o.f 8 4) op = false) :=
  ⟨0, opOf 0x45 63 [], carded (opOf 0x45 63 []), _, index0, ⟨by decide, rfl, by decide, by decide, by decide, by decide⟩⟩

theorem witness_cardCommands_dropWaits :
    ∃ (op : Nat) (o : Op) (s : State) (t : State) (x : Index),
      (Ready s op 0x45 2 o) ∧ (t = started s op 2) ∧ (lookup t.card.indexes (o.f 8 4) = some x) ∧ (x.slice = o.slice) ∧
      (x.dropping.any (fun d => d ≠ op) = false) ∧ (indexBusy t (o.f 8 4) op = true) :=
  ⟨0, opOf 0x45 63 [], querying (opOf 0x45 63 []) query0, _, index0, ⟨by decide, rfl, by decide, by decide, by decide, by decide⟩⟩

theorem witness_cardCommands_insert :
    ∃ (op : Nat) (o : Op) (s : State) (t : State) (x : Index) (items : List Item),
      (Ready s op 0x41 2 o) ∧ (t = started s op 2) ∧ (ownIndex t o.slice (o.f 8 4) op = some x) ∧ (1 ≤ o.f 12 4) ∧ (o.f 12 4 ≤ 65536) ∧
      (Reaches t o [(o.f 16 8, o.f 12 4 * itemStride x, false)]) ∧
      (items = (List.range (o.f 12 4)).map (itemAt x (readPartner t o.port (o.f 16 8) (o.f 12 4 * itemStride x)))) ∧ ((∀ i ∈ items,
      i.id ≠ 0xFFFFFFFFFFFFFFFF ∧ i.cluster < x.ncluster)) ∧ (noRoom t (o.f 8 4) x (o.f 12 4) = false) ∧
      (items.any (fun i => (getBob t (bobbinOfItem t i.id)).readOnly) = false) :=
  ⟨0, changeOp 0x41, carded (changeOp 0x41), _, index0, _, ⟨by decide, rfl, by decide, by decide, by decide, by decide, rfl, by decide +kernel,
      by decide +kernel, by decide⟩⟩

theorem witness_cardCommands_insertReadOnly :
    ∃ (op : Nat) (o : Op) (s : State) (t : State) (x : Index) (items : List Item),
      (Ready s op 0x41 2 o) ∧ (t = started s op 2) ∧ (ownIndex t o.slice (o.f 8 4) op = some x) ∧ (1 ≤ o.f 12 4) ∧ (o.f 12 4 ≤ 65536) ∧
      (Reaches t o [(o.f 16 8, o.f 12 4 * itemStride x, false)]) ∧
      (items = (List.range (o.f 12 4)).map (itemAt x (readPartner t o.port (o.f 16 8) (o.f 12 4 * itemStride x)))) ∧ ((∀ i ∈ items,
      i.id ≠ 0xFFFFFFFFFFFFFFFF ∧ i.cluster < x.ncluster)) ∧ (noRoom t (o.f 8 4) x (o.f 12 4) = false) ∧
      (items.any (fun i => (getBob t (bobbinOfItem t i.id)).readOnly) = true) :=
  ⟨0, changeOp 0x41, fullFlash (carded (changeOp 0x41)), _, index0, _, ⟨by decide, rfl, by decide, by decide, by decide, by decide, rfl, by decide +kernel,
      by decide +kernel, by decide⟩⟩

theorem witness_cardCommands_insertBad :
    ∃ (op : Nat) (i : Nat) (o : Op) (s : State) (t : State) (x : Index) (items : List Item),
      (Ready s op 0x41 2 o) ∧ (t = started s op 2) ∧ (ownIndex t o.slice (o.f 8 4) op = some x) ∧ (1 ≤ o.f 12 4) ∧ (o.f 12 4 ≤ 65536) ∧
      (Reaches t o [(o.f 16 8, o.f 12 4 * itemStride x, false)]) ∧
      (items = (List.range (o.f 12 4)).map (itemAt x (readPartner t o.port (o.f 16 8) (o.f 12 4 * itemStride x)))) ∧
      (items.findIdx? (fun i => i.id = 0xFFFFFFFFFFFFFFFF || i.cluster ≥ x.ncluster) = some i) :=
  ⟨0, 0, changeOp 0x41, modPort (carded (changeOp 0x41)) 0 (fun x => { x with mem := writeBytes x.mem 0x20008 [1#8] }), _, index0, _, ⟨by decide, rfl,
      by decide, by decide, by decide, by decide, rfl, by decide +kernel⟩⟩

theorem witness_cardCommands_delete :
    ∃ (op : Nat) (o : Op) (s : State) (t : State) (x : Index) (ids : List Nat),
      (Ready s op 0x42 2 o) ∧ (t = started s op 2) ∧ (ownIndex t o.slice (o.f 8 4) op = some x) ∧ (1 ≤ o.f 12 4) ∧ (o.f 12 4 ≤ 65536) ∧
      (Reaches t o [(o.f 16 8, 8 * o.f 12 4, false)]) ∧ (ids = (List.range (o.f 12 4)).map (fun i => partnerNat t o.port (o.f 16 8 + 8 * i) 8)) ∧
      ((∀ i ∈ ids, i ≠ 0xFFFFFFFFFFFFFFFF)) :=
  ⟨0, changeOp 0x42, carded (changeOp 0x42), _, index0, _, ⟨by decide, rfl, by decide, by decide, by decide, by decide, rfl, by decide +kernel⟩⟩

theorem witness_cardCommands_publish :
    ∃ (op : Nat) (o : Op) (s : State) (t : State) (x : Index), (Ready s op 0x43 2 o) ∧ (t = started s op 2) ∧ (ownIndex t o.slice (o.f 8 4) op = some x) :=
  ⟨0, opOf 0x43 63 [], carded (opOf 0x43 63 []), _, index0, ⟨by decide, rfl, by decide⟩⟩

theorem witness_cardCommands_query :
    ∃ (op : Nat) (o : Op) (s : State) (t : State) (x : Index) (b : List Byte) (ts : List Term),
      (Ready s op 0x40 2 o) ∧ (t = started s op 2) ∧ (ownIndex t o.slice (o.f 8 4) op = some x) ∧ (getQuery t op = none) ∧ (Clear (queryFields o)) ∧
      ((o.f 13 1 ≠ 0 → x.vfmt ≠ 0 ∧ usable t o.slice ≠ [] ∧ t.ras.halted = false)) ∧
      ((bit (o.f 20 1) 1 = true → x.ep.any (fun ep => (lookup t.strand.eps ep).any (fun e => e.card = some (o.f 8 4))) = true)) ∧
      (TermsRead t op o (o.f 40 8) (o.f 21 1) x.rb b ts) :=
  ⟨0, queryOp, carded queryOp, _, index0, [], [], ⟨by decide, rfl, by decide, by decide, by decide, by decide, by decide, Or.inl ⟨by decide, rfl, rfl⟩⟩⟩

theorem witness_cardCommands_begins :
    ∃ (len : Nat) (o : Op) (t : State) (x : Index) (block : List Byte),
      (len = o.f 12 1 * queryStride x (o.f 13 1) (o.f 18 2) (bit (o.f 20 1) 0)) ∧ (bit (o.f 20 1) 1 = false) ∧ (Reaches t o [(o.f 24 8, len, false),
      (o.f 48 8, 0, false), (o.f 32 8, outputBytes (o.f 12 1) (o.f 14 2) 0, true)]) ∧ (block = readPartner t o.port (o.f 24 8) len) ∧
      ((bit (o.f 20 1) 0 = true → ∀ q < o.f 12 1, ∀ c ∈ listedClusters x (o.f 13 1) (o.f 18 2) block q, c < x.ncluster)) :=
  ⟨64, queryOp, carded queryOp, index0, _, ⟨by decide, by decide, by decide, rfl, by decide⟩⟩

/-- A card endpoint of index 0, and the state with it. -/
def cardEp : Endpoint := { slice := 63, tier := 0, perm := 8, key := 0, base := 0, size := 0, peer := 2 ^ 31, sem := none, ivec := none, port := 0, card := some 0, closing := false }
def shardState : State :=
  let s := carded queryOp
  { s with strand := { s.strand with eps := [(0, cardEp)] } }

/-- A message of 48 bytes that begins with `kind`. -/
def message (kind : Nat) (last : Bool) : Packet := { packet 4 0 0 with last := last, len := 48, data := leBytes 48 kind }

/-- A query whose candidate waits for its re-ranking. -/
def ranking : Query := { query0 with metric := 1, vfmt := 3, waiting := [], cands := [[{ dist := 0, id := 5, shard := 0 }]], todo := [(0, { dist := 0, id := 5, shard := 0 })] }

/-- A shard request of one spec, and a device with no place for it. -/
def shardAsk : Packet := message (1 + 2 ^ 160 + 2 ^ 176 + 2 ^ 192) true
def noPlace : State := { shardState with ops := (List.range 4096).map (fun i => (i, queryOp)) }
theorem admitShard_full (s : State) (k : Packet) (h : Nat) (b : List Byte) (x : Index) (h1 : lookup s.card.indexes h = some x)
    (h2 : (field b 2 1 ≠ x.sbits || field b 3 1 ≠ x.vfmt || field b 4 2 ≠ x.d) = false) (h3 : x.dropping = none)
    (h4 : ((shardChecks s x (fun off n => field b (20 + off - 12) n) (cut b 36 (field b 32 4)) (b.drop (36 + field b 32 4))).find? (fun c => c.1)) = none)
    (h5 : 4096 ≤ placesTaken s) : admitShard s k h b = .wait s := by
  unfold admitShard
  rw [h1]
  dsimp only
  rw [if_neg (by rw [h2]; simp), if_neg (by simp [h3]), h4]
  dsimp only
  rw [if_pos h5]
def scan0 : Scan := { store := 3, omode := 0, rowBytes := 8, sector := 0, rows := 1, maxRows := 0, done := [], failed := [], hits := [] }

theorem witness_cardPassesAndShards_sketchPass :
    ∃ (b : Fin 16) (s : State) (u : State) (p : CardPass) (ps : List CardPass) (q : Query),
      ((getBob s b.val).passes = p :: ps) ∧ (passAhead s p.op = false) ∧ (awake s 2 = true) ∧ (u = modBob s b.val (fun x => { x with passes := ps })) ∧
      (getQuery u p.op = some q) ∧ (q.scan = none) :=
  ⟨0, querying (opOf 0x45 63 []) (query0), _, _, _, _, ⟨rfl, by decide, by decide, rfl, rfl, by decide⟩⟩

theorem witness_cardPassesAndShards_scanPass :
    ∃ (b : Fin 16) (s : State) (u : State) (p : CardPass) (ps : List CardPass) (q : Query) (c : Scan),
      ((getBob s b.val).passes = p :: ps) ∧ (passAhead s p.op = false) ∧ (awake s 2 = true) ∧ (u = modBob s b.val (fun x => { x with passes := ps })) ∧
      (getQuery u p.op = some q) ∧ (q.scan = some c) :=
  ⟨0, querying (opOf 0x45 63 []) ({ query0 with scan := some scan0 }), _, _, _, _, scan0, ⟨rfl, by decide, by decide, rfl, rfl, by decide⟩⟩

theorem witness_cardPassesAndShards_asleep :
    ∃ (b : Fin 16) (s : State) (p : CardPass) (ps : List CardPass), ((getBob s b.val).passes = p :: ps) ∧ (passAhead s p.op = false) ∧
      (awake s 2 = false) :=
  ⟨0, { querying (opOf 0x45 63 []) (query0) with pwr := { running.pwr with state := 3 } }, _, _, ⟨rfl, by decide, by decide⟩⟩

theorem witness_cardPassesAndShards_behind :
    ∃ (b : Fin 16) (s : State) (p : CardPass) (ps : List CardPass), ((getBob s b.val).passes = p :: ps) ∧ (passAhead s p.op = true) :=
  ⟨0, { querying (opOf 0x45 63 []) (query0) with ops := [(2, { queryOp with fetchedAt := 0 }), (7, queryOp)] }, _, _, ⟨rfl, by decide⟩⟩

theorem witness_cardPassesAndShards_noPass :
    ∃ (b : Fin 16) (s : State), ((getBob s b.val).passes = []) :=
  ⟨1, running, by decide⟩

theorem witness_cardPassesAndShards_local_ :
    ∃ (s : State) (op : Nat) (q : Query), (getQuery s op = some q) ∧ (q.scan = none) ∧ (q.metric = 0) :=
  ⟨querying (opOf 0x45 63 []) (query0), 7, _, ⟨rfl, by decide, by decide⟩⟩

theorem witness_cardPassesAndShards_candidates :
    ∃ (s : State) (u : State) (op : Nat) (q : Query) (todo : List (Nat × Cand)),
      (getQuery s op = some q) ∧ (q.scan = none) ∧ (q.metric ≠ 0) ∧ (todo = (q.cands.zipIdx).flatMap (fun e => e.1.map (fun c => (e.2, c)))) ∧ (todo ≠ []) ∧
      (rerankLate s q = false) ∧ (u = modQuery s op (fun q => { q with todo := todo, ranked := q.cands.map (fun _ => []) })) :=
  ⟨querying (opOf 0x45 63 []) (ranking), _, 7, _, _, ⟨rfl, by decide, by decide, rfl, by decide, by decide, rfl⟩⟩

theorem witness_cardPassesAndShards_rerank :
    ∃ (op : Nat) (s : State) (q : Query),
      (getQuery s op = some q) ∧ (q.scan = none) ∧ (q.todo ≠ []) ∧ (q.localStatus = none) ∧ (s.ras.halted = false) ∧
      ((usable s q.slice).any (runningOn s q.slice) = true) ∧ (rerankLate s q = false) ∧ (awake s 0 = true) :=
  ⟨7, { querying (opOf 0x45 63 []) (ranking) with slices := [(63, { slice0 with conf := { slice0.conf with spindles := 1 } })], sched := [(0, { running := some 63, boundary := none })] }, _, ⟨rfl, by decide, by decide, by decide, by decide, by decide, by decide, by decide⟩⟩

theorem witness_cardPassesAndShards_vectors :
    ∃ (s : State) (t : State) (q : Query) (lost : Option Nat),
      (vectorsLost ((q.todo.take 256).map (fun e => bobbinOfItem s e.2.id)).eraseDups s = (lost, t)) :=
  ⟨running, _, query0, _, rfl⟩

theorem witness_cardPassesAndShards_halted :
    ∃ (s : State), (s.ras.halted = true) :=
  ⟨{ running with ras := { running.ras with halted := true } }, by decide⟩

theorem witness_cardPassesAndShards_answered :
    ∃ (s : State) (op : Nat) (q : Query),
      (getQuery s op = some q) ∧ (q.localStatus = some stOk) ∧ (q.remote = none) ∧ (q.scan = none) ∧ (shardsIn s q = true) :=
  ⟨querying (opOf 0x45 63 []) ({ query0 with localStatus := some stOk }), 7, _, ⟨rfl, by decide, by decide, by decide, by decide⟩⟩

theorem witness_cardPassesAndShards_scanned :
    ∃ (s : State) (op : Nat) (q : Query) (c : Scan), (getQuery s op = some q) ∧ (q.localStatus = some stOk) ∧ (q.remote = none) ∧ (q.scan = some c) :=
  ⟨querying (opOf 0x45 63 []) ({ query0 with localStatus := some stOk, scan := some scan0 }), 7, _, scan0, ⟨rfl, by decide, by decide, by decide⟩⟩

theorem witness_cardPassesAndShards_request :
    ∃ (n : Fin 104) (k : Packet) (s : State) (t : State) (u : State) (e : Endpoint) (h : Nat) (st : Nat),
      (Arrives s n.val k t) ∧ (k.op = 4) ∧ (lookup t.strand.eps k.ep = some e) ∧ (e.card = some h) ∧ (e.key = k.key) ∧
      ((bit e.peer 31 || e.peer % 2 ^ 18 = k.src) = true) ∧ (k.last = true) ∧ (k.offset = 0) ∧ (field k.data 0 1 = 1) ∧
      (admitShard t k h k.data = .done st u) :=
  ⟨0, message 1 true, shardState, _, _, cardEp, 0, stBadDescriptor, ⟨⟨by decide +kernel, by decide, by decide +kernel, rfl, by decide +kernel⟩, by decide,
      by decide, by decide, by decide, by decide, by decide, by decide, by decide, rfl⟩⟩

theorem witness_cardPassesAndShards_requestWaits :
    ∃ (n : Fin 104) (k : Packet) (s : State) (t : State) (u : State) (e : Endpoint) (h : Nat),
      (Arrives s n.val k t) ∧ (k.op = 4) ∧ (lookup t.strand.eps k.ep = some e) ∧ (e.card = some h) ∧ (e.key = k.key) ∧
      ((bit e.peer 31 || e.peer % 2 ^ 18 = k.src) = true) ∧ (k.last = true) ∧ (k.offset = 0) ∧ (field k.data 0 1 = 1) ∧
      (admitShard t k h k.data = .wait u) :=
  ⟨0, shardAsk, noPlace, _, _, cardEp, 0, ⟨⟨by decide +kernel, by decide, by decide +kernel, rfl, by decide +kernel⟩, by decide, by decide, by decide,
      by decide, by decide, by decide, by decide, by decide,
      admitShard_full _ _ _ _ index0 (by decide +kernel) (by decide +kernel) rfl (by decide +kernel) (by decide +kernel)⟩⟩

theorem witness_cardPassesAndShards_part :
    ∃ (n : Fin 104) (k : Packet) (s : State) (t : State) (e : Endpoint) (h : Nat),
      (Arrives s n.val k t) ∧ (k.op = 4) ∧ (lookup t.strand.eps k.ep = some e) ∧ (e.card = some h) ∧ (e.key = k.key) ∧
      ((bit e.peer 31 || e.peer % 2 ^ 18 = k.src) = true) ∧ (k.last = false) ∧ (k.offset = 0) :=
  ⟨0, message 1 false, shardState, _, cardEp, 0, ⟨⟨by decide +kernel, by decide, by decide +kernel, rfl, by decide +kernel⟩, by decide, by decide,
      by decide, by decide, by decide, by decide, by decide⟩⟩

theorem witness_cardPassesAndShards_reply :
    ∃ (n : Fin 104) (k : Packet) (s : State) (t : State) (u : State) (e : Endpoint) (h : Nat),
      (Arrives s n.val k t) ∧ (k.op = 4) ∧ (lookup t.strand.eps k.ep = some e) ∧ (e.card = some h) ∧ (e.key = k.key) ∧
      ((bit e.peer 31 || e.peer % 2 ^ 18 = k.src) = true) ∧ (k.last = true) ∧ (k.offset = 0) ∧ (field k.data 0 1 = 2) ∧ (u = takeReply t k.data) :=
  ⟨0, message 2 true, shardState, _, _, cardEp, 0, ⟨⟨by decide +kernel, by decide, by decide +kernel, rfl, by decide +kernel⟩, by decide, by decide,
      by decide, by decide, by decide, by decide, by decide, by decide, rfl⟩⟩

theorem witness_cardPassesAndShards_deadline :
    ∃ (op : Nat) (s : State) (u : State) (q : Query),
      (getQuery s op = some q) ∧ (q.scan = none) ∧ (q.deadline ≤ s.clock) ∧ (u = modQuery s op (fun q => { q with expired := true })) :=
  ⟨7, { querying (opOf 0x45 63 []) (query0) with clock := 1000 }, _, _, ⟨rfl, by decide, by decide, rfl⟩⟩

theorem witness_cardPassesAndShards_inTime :
    ∃ (op : Nat) (s : State) (q : Query), (getQuery s op = some q) ∧ (s.clock < q.deadline) :=
  ⟨7, { querying (opOf 0x45 63 []) (query0) with clock := 999 }, _, ⟨rfl, by decide⟩⟩

/-- Bobbin 0 with a block in that state. -/
def blockIn (st : BlockState) (mode : Nat) (f : Bobbin → Bobbin) : State :=
  modBob running 0 (fun x => f { x with dies := (List.range 8).map (fun d => (d, { Die.zero with role := d })), blocks := [(0, { st := st, mode := mode, wear := 0, gained := [] })] })

/-- A landing block: fast mode, with a unit of a bulk-mode store. -/
def landing : State := { blockIn .closed 1 id with stores := [(3, { imageStore with bulk := true })] }

/-- A bobbin with too few free blocks. -/
def crowded : Bobbin := { Bobbin.zero with dies := [(0, { Die.zero with role := 0 })], blocks := List.replicate 81000 (0, { st := .closed, mode := 1, wear := 0, gained := [] }) }
theorem crowded_free : freeBlocks crowded < 1024 := by
  unfold freeBlocks
  rw [show crowded.blocks = List.replicate 81000 (0, { st := .closed, mode := 1, wear := 0, gained := [] }) from rfl, List.filter_replicate,
    if_pos (by decide), List.length_replicate]
  have h : (crowded.spares.filter (onActive crowded)).length = 0 := by decide
  omega
/-- A bobbin in which at most one block is taken has room. -/
theorem roomy_free (x : Bobbin) (h : (x.blocks.filter (fun e => e.2.st ≠ .free && onActive x e.1)).length ≤ 1) : 1536 ≤ freeBlocks x := by
  have f := Config.flushBlocks.isLt
  unfold freeBlocks
  omega

theorem witness_flashLife_refused :
    ∃ (b : Fin 16) (block : Nat) (page : Nat) (s : State), ((lookup (getBob s b.val).pages (pageKey block page)).isSome = true) :=
  ⟨0, 0, 0, withImageIn releaseOp [], by decide⟩

theorem witness_flashLife_fastFails :
    ∃ (b : Fin 16) (block : Nat) (s : State) (avoid : List Nat),
      ((getBlock (getBob s b.val) block).st = .opened) ∧ ((getBlock (getBob s b.val) block).mode = 1) ∧
      (avoid = ((parityGroup (getBob s b.val) block).map (fun g => g.blocks.map Prod.fst)).getD [block]) :=
  ⟨0, 0, blockIn .opened 1 id, _, ⟨by decide, by decide, rfl⟩⟩

theorem witness_flashLife_bulkFails :
    ∃ (b : Fin 16) (block : Nat) (s : State),
      ((getBlock (getBob s b.val) block).st = .opened) ∧ ((getBlock (getBob s b.val) block).mode = 2) ∧ (validUnits s b.val block = []) :=
  ⟨0, 0, blockIn .opened 2 id, ⟨by decide, by decide, by decide⟩⟩

theorem witness_flashLife_closeFails :
    ∃ (b : Fin 16) (block : Nat) (s : State),
      ((getBlock (getBob s b.val) block).st = .closed) ∧ ((getBlock (getBob s b.val) block).mode = 2) ∧ (validUnits s b.val block = []) :=
  ⟨0, 0, blockIn .closed 2 id, ⟨by decide, by decide, by decide⟩⟩

theorem witness_flashLife_copiedAgain :
    ∃ (s : State) (t : State) (u : State) (v : State) (b : Nat) (block : Nat) (cause : Nat) (again : List (Nat × Nat)),
      (again = (((getBob s b).moves.filter (fun m => entryBlock m.new = block)).filter (fun m => entryOf s m.owner m.unit = m.old)).map (fun m => (m.owner,
      m.unit))) ∧ (t = modBob s b (fun x => { x with moves := x.moves.filter (fun m => !decide (entryBlock m.new = block)) })) ∧
      (u = modBob (retireBlock t b block cause) b (fun x => refillGroup x b block)) ∧ (v = copyUnits u b (fun _ => true) [block] again) :=
  ⟨running, _, _, _, 0, 0, 0, _, ⟨rfl, rfl, rfl, rfl⟩⟩

theorem witness_flashLife_eraseFails :
    ∃ (b : Fin 16) (block : Nat) (s : State),
      ((erasing_ s b.val block = true ∨ ((getBlock (getBob s b.val) block).st = .closed ∧ validUnits s b.val block = [] ∧
      (getBob s b.val).moves.any (fun m => entryBlock m.old = block) = false))) :=
  ⟨0, 0, blockIn .closed 2 id, by decide⟩

theorem witness_flashLife_gc :
    ∃ (b : Fin 16) (block : Nat) (s : State),
      (s.pwr.state < 3) ∧ ((getBlock (getBob s b.val) block).st = .closed) ∧ (onActive (getBob s b.val) block = true) ∧
      (((getBob s b.val).refreshQ.contains block = true ∨ (freeBlocks (getBob s b.val) < 4096 ∧
      victimOf (closedWith s b.val (fun _ _ => true)) = some block))) :=
  ⟨0, 0, blockIn .closed 2 (fun x => { x with refreshQ := [0] }), ⟨by decide, by decide, by decide, Or.inl (by decide)⟩⟩

theorem witness_flashLife_migration :
    ∃ (b : Fin 16) (block : Nat) (n : Nat) (s : State), (s.pwr.state < 3) ∧ ((getBob s b.val).migrating = some (dieOf block, n)) :=
  ⟨0, 0, 0, blockIn .closed 2 (fun x => { x with migrating := some (0, 0) }), ⟨by decide, by decide⟩⟩

theorem witness_flashLife_idle :
    ∃ (s : State), (3 ≤ s.pwr.state) :=
  ⟨{ running with pwr := { running.pwr with state := 3 } }, by decide⟩

theorem witness_flashLife_fold :
    ∃ (b : Fin 16) (block : Nat) (s : State), (s.pwr.state < 3) ∧ (victimOf (closedWith s b.val (fun k _ => isLanding s b.val k)) = some block) :=
  ⟨0, 0, landing, ⟨by decide, by decide⟩⟩

theorem witness_flashLife_moved :
    ∃ (s : State) (b : Nat) (block : Nat), ((getBob s b).moves.filter (fun m => entryBlock m.old = block) = []) :=
  ⟨blockIn .closed 2 id, 0, 0, by decide⟩

theorem witness_flashLife_movedLater :
    ∃ (s : State) (b : Nat) (block : Nat) (m : BlockMove) (ms : List BlockMove),
      ((getBob s b).moves.filter (fun m => entryBlock m.old = block) = m :: ms) :=
  ⟨modBob running 0 (fun x => { x with moves := [{ owner := 3, unit := 0, old := 0, new := 1 }] }), 0, 0, _, _, rfl⟩

theorem witness_flashLife_erased :
    ∃ (s : State) (b : Nat) (block : Nat),
      ((getBlock (getBob s b) block).st = .closed) ∧ (onActive (getBob s b) block = true) ∧ (validUnits s b block = []) ∧
      ((getBob s b).moves.any (fun m => entryBlock m.old = block) = false) :=
  ⟨blockIn .closed 2 id, 0, 0, ⟨by decide, by decide, by decide, by decide⟩⟩

theorem witness_flashLife_notErased :
    ∃ (s : State) (b : Nat) (block : Nat), (validUnits s b block ≠ []) :=
  ⟨{ blockIn .closed 2 id with stores := [(3, imageStore)] }, 0, 0, by decide⟩

theorem witness_flashLife_begins :
    ∃ (b : Fin 16) (s : State), ((getBob s b.val).foreground = false) ∧ (freeBlocks (getBob s b.val) < 1024) :=
  ⟨0, modBob running 0 (fun _ => crowded), ⟨rfl, crowded_free⟩⟩

theorem witness_flashLife_ends :
    ∃ (b : Fin 16) (s : State), ((getBob s b.val).foreground = true) ∧ (1536 ≤ freeBlocks (getBob s b.val)) :=
  ⟨0, blockIn .closed 1 (fun x => { x with foreground := true }), ⟨rfl, roomy_free _ (by decide)⟩⟩

theorem witness_flashLife_same :
    ∃ (b : Fin 16) (s : State), ((getBob s b.val).foreground = false) ∧ (1024 ≤ freeBlocks (getBob s b.val)) :=
  ⟨0, running, ⟨rfl, Nat.le_trans (by decide) (roomy_free _ (by decide))⟩⟩

theorem witness_flashLife_suspend :
    ∃ (b : Fin 16) (die : Fin 9) (s : State),
      ((busyOp (getDie (getBob s b.val) die.val) s.clock).isSome = true) ∧ ((getDie (getBob s b.val) die.val).suspends < 4) :=
  ⟨0, 8, modBob running 0 (fun x => { x with dies := [(8, { Die.zero with busy := some { erase := true, block := 8, page := 0, since := 0 } })] }),
      ⟨by decide, by decide⟩⟩

theorem witness_flashLife_fifth :
    ∃ (b : Fin 16) (die : Fin 9) (s : State), (4 ≤ (getDie (getBob s b.val) die.val).suspends) :=
  ⟨0, 8, modBob running 0 (fun x => { x with dies := [(8, { Die.zero with suspends := 4 })] }), by decide⟩

theorem witness_flashLife_nothingToSuspend :
    ∃ (b : Fin 16) (die : Fin 9) (s : State), (busyOp (getDie (getBob s b.val) die.val) s.clock = none) :=
  ⟨0, 8, running, by decide⟩

theorem witness_flashLife_migrated :
    ∃ (b : Fin 16) (d : Nat) (n : Nat) (s : State) (u : State),
      ((getBob s b.val).migrating = some (d, n)) ∧ (unitsOnDie s b.val d = 0) ∧
      (u = modBob s b.val (fun x => { modDie x d (fun y => { y with st := 3, role := 0xF }) with migrating := none })) :=
  ⟨0, 1, 0, modBob running 0 (fun x => { x with migrating := some (1, 0) }), _, ⟨by decide, by decide, rfl⟩⟩

theorem witness_flashLife_unitsLeft :
    ∃ (b : Fin 16) (d : Nat) (n : Nat) (s : State), ((getBob s b.val).migrating = some (d, n)) ∧ (unitsOnDie s b.val d ≠ 0) :=
  ⟨0, 0, 0, { blockIn .closed 2 (fun x => { x with migrating := some (0, 0) }) with stores := [(3, imageStore)] }, ⟨by decide, by decide⟩⟩

theorem witness_flashLife_stops :
    ∃ (b : Fin 16) (die : Fin 9) (s : State), (b.val < nBobbins s) ∧ ((getDie (getBob s b.val) die.val).answering = true) :=
  ⟨0, 8, running, ⟨by decide, by decide⟩⟩

theorem witness_flashLife_once :
    ∃ (b : Fin 16) (die : Fin 9) (s : State), ((getDie (getBob s b.val) die.val).answering = false) :=
  ⟨0, 8, modBob running 0 (fun x => { x with dies := [(8, { Die.zero with answering := false })] }), by decide⟩

/-- Journal records: of 1,021 changes, which fills its page, and of none. -/
def record (n : Nat) (ops : List Nat) : JRecord :=
  { jseq := 1, changes := List.replicate n { store := 3, unit := 0, new := 0, old := 0 }, committed := true, made := 0, ops := ops }
def journalled (rs : List JRecord) : State := { running with ops := [(7, queryOp)], journal := { running.journal with records := rs } }
def reportOp (bytes : Nat) : Op := opOf 0x6A 0xFF [(8, 1, 0), (16, 8, 0x10000), (24, 4, bytes)]

theorem witness_journalAndReports_page :
    ∃ (s : State), (pageFill s.journal.records unitBytes < s.journal.records.length) :=
  ⟨journalled [record 1021 [], record 0 []], by decide +kernel⟩

theorem witness_journalAndReports_notFull :
    ∃ (s : State), (pageFill s.journal.records unitBytes = s.journal.records.length) :=
  ⟨journalled [record 0 []], by decide⟩

theorem witness_journalAndReports_timer :
    ∃ (s : State) (r : JRecord) (rs : List JRecord), (s.journal.records = r :: rs) ∧ (r.made + 200 ≤ s.clock) :=
  ⟨{ journalled [record 0 []] with clock := 200 }, _, _, ⟨rfl, by decide⟩⟩

theorem witness_journalAndReports_before :
    ∃ (s : State) (r : JRecord) (rs : List JRecord), (s.journal.records = r :: rs) ∧ (s.clock < r.made + 200) :=
  ⟨{ journalled [record 0 []] with clock := 199 }, _, _, ⟨rfl, by decide⟩⟩

theorem witness_journalAndReports_checkpoint :
    ∃ (s : State), ((s.journal.checkpointAt = 0 ∨ s.journal.checkpointAt + 10000000 ≤ s.clock)) :=
  ⟨journalled [], by decide⟩

theorem witness_journalAndReports_tooSoon :
    ∃ (s : State), (s.journal.checkpointAt ≠ 0) ∧ (s.clock < s.journal.checkpointAt + 10000000) :=
  ⟨{ journalled [] with clock := 9, journal := { running.journal with checkpointAt := 1 } }, ⟨by decide, by decide⟩⟩

theorem witness_journalAndReports_committed :
    ∃ (s : State) (t : State) (id : Nat) (o : Op) (r : JRecord),
      (s.journal.records = [r]) ∧ (r.ops = [id]) ∧ (lookup s.ops id = some o) ∧
      (t = { s with journal := { (addPages s.journal (packPages [r] unitBytes none)) with records := [] } }) :=
  ⟨journalled [record 0 [7]], _, 7, queryOp, _, ⟨rfl, rfl, by decide, rfl⟩⟩

theorem witness_journalAndReports_life :
    ∃ (s : State), (s.glb.cz1200 = false) :=
  ⟨running, by decide⟩

theorem witness_journalAndReports_report :
    ∃ (op : Nat) (o : Op) (s : State) (t : State),
      (Ready s op 0x6A 4 o) ∧ (t = started s op 4) ∧ ((o.f 8 1 < nBobbins t ∨ o.f 8 1 = 0xFF)) ∧ (o.f 9 1 ≤ 1) ∧ (o.f 16 8 % 64 = 0) ∧
      (reportBytes t (o.f 8 1) (o.f 9 1) ≤ o.f 24 4) ∧ (Reaches t o [(o.f 16 8, reportBytes t (o.f 8 1) (o.f 9 1), true)]) :=
  ⟨0, reportOp 64, withOp (reportOp 64), _, ⟨by decide, rfl, by decide, by decide, by decide, by decide, by decide⟩⟩

theorem witness_journalAndReports_tooShort :
    ∃ (op : Nat) (o : Op) (s : State) (t : State),
      (Ready s op 0x6A 4 o) ∧ (t = started s op 4) ∧ ((o.f 8 1 < nBobbins t ∨ o.f 8 1 = 0xFF)) ∧ (o.f 9 1 ≤ 1) ∧ (o.f 16 8 % 64 = 0) ∧
      (o.f 24 4 < reportBytes t (o.f 8 1) (o.f 9 1)) :=
  ⟨0, reportOp 63, withOp (reportOp 63), _, ⟨by decide, rfl, by decide, by decide, by decide, by decide⟩⟩

/-- The device up, its distaff changed. -/
def withDst (f : Distaff → Distaff) : State := { running with dst := f running.dst }

/-- An operation in the distaff: a program of word 0x1D0000 of the user area, or an erase of its sector. -/
def dstOp (erase byDst suspended verified : Bool) : DistaffOp :=
  { erase := erase, byDst := byDst, target := 0x1D0000, data := 0, suspended := suspended, verified := verified }

theorem witness_distaffPath_firstKey :
    ∃ (who : Requester) (s : State), (mayWrite s who) ∧ (s.dst.keyLocked = false) ∧ (s.dst.seq = .idle) :=
  ⟨.port 0, running, ⟨by decide, by decide, by decide⟩⟩

theorem witness_distaffPath_secondKey :
    ∃ (who : Requester) (s : State), (mayWrite s who) ∧ (s.dst.keyLocked = false) ∧ (s.dst.seq = .halfKey) :=
  ⟨.port 0, withDst (fun d => { d with seq := .halfKey }), ⟨by decide, by decide, by decide⟩⟩

theorem witness_distaffPath_wrongKey :
    ∃ (who : Requester) (v : Word) (s : State),
      (mayWrite s who) ∧ (s.dst.keyLocked = false) ∧ (((s.dst.seq = .idle ∧ v ≠ 0x4C9E2A17) ∨ (s.dst.seq = .halfKey ∧ v ≠ 0xB361D5E8))) :=
  ⟨.port 0, 5, running, ⟨by decide, by decide, by decide⟩⟩

theorem witness_distaffPath_read :
    ∃ (who : Requester) (v : Word) (s : State) (u : State),
      (mayWrite s who) ∧ (s.dst.seq = .cmd 0x03) ∧ (u = { s with dst := { s.dst with addr := addrField v } }) ∧ (dstMay u (addrField v) false = true) ∧
      (bankBusy u (bankOf (addrField v / 32)) = false) ∧ (inSuspended u (addrField v / 32) = false) ∧ ((getWord u (addrField v / 32)).st = .good) :=
  ⟨.port 0, 0x3A00000, withDst (fun d => { d with seq := .cmd 0x03 }), _, ⟨by decide, by decide, rfl, by decide, by decide, by decide, by decide⟩⟩

theorem witness_distaffPath_readDenied :
    ∃ (who : Requester) (v : Word) (s : State) (u : State),
      (mayWrite s who) ∧ (s.dst.seq = .cmd 0x03) ∧ (u = { s with dst := { s.dst with addr := addrField v } }) ∧ (dstMay u (addrField v) false = false) :=
  ⟨.port 0, 0x3800000, withDst (fun d => { d with seq := .cmd 0x03 }), _, ⟨by decide, by decide, rfl, by decide⟩⟩

theorem witness_distaffPath_program :
    ∃ (who : Requester) (v : Word) (s : State) (u : State),
      (mayWrite s who) ∧ (s.dst.seq = .data 7) ∧ (u = endSeq { s with dst := putData s.dst 7 v }) ∧ (dstMay u s.dst.addr true = true) ∧
      (s.dst.current = none) ∧ ((getWord u (s.dst.addr / 32)).written = false) :=
  ⟨.port 0, 5, withDst (fun d => { d with seq := .data 7, addr := 0x3A00000 }), _, ⟨by decide, by decide, rfl, by decide, by decide, by decide⟩⟩

theorem witness_distaffPath_coreProgram :
    ∃ (a : Nat) (data : List Byte) (xb : Option (Fin 2)) (s : State),
      (a % 32 = 0) ∧ (a < 0x4000000) ∧ (data.length = 32) ∧ (bankSelf xb a = false) ∧ (s.dst.current = none) ∧ ((getWord s (a / 32)).written = false) :=
  ⟨0x3A00000, List.replicate 32 0, some 0, running, ⟨by decide, by decide, by decide, by decide, by decide, by decide⟩⟩

theorem witness_distaffPath_coreReprogram :
    ∃ (a : Nat) (data : List Byte) (xb : Option (Fin 2)) (s : State),
      (a % 32 = 0) ∧ (a < 0x4000000) ∧ (data.length = 32) ∧ (bankSelf xb a = false) ∧ (s.dst.current = none) ∧ ((getWord s (a / 32)).written = true) :=
  ⟨0x3A00000, List.replicate 32 0, some 0, withDst (fun d => { d with array := [(0x1D0000, { data := 0, written := true, st := .good })] }), ⟨by decide,
      by decide, by decide, by decide, by decide, by decide⟩⟩

theorem witness_distaffPath_erase :
    ∃ (who : Requester) (v : Word) (s : State) (u : State),
      (mayWrite s who) ∧ (s.dst.seq = .cmd 0x30) ∧ (u = endSeq { s with dst := { s.dst with addr := addrField v } }) ∧
      (dstMay u (addrField v) true = true) ∧ (s.dst.current = none) :=
  ⟨.port 0, 0x3A00000, withDst (fun d => { d with seq := .cmd 0x30 }), _, ⟨by decide, by decide, rfl, by decide, by decide⟩⟩

theorem witness_distaffPath_coreErase :
    ∃ (a : Nat) (xb : Option (Fin 2)) (s : State), (a < 0x4000000) ∧ (bankSelf xb a = false) ∧ (s.dst.current = none) :=
  ⟨0x3A00000, none, running, ⟨by decide, by decide, by decide⟩⟩

theorem witness_distaffPath_bankSelf :
    ∃ (a : Nat) (xb : Option (Fin 2)), (bankSelf xb a = true) :=
  ⟨0x3A00000, some 1, by decide⟩

theorem witness_distaffPath_suspend :
    ∃ (who : Requester) (v : Word) (s : State) (e : DistaffOp),
      (mayWrite s who) ∧ (v.toNat % 256 = 0xB0) ∧ (s.dst.keyLocked = false) ∧ (s.dst.seq = .unlocked) ∧ (s.dst.current = some e) ∧ (e.erase = true) ∧
      (e.suspended = false) ∧ (e.verified = false) ∧ (s.dst.wdogPending = none) :=
  ⟨.port 0, 0xB0, withDst (fun d => { d with seq := .unlocked, current := some (dstOp true true false false) }), _, ⟨by decide, by decide, by decide,
      by decide, rfl, by decide, by decide, by decide, by decide⟩⟩

theorem witness_distaffPath_coreSuspend :
    ∃ (a : Nat) (s : State) (e : DistaffOp),
      (s.dst.current = some e) ∧ (e.erase = true) ∧ (bankOf (a % 0x4000000 / 32) = bankOf e.target) ∧ (e.suspended = false) ∧ (e.verified = false) ∧
      (s.dst.wdogPending = none) :=
  ⟨0x3A00000, withDst (fun d => { d with current := some (dstOp true true false false) }), _, ⟨rfl, by decide, by decide, by decide, by decide, by decide⟩⟩

theorem witness_distaffPath_resume :
    ∃ (who : Requester) (v : Word) (s : State) (e : DistaffOp),
      (mayWrite s who) ∧ (v.toNat % 256 = 0xD0) ∧ (s.dst.keyLocked = false) ∧ (s.dst.seq = .unlocked) ∧ (s.dst.current = some e) ∧ (e.erase = true) :=
  ⟨.port 0, 0xD0, withDst (fun d => { d with seq := .unlocked, current := some (dstOp true true true false) }), _, ⟨by decide, by decide, by decide,
      by decide, rfl, by decide⟩⟩

theorem witness_distaffPath_coreResume :
    ∃ (a : Nat) (s : State) (e : DistaffOp), (s.dst.current = some e) ∧ (e.erase = true) ∧ (bankOf (a % 0x4000000 / 32) = bankOf e.target) :=
  ⟨0x3A00000, withDst (fun d => { d with current := some (dstOp true true true false) }), _, ⟨rfl, by decide, by decide⟩⟩

theorem witness_distaffPath_pulse :
    ∃ (s : State) (e : DistaffOp), (s.dst.current = some e) ∧ (e.erase = true) ∧ (e.suspended = false) ∧ (e.verified = false) :=
  ⟨withDst (fun d => { d with current := some (dstOp true true false false) }), _, ⟨rfl, by decide, by decide, by decide⟩⟩

theorem witness_distaffPath_lastPulse :
    ∃ (s : State) (t : State) (u : State) (e : DistaffOp),
      (s.dst.current = some e) ∧ (e.erase = true) ∧ (e.suspended = false) ∧ (e.verified = false) ∧
      (t = { s with dst := { s.dst with pulses := min (s.dst.pulses + 1) 0xFFFF } }) ∧ (u = eraseWords t (sectorOf e.target)) :=
  ⟨withDst (fun d => { d with current := some (dstOp true true false false) }), _, _, _, ⟨rfl, by decide, by decide, by decide, rfl, rfl⟩⟩

theorem witness_distaffPath_programEnds :
    ∃ (s : State) (u : State) (e : DistaffOp),
      (s.dst.current = some e) ∧ (e.erase = false) ∧ (s.dst.wdogPending = none) ∧ (e.byDst = true) ∧
      (u = putWord s e.target (programmed s e.target e.data)) :=
  ⟨withDst (fun d => { d with current := some (dstOp false true false false) }), _, _, ⟨rfl, by decide, by decide, by decide, rfl⟩⟩

theorem witness_distaffPath_programmed :
    ∃ (s : State) (w : Nat), ((getWord s w).st ≠ .indeterminate) :=
  ⟨running, 0x1D0000, by decide⟩

theorem witness_distaffPath_eraseEnds :
    ∃ (s : State) (e : DistaffOp), (s.dst.current = some e) ∧ (e.erase = true) ∧ (e.verified = true) ∧ (s.dst.wdogPending = none) ∧ (e.byDst = false) :=
  ⟨withDst (fun d => { d with current := some (dstOp true false false true) }), _, ⟨rfl, by decide, by decide, by decide, by decide⟩⟩

theorem witness_distaffPath_status :
    ∃ (who : Requester) (s : State), (mayWrite s who) :=
  ⟨.port 0, running, by decide⟩

/-- An operation in flight, the device at a level. -/
def atLevel (n : Nat) (o : Op) : State :=
  let s := withOp o
  { s with sec := { s.sec with levelRec := n, fused2 := decide (n = 2) } }

/-- An operation in flight, slice 63 with a store 3 at a level. -/
def storeLevel (n : Nat) (o : Op) : State :=
  let s := withSlice o
  { s with stores := [(3, { imageStore with level := n })] }

/-- That, with an earlier READ of the store still open. -/
def storeBusy (o : Op) : State :=
  let s := storeLevel 1 o
  { s with ops := [(0, { opOf 0x02 63 [(8, 2, 3)] with phase := .started }), (1, o)] }

/-- A full erase at a step, with or without its command. -/
def erasingAt (step : Nat) : State :=
  let s := withOp { opOf 0x78 0xFF [] with phase := .started }
  { s with sec := { s.sec with erase := some { op := some 0, lowering := false, step := step, dies := 0, resumed := false } } }

theorem witness_levelsAndErase_same :
    ∃ (op : Nat) (o : Op) (s : State) (t : State),
      (Ready s op 0x76 4 o) ∧ (t = started s op 4) ∧ (o.f 8 1 ≠ 1) ∧ (s.sec.erase = none) ∧ (Clear (levelFields o)) ∧ (o.f 9 1 = level t) :=
  ⟨0, opOf 0x76 255 [(9, 1, 1), (12, 4, 1280723969)], atLevel 1 (opOf 0x76 255 [(9, 1, 1), (12, 4, 1280723969)]), _, ⟨by decide, rfl, by decide, by decide,
      by decide, by decide⟩⟩

theorem witness_levelsAndErase_lower :
    ∃ (op : Nat) (o : Op) (s : State) (t : State),
      (Ready s op 0x76 4 o) ∧ (t = started s op 4) ∧ (o.f 8 1 ≠ 1) ∧ (s.sec.erase = none) ∧ (Clear (levelFields o)) ∧ (level t = 1) ∧ (o.f 9 1 = 0) :=
  ⟨0, opOf 0x76 255 [(9, 1, 0), (12, 4, 1280723968)], atLevel 1 (opOf 0x76 255 [(9, 1, 0), (12, 4, 1280723968)]), _, ⟨by decide, rfl, by decide, by decide,
      by decide, by decide, by decide⟩⟩

theorem witness_levelsAndErase_locked :
    ∃ (op : Nat) (o : Op) (s : State) (t : State),
      (Ready s op 0x76 4 o) ∧ (t = started s op 4) ∧ (o.f 8 1 ≠ 1) ∧ (s.sec.erase = none) ∧ (Clear (levelFields o)) ∧ (level t = 2) ∧ (o.f 9 1 < 2) :=
  ⟨0, opOf 0x76 255 [(9, 1, 1), (12, 4, 1280723969)], atLevel 2 (opOf 0x76 255 [(9, 1, 1), (12, 4, 1280723969)]), _, ⟨by decide, rfl, by decide, by decide,
      by decide, by decide, by decide⟩⟩

theorem witness_levelsAndErase_storeRaise :
    ∃ (op : Nat) (o : Op) (s : State) (t : State) (st : Store),
      (Ready s op 0x76 2 o) ∧ (t = started s op 2) ∧ (o.f 8 1 = 1) ∧ (Clear (levelFields o)) ∧ (lookup t.stores (o.f 10 2) = some st) ∧
      (deletedAhead t (o.f 10 2) op = false) ∧ (st.level ≤ o.f 9 1) :=
  ⟨0, opOf 0x76 255 [(8, 1, 1), (9, 1, 1), (10, 2, 3)], storeLevel 0 (opOf 0x76 255 [(8, 1, 1), (9, 1, 1), (10, 2, 3)]), _, _, ⟨by decide, rfl, by decide,
      by decide, rfl, by decide, by decide⟩⟩

theorem witness_levelsAndErase_storeWaits :
    ∃ (op : Nat) (o : Op) (s : State) (t : State) (st : Store),
      (Ready s op 0x76 2 o) ∧ (t = started s op 2) ∧ (o.f 8 1 = 1) ∧ (Clear (levelFields o)) ∧ (lookup t.stores (o.f 10 2) = some st) ∧
      (deletedAhead t (o.f 10 2) op = false) ∧ (st.level = 1) ∧ (o.f 9 1 = 0) ∧ (st.index = none) ∧ (storeLocked t (o.f 10 2) = false) ∧
      (busyAhead t (o.f 10 2) op = true) :=
  ⟨1, opOf 0x76 255 [(8, 1, 1), (9, 1, 0), (10, 2, 3)], storeBusy (opOf 0x76 255 [(8, 1, 1), (9, 1, 0), (10, 2, 3)]), _, _, ⟨by decide, rfl, by decide,
      by decide, rfl, by decide, by decide, by decide, by decide, by decide, by decide⟩⟩

theorem witness_levelsAndErase_storeLower :
    ∃ (op : Nat) (o : Op) (s : State) (t : State) (u : State) (st : Store),
      (Ready s op 0x76 2 o) ∧ (t = started s op 2) ∧ (o.f 8 1 = 1) ∧ (Clear (levelFields o)) ∧ (lookup t.stores (o.f 10 2) = some st) ∧
      (deletedAhead t (o.f 10 2) op = false) ∧ (st.level = 1) ∧ (o.f 9 1 = 0) ∧ (st.index = none) ∧ (storeLocked t (o.f 10 2) = false) ∧
      (busyAhead t (o.f 10 2) op = false) ∧
      (u = { t with sec := { t.sec with keys := t.sec.keys.filter (fun k => !(k.kind = 1 && k.store = o.f 10 2)) } }) :=
  ⟨0, opOf 0x76 255 [(8, 1, 1), (9, 1, 0), (10, 2, 3)], storeLevel 1 (opOf 0x76 255 [(8, 1, 1), (9, 1, 0), (10, 2, 3)]), _, _, _, ⟨by decide, rfl,
      by decide, by decide, rfl, by decide, by decide, by decide, by decide, by decide, by decide, rfl⟩⟩

theorem witness_levelsAndErase_sanitise :
    ∃ (op : Nat) (o : Op) (s : State) (t : State), (Ready s op 0x78 4 o) ∧ (t = started s op 4) ∧ (o.f 8 4 = 0x53414E00) ∧ (s.sec.erase = none) :=
  ⟨0, opOf 0x78 255 [(8, 4, 1396788736)], withOp (opOf 0x78 255 [(8, 4, 1396788736)]), _, ⟨by decide, rfl, by decide, by decide⟩⟩

theorem witness_levelsAndErase_sanitiseSecond :
    ∃ (op : Nat) (o : Op) (s : State) (t : State) (e : Erase),
      (Ready s op 0x78 4 o) ∧ (t = started s op 4) ∧ (o.f 8 4 = 0x53414E00) ∧ (s.sec.erase = some e) ∧ (e.op ≠ some op) :=
  ⟨0, opOf 0x78 255 [(8, 4, 1396788736)],
      { withOp (opOf 0x78 255 [(8, 4, 1396788736)]) with sec := { running.sec with erase := some { op := none, lowering := true, step := 0, dies := 0, resumed := true } } }, _, _, ⟨by decide, rfl, by decide, rfl, by decide⟩⟩

theorem witness_levelsAndErase_storeLevelSet :
    ∃ (op : Nat) (o : Op) (s : State) (t : State) (st : Store),
      (Ready s op 0x76 2 o) ∧ (t = started s op 2) ∧ (o.f 8 1 = 1) ∧ (Clear (levelFields o)) ∧ (lookup t.stores (o.f 10 2) = some st) ∧
      (deletedAhead t (o.f 10 2) op = false) ∧ (st.level ≤ o.f 9 1) :=
  ⟨0, opOf 0x76 255 [(8, 1, 1), (9, 1, 1), (10, 2, 3)], storeLevel 0 (opOf 0x76 255 [(8, 1, 1), (9, 1, 1), (10, 2, 3)]), _, _, ⟨by decide, rfl, by decide,
      by decide, rfl, by decide, by decide⟩⟩

theorem witness_levelsAndErase_sanitising :
    ∃ (op : Nat) (o : Op) (s : State) (t : State), (Ready s op 0x78 4 o) ∧ (t = started s op 4) ∧ (o.f 8 4 = 0x53414E00) ∧ (s.sec.erase = none) :=
  ⟨0, opOf 0x78 255 [(8, 4, 1396788736)], withOp (opOf 0x78 255 [(8, 4, 1396788736)]), _, ⟨by decide, rfl, by decide, by decide⟩⟩

theorem witness_levelsAndErase_sanitiseKey :
    ∃ (op : Nat) (o : Op) (s : State) (t : State), (Ready s op 0x78 4 o) ∧ (t = started s op 4) ∧ (o.f 8 4 ≠ 0x53414E00) :=
  ⟨0, opOf 0x78 255 [], withOp (opOf 0x78 255 []), _, ⟨by decide, rfl, by decide⟩⟩

theorem witness_levelsAndErase_erased :
    ∃ (s : State) (e : Erase), (s.sec.erase = some e) ∧ (s.dst.current = none) ∧ (e.step = 4) :=
  ⟨erasingAt 4, _, ⟨rfl, by decide, by decide⟩⟩

theorem witness_levelsAndErase_marker :
    ∃ (s : State) (u : State) (e : Erase),
      (s.sec.erase = some e) ∧ (s.dst.current = none) ∧ (e.step = 0) ∧ (quietFor s e = true) ∧
      (u = addRecord s 4 (b2n (!e.lowering)) 0 (leBytes 4 s.sec.srkGen)) :=
  ⟨erasingAt 0, _, _, ⟨rfl, by decide, by decide, by decide, rfl⟩⟩

theorem witness_levelsAndErase_notQuiet :
    ∃ (s : State) (e : Erase), (s.sec.erase = some e) ∧ (s.dst.current = none) ∧ (e.step = 0) ∧ (quietFor s e = false) :=
  ⟨{ erasingAt 0 with jobs := [(0, jobOf [])] }, _, ⟨rfl, by decide, by decide, by decide⟩⟩

theorem witness_levelsAndErase_root :
    ∃ (s : State) (u : State) (e : Erase), (s.sec.erase = some e) ∧ (s.dst.current = none) ∧ (e.step = 1) ∧ (u = eraseWords s 0x381) :=
  ⟨erasingAt 1, _, _, ⟨rfl, by decide, by decide, rfl⟩⟩

theorem witness_levelsAndErase_distaff :
    ∃ (s : State) (u : State) (e : Erase),
      (s.sec.erase = some e) ∧ (s.dst.current = none) ∧ (e.step = 2) ∧
      (u = ((List.range 16).map (0x3A0 + ·) ++ (List.range 9).map (0x382 + ·)).foldl eraseWords s) :=
  ⟨erasingAt 2, _, _, ⟨rfl, by decide, by decide, rfl⟩⟩

theorem witness_levelsAndErase_dies :
    ∃ (s : State) (u : State) (e : Erase) (ds : List Nat),
      (s.sec.erase = some e) ∧ (s.dst.current = none) ∧ (e.step = 3) ∧
      (ds = (List.range 8).filterMap (fun k => if e.dies + k < nDies s then some (e.dies + k) else none)) ∧
      (u = ds.foldl (fun s i => addRecord (eraseDie s i) 5 3 0 (leBytes 2 i)) s) :=
  ⟨erasingAt 3, _, _, _, ⟨rfl, by decide, by decide, rfl, rfl⟩⟩

theorem witness_levelsAndErase_ends :
    ∃ (s : State) (u : State) (e : Erase) (op : Nat),
      (s.sec.erase = some e) ∧ (s.dst.current = none) ∧ (e.step = 4) ∧ (e.op = some op) ∧ (u = renewRoot (emptyDevice s) e.lowering) :=
  ⟨erasingAt 4, _, _, 0, ⟨rfl, by decide, by decide, by decide, rfl⟩⟩

/-- An operation in flight, a staging at `n` bytes. -/
def stagedAt (n : Nat) (o : Op) : State :=
  let s := withOp o
  { s with sec := { s.sec with staging := some { bytes := n } } }

/-- An entry of the log not copied yet. -/
def entry0 : LogEntry := { seq := 1, beat := 0, source := 1, type := 5, index := 0, count := 1, store := 0, addr := 0, copied := false }

/-- The device up with that entry. -/
def logged : State := { running with ras := { running.ras with log := [entry0] } }

/-- A code word with some bytes. -/
def codeWord (b : List Byte) : CodeWord := { data := BitVec.ofNat 256 (leNat b), written := true, st := .good }

/-- The header of an image without a body in slot 1: the words that must not read as erased. -/
def headerWords : List (Nat × CodeWord) :=
  (1048576, codeWord ([0x41, 0x54, 0x46, 0x57, 0x49, 0x4D, 0x47, 0x31, 0, 0, 0, 0, 0, 0, 1, 0])) ::
    ([1, 60, 61, 62, 63] ++ (List.range 16).map (112 + ·)).map (fun n => (1048576 + n, codeWord []))

/-- The whole image staged, the command in flight. -/
def imageStaged (o : Op) : State :=
  let s := stagedAt 4096 o
  { s with dst := { s.dst with array := headerWords } }

theorem witness_firmwareAndKeys_stageFirst :
    ∃ (op : Nat) (o : Op) (s : State) (t : State) (u : State),
      (Ready s op 0x74 4 o) ∧ (t = started s op 4) ∧ (o.f 20 4 % 32 = 0) ∧ (o.f 20 4 ≤ 1048576) ∧ (o.f 16 4 = 0) ∧ (Reaches t o [(o.f 8 8, o.f 20 4,
      false)]) ∧ (s.dst.current = none) ∧ (u = addRecord t 2 (otherSlot t) 0 []) :=
  ⟨0, opOf 0x74 255 [(8, 8, 131072), (20, 4, 32)], withOp (opOf 0x74 255 [(8, 8, 131072), (20, 4, 32)]), _, _, ⟨by decide, rfl, by decide, by decide,
      by decide, by decide, by decide, rfl⟩⟩

theorem witness_firmwareAndKeys_stageNext :
    ∃ (op : Nat) (o : Op) (s : State) (t : State) (u : State) (g : Staging),
      (Ready s op 0x74 4 o) ∧ (t = started s op 4) ∧ (o.f 20 4 % 32 = 0) ∧ (o.f 20 4 ≤ 1048576) ∧ (o.f 16 4 ≠ 0) ∧ (s.sec.staging = some g) ∧
      (o.f 16 4 = g.bytes) ∧ (g.bytes + o.f 20 4 ≤ 0x1800000) ∧ (Reaches t o [(o.f 8 8, o.f 20 4, false)]) ∧ (s.dst.current = none) ∧
      (u = stageBytes t (o.f 16 4) (readPartner t o.port (o.f 8 8) (o.f 20 4))) :=
  ⟨0, opOf 0x74 255 [(8, 8, 131072), (16, 4, 4096), (20, 4, 32)], stagedAt 4096 (opOf 0x74 255 [(8, 8, 131072), (16, 4, 4096), (20, 4, 32)]), _, _, _,
      ⟨by decide, rfl, by decide, by decide, by decide, rfl, by decide, by decide, by decide, by decide, rfl⟩⟩

theorem witness_firmwareAndKeys_stageGap :
    ∃ (op : Nat) (o : Op) (s : State) (t : State) (g : Staging),
      (Ready s op 0x74 4 o) ∧ (t = started s op 4) ∧ (o.f 20 4 % 32 = 0) ∧ (o.f 20 4 ≤ 1048576) ∧ (o.f 16 4 ≠ 0) ∧ (s.sec.staging = some g) ∧
      (o.f 16 4 ≠ g.bytes) :=
  ⟨0, opOf 0x74 255 [(16, 4, 64)], stagedAt 4096 (opOf 0x74 255 [(16, 4, 64)]), _, _, ⟨by decide, rfl, by decide, by decide, by decide, rfl, by decide⟩⟩

theorem witness_firmwareAndKeys_commit :
    ∃ (op : Nat) (o : Op) (s : State) (t : State) (u : State) (g : Staging) (h : List Byte),
      (Ready s op 0x75 4 o) ∧ (t = started s op 4) ∧ (s.sec.staging = some g) ∧ (h = imageHeader t (otherSlot t)) ∧ (4096 + imageSize h ≤ g.bytes) ∧
      (headerFault h = none) ∧ (s.sec.counter ≤ field h 12 1) ∧ (s.dst.current = none) ∧
      (u = addRecord (compactCommits t) 1 (otherSlot t) (field h 12 1) (cut h 64 16)) :=
  ⟨0, opOf 0x75 255 [], imageStaged (opOf 0x75 255 []), _, _, _, _, ⟨by decide, rfl, rfl, rfl, by decide +kernel, by decide +kernel, by decide +kernel,
      by decide, rfl⟩⟩

theorem witness_firmwareAndKeys_commitEarly :
    ∃ (op : Nat) (o : Op) (s : State) (t : State), (Ready s op 0x75 4 o) ∧ (t = started s op 4) ∧ (s.sec.staging = none) :=
  ⟨0, opOf 0x75 255 [], withOp (opOf 0x75 255 []), _, ⟨by decide, rfl, by decide⟩⟩

theorem witness_firmwareAndKeys_logCopy :
    ∃ (s : State) (u : State) (e : LogEntry),
      ((s.ras.log.filter (fun e => !e.copied)).getLast? = some e) ∧ (s.dst.current = none) ∧ (coresRun s ≠ 0) ∧ (u = copyEntry s e) :=
  ⟨logged, _, entry0, ⟨by decide, by decide, by decide, rfl⟩⟩

theorem witness_firmwareAndKeys_nothingToCopy :
    ∃ (s : State), ((∀ e ∈ s.ras.log, e.copied = true)) :=
  ⟨running, by decide⟩

theorem witness_firmwareAndKeys_keyImport :
    ∃ (op : Nat) (o : Op) (s : State) (t : State) (x : Slice),
      (Ready s op 0x79 4 o) ∧ (t = started s op 4) ∧ (o.f 9 1 = 0) ∧ (o.f 16 8 % 64 = 0) ∧ (Reaches t o [(o.f 16 8, 1664, false)]) ∧
      (lookup t.slices (o.f 8 1) = some x) ∧ ((t.sec.keys.filter (fun k => k.kind = 2)).length < 1024) :=
  ⟨0, opOf 0x79 255 [(8, 1, 63), (16, 8, 131072)], withSlice (opOf 0x79 255 [(8, 1, 63), (16, 8, 131072)]), _, _, ⟨by decide, rfl, by decide, by decide,
      by decide, rfl, by decide⟩⟩

theorem witness_firmwareAndKeys_keyNoSlice :
    ∃ (op : Nat) (o : Op) (s : State) (t : State),
      (Ready s op 0x79 4 o) ∧ (t = started s op 4) ∧ (o.f 9 1 = 0) ∧ (o.f 16 8 % 64 = 0) ∧ (Reaches t o [(o.f 16 8, 1664, false)]) ∧
      (lookup t.slices (o.f 8 1) = none) :=
  ⟨0, opOf 0x79 255 [(8, 1, 5), (16, 8, 131072)], withSlice (opOf 0x79 255 [(8, 1, 5), (16, 8, 131072)]), _, ⟨by decide, rfl, by decide, by decide,
      by decide, by decide⟩⟩

theorem witness_attestReports_attest :
    ∃ (op : Nat) (o : Op) (s : State) (t : State) (x : Slice),
      (Ready s op 0x7A 4 o) ∧ (t = started s op 4) ∧ (o.f 48 8 % 64 = 0) ∧ (lookup t.slices (o.f 8 1) = some x) ∧ (reportSize t (o.f 8 1) ≤ o.f 56 4) ∧
      (Reaches t o [(o.f 48 8, reportSize t (o.f 8 1), true)]) :=
  ⟨0, opOf 0x7A 255 [(8, 1, 63), (48, 8, 131072), (56, 4, 65536)], withSlice (opOf 0x7A 255 [(8, 1, 63), (48, 8, 131072), (56, 4, 65536)]), _, _,
      ⟨by decide, rfl, by decide, rfl, by decide, by decide⟩⟩

theorem witness_attestReports_attestShort :
    ∃ (op : Nat) (o : Op) (s : State) (t : State) (x : Slice),
      (Ready s op 0x7A 4 o) ∧ (t = started s op 4) ∧ (o.f 48 8 % 64 = 0) ∧ (lookup t.slices (o.f 8 1) = some x) ∧ (o.f 56 4 < reportSize t (o.f 8 1)) :=
  ⟨0, opOf 0x7A 255 [(8, 1, 63), (48, 8, 131072)], withSlice (opOf 0x7A 255 [(8, 1, 63), (48, 8, 131072)]), _, _, ⟨by decide, rfl, by decide, rfl,
      by decide⟩⟩

theorem witness_attestReports_attestNone :
    ∃ (op : Nat) (o : Op) (s : State) (t : State), (Ready s op 0x7A 4 o) ∧ (t = started s op 4) ∧ (o.f 48 8 % 64 = 0) ∧
      (lookup t.slices (o.f 8 1) = none) :=
  ⟨0, opOf 0x7A 255 [(8, 1, 5)], withSlice (opOf 0x7A 255 [(8, 1, 5)]), _, ⟨by decide, rfl, by decide, by decide⟩⟩

theorem witness_deviceRaise_raise :
    ∃ (op : Nat) (o : Op) (s : State) (t : State) (u : State),
      (Ready s op 0x76 4 o) ∧ (t = started s op 4) ∧ (o.f 8 1 ≠ 1) ∧ (s.sec.erase = none) ∧ (Clear (levelFields o)) ∧ (level t < o.f 9 1) ∧
      (t.dst.current = none) ∧
      (u = { t with sec := { t.sec with levelRec := o.f 9 1, fused2 := t.sec.fused2 || decide (o.f 9 1 = 2), jtagSession := false } }) :=
  ⟨0, opOf 0x76 255 [(9, 1, 2), (12, 4, 1280723970)], atLevel 1 (opOf 0x76 255 [(9, 1, 2), (12, 4, 1280723970)]), _, _, ⟨by decide, rfl, by decide,
      by decide, by decide, by decide, by decide, rfl⟩⟩

theorem witness_deviceRaise_level :
    ∃ (s : State) (n : Nat), (level s < n) ∧ (n ≤ 2) :=
  ⟨running, 2, ⟨by decide, by decide⟩⟩

theorem witness_resetsOfFirmware_warm :
    ∃ (op : Nat) (o : Op) (s : State) (t : State), (Ready s op 0x71 4 o) ∧ (t = started s op 4) ∧ (o.f 8 4 = 0x57525354) :=
  ⟨0, opOf 0x71 255 [(8, 4, 1465013076)], withOp (opOf 0x71 255 [(8, 4, 1465013076)]), _, ⟨by decide, rfl, by decide⟩⟩

theorem witness_resetsOfFirmware_warmKey :
    ∃ (op : Nat) (o : Op) (s : State) (t : State), (Ready s op 0x71 4 o) ∧ (t = started s op 4) ∧ (o.f 8 4 ≠ 0x57525354) :=
  ⟨0, opOf 0x71 255 [], withOp (opOf 0x71 255 []), _, ⟨by decide, rfl, by decide⟩⟩

theorem witness_resetsOfFirmware_watchdog :
    ∃ (s : State) (u : State), (s.dst.wdogPending = none) ∧ (coresRun s ≠ 0) ∧ (s.dst.current = none) ∧ (u = logRas s 1 5 0 0 0) :=
  ⟨running, _, ⟨by decide, by decide, by decide, rfl⟩⟩

theorem witness_resetsOfFirmware_deferred :
    ∃ (s : State) (u : State) (e : DistaffOp),
      (s.dst.wdogPending = none) ∧ (coresRun s ≠ 0) ∧ (s.dst.current = some e) ∧ (e.suspended = false) ∧ (u = logRas s 1 5 0 0 0) :=
  ⟨withDst (fun d => { d with current := some (dstOp true true false false) }), _, _, ⟨by decide, by decide, rfl, by decide, rfl⟩⟩

theorem witness_resetsOfFirmware_abandoned :
    ∃ (s : State) (u : State) (e : DistaffOp),
      (s.dst.wdogPending = none) ∧ (coresRun s ≠ 0) ∧ (s.dst.current = some e) ∧ (e.erase = true) ∧ (e.suspended = true) ∧ (u = logRas s 1 5 0 0 0) :=
  ⟨withDst (fun d => { d with current := some (dstOp true true true false) }), _, _, ⟨by decide, by decide, rfl, by decide, by decide, rfl⟩⟩

theorem witness_resetsOfFirmware_deferredEnd :
    ∃ (s : State) (t : State) (at_ : Nat), (t = endDistaff s) ∧ (t.dst.wdogPending = some at_) ∧ (t.dst.current = none) :=
  ⟨withDst (fun d => { d with current := some (dstOp false true false false), wdogPending := some 0 }), _, _, ⟨rfl, rfl, by decide⟩⟩

theorem witness_resetsOfFirmware_coreFault :
    ∃ (core : Fin 6) (s : State) (u : State),
      (s.dst.wdogPending = none) ∧ (4 ≤ s.glb.stage) ∧ (s.ras.faultyCores.contains core.val = false) ∧
      (s.ras.mapCore.any (fun e => e.phys = core.val) = true) ∧ (s.dst.current = none) ∧ (u = logRas s 1 1 core.val 0 0) :=
  ⟨0, running, _, ⟨by decide, by decide, by decide, by decide, by decide, rfl⟩⟩

/-- The device up with an operation in flight, the RAS block changed. -/
def withRas (o : Op) (f : Ras → Ras) : State := let s := withOp o; { s with ras := f s.ras }

theorem witness_computeHalt_fault :
    ∃ (c : FaultSite) (s : State) (u : State),
      (s.ras.halted = false) ∧ (s.glb.stage ≠ 0) ∧ (c.phys.any (fun p => (logicalOf s p.val).isNone) = false) ∧
      (u = logRas (failSpindle (cutFolds s) c) (if c.kind.val = 5 then 7 else 0) 1 (faultSpindle c) 0 (Config.bankAddr c.kind.val c.row c.column)) :=
  ⟨{ phys := some 3, kind := 0, row := 5, column := 6 }, running, _, ⟨by decide, by decide, by decide, rfl⟩⟩

theorem witness_computeHalt_lost :
    ∃ (s : State) (js : List Nat), (js = (s.jobs.filter (fun j => j.2.place.isSome)).map Prod.fst) :=
  ⟨running, _, rfl⟩

theorem witness_computeHalt_halted :
    ∃ (s : State), (s.ras.halted = true) :=
  ⟨withRas (opOf 0x6D 0xFF []) (fun r => { r with halted := true }), by decide⟩

theorem witness_computeHalt_resume :
    ∃ (op : Nat) (o : Op) (s : State) (t : State) (u : State),
      (Ready s op 0x6D 4 o) ∧ (t = started s op 4) ∧ (s.ras.halted = true) ∧ (s.ras.resuming = false) ∧ (unchosen t = none) ∧ (bit (o.f 8 1) 0 = false) ∧
      (u = clearFaults (scrubAll (t.ras.choices.foldl (fun s c => applyChoice s c.1 c.2) t))) :=
  ⟨0, opOf 0x6D 0xFF [], withRas (opOf 0x6D 0xFF []) (fun r => { r with halted := true }), _, _, ⟨by decide, rfl, by decide, by decide, by decide,
      by decide, rfl⟩⟩

theorem witness_computeHalt_running :
    ∃ (op : Nat) (o : Op) (s : State) (t : State), (Ready s op 0x6D 4 o) ∧ (t = started s op 4) ∧ (s.ras.halted = false) :=
  ⟨0, opOf 0x6D 0xFF [], withOp (opOf 0x6D 0xFF []), _, ⟨by decide, rfl, by decide⟩⟩

theorem witness_computeHalt_unchosen :
    ∃ (op : Nat) (p : Nat) (o : Op) (s : State) (t : State),
      (Ready s op 0x6D 4 o) ∧ (t = started s op 4) ∧ (s.ras.halted = true) ∧ (s.ras.resuming = false) ∧ (unchosen t = some p) :=
  ⟨0, 3, opOf 0x6D 0xFF [], modSpn (withRas (opOf 0x6D 0xFF []) (fun r => { r with halted := true })) 3 (fun x => { x with failed := true }), _,
      ⟨by decide, rfl, by decide, by decide, by decide⟩⟩

theorem witness_computeHalt_testFails :
    ∃ (op : Nat) (l : Nat) (p : Nat) (fs : List (Fin 52)) (o : Op) (s : State) (t : State),
      (Ready s op 0x6D 4 o) ∧ (t = started s op 4) ∧ (s.ras.halted = true) ∧ (s.ras.resuming = false) ∧ (unchosen t = none) ∧ (bit (o.f 8 1) 0 = true) ∧
      (testFailure t fs = some (l, p)) :=
  ⟨0, 3, 3, [3], opOf 0x6D 0xFF [(8, 1, 1)], modSpn (withRas (opOf 0x6D 0xFF [(8, 1,
      1)]) (fun r => { r with halted := true, choices := [(3, none)] })) 3 (fun x => { x with failed := true }), _, ⟨by decide, rfl, by decide, by decide,
      by decide, by decide, by decide⟩⟩

theorem witness_computeHalt_corrected :
    ∃ (src : Fin 11) (idx : Nat) (n : Nat) (bank : Bool) (addr : Nat) (s : State) (u : State),
      (isElement s src.val idx = true) ∧ (s.glb.stage ≠ 0) ∧
      (u = countCorrected (logRas s src.val 0 idx (if src.val = 5 then 0xFFFF else 0) addr) src.val idx bank) ∧ (u.ras.minute = minuteNow u) ∧
      (n = readD 0 u.ras.ceMinute (src.val * 1024 + idx) + 1) ∧ (n ≤ u.ras.ceThresh) :=
  ⟨0, 51, _, true, 0, withRas (opOf 0x6D 0xFF []) (fun r => { r with ceThresh := 1 }), _, ⟨by decide, by decide, rfl, by decide, rfl, by decide⟩⟩

theorem witness_computeHalt_ceRate :
    ∃ (src : Fin 11) (idx : Nat) (n : Nat) (bank : Bool) (addr : Nat) (s : State) (u : State),
      (isElement s src.val idx = true) ∧ (s.glb.stage ≠ 0) ∧
      (u = countCorrected (logRas s src.val 0 idx (if src.val = 5 then 0xFFFF else 0) addr) src.val idx bank) ∧ (u.ras.minute = minuteNow u) ∧
      (n = readD 0 u.ras.ceMinute (src.val * 1024 + idx) + 1) ∧ (u.ras.ceThresh < n) ∧ (u.ras.cePosted.contains (src.val * 1024 + idx) = false) :=
  ⟨4, 225, _, false, 0, withRas (opOf 0x6D 0xFF []) (fun r => { r with ceThresh := 0 }), _, ⟨by decide, by decide, rfl, by decide, rfl, by decide,
      by decide⟩⟩

theorem witness_computeHalt_phase :
    ∃ (rail : Fin 16) (ph : Fin 16) (s : State) (u : State),
      (ph.val ≤ railN rail.val + 1) ∧ ((getRail s rail.val).failed.contains ph.val = false) ∧ ((getRail s rail.val).out.getLsbD ph.val = false) ∧
      (u = logRas (noteAlert (modRail s rail.val (fun x => { x with failed := x.failed ++ [ph.val] }))) 6 1 rail.val 0 ph.val) :=
  ⟨15, 0, running, _, ⟨by decide, by decide, by decide, rfl⟩⟩

theorem witness_computeHalt_phaseAgain :
    ∃ (rail : Fin 16) (ph : Fin 16) (s : State),
      (ph.val ≤ railN rail.val + 1) ∧ ((getRail s rail.val).failed.contains ph.val = true) ∧ ((getRail s rail.val).out.getLsbD ph.val = false) :=
  ⟨0, 0, withRas (opOf 0x6D 0xFF []) (fun r => { r with rails := [{ out := 0, failed := [0] }] }), ⟨by decide, by decide, by decide⟩⟩

theorem witness_computeHalt_phaseOut :
    ∃ (rail : Fin 16) (ph : Fin 16) (s : State), ((getRail s rail.val).out.getLsbD ph.val = true) :=
  ⟨0, 15, withRas (opOf 0x6D 0xFF []) (fun r => { r with rails := [{ out := 0x8000, failed := [] }] }), by decide⟩

/-- A job that runs a step on logical spindle 0, with an operation in flight. -/
def stepping (o : Op) : State :=
  let s := seated [] Ctx.zero
  { s with ops := [(0, o)] }

/-- That operation waits for the step boundary. -/
def spareWaits (o : Op) : State := withRas o (fun r => { r with pendingRepairs := [(0, (3, 12))] })

/-- Physical lane 48, a spare, trained to the node of link 0. -/
def spareLane (o : Op) (up : Bool) : State := modLane (withOp o) 48 (fun x => { x with valid := true, trained := true, up := up, peer := (getLane (withOp o) 0).peer })

/-- Stack 3 with a copy of pseudo-channel 31 under way. -/
def copying31 (o : Op) : State := modStack (withOp o) 3 (fun k => { k with copying := some (0, 31, none) })

/-- Bobbin 0 with its dies. -/
def withDies (o : Op) : State := fitBobbins (withOp o)

/-- A running draft whose step has a slot on link 0. -/
def draftOnLink (o : Op) : State :=
  { withOp o with slices := [(63, slice0)], jobs := [(0, { drafting [] [] with phase := .running 0 })], drafts := [(0, oneDraft [] [{ kind := 0, link := 0, peer := 0, beat := 0, rgroup := 0, sub := 0, flits := 1, sem := 0, tier := 0, addr := 0, bytes := 64 }] [])] }

theorem witness_repairs_spare :
    ∃ (op : Nat) (l : Nat) (d : Nat) (o : Op) (s : State) (t : State),
      (Ready s op 0x6C 4 o) ∧ (t = started s op 4) ∧ (o.f 8 1 = 0) ∧ (s.sec.erase = none) ∧ (o.f 9 1 = 0) ∧ (o.f 12 4 = l) ∧ (o.f 16 4 = d) ∧
      (lookup t.ras.pendingRepairs op = none) ∧ (l < 48) ∧ (spindleBusy t l = false) ∧ (spareFor t l d = true) ∧ (t.ras.halted = false) ∧
      (stepsOn t l = false) :=
  ⟨0, 3, 12, opOf 0x6C 0xFF [(8, 1, 0), (12, 4, 3), (16, 4, 12)], withOp (opOf 0x6C 0xFF [(8, 1, 0), (12, 4, 3), (16, 4, 12)]), _, ⟨by decide, rfl,
      by decide, by decide, by decide, by decide, by decide, by decide, by decide, by decide, by decide, by decide⟩⟩

theorem witness_repairs_spareMaps :
    ∃ (l : Nat) (d : Nat) (s : State) (u : State), (u = swapSpindle s l d) :=
  ⟨0, 12, running, _, rfl⟩

theorem witness_repairs_spareTakes :
    ∃ (l : Nat) (d : Nat) (p : Nat) (s : State), ((mapEntryAt s.ras.mapSpn l).phys = p) ∧ (p ≠ d) :=
  ⟨47, 51, 50, running, ⟨by decide, by decide⟩⟩

theorem witness_repairs_spareWaits :
    ∃ (op : Nat) (l : Nat) (d : Nat) (o : Op) (s : State) (t : State),
      (Ready s op 0x6C 4 o) ∧ (t = started s op 4) ∧ (o.f 8 1 = 0) ∧ (s.sec.erase = none) ∧ (o.f 9 1 = 0) ∧ (o.f 12 4 = l) ∧ (o.f 16 4 = d) ∧
      (lookup t.ras.pendingRepairs op = none) ∧ (l < 48) ∧ (spindleBusy t l = false) ∧ (spareFor t l d = true) ∧ (t.ras.halted = false) ∧
      (stepsOn t l = true) :=
  ⟨0, 0, 51, opOf 0x6C 0xFF [(8, 1, 0), (12, 4, 0), (16, 4, 51)], stepping (opOf 0x6C 0xFF [(8, 1, 0), (12, 4, 0), (16, 4, 51)]), _, ⟨by decide, rfl,
      by decide, by decide, by decide, by decide, by decide, by decide, by decide, by decide, by decide, by decide⟩⟩

theorem witness_repairs_spareLater :
    ∃ (op : Nat) (l : Nat) (d : Nat) (o : Op) (s : State) (t : State),
      (Ready s op 0x6C 4 o) ∧ (t = started s op 4) ∧ (o.f 8 1 = 0) ∧ (s.sec.erase = none) ∧ (o.f 9 1 = 0) ∧ (o.f 12 4 = l) ∧ (o.f 16 4 = d) ∧
      ((lookup t.ras.pendingRepairs op).isSome = true) ∧ (stepsOn t l = false) :=
  ⟨0, 3, 12, opOf 0x6C 0xFF [(8, 1, 0), (12, 4, 3), (16, 4, 12)], spareWaits (opOf 0x6C 0xFF [(8, 1, 0), (12, 4, 3), (16, 4, 12)]), _, ⟨by decide, rfl,
      by decide, by decide, by decide, by decide, by decide, by decide, by decide⟩⟩

theorem witness_repairs_spareHalted :
    ∃ (op : Nat) (l : Nat) (d : Nat) (o : Op) (s : State) (t : State) (u : State),
      (Ready s op 0x6C 4 o) ∧ (t = started s op 4) ∧ (o.f 8 1 = 0) ∧ (s.sec.erase = none) ∧ (o.f 9 1 = 0) ∧ (o.f 12 4 = l) ∧ (o.f 16 4 = d) ∧
      (lookup t.ras.pendingRepairs op = none) ∧ (l < 48) ∧ (spindleBusy t l = false) ∧ (spareFor t l d = true) ∧ (t.ras.halted = true) ∧
      (u = { t with ras := { t.ras with choices := insertKey t.ras.choices l (some d) } }) :=
  ⟨0, 3, 12, opOf 0x6C 0xFF [(8, 1, 0), (12, 4, 3), (16, 4, 12)], withRas (opOf 0x6C 0xFF [(8, 1, 0), (12, 4, 3), (16, 4,
      12)]) (fun r => { r with halted := true }), _, _, ⟨by decide, rfl, by decide, by decide, by decide, by decide, by decide, by decide, by decide,
      by decide, by decide, by decide, rfl⟩⟩

theorem witness_repairs_notSpare :
    ∃ (op : Nat) (l : Nat) (d : Nat) (o : Op) (s : State) (t : State),
      (Ready s op 0x6C 4 o) ∧ (t = started s op 4) ∧ (o.f 8 1 = 0) ∧ (s.sec.erase = none) ∧ (o.f 9 1 = 0) ∧ (o.f 12 4 = l) ∧ (o.f 16 4 = d) ∧
      (lookup t.ras.pendingRepairs op = none) ∧ (l < 48) ∧ (spindleBusy t l = false) ∧ (spareFor t l d = false) :=
  ⟨0, 3, 4, opOf 0x6C 0xFF [(8, 1, 0), (12, 4, 3), (16, 4, 4)], withOp (opOf 0x6C 0xFF [(8, 1, 0), (12, 4, 3), (16, 4, 4)]), _, ⟨by decide, rfl, by decide,
      by decide, by decide, by decide, by decide, by decide, by decide, by decide, by decide⟩⟩

theorem witness_repairs_reinstate :
    ∃ (op : Nat) (l : Nat) (p : Nat) (o : Op) (s : State) (t : State) (u : State),
      (Ready s op 0x6C 4 o) ∧ (t = started s op 4) ∧ (o.f 8 1 = 0) ∧ (s.sec.erase = none) ∧ (o.f 9 1 = 1) ∧ (o.f 12 4 = l) ∧ (l < 48) ∧
      (spindleBusy t l = false) ∧ (t.ras.halted = true) ∧ (physOf t l = some p) ∧ ((getSpn t p).failed = true) ∧
      (u = { t with ras := { t.ras with choices := insertKey t.ras.choices l none } }) :=
  ⟨0, 3, 3, opOf 0x6C 0xFF [(8, 1, 0), (9, 1, 1), (12, 4, 3)], modSpn (withRas (opOf 0x6C 0xFF [(8, 1, 0), (9, 1, 1), (12, 4,
      3)]) (fun r => { r with halted := true })) 3 (fun x => { x with failed := true }), _, _, ⟨by decide, rfl, by decide, by decide, by decide, by decide,
      by decide, by decide, by decide, by decide, by decide, rfl⟩⟩

theorem witness_repairs_withdraw :
    ∃ (op : Nat) (l : Nat) (o : Op) (s : State) (t : State) (u : State),
      (Ready s op 0x6C 4 o) ∧ (t = started s op 4) ∧ (o.f 8 1 = 0) ∧ (s.sec.erase = none) ∧ (o.f 9 1 = 2) ∧ (o.f 12 4 = l) ∧ (l < 48) ∧
      (spindleBusy t l = false) ∧ ((t.ras.halted = false → usesSpindle t l = false)) ∧
      (u = setSpnMap { t with ras := { t.ras with choices := removeKey t.ras.choices l } } l { mapEntryAt t.ras.mapSpn l with st := 2 }) :=
  ⟨0, 47, opOf 0x6C 0xFF [(8, 1, 0), (9, 1, 2), (12, 4, 47)], withOp (opOf 0x6C 0xFF [(8, 1, 0), (9, 1, 2), (12, 4, 47)]), _, _, ⟨by decide, rfl,
      by decide, by decide, by decide, by decide, by decide, by decide, by decide, rfl⟩⟩

theorem witness_repairs_core :
    ∃ (op : Nat) (c : Nat) (d : Nat) (o : Op) (s : State) (t : State) (u : State),
      (Ready s op 0x6C 4 o) ∧ (t = started s op 4) ∧ (o.f 8 1 = 1) ∧ (s.sec.erase = none) ∧ (o.f 12 4 = c) ∧ (o.f 16 4 = d) ∧ (c < 4) ∧ (d < 6) ∧
      (t.ras.mapCore.any (fun e => e.phys = d) = false) ∧ (t.ras.faultyCores.contains d = false) ∧
      (u = noteAlert { t with ras := { t.ras with mapCore := t.ras.mapCore.set c { phys := d, st := 1, pend := 0x7F } } }) :=
  ⟨0, 3, 5, opOf 0x6C 0xFF [(8, 1, 1), (12, 4, 3), (16, 4, 5)], withOp (opOf 0x6C 0xFF [(8, 1, 1), (12, 4, 3), (16, 4, 5)]), _, _, ⟨by decide, rfl,
      by decide, by decide, by decide, by decide, by decide, by decide, by decide, by decide, rfl⟩⟩

theorem witness_repairs_strand :
    ∃ (op : Nat) (l : Nat) (d : Nat) (o : Op) (s : State) (t : State),
      (Ready s op 0x6C 4 o) ∧ (t = started s op 4) ∧ (o.f 8 1 = 2) ∧ (s.sec.erase = none) ∧ (o.f 12 4 = l) ∧ (o.f 16 4 = d) ∧ (o.phase = .fetched) ∧
      (lookup t.ras.pendingRepairs op = none) ∧ (l < 96) ∧ (repairOpen t op o = false) ∧ (laneServes t l d = true) ∧ (draftStepOn t l = false) :=
  ⟨0, 0, 48, opOf 0x6C 0xFF [(8, 1, 2), (12, 4, 0), (16, 4, 48)], spareLane (opOf 0x6C 0xFF [(8, 1, 2), (12, 4, 0), (16, 4, 48)]) false, _, ⟨by decide,
      rfl, by decide, by decide, by decide, by decide, by decide, by decide, by decide, by decide, by decide, by decide⟩⟩

theorem witness_repairs_strandWaits :
    ∃ (op : Nat) (l : Nat) (d : Nat) (o : Op) (s : State) (t : State),
      (Ready s op 0x6C 4 o) ∧ (t = started s op 4) ∧ (o.f 8 1 = 2) ∧ (s.sec.erase = none) ∧ (o.f 12 4 = l) ∧ (o.f 16 4 = d) ∧ (o.phase = .fetched) ∧
      (lookup t.ras.pendingRepairs op = none) ∧ (l < 96) ∧ (repairOpen t op o = false) ∧ (laneServes t l d = true) ∧ (draftStepOn t l = true) :=
  ⟨0, 0, 48, opOf 0x6C 0xFF [(8, 1, 2), (12, 4, 0), (16, 4, 48)],
      { spareLane (opOf 0x6C 0xFF [(8, 1, 2), (12, 4, 0), (16, 4, 48)]) false with jobs := (draftOnLink (opOf 0x6C 0xFF [(8, 1, 2), (12, 4, 0), (16, 4, 48)])).jobs, drafts := (draftOnLink (opOf 0x6C 0xFF [(8, 1, 2), (12, 4, 0), (16, 4, 48)])).drafts, slices := [(63, slice0)] }, _, ⟨by decide, rfl, by decide, by decide, by decide, by decide, by decide, by decide, by decide, by decide, by decide, by decide⟩⟩

theorem witness_repairs_strandUp :
    ∃ (op : Nat) (l : Nat) (d : Nat) (o : Op) (s : State) (t : State),
      (Ready s op 0x6C 4 o) ∧ (t = started s op 4) ∧ (o.f 8 1 = 2) ∧ (s.sec.erase = none) ∧ (o.f 12 4 = l) ∧ (o.f 16 4 = d) ∧ (o.phase = .started) ∧
      (lookup t.ras.pendingRepairs op = none) ∧ ((getLane t d).up = true) :=
  ⟨0, 0, 48, { opOf 0x6C 0xFF [(8, 1, 2), (12, 4, 0), (16, 4, 48)] with phase := .started },
      spareLane ({ opOf 0x6C 0xFF [(8, 1, 2), (12, 4, 0), (16, 4, 48)] with phase := .started }) true, _, ⟨by decide, rfl, by decide, by decide, by decide,
      by decide, by decide, by decide, by decide⟩⟩

theorem witness_repairs_strandLater :
    ∃ (op : Nat) (l : Nat) (d : Nat) (o : Op) (s : State) (t : State),
      (Ready s op 0x6C 4 o) ∧ (t = started s op 4) ∧ (o.f 8 1 = 2) ∧ (s.sec.erase = none) ∧ (o.f 12 4 = l) ∧ (o.f 16 4 = d) ∧
      ((lookup t.ras.pendingRepairs op).isSome = true) ∧ (draftStepOn t l = false) :=
  ⟨0, 0, 48, opOf 0x6C 0xFF [(8, 1, 2), (12, 4, 0), (16, 4, 48)], withRas (opOf 0x6C 0xFF [(8, 1, 2), (12, 4, 0), (16, 4,
      48)]) (fun r => { r with pendingRepairs := [(0, (1000, 48))] }), _, ⟨by decide, rfl, by decide, by decide, by decide, by decide, by decide,
      by decide⟩⟩

theorem witness_repairs_strandSame :
    ∃ (op : Nat) (l : Nat) (o : Op) (s : State) (t : State),
      (Ready s op 0x6C 4 o) ∧ (t = started s op 4) ∧ (o.f 8 1 = 2) ∧ (s.sec.erase = none) ∧ (o.f 12 4 = l) ∧ (o.phase = .fetched) ∧
      (lookup t.ras.pendingRepairs op = none) ∧ (l < 96) ∧ (repairOpen t op o = true) :=
  ⟨0, 0, opOf 0x6C 0xFF [(8, 1, 2), (12, 4, 0), (16, 4, 48)],
      { withOp (opOf 0x6C 0xFF [(8, 1, 2), (12, 4, 0), (16, 4, 48)]) with ops := [(0, opOf 0x6C 0xFF [(8, 1, 2), (12, 4, 0), (16, 4, 48)]), (1, { opOf 0x6C 0xFF [(8, 1, 2), (12, 4, 0), (16, 4, 48)] with phase := .started })] }, _, ⟨by decide, rfl, by decide, by decide, by decide, by decide, by decide, by decide, by decide⟩⟩

theorem witness_repairs_ahl :
    ∃ (op : Nat) (p : Nat) (n : Nat) (o : Op) (s : State) (t : State),
      (Ready s op 0x6C 4 o) ∧ (t = started s op 4) ∧ (o.f 8 1 = 3) ∧ (s.sec.erase = none) ∧ (o.f 10 2 = p) ∧ (o.f 12 4 = n) ∧ (o.phase = .fetched) ∧
      (p < 4) ∧ (n < 8) ∧ (repairOpen t op o = false) ∧ ((getPort t p).link.spareFor = 0xF) ∧ ((getPort t p).link.failed.getLsbD 8 = false) :=
  ⟨0, 3, 7, opOf 0x6C 0xFF [(8, 1, 3), (10, 2, 3), (12, 4, 7)], withOp (opOf 0x6C 0xFF [(8, 1, 3), (10, 2, 3), (12, 4, 7)]), _, ⟨by decide, rfl, by decide,
      by decide, by decide, by decide, by decide, by decide, by decide, by decide, by decide, by decide⟩⟩

theorem witness_repairs_ahlUp :
    ∃ (op : Nat) (p : Nat) (o : Op) (s : State) (t : State),
      (Ready s op 0x6C 4 o) ∧ (t = started s op 4) ∧ (o.f 8 1 = 3) ∧ (s.sec.erase = none) ∧ (o.f 10 2 = p) ∧ (o.phase = .started) ∧
      ((getPort t p).link.up = true) :=
  ⟨0, 0, { opOf 0x6C 0xFF [(8, 1, 3)] with phase := .started }, withOp ({ opOf 0x6C 0xFF [(8, 1, 3)] with phase := .started }), _, ⟨by decide, rfl,
      by decide, by decide, by decide, by decide, by decide⟩⟩

theorem witness_repairs_channel :
    ∃ (op : Nat) (i : Nat) (pos : Nat) (o : Op) (s : State) (t : State),
      (Ready s op 0x6C 4 o) ∧ (t = started s op 4) ∧ (o.f 8 1 = 4) ∧ (s.sec.erase = none) ∧ (o.f 10 2 = i) ∧ (o.f 12 4 = pos) ∧ (i < 4) ∧ (pos < 32) ∧
      (repairOpen t op o = false) ∧ ((getStack t i).copying = none) ∧ (((o.f 16 4 = 32 ∧ (getStack t i).spare32 = none) ∨ (o.f 16 4 = 33 ∧
      (getStack t i).spare33 = none))) :=
  ⟨0, 3, 31, opOf 0x6C 0xFF [(8, 1, 4), (10, 2, 3), (12, 4, 31), (16, 4, 33)], withOp (opOf 0x6C 0xFF [(8, 1, 4), (10, 2, 3), (12, 4, 31), (16, 4, 33)]),
      _, ⟨by decide, rfl, by decide, by decide, by decide, by decide, by decide, by decide, by decide, by decide, Or.inr ⟨by decide, by decide⟩⟩⟩

theorem witness_repairs_row :
    ∃ (op : Nat) (i : Nat) (pos : Nat) (o : Op) (s : State) (t : State),
      (Ready s op 0x6C 4 o) ∧ (t = started s op 4) ∧ (o.f 8 1 = 5) ∧ (s.sec.erase = none) ∧ (o.f 10 2 = i) ∧ (o.f 12 4 = pos) ∧ (i < 4) ∧ (pos < 32) ∧
      (repairOpen t op o = false) ∧ ((getStack t i).copying = none) ∧ (0 < (getStack t i).rowsLeft) :=
  ⟨0, 3, 31, opOf 0x6C 0xFF [(8, 1, 5), (10, 2, 3), (12, 4, 31), (20, 4, 7)], modStack (withOp (opOf 0x6C 0xFF [(8, 1, 5), (10, 2, 3), (12, 4, 31), (20, 4,
      7)])) 3 (fun k => { k with rowsLeft := 1 }), _, ⟨by decide, rfl, by decide, by decide, by decide, by decide, by decide, by decide, by decide,
      by decide, by decide⟩⟩

theorem witness_repairs_copyDone :
    ∃ (i : Fin 4) (op : Nat) (pos : Nat) (row : Option Nat) (o : Op) (s : State) (t : State) (u : State),
      ((getStack s i.val).copying = some (op, pos, row)) ∧ (lookup s.ops op = some o) ∧ (t = modStack s i.val (fun k => { k with copying := none })) ∧
      (u = modStack t i.val (fun k => useSpare k pos (o.f 16 4) row)) ∧ ((getStack s i.val).uncorr.length ≤ 1024) :=
  ⟨3, 0, 31, _, opOf 0x6C 0xFF [(8, 1, 4), (10, 2, 3), (12, 4, 31), (16, 4, 33)], copying31 (opOf 0x6C 0xFF [(8, 1, 4), (10, 2, 3), (12, 4, 31), (16, 4,
      33)]), _, _, ⟨rfl, rfl, rfl, rfl, by decide⟩⟩

theorem witness_repairs_copyLoses :
    ∃ (i : Fin 4) (op : Nat) (pos : Nat) (row : Option Nat) (o : Op) (bad : List Nat) (new : List Nat) (s : State) (t : State) (u : State),
      ((getStack s i.val).copying = some (op, pos, row)) ∧ (lookup s.ops op = some o) ∧ (t = modStack s i.val (fun k => { k with copying := none })) ∧
      (new = (bad.filter (fun u => !(getStack s i.val).uncorr.contains u)).eraseDups) ∧ ((getStack s i.val).uncorr.length + new.length ≤ 1024) ∧
      (u = modStack (zeroWords t new) i.val (fun k => { useSpare k pos (o.f 16 4) row with uncorr := k.uncorr ++ new })) :=
  ⟨3, 0, 31, _, opOf 0x6C 0xFF [(8, 1, 4), (10, 2, 3), (12, 4, 31), (16, 4, 33)], [5, 5], _, copying31 (opOf 0x6C 0xFF [(8, 1, 4), (10, 2, 3), (12, 4, 31),
      (16, 4, 33)]), _, _, ⟨rfl, rfl, rfl, rfl, by decide, rfl⟩⟩

theorem witness_repairs_copyFull :
    ∃ (i : Fin 4) (op : Nat) (pos : Nat) (row : Option Nat) (bad : List Nat) (s : State) (t : State),
      ((getStack s i.val).copying = some (op, pos, row)) ∧ (t = modStack s i.val (fun k => { k with copying := none })) ∧
      (1024 < (getStack s i.val).uncorr.length + ((bad.filter (fun u => !(getStack s i.val).uncorr.contains u)).eraseDups).length) :=
  ⟨3, 0, 31, _, [5], modStack (copying31 (opOf 0x6C 0xFF [(8, 1, 4), (10, 2, 3), (12, 4, 31), (16, 4,
      33)])) 3 (fun k => { k with uncorr := List.replicate 1024 0 }), _, ⟨rfl, rfl, by decide⟩⟩

theorem witness_repairs_noCopy :
    ∃ (i : Fin 4) (s : State), ((getStack s i.val).copying = none) :=
  ⟨0, running, by decide⟩

theorem witness_repairs_die :
    ∃ (op : Nat) (b : Nat) (d : Nat) (sp : Nat) (o : Op) (s : State) (t : State) (u : State),
      (Ready s op 0x6C 4 o) ∧ (t = started s op 4) ∧ (o.f 8 1 = 6) ∧ (s.sec.erase = none) ∧ (o.f 10 2 = b) ∧ (o.f 12 4 = d) ∧ (b < nBobbins t) ∧ (d < 9) ∧
      ((getDie (getBob t b) d).role < 8) ∧ ((getBob t b).migrating = none) ∧ (spareDie (getBob t b) = some sp) ∧
      (u = modBob t b (fun x => startMigration x d ((spareDie x).getD 8))) :=
  ⟨0, 0, 7, 8, opOf 0x6C 0xFF [(8, 1, 6), (10, 2, 0), (12, 4, 7)], withDies (opOf 0x6C 0xFF [(8, 1, 6), (10, 2, 0), (12, 4, 7)]), _, _, ⟨by decide, rfl,
      by decide, by decide, by decide, by decide, by decide, by decide, by decide, by decide, by decide, rfl⟩⟩

theorem witness_repairs_phase :
    ∃ (op : Nat) (r : Nat) (k : Nat) (o : Op) (s : State) (t : State) (u : State),
      (Ready s op 0x6C 4 o) ∧ (t = started s op 4) ∧ (o.f 8 1 = 7) ∧ (s.sec.erase = none) ∧ (o.f 10 2 = r) ∧ (o.f 12 4 = k) ∧ (r < 16) ∧ (k ≤ railN r + 1) ∧
      (u = noteAlert (modRail t r (fun x => { out := x.out ||| (1#16 <<< k), failed := x.failed.filter (fun n => n ≠ k) }))) :=
  ⟨0, 15, 0, opOf 0x6C 0xFF [(8, 1, 7), (10, 2, 15), (12, 4, 0)], withOp (opOf 0x6C 0xFF [(8, 1, 7), (10, 2, 15), (12, 4, 0)]), _, _, ⟨by decide, rfl,
      by decide, by decide, by decide, by decide, by decide, by decide, rfl⟩⟩

/-- The power unit changed. -/
def withPwr (f : Pwr → Pwr) (s : State) : State := { s with pwr := f s.pwr }

theorem witness_powerStates_enter :
    ∃ (op : Nat) (o : Op) (s : State) (t : State) (u : State),
      (Ready s op 0x70 4 o) ∧ (t = started s op 4) ∧ (o.f 9 1 = 0) ∧ (o.f 8 1 ≤ 2) ∧ ((anyPly t = true → o.f 8 1 = 0)) ∧
      (u = { t with pwr := { t.pwr with heldPs0 := decide (o.f 8 1 = 0) } }) ∧ ((o.f 8 1 ≠ 0 → stepsRun u = false)) ∧ (¬(t.pwr.state = o.f 8 1 ∧
      t.pwr.target = o.f 8 1)) :=
  ⟨0, opOf 0x70 0xFF [(8, 1, 2)], withOp (opOf 0x70 0xFF [(8, 1, 2)]), _, _, ⟨by decide, rfl, by decide, by decide, by decide, rfl, by decide, by decide⟩⟩

theorem witness_powerStates_enterDeep :
    ∃ (op : Nat) (o : Op) (s : State) (t : State) (u : State),
      (Ready s op 0x70 4 o) ∧ (t = started s op 4) ∧ (o.f 9 1 = 0) ∧ (o.f 8 1 = 3 ∨ o.f 8 1 = 4) ∧ (anyPly t = false) ∧
      (u = abortTest { t with pwr := { t.pwr with heldPs0 := false } }) ∧ (stepsRun u = false) ∧ (¬(u.pwr.state = o.f 8 1 ∧ u.pwr.target = o.f 8 1)) :=
  ⟨0, opOf 0x70 0xFF [(8, 1, 4)], withOp (opOf 0x70 0xFF [(8, 1, 4)]), _, _, ⟨by decide, rfl, by decide, .inr (by decide), by decide, rfl, by decide,
      by decide⟩⟩

theorem witness_powerStates_enterWaits :
    ∃ (op : Nat) (o : Op) (s : State) (t : State) (u : State),
      (Ready s op 0x70 4 o) ∧ (t = started s op 4) ∧ (o.f 9 1 = 0) ∧ (o.f 8 1 = 1 ∨ o.f 8 1 = 2) ∧ (anyPly t = false) ∧
      (u = { t with pwr := { t.pwr with heldPs0 := false } }) ∧ (stepsRun u = true) :=
  ⟨0, opOf 0x70 0xFF [(8, 1, 1)], stepping (opOf 0x70 0xFF [(8, 1, 1)]), _, _, ⟨by decide, rfl, by decide, by decide, by decide, rfl, by decide⟩⟩

theorem witness_powerStates_there :
    ∃ (op : Nat) (o : Op) (s : State) (t : State),
      (Ready s op 0x70 4 o) ∧ (t = started s op 4) ∧ (o.f 9 1 = 0) ∧ (o.f 8 1 = 0) ∧ (t.pwr.state = 0) ∧ (t.pwr.target = 0) :=
  ⟨0, opOf 0x70 0xFF [], withOp (opOf 0x70 0xFF []), _, ⟨by decide, rfl, by decide, by decide, by decide, by decide⟩⟩

theorem witness_powerStates_plied :
    ∃ (op : Nat) (o : Op) (s : State) (t : State),
      (Ready s op 0x70 4 o) ∧ (t = started s op 4) ∧ (o.f 9 1 = 0) ∧ (o.f 8 1 ≤ 4) ∧ (o.f 8 1 ≠ 0) ∧ (anyPly t = true) :=
  ⟨0, opOf 0x70 0xFF [(8, 1, 4)], { withOp (opOf 0x70 0xFF [(8, 1, 4)]) with plies := [(63, ply0)] }, _, ⟨by decide, rfl, by decide, by decide, by decide,
      by decide⟩⟩

theorem witness_powerStates_limit :
    ∃ (op : Nat) (o : Op) (s : State) (t : State),
      (Ready s op 0x70 4 o) ∧ (t = started s op 4) ∧ (o.f 9 1 = 1) ∧ (o.f 8 1 ≤ 4) ∧ ((anyPly t = true → o.f 8 1 = 0)) :=
  ⟨0, opOf 0x70 0xFF [(8, 1, 4), (9, 1, 1)], withOp (opOf 0x70 0xFF [(8, 1, 4), (9, 1, 1)]), _, ⟨by decide, rfl, by decide, by decide, by decide⟩⟩

theorem witness_powerStates_limitWrite :
    ∃ (who : Requester) (v : Word) (s : State), (mayWrite s who) ∧ (bits v.toNat 0 3 ≤ 4) :=
  ⟨.port 0, 4, running, ⟨by decide, by decide⟩⟩

theorem witness_powerStates_limitIgnored :
    ∃ (who : Requester) (v : Word) (s : State), (mayWrite s who) ∧ (4 < bits v.toNat 0 3) :=
  ⟨.port 0, 5, running, ⟨by decide, by decide⟩⟩

theorem witness_powerStates_idle :
    ∃ (n : Fin 5) (s : State),
      (n.val ≠ 0) ∧ (s.pwr.state = s.pwr.target) ∧ (s.pwr.heldPs0 = false) ∧ (timerExpired s n.val = true) ∧ (deepestIdle s = n.val) ∧
      (s.pwr.state < n.val) :=
  ⟨1, withPwr (fun p => { p with limit := 1, idle1 := 10, idleSince := [(1, 0)] }) ({ running with clock := 10 }), ⟨by decide, by decide, by decide,
      by decide, by decide, by decide⟩⟩

theorem witness_powerStates_held :
    ∃ (s : State), (s.pwr.heldPs0 = true) :=
  ⟨withPwr (fun p => { p with heldPs0 := true }) (running), by decide⟩

theorem witness_powerStates_entered :
    ∃ (s : State), (s.pwr.state < s.pwr.target) ∧ (s.pwr.entering = none) :=
  ⟨withPwr (fun p => { p with target := 4 }) (running), ⟨by decide, by decide⟩⟩

theorem witness_powerStates_enteredFor :
    ∃ (op : Nat) (s : State) (u : State), (s.pwr.state < s.pwr.target) ∧ (s.pwr.entering = some op) ∧ (u = reachState s s.pwr.target) :=
  ⟨0, withPwr (fun p => { p with target := 4, entering := some 0 }) (running), _, ⟨by decide, by decide, rfl⟩⟩

theorem witness_powerStates_exit :
    ∃ (k : Nat) (s : State), (s.pwr.target < s.pwr.state) ∧ (k ≤ exitLatency s.pwr.state) ∧ (s.pwr.entering = none) :=
  ⟨5000, withPwr (fun p => { p with state := 3 }) (running), ⟨by decide, by decide, by decide⟩⟩

theorem witness_powerStates_exitLate :
    ∃ (k : Nat) (s : State) (u : State),
      (s.pwr.target < s.pwr.state) ∧ (exitLatency s.pwr.state < k) ∧ (s.pwr.entering = none) ∧ (u = reachState s s.pwr.target) :=
  ⟨5001, withPwr (fun p => { p with state := 3 }) (running), _, ⟨by decide, by decide, by decide, rfl⟩⟩

/-- The device in reset, slot 0 committed with its shipped image. -/
def bootable : State :=
  { State.reset with sec := { State.reset.sec with commits := [{ seq := 0, kind := 1, arg := 0, svn := 0, data := [], pos := 0, inA := true, inB := true }] } }

theorem witness_coldResetsAndHeat_powerLoss :
    ∃ (s : State) (u : State), (s.glb.stage ≠ 0) ∧ (u = flushAndReset s s.pins.holdupOk false 2) :=
  ⟨running, _, ⟨by decide, rfl⟩⟩

theorem witness_coldResetsAndHeat_coldReset :
    ∃ (s : State) (u : State), (s.glb.stage ≠ 0) ∧ (u = flushAndReset s true true 1) :=
  ⟨running, _, ⟨by decide, rfl⟩⟩

theorem witness_coldResetsAndHeat_inReset :
    ∃ (s : State), (s.glb.stage = 0) :=
  ⟨State.reset, by decide⟩

theorem witness_coldResetsAndHeat_boot :
    ∃ (env : BootEnv) (s : State) (t : State) (u : State),
      (s.glb.stage = 0) ∧
      (t = loadFirmware { s with pins := { s.pins with pwrGood := true, coldRstN := true }, boot := s.boot + 1, glb := { s.glb with slotId := env.slotId, i3cSa := if env.slotId = 54 then 0x48 else 0x08 + env.slotId.setWidth 7 } }) ∧ ((chooseSlot t).isNone = false) ∧ (u = { t with glb := { t.glb with subject := readDistaff t 0x1800010 32 }, sec := { t.sec with poolKeys := keys t.slices }, memStacks := t.memStacks.map (fun k => { k with trained := true }) }) :=
  ⟨{ ports := [0], slotId := 54 }, bootable, _, _, ⟨by decide, rfl, by decide +kernel, rfl⟩⟩

theorem witness_coldResetsAndHeat_bootHeld :
    ∃ (env : BootEnv) (s : State) (t : State),
      (s.glb.stage = 0) ∧
      (t = loadFirmware { s with pins := { s.pins with pwrGood := true, coldRstN := true }, boot := s.boot + 1, glb := { s.glb with slotId := env.slotId, i3cSa := if env.slotId = 54 then 0x48 else 0x08 + env.slotId.setWidth 7 } }) ∧ ((chooseSlot t).isNone = true) :=
  ⟨{ ports := [0], slotId := 54 }, { State.reset with sec := { State.reset.sec with commits := [] } }, _, ⟨by decide, rfl, by decide +kernel⟩⟩

theorem witness_coldResetsAndHeat_booted :
    ∃ (s : State), (s.glb.stage ≠ 0) :=
  ⟨running, by decide⟩

theorem witness_coldResetsAndHeat_ready :
    ∃ (s : State), ((chooseSlot s).isNone = false) ∧ (coresLeft s ≠ 0) ∧ (erasing s = false) :=
  ⟨bootable, ⟨by decide +kernel, by decide, by decide⟩⟩

theorem witness_coldResetsAndHeat_noCore :
    ∃ (s : State), ((chooseSlot s).isNone = false) ∧ (coresLeft s = 0) :=
  ⟨{ bootable with ras := { State.reset.ras with faultyCores := [0, 1, 2, 3] } }, ⟨by decide +kernel, by decide⟩⟩

theorem witness_coldResetsAndHeat_throttle :
    ∃ (t : Int) (s : State), (s.glb.stage ≠ 0) ∧ (s.pins.throttle = false) ∧ (100 ≤ t) :=
  ⟨100, running, ⟨by decide, by decide, by decide⟩⟩

theorem witness_coldResetsAndHeat_release :
    ∃ (t : Int) (s : State), (s.glb.stage ≠ 0) ∧ (s.pins.throttle = true) ∧ (t < 95) :=
  ⟨94, { running with pins := { running.pins with throttle := true } }, ⟨by decide, by decide, by decide⟩⟩

theorem witness_coldResetsAndHeat_between :
    ∃ (t : Int) (s : State), ((s.pins.throttle = false ∧ t < 100) ∨ (s.pins.throttle = true ∧ 95 ≤ t)) :=
  ⟨99, running, Or.inl (by decide)⟩

theorem witness_coldResetsAndHeat_alert :
    ∃ (t : Int) (s : State), (s.pins.thermN = true) ∧ (110 ≤ t) :=
  ⟨110, running, ⟨by decide, by decide⟩⟩

theorem witness_coldResetsAndHeat_alertEnds :
    ∃ (t : Int) (s : State), (s.pins.thermN = false) ∧ (t < 105) :=
  ⟨104, { running with pins := { running.pins with thermN := false } }, ⟨by decide, by decide⟩⟩

theorem witness_coldResetsAndHeat_alertStays :
    ∃ (t : Int) (s : State), ((s.pins.thermN = true ∧ t < 110) ∨ (s.pins.thermN = false ∧ 105 ≤ t)) :=
  ⟨109, running, Or.inl (by decide)⟩

theorem witness_sidebandWriteRight_ignored :
    ∃ (s : State), (s.glb.sbWrite = false) :=
  ⟨{ running with glb := { running.glb with sbWrite := false } }, by decide⟩

theorem witness_sidebandWriteRight_takes :
    ∃ (s : State), (s.glb.sbWrite = true) :=
  ⟨{ running with glb := { running.glb with sbWrite := true } }, by decide⟩

theorem witness_sidebandWriteRight_reads :
    ∃ (off : Nat), (badShape off 4 = false) :=
  ⟨0x80, by decide⟩

theorem witness_sidebandWriteRight_badRead :
    ∃ (off : Nat) (width : Nat), (badShape off width = true) :=
  ⟨0x81, 4, by decide⟩

theorem witness_sidebandAndJtag_entdaa :
    ∃ (s : State), (s.glb.stage ≠ 0) ∧ (s.sideband.dynAddr = none) :=
  ⟨running, ⟨by decide, by decide⟩⟩

theorem witness_sidebandAndJtag_addressed :
    ∃ (b : BitVec 7) (s : State), (s.sideband.dynAddr = some b) :=
  ⟨0x30, { running with sideband := { running.sideband with dynAddr := some 0x30 } }, by decide⟩

theorem witness_sidebandAndJtag_setdasa :
    ∃ (s : State), (s.glb.stage ≠ 0) ∧ (s.sideband.dynAddr = none) :=
  ⟨running, ⟨by decide, by decide⟩⟩

theorem witness_sidebandAndJtag_otherStatic :
    ∃ (st : BitVec 7) (s : State), (st ≠ s.glb.i3cSa) :=
  ⟨0x7E, running, by decide⟩

theorem witness_sidebandAndJtag_rstdaa :
    ∃ (s : State), (s.glb.stage ≠ 0) :=
  ⟨running, by decide⟩

theorem witness_sidebandAndJtag_identity :
    ∃ (a : BitVec 7) (s : State), (s.glb.stage ≠ 0) ∧ (s.sideband.dynAddr = some a) :=
  ⟨0x30, { running with sideband := { running.sideband with dynAddr := some 0x30 } }, ⟨by decide, rfl⟩⟩

theorem witness_sidebandAndJtag_status :
    ∃ (a : BitVec 7) (s : State) (t : State) (n : Nat), (s.glb.stage ≠ 0) ∧ (s.sideband.dynAddr = some a) ∧ (draw s = (n, t)) :=
  ⟨0x30, { running with sideband := { running.sideband with dynAddr := some 0x30 } }, _, _, ⟨by decide, rfl, rfl⟩⟩

theorem witness_sidebandAndJtag_interrupts :
    ∃ (s : State), (s.glb.stage ≠ 0) :=
  ⟨running, by decide⟩

theorem witness_sidebandAndJtag_request :
    ∃ (s : State), (s.glb.stage ≠ 0) :=
  ⟨running, by decide⟩

theorem witness_sidebandAndJtag_otherRequest :
    ∃ (b : List Byte), (b.length ≠ 4 ∨ field b 0 1 ≠ 1) :=
  ⟨[2, 0, 0, 0], by decide⟩

theorem witness_sidebandAndJtag_data :
    ∃ (off : Nat) (s : State) (u : State),
      (s.glb.stage ≠ 0) ∧ (s.sideband.readOff = some off) ∧ (badShape off 4 = false) ∧
      (u = answerRead (readReg (senseAt s off) .sideband off).2 .sideband (readReg (senseAt s off) .sideband off).1) :=
  ⟨0x80, { running with sideband := { running.sideband with readOff := some 0x80 } }, _, ⟨by decide, rfl, by decide, rfl⟩⟩

theorem witness_sidebandAndJtag_dataBad :
    ∃ (off : Nat) (s : State) (u : State),
      (s.glb.stage ≠ 0) ∧ (s.sideband.readOff = some off) ∧ (badShape off 4 = true) ∧ (u = answerRead (badAccess s off) .sideband 0) :=
  ⟨0x81, { running with sideband := { running.sideband with readOff := some 0x81 } }, _, ⟨by decide, by decide, by decide, rfl⟩⟩

theorem witness_sidebandAndJtag_dataScratch :
    ∃ (k : Fin 4) (s : State), (s.glb.stage ≠ 0) ∧ (s.sideband.readOff = some (0x80 + 4 * k.val)) :=
  ⟨3, { running with sideband := { running.sideband with readOff := some 0x8C } }, ⟨by decide, by decide⟩⟩

theorem witness_sidebandAndJtag_noRequest :
    ∃ (s : State), (s.glb.stage ≠ 0) ∧ (s.sideband.readOff = none) :=
  ⟨running, ⟨by decide, by decide⟩⟩

theorem witness_sidebandAndJtag_write :
    ∃ (b : List Byte) (s : State), (s.glb.stage ≠ 0) ∧ (b.length = 8) ∧ (field b 0 1 = 2) :=
  ⟨[2, 0x80, 0, 0, 1, 2, 3, 4], running, ⟨by decide, by decide, by decide⟩⟩

theorem witness_sidebandAndJtag_writeTakes :
    ∃ (b : List Byte) (s : State),
      (s.glb.stage ≠ 0) ∧ (b.length = 8) ∧ (field b 0 1 = 2) ∧ (s.glb.sbWrite = true) ∧ (eraseResumed s = false) ∧ (badShape (field b 1 3) 4 = false) :=
  ⟨[2, 0x80, 0, 0, 1, 2, 3, 4], { running with glb := { running.glb with sbWrite := true } }, ⟨by decide, by decide, by decide, by decide, by decide,
      by decide⟩⟩

theorem witness_sidebandAndJtag_writeDenied :
    ∃ (b : List Byte) (s : State), (s.glb.stage ≠ 0) ∧ (b.length = 8) ∧ (field b 0 1 = 2) ∧ (s.glb.sbWrite = false) :=
  ⟨[2, 0x80, 0, 0, 1, 2, 3, 4], { running with glb := { running.glb with sbWrite := false } }, ⟨by decide, by decide, by decide, by decide⟩⟩

theorem witness_sidebandAndJtag_writeScratch :
    ∃ (k : Fin 4) (b : List Byte) (s : State),
      (s.glb.stage ≠ 0) ∧ (b.length = 8) ∧ (field b 0 1 = 2) ∧ (field b 1 3 = 0x80 + 4 * k.val) ∧ (s.glb.sbWrite = true) ∧ (eraseResumed s = false) :=
  ⟨3, [2, 0x8C, 0, 0, 1, 2, 3, 4], { running with glb := { running.glb with sbWrite := true } }, ⟨by decide, by decide, by decide, by decide, by decide,
      by decide⟩⟩

theorem witness_sidebandAndJtag_otherWrite :
    ∃ (b : List Byte), (b.length ≠ 8 ∨ field b 0 1 ≠ 2) :=
  ⟨[2, 0x80, 0, 0], by decide⟩

theorem witness_sidebandAndJtag_notServed :
    ∃ (s : State), (s.glb.stage = 0) :=
  ⟨State.reset, by decide⟩

theorem witness_sidebandAndJtag_sample :
    ∃ (cells : List Bool) (l : List Bool) (s : State) (t : State), (sampleLands s cells.length = (l, t)) :=
  ⟨[true], _, running, _, rfl⟩

theorem witness_sidebandAndJtag_tests :
    ∃ (cells : List Bool) (l : List Bool) (s : State) (t : State), (sampleLands s cells.length = (l, t)) :=
  ⟨[true], _, running, _, rfl⟩

theorem witness_sidebandAndJtag_lands :
    ∃ (n : Nat) (l : List Bool) (s : State) (t : State), (sampleLands s n = (l, t)) :=
  ⟨1, _, running, _, rfl⟩

theorem witness_sidebandAndJtag_debugOff :
    ∃ (s : State), (level s ≠ 0) :=
  ⟨{ running with sec := { running.sec with levelRec := 1 } }, by decide⟩

theorem witness_sidebandAndJtag_debug :
    ∃ (s : State) (u : State), (level s = 0) ∧ (u = { s with sec := { s.sec with jtagSession := true } }) :=
  ⟨{ running with sec := { running.sec with levelRec := 0 } }, _, ⟨by decide, rfl⟩⟩

theorem witness_sidebandAndJtag_keyStore :
    ∃ (a : Nat), (0x3800000 ≤ a) ∧ (a < 0x3900000) :=
  ⟨0x38FFFFF, ⟨by decide, by decide⟩⟩

end Sys2Proof.Machine
end

section
/-! ATTEST (17 R363) and the raise of the device level (17 R344). -/

namespace Sys2Proof.Machine

/-! ### What a report holds (17 "Attestation") -/

@[simp] theorem length_leBytes (n v : Nat) : (leBytes n v).length = n := by
  induction n generalizing v with
  | zero => rfl
  | succ n ih => simp [leBytes, ih]

/-- Bytes 0 to 15 of a report, those before BEAT. -/
def reportHead (s : State) (q : Nat) : List Byte :=
  [0x41, 0x54, 0x41, 0x54, 0x54, 0x45, 0x53, 0x54] ++ leBytes 1 1 ++ leBytes 1 q ++ leBytes 1 (level s) ++ leBytes 1 0 ++
    leBytes 2 (skeinDigestsOf s q).length ++ leBytes 2 (draftDigestsOf s q).length

theorem length_reportHead (s : State) (q : Nat) : (reportHead s q).length = 16 := by
  simp [reportHead]

theorem reportHead_beat_prefix_reportBody (s : State) (q : Nat) (x : Slice) (nonce : List Byte) :
    reportHead s q ++ leBytes 8 s.trd.beat <+: reportBody s q x nonce := by
  unfold reportHead reportBody
  simp only [List.append_assoc, List.prefix_append_right_inj, List.prefix_append]

theorem reportBody_prefix_attestReport (s : State) (q : Nat) (x : Slice) (nonce : List Byte) : reportBody s q x nonce <+: attestReport s q x nonce := by
  unfold attestReport
  simp only [List.append_assoc, List.prefix_append]

theorem attestReport_beat (s : State) (q : Nat) (x : Slice) (nonce : List Byte) : ((attestReport s q x nonce).drop 16).take 8 = leBytes 8 s.trd.beat := by
  obtain ⟨rest, hrest⟩ := (reportHead_beat_prefix_reportBody s q x nonce).trans (reportBody_prefix_attestReport s q x nonce)
  rw [← hrest, List.append_assoc, List.drop_left' (length_reportHead s q), List.take_left' (length_leBytes 8 _)]

theorem reportSize_eq (s : State) (q : Nat) :
    reportSize s q = (1792 + 64 * (s.skeins.filter (fun k => k.2.slice = q)).length + 64 * (s.drafts.filter (fun d => d.2.slice = q)).length) + 1540 := by
  simp [reportSize, skeinDigestsOf, draftDigestsOf]

/-! ### ATTEST on a ready operation with OADDR aligned -/

section
variable {op : Nat} {o : Op} {s : State}

theorem exec_attest_noSlice (h : Ready s op 0x7A 4 o) (ha : o.f 48 8 % 64 = 0) (hx : lookup (started s op 4).slices (o.f 8 1) = none) :
    exec (.attest op) s = .next (fail (started s op 4) op stBounds 8) := by
  change execAttest op s = _
  unfold execAttest
  rw [runOp_ready h]
  dsimp only
  rw [if_neg (not_not_intro ha), hx]

/-- With the slice there, LEN decides. -/
theorem exec_attest_slice {x : Slice} (h : Ready s op 0x7A 4 o) (ha : o.f 48 8 % 64 = 0) (hx : lookup (started s op 4).slices (o.f 8 1) = some x) :
    exec (.attest op) s = .next (
      if o.f 56 4 < reportSize (started s op 4) (o.f 8 1) then finish (started s op 4) op stBounds 56 (reportSize (started s op 4) (o.f 8 1))
      else withPartner (started s op 4) op o [(o.f 48 8, reportSize (started s op 4) (o.f 8 1), true)] (finishOk
        (writePartner (started s op 4) o.port (o.f 48 8) (attestReport (started s op 4) (o.f 8 1) x (cut o.bytes 16 32))) op
        (reportSize (started s op 4) (o.f 8 1)))) := by
  change execAttest op s = _
  unfold execAttest
  rw [runOp_ready h]
  dsimp only
  rw [if_neg (not_not_intro ha), hx]

end

/-! ### The device level -/

theorem level_of_fused2 {s : State} (h : s.sec.fused2 = true) : level s = 2 := by simp [level, h]

theorem level_of_not_fused2 {s : State} (h : s.sec.fused2 = false) : level s = s.sec.levelRec := by simp [level, h]

/-- A level above the present one, once recorded and for level 2 fused, is the level: the fuse cannot have been blown before. -/
theorem level_of_recorded {s : State} {n : Nat} (hlt : level s < n) (hn : n ≤ 2) :
    level { s with sec := { s.sec with levelRec := n, fused2 := s.sec.fused2 || decide (n = 2) } } = n := by
  have hf : s.sec.fused2 = false := by
    by_contra h
    have := level_of_fused2 (Bool.eq_true_of_not_eq_false h)
    omega
  by_cases h2 : n = 2
  · rw [level_of_fused2 (by simp [h2]), h2]
  · rw [level_of_not_fused2 (by simp [hf, h2])]

/-- The checks of LEVEL_SET with TARGET 0 pass for a raise: LEVEL_LOCKED is for a lowering from 2 (17 R343). -/
theorem clear_levelFields_locked {s : State} {o : Op} (hc : Clear (levelFields o)) (hlt : level s < o.f 9 1) :
    Clear (levelFields o ++ [(level s = 2 && o.f 9 1 < 2, stLocked, 0)]) := by
  have hl : (decide (level s = 2) && decide (o.f 9 1 < 2)) = false := by
    simp only [Bool.and_eq_false_iff, decide_eq_false_iff_not]
    omega
  rw [Clear, List.find?_append, hc, hl]
  rfl

theorem exec_levelSetDevice_raise {op : Nat} {o : Op} {s : State} (h : Ready s op 0x76 4 o) (ht : o.f 8 1 ≠ 1) (he : s.sec.erase = none)
    (hc : Clear (levelFields o)) (hlt : level (started s op 4) < o.f 9 1) (hd : (started s op 4).dst.current = none) :
    exec (.levelSetDevice op) s = .next (finishOk (raiseLevel (started s op 4) (o.f 9 1)) op 0) := by
  change execLevelSetDevice op s = _
  unfold execLevelSetDevice
  rw [runRow_ready h _ _ (by simpa using ht)]
  dsimp only
  rw [if_neg (by simp [he]), checks_pass _ _ _ _ (clear_levelFields_locked hc hlt), if_neg (Nat.ne_of_gt hlt), if_pos hlt, if_neg (by rw [hd]; decide)]

/-- Settles O52: each outcome of ATTEST by its case of the operands, the size by the two lists' lengths, BEAT by the bytes before it. -/
theorem attestReports : Obligations.AttestReports := by
  unfold Obligations.AttestReports
  refine ⟨?writes, ?short, ?noSlice, reportSize_eq, attestReport_beat⟩
  case writes =>
    rintro op o s _ x h rfl ha hx hn hr
    rw [exec_attest_slice h ha hx, if_neg (Nat.not_lt.2 hn), withPartner_reach hr]
  case short =>
    rintro op o s _ x h rfl ha hx hn
    rw [exec_attest_slice h ha hx, if_pos hn]
  case noSlice =>
    rintro op o s _ h rfl ha hx
    exact exec_attest_noSlice h ha hx

/-- Settles O53: the completion is that of the state `raiseLevel` leaves, and the level it records is the device's. -/
theorem deviceRaise : Obligations.DeviceRaise := by
  unfold Obligations.DeviceRaise
  refine ⟨?raise, fun _ _ => level_of_recorded⟩
  case raise =>
    rintro op o s _ _ h rfl ht he hc hlt hd rfl
    exact exec_levelSetDevice_raise h ht he hc hlt hd

end Sys2Proof.Machine
end

section
/-! The sideband's right to write the control space (20 R398), and what a bad access logs (01 R15). -/

namespace Sys2Proof.Machine

/-! ### A bad access (01 R15) -/

@[simp] theorem logRas_badAcc (s : State) (source type index store addr : Nat) : (logRas s source type index store addr).ras.badAcc = s.ras.badAcc := by
  unfold logRas
  dsimp only
  split <;> rfl

/-- What is logged stands in the log: merged into the entry it equals, or as a new first entry (18 R379). -/
theorem logRas_logged (s : State) (source type index store addr : Nat) :
    ∃ e ∈ (logRas s source type index store addr).ras.log, e.beat = s.trd.beat ∧ e.source = source ∧ e.addr = addr := by
  unfold logRas
  dsimp only
  split
  case isTrue hany =>
    obtain ⟨e, he, hsame⟩ := List.any_eq_true.1 hany
    refine ⟨_, List.mem_map_of_mem he, ?_⟩
    rw [if_pos hsame]
    simp only [Bool.and_eq_true, decide_eq_true_eq] at hsame
    obtain ⟨⟨⟨⟨⟨hbeat, hsource⟩, -⟩, -⟩, -⟩, haddr⟩ := hsame
    exact ⟨hbeat, hsource, haddr⟩
  case isFalse => exact ⟨_, List.mem_cons_self, rfl, rfl, rfl⟩

theorem badAccess_only (s : State) (off : Nat) : badAccess s off = { s with ras := (badAccess s off).ras } := by
  unfold badAccess
  dsimp only
  rw [logRas_only]

theorem badAccess_badAcc (s : State) (off : Nat) : (badAccess s off).ras.badAcc = sat32 (s.ras.badAcc + 1) := by
  simp [badAccess]

theorem badAccess_logged (s : State) (off : Nat) :
    (badAccess s off).ras.log.any (fun e => e.beat = s.trd.beat ∧ e.source = 9 ∧ e.addr = off) = true := by
  obtain ⟨e, he, hfields⟩ := logRas_logged { s with ras := { s.ras with badAcc := sat32 (s.ras.badAcc + 1) } } 9 3 0 0 off
  exact List.any_eq_true.2 ⟨e, he, decide_eq_true hfields⟩

/-! ### SB_WRITE -/

section
variable {s : State}

/-- With SB_WRITE 0 no control-space write of the sideband comes to its effect `k`. -/
theorem ctlWrite_sideband_denied (h : s.glb.sbWrite = false) (off : Nat) (k : State → State) : ctlWrite s .sideband off k = badAccess s off := by
  unfold ctlWrite
  rw [if_pos ⟨rfl, by rw [h]; rfl⟩]

/-- The same of the outcome of a command that is one write. -/
theorem next_ctlWrite_sideband_denied (h : s.glb.sbWrite = false) (off : Nat) (k : State → State) :
    (.next (ctlWrite s .sideband off k) : Host.Outcome State Fault Refusal) = .next (badAccess s off) :=
  congrArg Host.Outcome.next (ctlWrite_sideband_denied h off k)

theorem writeControl_sideband_denied (h : s.glb.sbWrite = false) (off width : Nat) (v : Word) :
    writeControl s .sideband off width v = badAccess s off := by
  unfold writeControl
  rw [ctlWrite_sideband_denied h, ite_self]

/-- With SB_WRITE 1 the requester no longer matters. -/
theorem ctlWrite_sideband_eq_port (h : s.glb.sbWrite = true) (p : Fin 4) (off : Nat) (k : State → State) :
    ctlWrite s .sideband off k = ctlWrite s (.port p) off k := by
  simp [ctlWrite, h]

theorem writeControl_sideband_eq_port (h : s.glb.sbWrite = true) (p : Fin 4) (off width : Nat) (v : Word) :
    writeControl s .sideband off width v = writeControl s (.port p) off width v := by
  unfold writeControl
  rw [ctlWrite_sideband_eq_port h p]

end

/-! ### The shape of a read -/

theorem readControl_of_badShape {off width : Nat} (h : badShape off width = true) (s : State) (who : Requester) :
    readControl s who off width = answerRead (badAccess s off) who 0 := if_pos h

theorem readControl_of_goodShape {off width : Nat} (h : badShape off width = false) (s : State) (who : Requester) :
    readControl s who off width = answerRead (readReg (senseAt s off) who off).2 who (readReg (senseAt s off) who off).1 := by
  unfold readControl
  rw [if_neg (by simp [h])]

/-- Settles O59: every write command of the sideband goes through `ctlWrite`, whose guard is SB_WRITE; a read is split by its shape. -/
theorem sidebandWriteRight : Obligations.SidebandWriteRight := by
  unfold Obligations.SidebandWriteRight
  refine ⟨?denied, ?logged, ?allowed, ?read, ?badRead⟩
  case denied =>
    intro s h
    refine ⟨?register, ?lock, ?rings, ?reference, ?lane, ?distaff, ?limit⟩
    case register => exact fun off width v => congrArg Host.Outcome.next (writeControl_sideband_denied h off width v)
    case lock => exact fun _ => next_ctlWrite_sideband_denied h _ _
    case rings => exact fun _ _ => ⟨next_ctlWrite_sideband_denied h _ _, next_ctlWrite_sideband_denied h _ _⟩
    case reference => exact fun _ => next_ctlWrite_sideband_denied h _ _
    case lane => exact fun _ _ => ⟨next_ctlWrite_sideband_denied h _ _, next_ctlWrite_sideband_denied h _ _⟩
    case distaff => exact fun _ => by refine ⟨?_, ?_, ?_, ?_, ?_, ?_, ?_⟩ <;> exact next_ctlWrite_sideband_denied h _ _
    case limit => exact fun _ => next_ctlWrite_sideband_denied h _ _
  case logged => exact fun s off => ⟨badAccess_only s off, badAccess_badAcc s off, badAccess_logged s off⟩
  case allowed => exact fun s p off width v h => congrArg Host.Outcome.next (writeControl_sideband_eq_port h p off width v)
  case read => exact fun s off h => congrArg Host.Outcome.next (readControl_of_goodShape h s .sideband)
  case badRead => exact fun s off width h => congrArg Host.Outcome.next (readControl_of_badShape h s .sideband)

end Sys2Proof.Machine
end

section
/-! What no command changes: the queue, and what the fuse, the counter and a sound state keep (17 R347, R362); that every command answers; tables. -/

namespace Sys2Proof.Machine

/-- Fourteen rows change something of `kept` and have a lemma of their own in OneWay; every other row keeps all of it. -/
theorem keeps_exec (c : Instr) (s : State) : Keeps s (outOr s (exec c s)) := by
  cases c
  case registerWrite => exact keeps_execRegisterWrite _ _ _ _ _
  case sidebandWrite => exact keeps_execSidebandWrite _ _
  case pwrLimitWrite => exact keeps_execPwrLimitWrite _ _ _
  case setPowerLimit => exact keeps_execSetPowerLimit _ _
  case beat => exact keeps_execBeat _
  case warmReset => exact keeps_execWarmReset _ _
  case watchdogExpiry => exact keeps_execWatchdogExpiry _
  case controlCoreFault => exact keeps_execControlCoreFault _ _ _
  case distaffOpEnd => exact keeps_execDistaffOpEnd _
  case powerLoss => exact keeps_execPowerLoss _
  case coldResetAssert => exact keeps_execColdResetAssert _
  case coldBoot => exact keeps_execColdBoot _ _
  case sanitiseErase => exact keeps_execSanitiseErase _
  case levelSetDevice => exact keeps_execLevelSetDevice _ _
  all_goals exact keeps_of_kept (by unfold exec; simp)

theorem keeps_of_exec {c : Instr} {s t : State} (h : exec c s = .next t) : Keeps s t := by
  have hk := keeps_exec c s
  rwa [h, outOr_next] at hk

/-- A step idles on the state or runs a command on it without its front entry, which no figure of `sound` and `oneWay` reads. -/
theorem step_keeps {s t : State} (h : step s = .next t) : (sound s → sound t) ∧ oneWay s t := by
  unfold step at h
  split at h
  case h_1 =>
    cases h
    exact ⟨id, id, Nat.le_refl _⟩
  case h_2 =>
    obtain ⟨-, hway, hsound⟩ := keeps_of_exec h
    exact ⟨fun hs => hsound hs, hway⟩

/-- Settles O6: every row keeps a sound state sound. -/
theorem stepKeepsSound : Obligations.StepKeepsSound := by
  unfold Obligations.StepKeepsSound
  exact fun _ _ hs h => (step_keeps h).1 hs

/-- Settles O7: every row moves the fuse and the counter one way only. -/
theorem fuseAndCounterOneWay : Obligations.FuseAndCounterOneWay := by
  unfold Obligations.FuseAndCounterOneWay
  exact fun _ _ h => (step_keeps h).2

/-- Settles O3: the queue is part of what every row keeps. -/
theorem queueUntouched : Obligations.QueueUntouched := by
  unfold Obligations.QueueUntouched
  exact fun _ _ _ h => (keeps_of_exec h).1

/-- Settles O4: a meaning is a next state at once, or one in each of its branches; those named here are the ones with branches. -/
theorem everyCommandAnswers : Obligations.EveryCommandAnswers := by
  unfold Obligations.EveryCommandAnswers
  intro c s
  cases c
  case ackTimer | acknowledgementPacket | ackseqTimeout | ahlLaneFailure | ahlLinkRestored | cardPass | coldBoot | coldResetAssert | computeFault |
      controlCoreFault | correctedError | demandRestore | descriptorFetch | dieStopsAnswering | distaffErase | distaffOpEnd | distaffProgram |
      distaffResume | distaffSuspend | epochMissing | epochPulse | erasePulse | gcMove | gcRegimeChange | holdBeatsExpiry | holdupOkFall |
      holdupOkRise | interruptCoalesceTimeout | jobDispatch | jobIssue | jobStepTimeLimit | laneTrainingComplete | lateLimitExpiry | logCopy |
      markerTimeout | meterRecordCut | meterRecordWrite | migrateDone | nonAllocatingWrite | packetRoute | pllLock | powerLoss | powerStateEntered |
      prefetchDirectiveIssue | psExitDone | queryDeadline | rankResume | recallResponse | recallTimeout | reducePacket | referenceLost |
      regPhaseFailure | repairCopyDone | rerankUnit | retrainComplete | retrainFail | sanitiseErase | scheduledTransfer | selfTestDone |
      signalEffect | skewLost | sliceSwitch | stepEnd | thermNAlert | thermalThrottle | trainFlit | voteRecord | watchdogExpiry =>
    simp only [exec, execAckTimer, execAcknowledgementPacket, execAckseqTimeout, execAhlLaneFailure, execAhlLinkRestored, execCardPass, execColdBoot,
      execColdResetAssert, execComputeFault, execControlCoreFault, execCorrectedError, execDemandRestore, execDescriptorFetch, execDieStopsAnswering,
      execDistaffErase, execDistaffOpEnd, execDistaffProgram, execDistaffResume, execDistaffSuspend, execEpochMissing, execEpochPulse,
      execErasePulse, execGcMove, execGcRegimeChange, execHoldBeatsExpiry, execHoldupOkFall, execHoldupOkRise, execInterruptCoalesceTimeout,
      execJobDispatch, execJobIssue, execJobStepTimeLimit, execLaneTrainingComplete, execLateLimitExpiry, execLogCopy, execMarkerTimeout,
      execMeterRecordCut, execMeterRecordWrite, execMigrateDone, execNonAllocatingWrite, execPacketRoute, execPllLock, execPowerLoss,
      execPowerStateEntered, execPrefetchDirectiveIssue, execPsExitDone, execQueryDeadline, execRankResume, execRecallResponse, execRecallTimeout,
      execReducePacket, execReferenceLost, execRegPhaseFailure, execRepairCopyDone, execRerankUnit, execRetrainComplete, execRetrainFail,
      execSanitiseErase, execScheduledTransfer, execSelfTestDone, execSignalEffect, execSkewLost, execSliceSwitch, execStepEnd, execThermNAlert,
      execThermalThrottle, execTrainFlit, execVoteRecord, execWatchdogExpiry]
    repeat' split
    all_goals exact ⟨_, rfl⟩
  all_goals exact ⟨_, rfl⟩

theorem lookup_filter_key {α : Type} (t : Tbl α) (p : Nat → Bool) (n : Nat) :
    lookup (t.filter (fun e => p e.1)) n = if p n then lookup t n else none := by
  induction t with
  | nil => simp
  | cons e t ih =>
    obtain ⟨k, v⟩ := e
    rw [List.filter_cons, lookup_cons]
    by_cases hn : n = k
    · subst hn
      by_cases hp : p n <;> simp [hp, lookup_cons, ih]
    · by_cases hk : p k <;> simp [hk, hn, lookup_cons, ih]

/-- A zeroed range reads zero, and every other byte as before. -/
theorem readByte_zeroRange (m : Mem) (a n c : Nat) : readByte (zeroRange m a n) c = if a ≤ c ∧ c < a + n then 0#8 else readByte m c := by
  unfold readByte readD zeroRange
  rw [lookup_filter_key m (fun k => decide (k < a) || decide (a + n ≤ k))]
  by_cases h : a ≤ c ∧ c < a + n
  · rw [if_pos h, if_neg (by simp; omega)]
    rfl
  · rw [if_neg h, if_pos (by simp; omega)]

/-- Settles O8: each clause is a law of tables or of memories. -/
theorem tablesReadBack : Obligations.TablesReadBack := by
  unfold Obligations.TablesReadBack
  refine ⟨readD_writeD, readByte_writeBytes, wf_writeBytes, fun m a n h => ⟨wf_zeroRange m a n h, wf_sliceRange m a n h⟩,
    fun m src a n => wf_pasteRange m a n src, readByte_zeroRange⟩

/-- Settles O1: by the definition of a step. -/
theorem stepRunsFront : Obligations.StepRunsFront := by
  unfold Obligations.StepRunsFront
  exact fun _ _ => rfl

/-- Settles O2: by the definition of a step. -/
theorem emptyQueueIdles : Obligations.EmptyQueueIdles := by
  unfold Obligations.EmptyQueueIdles step
  intro s h
  rw [h]

/-- Settles O5: `sound_reset`. -/
theorem resetSound : Obligations.ResetSound := by
  unfold Obligations.ResetSound
  exact sound_reset

end Sys2Proof.Machine
end

section
/-! The host link: admin rings, doorbells and fetch, completion rings (02 R23-R39). -/

namespace Sys2Proof.Machine

/-- A command that passes its wake-up is not turned away. -/
theorem awake_of_le {s : State} {n : Nat} (h : s.pwr.state ≤ n) : awake s n = true := decide_eq_true h

theorem modPort_congr {s : State} {p : Nat} {f g : Port → Port} (h : f (getPort s p) = g (getPort s p)) : modPort s p f = modPort s p g := by
  unfold modPort
  rw [h]

/-- A list of checks is clear when its first check passes and the others are clear. -/
theorem clear_cons (b : Bool) (st d : Nat) (cs : List (Bool × Nat × Nat)) : Clear ((b, st, d) :: cs) ↔ b = false ∧ Clear cs := by
  cases b <;> simp [Clear]

theorem checks_clear {cs : List (Bool × Nat × Nat)} (h : Clear cs) (s : State) (id : Nat) (ok : State) : checks s id cs ok = ok :=
  checks_pass s id cs ok h

/-! ### EN (R25, R26, R39) -/

@[simp] theorem writeActrl_regs_en (x : Port) (v : Word) : (writeActrl x v).regs.en = x.regs.en := rfl
@[simp] theorem writeActrl_regs_rdy (x : Port) (v : Word) : (writeActrl x v).regs.rdy = x.regs.rdy := rfl

@[simp] theorem modPort_coreFault (s : State) (p : Nat) (f : Port → Port) : (modPort s p f).ras.coreFault = s.ras.coreFault := rfl

theorem enableRings_new {s : State} {p : Nat} (v : Word) (hf : s.ras.coreFault = none) (he : (getPort s p).regs.en = false)
    (hr : (getPort s p).regs.rdy = true) :
    enableRings s p v = modPort s p (fun x => actOnEn { writeActrl x v with regs := { (writeActrl x v).regs with en := true } }) := by
  unfold enableRings
  rw [reportCoreFault_none _ (by simpa using hf)]
  exact modPort_congr (by simp [he, hr])

theorem disableRings_enabled {s : State} {p : Nat} (v : Word) (he : (getPort s p).regs.en = true) :
    disableRings s p v = portReset (modPort s p (fun x => writeActrl x v)) p := by
  unfold disableRings
  dsimp only
  rw [if_pos (by simpa using he)]

/-- Settles O10: EN acts through `actOnEn`, its clearing through `portReset`. -/
theorem adminRings : Obligations.AdminRings := by
  unfold Obligations.AdminRings
  refine ⟨?enable, ?illegal, ?legal, ?ready, ?disable, ?reset, ?teardown, ?linkReset⟩
  case enable =>
    intro who p v s hm hv hf he hr
    simp only [exec, execAdminRingsEnable, ctlWrite_pass hm]
    simp [hv, enableRings_new v hf he hr]
  case illegal =>
    intro x h
    simp [actOnEn, h]
  case legal =>
    intro x h
    simp [actOnEn, h, adminLine]
  case ready =>
    intro p s hf hst hh hr ht hu
    simp only [exec, execPortReady]
    rw [if_pos (by simp [hst, hh, hr, ht, hu]), reportCoreFault_none _ (by simpa using hf)]
  case disable =>
    intro who p v s hm hv he
    simp only [exec, execAdminRingsDisable, ctlWrite_pass hm]
    simp only [hv, Bool.false_eq_true, if_false, disableRings_enabled v he]
  case reset =>
    intro s p
    simp [portReset]
  case teardown =>
    intro p s ht ho
    simp only [exec, execTeardownComplete]
    rw [if_pos (by simp [ht, ho])]
  case linkReset => exact fun _ _ => rfl

/-! ### Doorbells and fetch (R29, R33, R34, R36, R37) -/

theorem partnerStores_frame (x : Port) (l : List (Nat × Byte)) : partnerStores x l = { x with mem := (partnerStores x l).mem } := by
  induction l generalizing x with
  | nil => rfl
  | cons e l ih =>
    have h := ih { x with mem := writeByte x.mem e.1 e.2 }
    exact h

/-- The partner's stores change no ring, so the watched lines are those of before. -/
theorem watched_partnerStores (s : State) (p : Nat) (l : List (Nat × Byte)) : watched (modPort s p (fun x => partnerStores x l)) p = watched s p := by
  unfold watched
  rw [getPort_modPort_same, partnerStores_frame]
  rfl

theorem getPort_partnerStores (s : State) (p : Nat) (l : List (Nat × Byte)) :
    (getPort (modPort s p (fun x => partnerStores x l)) p).regs = (getPort s p).regs ∧
      (getPort (modPort s p (fun x => partnerStores x l)) p).link = (getPort s p).link := by
  rw [getPort_modPort_same, partnerStores_frame]
  exact ⟨rfl, rfl⟩

/-- A fetch whose header passes, outside an erase and of no storage FENCE, only adds its operation and moves the ring on. -/
theorem fetchOne_plain {s : State} {p sq : Nat} {r : SubRing} (hc : headerCheck (readBytes (getPort s p).mem (r.base + 64 * r.fetch) 64) sq r.slice = none)
    (he : s.sec.erase = none) (hf : field (readBytes (getPort s p).mem (r.base + 64 * r.fetch) 64) 0 1 ≠ 0x08) :
    let b := readBytes (getPort s p).mem (r.base + 64 * r.fetch) 64
    let o : Op := { port := p, sq := sq, cq := r.cq, seq := r.fetched, opcode := field b 0 1, flags := field b 1 1, slice := r.slice,
                    tag := field b 4 2, bytes := b, phase := .fetched, fetchedAt := s.clock, lowHoldup := !s.pins.holdupOk, silent := false,
                    left := none, sofar := 0 }
    fetchOne s p sq r = takeSnap (modPort { s with opSeq := s.opSeq + 1, ops := insertKey s.ops s.opSeq o } p (fun x =>
      { x with sqs := insertKey x.sqs sq { r with fetch := (r.fetch + 1) % r.size, fetched := r.fetched + 1, credit := r.credit - 1 } })) s.opSeq o := by
  simp only [fetchOne, hc]
  rw [if_neg (by simp [eraseLocks, he]), if_neg hf]

/-- Settles O11: rereads by the lines the port watches, a fetch by what `fetchOne` adds. -/
theorem doorbellsAndFetch : Obligations.DoorbellsAndFetch := by
  unfold Obligations.DoorbellsAndFetch
  refine ⟨?invalidate, ?unwatched, ?poll, ?tail, ?badTail, ?head, ?badHead, ?fetch, ?fetched⟩
  case invalidate =>
    intro p line stores s hr hu hw
    obtain ⟨hregs, hlink⟩ := getPort_partnerStores s p.val stores
    simp only [exec, execDoorbellInvalidate, hregs, hlink, watched_partnerStores, hr, hu, hw, Bool.and_self, if_true]
  case unwatched =>
    intro p line stores s hw
    simp only [exec, execDoorbellInvalidate, watched_partnerStores, hw, Bool.and_false, Bool.false_eq_true, if_false]
  case poll =>
    intro p stores s hr hu hp hs
    obtain ⟨hregs, hlink⟩ := getPort_partnerStores s p.val stores
    simp only [exec, execDoorbellPoll, hregs, hlink, watched_partnerStores, hr, hu, hp, modPort_pwr, hs, decide_true, Bool.and_self, if_true]
  case tail => exact fun _ _ h => if_pos h
  case badTail => exact fun _ _ h => if_neg (Nat.not_lt.2 h)
  case head => exact fun _ _ h => if_pos h
  case badHead => exact fun _ _ h => if_neg (Nat.not_lt.2 h)
  case fetch =>
    intro p sq s r hf hs hl hm
    simp only [exec, execDescriptorFetch, hf, awake_of_le hs, hl, hm, Bool.not_true, Bool.false_eq_true, if_false, if_true]
  case fetched =>
    intro s p sq r hc he hf
    rw [fetchOne_plain hc he hf]
    exact ⟨_, by rw [takeSnap_ops]; exact lookup_insertKey_same _ _ _, rfl, rfl, rfl, rfl, rfl, rfl, rfl, rfl, by simp,
      by rw [takeSnap_port, getPort_modPort_same]; exact lookup_insertKey_same _ _ _⟩

/-! ### Completions (R30, R31, R34, R35, R38, R39) -/

theorem length_compBytes (tag status detail result : Nat) (phase : Bool) : (compBytes tag status phase detail result).length = 16 := by
  simp [compBytes]

@[simp] theorem sendIrq_mem (x : Port) (r : CompRing) (send : Bool) : (sendIrq x r send).mem = x.mem := by
  unfold sendIrq
  split <;> rfl

theorem writeComp_mem (x : Port) (cq : Nat) (r : CompRing) (tag status detail result clock : Nat) :
    (writeComp x cq r tag status detail result clock).mem =
      writeBytes x.mem (r.base + 16 * r.slot) (compBytes tag status r.phase detail result) := by
  simp [writeComp]

theorem reportDropped_none {s : State} {p : Nat} (h : (getPort s p).dropped = 0) : reportDropped s p = s := by
  simp [reportDropped, h]

theorem flushPort_nothingDropped {s : State} {p : Nat} (h : (getPort s p).dropped = 0) : flushPort s p = postHeld s p (getPort s p).held.length := by
  unfold flushPort
  rw [reportDropped_none h]

theorem postHeld_of_postOne_none {s : State} {p : Nat} (h : postOne s p (getPort s p).held = none) (n : Nat) : postHeld s p n = s := by
  cases n with
  | zero => rfl
  | succ n => simp [postHeld, h]

/-- An operation that ended is posted first when it alone is held and its ring allows it. -/
theorem postHeld_one {s : State} {p id : Nat} {o : Op} {st d r : Nat} (hh : (getPort s p).held = [.comp id]) (hl : lookup s.ops id = some o)
    (hp : o.phase = .done st d r) (hm : mayPost s o st = true) : postHeld s p 1 = postComp s id o st d r := by
  simp [postHeld, hh, postOne, hl, hp, hm]

theorem held_append_of_nil {x : Port} {h : Held} (hx : x.held = []) : ({ x with held := x.held ++ [h] } : Port) = { x with held := [h] } := by
  rw [hx, List.nil_append]

/-- An operation that is not silent joins what its port holds, and that is posted as far as it can be. -/
theorem finish_loud {s : State} {id : Nat} {o : Op} {status detail result : Nat} (hl : lookup s.ops id = some o) (hs : o.silent = false) :
    finish s id status detail result = flushPort (modPort { s with ops := insertKey s.ops id { o with phase := .done status detail result } } o.port
      (fun x => { x with held := x.held ++ [.comp id] })) o.port := by
  unfold finish
  rw [hl]
  dsimp only
  rw [if_neg (by simp [hs])]

/-- Settles O12: the entry by the bytes written, the posting by what `flushPort` finds held. -/
theorem completionRings : Obligations.CompletionRings := by
  unfold Obligations.CompletionRings
  refine ⟨?next, ?wrap, fun tag st d r ph => length_compBytes tag st d r ph, ?entry, ?post, ?finish, ?silent, ?held, ?heldDropped, ?nothing, ?interrupt, ?lost⟩
  case next => exact fun _ h => if_pos h
  case wrap => exact fun _ h => if_neg (Nat.not_lt.2 h)
  case entry =>
    intro x cq r tag status detail result clock a
    rw [writeComp_mem, readByte_writeBytes, length_compBytes]
  case post =>
    intro s id o status detail result r h
    simp [postComp, h]
  case finish =>
    rintro s _ id o status detail result hl hs hh hd rfl hm
    rw [finish_loud hl hs, modPort_congr (g := fun x => { x with held := [.comp id] }) (held_append_of_nil hh)]
    have hheld := congrArg Port.held (getPort_modPort_same { s with ops := insertKey s.ops id { o with phase := .done status detail result } } o.port
      (fun x => { x with held := [.comp id] }))
    rw [flushPort_nothingDropped (by rw [getPort_modPort_same]; exact hd), hheld]
    exact postHeld_one hheld (lookup_insertKey_same _ _ _) rfl hm
  case silent =>
    intro s id o status detail result hl hs
    simp [Machine.finish, hl, hs]
  case held =>
    intro p s hd
    simp only [exec, execHeldEntryPost, flushPort_nothingDropped hd]
  case heldDropped =>
    rintro p s _ hr hl hd he rfl
    simp only [exec, execHeldEntryPost, flushPort, reportDropped, hr, hl, he]
    simp [hd]
  case nothing =>
    intro s p hd hn
    rw [flushPort_nothingDropped hd, postHeld_of_postOne_none hn]
  case interrupt =>
    intro p cq s r vec hl hk hu ht hv
    simp only [exec, execInterruptCoalesceTimeout, hl]
    rw [if_pos (by simp [hu, hk, ht])]
    simp [sendIrq, hv]
  case lost =>
    intro p cq s h
    have hnone : (getPort s p.val).link.lostAt.isNone = false :=
      Option.isNone_eq_false_iff.2 (Option.ne_none_iff_isSome.1 h)
    simp only [exec, execInterruptCoalesceTimeout, hnone]
    split <;> simp

end Sys2Proof.Machine
end

section
/-! The host link: window lines, link failures, ring and window commands (02 R18-R28, R39). -/

namespace Sys2Proof.Machine

/-! ### Window lines (R20-R22) -/

theorem serveLine_serves {s : State} {p addr off : Nat} {w : Window} (st : LineState) (hw : inWindow (getPort s p) addr = some (w, off))
    (hu : (getPort s p).link.up = true) (hr : underRecall (getPort s p) (off / 64) = false) (hs : s.pwr.state ≤ 2)
    (hx : lookup (getPort s p).lines (off / 64) = some .exclusive → st = .exclusive) :
    serveLine s p addr st = useWindow (modPort s p (fun x =>
      { x with lines := insertKey x.lines (off / 64) st, served := lineBytes s w (off / 64) })) w (off / 64) := by
  have hst : (if lookup (getPort s p).lines (off / 64) = some .exclusive then LineState.exclusive else st) = st := by
    split
    case isTrue h => exact (hx h).symm
    case isFalse => rfl
  simp only [serveLine, hw, hu, hr, awake_of_le hs, hst, Bool.not_true, Bool.or_self, Bool.false_eq_true, if_false]

/-- The access is the last use of the page behind the line (08 R151). -/
theorem useWindow_lastUse {s : State} {w : Window} {l n : Nat} {x : Slice} {q : Page} (hx : lookup s.slices w.slice = some x)
    (hq : lookup x.pages n = some q) (hn : n = w.first + 64 * l / pageBytes) :
    ∃ y, lookup (useWindow s w l).slices w.slice = some y ∧ lookup y.pages n = some { q with lastUse := s.trd.beat } := by
  subst hn
  exact ⟨_, by rw [useWindow, setPage, lookup_modSlice, if_pos rfl, hx]; rfl, by rw [lookup_adjust, if_pos rfl, hq]; rfl⟩

/-- Settles O13: reads by `serveLine`, answers by their kind. -/
theorem windowLines : Obligations.WindowLines := by
  unfold Obligations.WindowLines
  refine ⟨?read, ?own, ?write, ?back, fun _ _ _ _ _ _ hx hq hn => useWindow_lastUse hx hq hn, ?drop, ?keep, ?timeout⟩
  case read =>
    intro p addr s w off hw hu hr hs hx
    exact congrArg _ (serveLine_serves .shared hw hu hr hs (fun h => absurd h hx))
  case own =>
    intro p addr s w off hw hu hr hs
    exact congrArg _ (serveLine_serves .exclusive hw hu hr hs (fun _ => rfl))
  case write =>
    intro p addr data s w off hw hu hd ho hr hs
    simp only [exec, execNonAllocatingWrite, hw]
    rw [if_neg (by simp [hu, hd, ← ho, hr]), awake_of_le hs]
    rfl
  case back =>
    intro p addr data s w off hw hr hf hd hl
    simp only [exec, execRecallResponse, hw, underRecall, hr, hf, hd, hl, Bool.not_true, Bool.false_eq_true, if_false, decide_true, Bool.and_self,
      if_true]
  case drop =>
    intro p addr s w off hw hr
    simp only [exec, execRecallResponse, hw, underRecall, hr, Bool.not_true, Bool.false_eq_true, if_false]
  case keep =>
    intro p addr s w off hw hr
    simp only [exec, execRecallResponse, hw, underRecall, hr, Bool.not_true, Bool.false_eq_true, if_false]
  case timeout =>
    intro p s hr
    simp only [exec, execRecallTimeout, hr, if_true]

/-! ### Link failures (R18, R39, R412) -/

@[simp] theorem logRas_clock (s : State) (a b c d e : Nat) : (logRas s a b c d e).clock = s.clock := by rw [logRas_only]

/-- Settles O14: a link that was up is lost from now; a lane that fails takes the port down where no spare serves it. -/
theorem hostLinkFailures : Obligations.HostLinkFailures := by
  unfold Obligations.HostLinkFailures
  refine ⟨?lost, ?restored, ?expired, ?spared, ?failed⟩
  case lost =>
    intro p s hu
    simp only [exec, execAhlLinkLost, hu, if_true]
    exact congrArg _ (modPort_congr (by simp [loseLink, hu]))
  case restored =>
    intro p s hu hl hs ht
    have hlate : (getPort s p.val).link.lostAt.any (fun t => decide (t + (getPort s p.val).link.holdBeats.toNat < s.clock)) = false := by
      cases h : (getPort s p.val).link.lostAt with
      | none => rfl
      | some t => simpa using ht t h
    simp only [exec, execAhlLinkRestored, hu, hl, hlate]
    rw [if_neg (by simpa using hs)]
  case expired =>
    intro p s t ht hc
    simp only [exec, execHoldBeatsExpiry, ht]
    rw [if_pos (by simpa using hc)]
    rfl
  case spared =>
    rintro p lane s _ rfl hs
    simp only [exec, execAhlLaneFailure, hs, if_true]
  case failed =>
    rintro p lane s _ rfl hs
    simp only [exec, execAhlLaneFailure, hs, Bool.false_eq_true, if_false]
    simp only [portDownDetail, Nat.zero_mul, Nat.add_zero, logRas_clock, modPort_clock]

/-! ### Ring commands (R24, R27, R28) -/

/-- Settles O15: with every field in range no check fails. -/
theorem ringsCreatedAndDeleted : Obligations.RingsCreatedAndDeleted := by
  unfold Obligations.RingsCreatedAndDeleted
  refine ⟨?cq, ?sq, ?deleteSq, ?deleteCq, ?deleted⟩
  case cq =>
    rintro op o s _ h rfl ha hring hline hlo hhi hfree hmin hmax hcoal hl hw hv
    simp only [exec, execCqCreate, runOp_ready h, getPort_started]
    rw [checks_clear]
    · rfl
    · have hvec : o.f 30 2 > 255 → o.f 30 2 = 0xFFFF := fun h => hv.resolve_left (Nat.not_le.2 h)
      simp only [clear_cons, ha, hring, hline, hfree, hl, hw]
      simp [Nat.ne_of_gt hlo, hhi, hmin, hmax, hcoal]
      exact hvec
  case sq =>
    rintro op o s _ h rfl ha hring hline hlo hhi hfree hmin hmax hprio hl hw hx hc hcq
    simp only [exec, execSqCreate, runOp_ready h, getPort_started]
    rw [checks_clear]
    simp only [clear_cons, ha, hring, hline, hfree, hl, hw, started_slices]
    simp [Nat.ne_of_gt hlo, hhi, hmin, hmax, hprio, hx, hc, hcq]
  case deleteSq =>
    intro op o s r h hp hk hlo hhi hl hd
    simp only [exec, execRingDelete]
    rw [runRow_ready h _ _ (by simp [hp])]
    have hid : o.f 10 2 ≠ 0 := Nat.ne_of_gt hlo
    simp [hk, hid, Nat.not_lt.2 hhi, hl, hd]
  case deleteCq =>
    intro op o s h hp hk hlo hhi hl hu
    simp only [exec, execRingDelete]
    rw [runRow_ready h _ _ (by simp [hp])]
    have hid : o.f 10 2 ≠ 0 := Nat.ne_of_gt hlo
    simp only [getPort_started, hk]
    rw [if_neg (by decide), if_neg (by simp [hid, hhi]), if_neg (by decide), if_neg (by simp [Option.isSome_iff_ne_none.1 hl, hu])]
  case deleted =>
    intro op o s h hp hk ho
    simp only [exec, execRingDeleteComplete]
    rw [runRow_ready h _ _ (by simp [hp, hk])]
    simp only [ho, Bool.not_false, if_true]

/-! ### The window (R22, R28) -/

@[simp] theorem windowTotal_started (s : State) (id need : Nat) : windowTotal (started s id need) = windowTotal s := by
  simp [windowTotal]

/-- Settles O16: the pages mapped are those `mapPages` grants; with no line out they go at once. -/
theorem windowMapping : Obligations.WindowMapping := by
  unfold Obligations.WindowMapping
  refine ⟨?map, ?unmap, ?none⟩
  case map =>
    intro op o s t h hn ha hw hx hh ht hf htaken hm
    simp only [exec, execWindowMap]
    rw [runRow_ready h _ _ (by simpa using hn)]
    obtain ⟨x, hx⟩ := Option.isSome_iff_exists.1 hx
    rw [checks_clear, hm]
    simp only [clear_cons, getPort_started, started_slices, windowTotal_started, hx, htaken x hx, ha, hw, hh]
    simp [ht, hf]
  case unmap =>
    intro op o s w h hn ha hw hl
    simp only [exec, execWindowUnmap]
    rw [runRow_ready h _ _ (by simpa using hn)]
    simp only [ha, getPort_started, hw, hl]
    rfl
  case none =>
    intro op o s h hn ha hw
    simp only [exec, execWindowUnmap]
    rw [runRow_ready h _ _ (by simpa using hn)]
    simp only [ha, getPort_started, hw]
    rfl

end Sys2Proof.Machine
end

section
/-! Events touch the ports only; the finisher's instructions (05, 06 "FVEC", "FROW"). -/

namespace Sys2Proof.Machine

/-! ### What posting an event leaves alone -/

/-- `t` differs from `s` at most in its ports. -/
def PortsOnly (s t : State) : Prop := t = { s with ports := t.ports }

theorem PortsOnly.refl (s : State) : PortsOnly s s := rfl

theorem PortsOnly.modPort (s : State) (p : Nat) (f : Port → Port) : PortsOnly s (modPort s p f) := rfl

theorem PortsOnly.trans {s t u : State} (h : PortsOnly s t) (k : PortsOnly t u) : PortsOnly s u :=
  Eq.trans k (congrArg (fun v => { v with ports := u.ports }) h)

theorem portsOnly_foldl {α : Type} {f : State → α → State} (h : ∀ s a, PortsOnly s (f s a)) (l : List α) (s : State) : PortsOnly s (l.foldl f s) := by
  induction l generalizing s with
  | nil => exact PortsOnly.refl s
  | cons a l ih => exact (h s a).trans (ih _)

theorem portsOnly_spreadEvent (s : State) (skip : List Nat) (e : Event) : PortsOnly s (spreadEvent s skip e) := by
  unfold spreadEvent
  refine portsOnly_foldl (fun t p => ?_) _ _
  split
  · exact PortsOnly.refl t
  · exact PortsOnly.modPort t p _

theorem portsOnly_reportDropped (s : State) (p : Nat) : PortsOnly s (reportDropped s p) := by
  unfold reportDropped
  dsimp only
  split
  · exact (PortsOnly.modPort s p _).trans (portsOnly_spreadEvent _ _ _)
  · exact PortsOnly.refl s

theorem portsOnly_postEventBut (s : State) (skip : List Nat) (code slice detail : Nat) : PortsOnly s (postEventBut s skip code slice detail) :=
  (portsOnly_foldl portsOnly_reportDropped _ s).trans (portsOnly_spreadEvent _ _ _)

theorem portsOnly_postEvent (s : State) (code detail : Nat) : PortsOnly s (postEvent s code detail) := portsOnly_postEventBut s [] code 0xFF detail

theorem portsOnly_postSliceEvent (s : State) (code slice detail : Nat) : PortsOnly s (postSliceEvent s code slice detail) :=
  portsOnly_postEventBut s [] code slice detail

theorem PortsOnly.spindles {s t : State} (h : PortsOnly s t) : t.spindles = s.spindles := by rw [h]

theorem PortsOnly.jobs {s t : State} (h : PortsOnly s t) : t.jobs = s.jobs := by rw [h]

/-! ### A unit instruction that is presented -/

section
variable {s t u : State} {sp : Nat} {w : IWord} {e : Seat} {j : Job} {sel : Bool}

/-- Unhindered, it runs, and the rank goes on. -/
theorem present_unit_done (h : Issues s sp w e j t) (hu : Unhindered t e w) (hs : sel = true) (hr : runInstr t e w (getCtx t e.phys).x = .done u) :
    present s sp w sel (issueUnit w) = advance u e := by
  rw [present_issues h hs, issueUnit_runs hu hr]

/-- Memory it reaches is not yet back: it waits in its unit's queue. -/
theorem present_unit_wait (h : Issues s sp w e j t) (hu : Unhindered t e w) (hs : sel = true) (hr : runInstr t e w (getCtx t e.phys).x = .wait u) :
    present s sp w sel (issueUnit w) = enqueueUnit w e u := by
  rw [present_issues h hs]
  obtain ⟨hc, hb, ha, hq⟩ := hu
  simp [issueUnit, hc, hb, ha, hq, hr]

/-- It ends its job, an error found in the running instruction. -/
theorem present_unit_ends {st : Nat} (h : Issues s sp w e j t) (hu : Unhindered t e w) (hs : sel = true)
    (hr : runInstr t e w (getCtx t e.phys).x = .ends u st) :
    present s sp w sel (issueUnit w) = programError u e.job st e.rank (getCtx t e.phys).pos 2 := by
  rw [present_issues h hs]
  obtain ⟨hc, hb, ha, hq⟩ := hu
  simp [issueUnit, hc, hb, ha, hq, hr]

theorem runInstr_fvec (h : opcodeOf w = opFvec) (x : Tbl Word) : runInstr t e w x = runFvec t e w x := by
  simp [runInstr, h, opMatmul, opConv, opLoad, opStore, opDrain, opRequant, opFvec]

theorem runInstr_frow (h : opcodeOf w = opFrow) (x : Tbl Word) : runInstr t e w x = runFrow t e w x := by
  simp [runInstr, h, opMatmul, opConv, opLoad, opStore, opDrain, opRequant, opFvec, opFrow]

theorem isFvec_iff {fop : Nat} : isFvec w fop = true ↔ opcodeOf w = opFvec ∧ vFop w = fop := by
  simp [isFvec]

theorem isFrow_iff {fop : Nat} : isFrow w fop = true ↔ opcodeOf w = opFrow ∧ wFop w = fop := by
  simp [isFrow]

/-! ### FVEC -/

/-- Every FOP but those of VLD, VST, QCVT and the reductions is elementwise. -/
theorem runFvec_lanes {fop : Nat} (hf : vFop w = fop) (hn : fop ∉ [0x00, 0x01, 0x19, 0x30, 0x31]) (x : Tbl Word) :
    runFvec t e w x = runLanes t e w (lanesFn w fop) := by
  subst hf
  unfold runFvec
  split
  case h_6 => rfl
  all_goals
    rename_i h
    exact absurd hn (by rw [h]; decide)

theorem present_lanes {fop : Nat} (h : Issues s sp w e j t) (hu : Unhindered t e w) (hn : fop ∉ [0x00, 0x01, 0x19, 0x30, 0x31])
    (hs : isFvec w fop = true) : present s sp w (isFvec w fop) (issueUnit w) = lanesGiven t e w (lanesFn w fop) := by
  obtain ⟨ho, hf⟩ := isFvec_iff.1 hs
  exact present_unit_done h hu hs (by rw [runInstr_fvec ho, runFvec_lanes hf hn]; rfl)

theorem present_fvec {fop : Nat} (h : Issues s sp w e j t) (hu : Unhindered t e w) (hs : isFvec w fop = true)
    (hr : runFvec t e w (getCtx t e.phys).x = .done u) : present s sp w (isFvec w fop) (issueUnit w) = advance u e :=
  present_unit_done h hu hs (by rw [runInstr_fvec (isFvec_iff.1 hs).1, hr])

/-! ### FROW -/

theorem present_rows {fop : Nat} (h : Issues s sp w e j t) (hu : Unhindered t e w) (hs : isFrow w fop = true) :
    present s sp w (isFrow w fop) (issueUnit w) = rowsGiven t e w (fun c r => frowOut c w (getCtx t e.phys).x r) :=
  present_unit_done h hu hs (by rw [runInstr_frow (isFrow_iff.1 hs).1]; rfl)

end

/-- Settles O17: one lemma for the elementwise codes, whose lane functions `lanesFn` lists; QCVT is a count and then its lanes. -/
theorem elementwiseLanes : Obligations.ElementwiseLanes := by
  unfold Obligations.ElementwiseLanes
  intro sp w s t e j h hu
  have lanes (fop : Nat) (hn : fop ∉ [0x00, 0x01, 0x19, 0x30, 0x31]) (hs : isFvec w fop = true) :
      (.next (present s sp.val w (isFvec w fop) (issueUnit w)) : Host.Outcome State Fault Refusal) = .next (lanesGiven t e w (lanesFn w fop)) :=
    congrArg _ (present_lanes h hu hn hs)
  refine ⟨lanes 0x08 (by decide), lanes 0x09 (by decide), lanes 0x0A (by decide), lanes 0x0B (by decide), lanes 0x0C (by decide),
    lanes 0x0D (by decide), lanes 0x0E (by decide), lanes 0x0F (by decide), lanes 0x10 (by decide), lanes 0x11 (by decide), lanes 0x12 (by decide),
    lanes 0x18 (by decide), lanes 0x1A (by decide), lanes 0x20 (by decide), lanes 0x21 (by decide), lanes 0x22 (by decide), lanes 0x23 (by decide),
    lanes 0x24 (by decide), lanes 0x28 (by decide), lanes 0x29 (by decide), lanes 0x2A (by decide), lanes 0x2B (by decide), lanes 0x2C (by decide),
    fun hs => congrArg _ (present_fvec h hu hs ?qcvt)⟩
  case qcvt =>
    simp only [runFvec, (isFvec_iff.1 hs).2]
    rfl

/-- Settles O18: each row is one branch of `runFvec`; a reduction writes where its tree has a value. -/
theorem vectorMemoryAndReductions : Obligations.VectorMemoryAndReductions := by
  unfold Obligations.VectorMemoryAndReductions
  intro sp w s t e j h hu
  have fvec (fop : Nat) (u : State) (hs : isFvec w fop = true) (hr : runFvec t e w (getCtx t e.phys).x = .done u) :
      (.next (present s sp.val w (isFvec w fop) (issueUnit w)) : Host.Outcome State Fault Refusal) = .next (advance u e) :=
    congrArg _ (present_fvec h hu hs hr)
  refine ⟨fun hs => fvec 0x00 _ hs ?vld, fun hs => fvec 0x01 _ hs ?vst, fun v hs hv => fvec 0x30 _ hs ?sum, fun v hs hv => fvec 0x31 _ hs ?max,
    fun hs hn => fvec 0x30 _ hs ?noSum, fun hs hn => fvec 0x31 _ hs ?noMax⟩
  case vld =>
    simp only [runFvec, (isFvec_iff.1 hs).2]
    rfl
  case vst =>
    simp only [runFvec, (isFvec_iff.1 hs).2]
    rfl
  case sum => simp only [runFvec, (isFvec_iff.1 hs).2, runReduce, hv]
  case max => simp only [runFvec, (isFvec_iff.1 hs).2, runReduce, hv]
  case noSum =>
    simp only [runFvec, (isFvec_iff.1 hs).2, runReduce, hn]
    rfl
  case noMax =>
    simp only [runFvec, (isFvec_iff.1 hs).2, runReduce, hn]
    rfl

/-- Settles O19: every row operation is `rowsGiven` of the bytes that `frowOut` gives for its FOP. -/
theorem rowOperations : Obligations.RowOperations := by
  unfold Obligations.RowOperations
  intro sp w s t e j h hu
  have rows (fop : Nat) (f : Ctx → Nat → Nat × List Byte) (hs : isFrow w fop = true)
      (hf : ∀ c r, frowOut c w (getCtx t e.phys).x r = f c r) :
      (.next (present s sp.val w (isFrow w fop) (issueUnit w)) : Host.Outcome State Fault Refusal) = .next (rowsGiven t e w f) := by
    rw [present_rows h hu hs, show (fun c r => frowOut c w (getCtx t e.phys).x r) = f from funext fun c => funext (hf c)]
  refine ⟨fun hs => rows 0 _ hs ?_, fun hs => rows 1 _ hs ?_, fun hs => rows 2 _ hs ?_, fun hs => rows 3 _ hs ?_, fun hs => rows 4 _ hs ?_,
    fun hs => rows 8 _ hs ?_, fun hs => rows 9 _ hs ?_, fun hs => rows 10 _ hs ?_⟩
  all_goals
    intro c r
    simp only [frowOut, (isFrow_iff.1 hs).2]

end Sys2Proof.Machine
end

section
/-! The array, the movers, the port and the sequencer (03, 04, 06). -/

namespace Sys2Proof.Machine

/-! ### What each unit instruction runs -/

section
variable {t : State} {e : Seat} {w : IWord}

theorem runInstr_matmul (h : opcodeOf w = opMatmul) (x : Tbl Word) : runInstr t e w x = runMatmul t e w x := by
  simp [runInstr, h]

theorem runInstr_conv (h : opcodeOf w = opConv) (x : Tbl Word) : runInstr t e w x = runConv t e w x := by
  simp [runInstr, h, opMatmul, opConv]

theorem runInstr_load (h : opcodeOf w = opLoad) (x : Tbl Word) : runInstr t e w x = runLoad t e w x := by
  simp [runInstr, h, opMatmul, opConv, opLoad]

theorem runInstr_store (h : opcodeOf w = opStore) (x : Tbl Word) : runInstr t e w x = runStore t e w x := by
  simp [runInstr, h, opMatmul, opConv, opLoad, opStore]

theorem runInstr_drain (h : opcodeOf w = opDrain) (x : Tbl Word) : runInstr t e w x = runDrain t e w x := by
  simp [runInstr, h, opMatmul, opConv, opLoad, opStore, opDrain]

theorem runInstr_requant (h : opcodeOf w = opRequant) (x : Tbl Word) : runInstr t e w x = runRequant t e w x := by
  simp [runInstr, h, opMatmul, opConv, opLoad, opStore, opDrain, opRequant]

end

/-- Settles O20: each outcome is one of `runMatmul` or `runConv`. -/
theorem matrixInstructions : Obligations.MatrixInstructions := by
  unfold Obligations.MatrixInstructions
  intro sp w s t e j h hu
  refine ⟨?matmul, ?pointers, ?conv, ?geometry⟩
  case matmul =>
    intro rows ho hr
    refine congrArg _ (present_unit_done h hu (decide_eq_true ho) ?_)
    simp only [runInstr_matmul ho, runMatmul, hr]
  case pointers =>
    intro ho hr
    refine congrArg _ (present_unit_ends h hu (decide_eq_true ho) ?_)
    simp only [runInstr_matmul ho, runMatmul, hr]
  case conv =>
    rintro _ _ _ ho rfl rfl hg rfl hp
    refine congrArg _ (present_unit_done h hu (decide_eq_true ho) ?_)
    simp only [runInstr_conv ho, runConv, hg, hp, Bool.false_eq_true, if_false]
  case geometry =>
    intro ho hg
    refine congrArg _ (present_unit_ends h hu (decide_eq_true ho) ?_)
    simp only [runInstr_conv ho, runConv, hg, if_true]

/-- Settles O21: a wrong count ends the job; what must wait is queued unless the queue is full. -/
theorem issueRules : Obligations.IssueRules := by
  unfold Obligations.IssueRules
  refine ⟨?count, ?queued, ?full⟩
  case count =>
    intro w e t hc
    simp only [issueUnit, hc, if_true]
  case queued =>
    intro w e t hc hw hq
    simp only [issueUnit, hc, hw, enqueueUnit, hq, Bool.false_eq_true, if_false, if_true]
  case full =>
    intro w e t hc hw hq
    simp only [issueUnit, hc, hw, enqueueUnit, hq, Bool.false_eq_true, if_false, if_true]

/-- Settles O22: each outcome is one of the unit's run. -/
theorem moverAndPort : Obligations.MoverAndPort := by
  unfold Obligations.MoverAndPort
  intro sp w s t e j h hu
  refine ⟨?load, ?loadOutside, ?store, ?storeWaits, ?drain, ?requant⟩
  case load =>
    intro u ho hin hr
    refine congrArg _ (present_unit_done h hu (decide_eq_true ho) ?_)
    simp only [runInstr_load ho, runLoad, hin, hr, Bool.false_eq_true, if_false]
  case loadOutside =>
    intro ho hout
    refine congrArg _ (present_unit_ends h hu (decide_eq_true ho) ?_)
    simp only [runInstr_load ho, runLoad, hout, if_true]
  case store =>
    intro u ho hin hr
    refine congrArg _ (present_unit_done h hu (decide_eq_true ho) ?_)
    simp only [runInstr_store ho, runStore, hin, hr, Bool.false_eq_true, if_false]
  case storeWaits =>
    intro u ho hin hr
    refine congrArg _ (present_unit_wait h hu (decide_eq_true ho) ?_)
    simp only [runInstr_store ho, runStore, hin, hr, Bool.false_eq_true, if_false]
  case drain =>
    intro ho
    refine congrArg _ (present_unit_done h hu (decide_eq_true ho) ?_)
    simp only [runInstr_drain ho, runDrain]
  case requant =>
    intro u ho hr hp
    refine congrArg _ (present_unit_done h hu (decide_eq_true ho) ?_)
    simp only [runInstr_requant ho, runRequant, hr, hp, Bool.false_eq_true, if_false]

/-! ### The band (R104, R105) -/

theorem endFailed_sound {s : State} {jid : Nat} (h : isFailing s jid = false) : endFailed s jid = s := by
  simp [endFailed, h]

section
variable {s t : State} {sp : Nat} {e : Seat} {r : BandReq} {rest : List BandReq}

/-- A request none of whose blocks has come asks for its receivers once what can start has started. -/
theorem startBroadcast_fresh (he : seatOf s sp = some e) (hq : (getCtx s e.phys).bandq = r :: rest) (hg : r.got = 0)
    (ht : t = (seatsOf s e.job).foldl settleSeat s) :
    startBroadcast s sp =
      match receivers t e.job r with
      | none => endFailed t e.job
      | some es =>
        if isFailing t e.job || bandBusy t e.job r (completedAt t es) then endFailed t e.job
        else if (List.range r.nb).any (fun n => tierOutside t e r.tier r.src (blockAt r n) (blockStride r.wfmt)) then
          programError t e.job stBounds ((es.head?).getD e).rank ((((getCtx t ((es.head?).getD e).phys).bandq.head?).map BandReq.at_).getD 0) 2
        else endFailed (deliver ((es.head?).getD e) r es r.nb 0 t) e.job := by
  subst ht
  simp only [startBroadcast, he, hq, hg]
  rfl

/-- A request that some of its blocks have reached goes on. -/
theorem startBroadcast_underWay (he : seatOf s sp = some e) (hq : (getCtx s e.phys).bandq = r :: rest) (hg : r.got ≠ 0)
    (ht : t = (seatsOf s e.job).foldl settleSeat s) :
    startBroadcast s sp =
      endFailed (deliver (((receiving t e.job r).head?).getD e) r (receiving t e.job r) (r.nb - r.got) r.got t) e.job := by
  subst ht
  simp only [startBroadcast, he, hq]
  rw [if_pos hg]

end

/-- Settles O23: joining by the queue's length, starting by `receivers`, and a delivery block by block. -/
theorem theBand : Obligations.TheBand := by
  unfold Obligations.TheBand
  refine ⟨?joins, ?full, ?starts, ?goesOn, ?block, ?noRoom, ?receive, ?missing, ?busy, ?outside⟩
  case joins =>
    intro sp w s t e j h ho hl
    refine congrArg _ ((present_issues h (decide_eq_true ho) _).trans ?_)
    simp only [issueBand, Nat.not_le.2 hl, if_false]
  case full =>
    intro sp w s t e j h ho hl
    refine congrArg _ ((present_issues h (decide_eq_true ho) _).trans ?_)
    simp only [issueBand, hl, if_true]
  case starts =>
    intro sp s t e r rest es he hq hg ht hr hf hb ho
    refine congrArg _ ((startBroadcast_fresh he hq hg ht).trans ?_)
    simp only [hr, hf, hb, ho, Bool.or_self, Bool.false_eq_true, if_false]
  case goesOn =>
    intro sp s t e r rest he hq hg ht
    exact congrArg _ (startBroadcast_underWay he hq hg ht)
  case block =>
    intro s u e r es n k bs hf hs hr
    unfold isFailing at hf
    simp only [deliver, hf, hs, hr, Bool.not_false, Bool.and_false, Bool.false_eq_true, if_false]
  case noRoom =>
    intro s e r es n k hf hs
    unfold isFailing at hf
    simp only [deliver, hf, hs, Bool.not_false, Bool.and_self, if_true]
  case receive =>
    intro s e k b rest hq
    have hx : (getSpn s e.phys).ctx.bandq = b :: rest := hq
    simp [getCtx, Machine.receive, hx]
  case missing =>
    intro sp s t e r rest he hq hg ht hr hf
    refine congrArg _ ((startBroadcast_fresh he hq hg ht).trans ?_)
    simp only [hr, endFailed_sound hf]
  case busy =>
    intro sp s t e r rest es he hq hg ht hr hf hb
    refine congrArg _ ((startBroadcast_fresh he hq hg ht).trans ?_)
    simp only [hr, hb, Bool.or_true, if_true, endFailed_sound hf]
  case outside =>
    intro sp s t e l r r' rest q es he hq hg ht hr hl hf hb ho
    refine congrArg _ ((startBroadcast_fresh he hq hg ht).trans ?_)
    simp only [hr, hf, hb, ho, Bool.or_self, Bool.false_eq_true, if_false, if_true, List.head?_cons, Option.getD_some, hl, Option.map_some]

/-! ### Semaphores (R114-R117) -/

/-- A SIGNAL adds N to its semaphore and to no other (R114). -/
theorem semValue_applySig {s : State} {e : Seat} (g : PendSig) (n : Nat) (h : (lookup s.slices e.slice).isSome = true) :
    semValue (applySig s e g) e.slice n = if n = g.sem then semValue s e.slice n + g.n else semValue s e.slice n := by
  obtain ⟨x, hx⟩ := Option.isSome_iff_exists.1 h
  have hslices : (applySig s e g).slices =
      (modSlice s e.slice (fun x => { x with sems := writeD 0 x.sems g.sem (readD 0 x.sems g.sem + g.n) })).slices := by
    unfold applySig
    dsimp only
    split <;> rfl
  unfold semValue
  rw [hslices, lookup_modSlice, if_pos rfl, hx]
  simp only [Option.map_some, readD_writeD]
  split <;> simp_all

/-- A rank that yields with its six pages leaves its spindle, its context saved (R116, R317). -/
theorem yieldRank_got {t u : State} {e : Seat} (sem : Nat) (hi : (getCtx t e.phys).issued = []) (hb : (getCtx t e.phys).bandq = [])
    (hs : (getCtx t e.phys).sigs = []) (hm : mayHold t e.slice 6 = true) (ho : obtainPages t e.slice 6 = .got u) :
    PortsOnly (modSpn (modJob (foldRank u e.job e.rank) e.job (fun j =>
        { j with saved := insertKey j.saved e.rank (getCtx t e.phys), rankStates := j.rankStates.set e.rank .yielded,
                 touched := j.touched.filter (fun t => t.1 ≠ e.rank) })) e.phys (fun x =>
        { x with rank := none, ctx := leaveCtx x.ctx,
                 affinity := ((lookup u.jobs e.job).map (fun j => j.skeins.filter (fun h => h ≠ 0xFFFFFFFF))).getD [] })) (yieldRank t e sem) := by
  simp only [yieldRank, hi, hb, hs, hm, ho]
  split
  · rename_i h
    simp at h
  · split
    · exact portsOnly_postSliceEvent _ _ _ _
    · exact PortsOnly.refl _

/-- Settles O24: SIGNAL and WAIT at the position, the effect of the oldest pending SIGNAL, and the yield. -/
theorem semaphores : Obligations.Semaphores := by
  unfold Obligations.Semaphores
  refine ⟨?joins, ?full, ?effect, ?bad, fun s e g n h => semValue_applySig g n h, ?passes, ?stays, ?yields, ?yielded⟩
  case joins =>
    intro sp w s t e j h ho hl
    refine congrArg _ ((present_issues h (decide_eq_true ho) _).trans ?_)
    simp only [issueSignal, Nat.not_le.2 hl, if_false]
  case full =>
    intro sp w s t e j h ho hl
    refine congrArg _ ((present_issues h (decide_eq_true ho) _).trans ?_)
    simp only [issueSignal, hl, if_true]
  case effect =>
    rintro sp s _ e g rest he rfl hs hq hf hr hb
    simp only [exec, execSignalEffect, he, Option.isNone_eq_false_iff.2 hs, hq, hf, hr, hb, Bool.not_true, Bool.or_self, Bool.false_eq_true, if_false]
  case bad =>
    rintro sp s _ e g rest he rfl hs hq hf hr hb
    simp only [exec, execSignalEffect, he, Option.isNone_eq_false_iff.2 hs, hq, hf, hr, hb, Bool.not_true, Bool.or_self, Bool.false_eq_true, if_false,
      if_true]
  case passes =>
    intro sp w s t e j h ho hn
    refine congrArg _ ((present_issues h (decide_eq_true ho) _).trans ?_)
    simp only [issueWait, hn, if_true]
  case stays =>
    intro sp w s t e j h ho hn hd
    refine congrArg _ ((present_issues h (decide_eq_true ho) _).trans ?_)
    obtain ⟨-, -, -, hj, -, -⟩ := h
    simp only [issueWait, Nat.not_le.2 hn, if_false, hj, Option.bind_some, hd, if_true]
  case yields =>
    intro sp w s t e j h ho hn hd
    refine congrArg _ ((present_issues h (decide_eq_true ho) _).trans ?_)
    obtain ⟨-, -, -, hj, -, -⟩ := h
    simp only [issueWait, Nat.not_le.2 hn, if_false, hj, Option.bind_some, hd, Option.isSome_none, Bool.false_eq_true]
  case yielded =>
    intro t u e sem hi hb hs hm ho
    have hy := yieldRank_got sem hi hb hs hm ho
    refine ⟨?_, fun j hj => ?_⟩
    · rw [getSpn, hy.spindles]
      exact congrArg Spindle.rank (getSpn_modSpn_same _ _ _)
    · rw [hy.jobs, modSpn_jobs, lookup_modJob, if_pos rfl, hj]
      rfl

/-! ### WORK, SHAPE, FENCE (R110, R111, R118, R119) -/

@[simp] theorem getCtx_modCtx_same (s : State) (p : Nat) (f : Ctx → Ctx) : getCtx (modCtx s p f) p = f (getCtx s p) := by
  simp [getCtx, modCtx]

/-- Settles O25: each row is its meaning at the rank's position; the loop's frame is that of one context update. -/
theorem loopsShapesFences : Obligations.LoopsShapesFences := by
  unfold Obligations.LoopsShapesFences
  refine ⟨?localIn, ?localOut, ?counterIn, ?counterOut, ?init, ?enter, ?leave, ?shape, ?shapeBad, ?fence, ?fenceWaits⟩
  case localIn =>
    rintro sp w s t e j _ h ho hm rfl hl
    refine congrArg _ ((present_issues h (by simp [ho, hm]) _).trans ?_)
    cases hc : (getCtx t e.phys).loop <;> simp_all [workLocalGo]
  case localOut =>
    rintro sp w s t e j _ h ho hm rfl hl
    refine congrArg _ ((present_issues h (by simp [ho, hm]) _).trans ?_)
    cases hc : (getCtx t e.phys).loop <;> simp_all [workLocalGo]
  case counterIn =>
    intro sp w s t e j x h ho hm hx hl
    refine congrArg _ ((present_issues h (by simp [ho, hm]) _).trans ?_)
    simp only [workCounterGo, hx, Nat.not_le.2 hl, if_false]
  case counterOut =>
    intro sp w s t e j x h ho hm hx hl
    refine congrArg _ ((present_issues h (by simp [ho, hm]) _).trans ?_)
    simp only [workCounterGo, hx, hl, if_true]
  case init =>
    intro sp w s t e j h ho hm
    exact congrArg _ (present_issues h (by simp [ho, hm]) _)
  case enter =>
    intro w i n e t
    simp [enterLoop]
  case leave =>
    intro w e t
    simp [leaveLoop]
  case shape =>
    intro sp w s t e j h ho hlo hhi
    refine congrArg _ ((present_issues h (decide_eq_true ho) _).trans ?_)
    obtain ⟨-, -, -, hj, -, -⟩ := h
    simp only [shapeGo, hj]
    rw [if_neg (by omega)]
  case shapeBad =>
    intro sp w s t e j h ho hv
    refine congrArg _ ((present_issues h (decide_eq_true ho) _).trans ?_)
    obtain ⟨-, -, -, hj, -, -⟩ := h
    simp only [shapeGo, hj]
    rw [if_pos hv]
  case fence =>
    intro sp w s t e j h ho hc
    refine congrArg _ ((present_issues h (decide_eq_true ho) _).trans ?_)
    simp only [fenceGo, hc, if_true]
  case fenceWaits =>
    intro sp w s t e j h ho hc
    refine congrArg _ ((present_issues h (decide_eq_true ho) _).trans ?_)
    simp only [fenceGo, hc, Bool.false_eq_true, if_false]

end Sys2Proof.Machine
end

section
/-! Jobs outside drafts (07 R125-R127; 15 R310, R319-R324). -/

namespace Sys2Proof.Machine

section
variable {s t : State} {op job : Nat} {o : Op} {j : Job}

/-! ### Issue -/

/-- A job that may be issued takes its place, and its shape table decides it. -/
theorem execJobIssue_decides (hj : lookup s.jobs op = some j) (hp : j.phase = .submitted) (hd : j.draft = none) (hv : starved s j = false)
    (hl : j.place = none) (hm : mayIssue s op j = true) (ha : awake s 2 = true) (hs : statusLines s j = []) (ht : t = takePlace s op) :
    execJobIssue op s =
      match shapeDecision t j.port j.slice j.shapesAddr with
      | .wait u => .next u
      | .ends u st d r => .next (endJob u op st d r)
      | .run u vals => .next (modJob u op (fun j => { j with shapes := vals, phase := .ready, waitSince := u.clock })) := by
  subst ht
  simp only [execJobIssue, hj, hp, hd, hv, hl, hm, ha, hs]
  rfl

/-! ### Saved contexts -/

/-- Where no context is saved, or no word of the pool is uncorrectable, none is lost (R325). -/
theorem withContexts_readable (h : (j.saved.isEmpty || s.memStacks.all (fun k => k.uncorr.isEmpty)) = true) (k : State → State) :
    withContexts s job j k = k s := by
  simp only [withContexts, contextLost, h, if_true]

/-! ### JOB_ABORT (R322) -/

theorem abortJob_idle (hj : lookup s.jobs job = some j) (hi : jobIdle j = true) (hp : j.phase ≠ .frozen) :
    abortJob s job = endJob s job stAborted 0 0 := by
  simp only [abortJob, hj]
  split
  case h_1 h => exact absurd h hp
  case h_2 => rw [if_pos hi]

theorem abortJob_running (hj : lookup s.jobs job = some j) (hi : jobIdle j = false) :
    abortJob s job = modJob s job (fun j => { j with abortAtEnd := some (stAborted, 0) }) := by
  simp only [abortJob, hj]
  split
  case h_1 h => simp [jobIdle, h] at hi
  case h_2 => rw [hi, if_neg (by decide)]

/-- A JOB_ABORT that names no job. -/
theorem execJobAbort_noTarget (h : Ready s op 0x21 4 o) (ht : abortTarget (started s op 4) o = none) :
    execJobAbort op s = .next (
      if o.phase ≠ .fetched then finishOk (started s op 4) op 0
      else
        match abortUnissued (started s op 4) op o with
        | some id => finishOk (fail (started s op 4) id stAborted 0) op 0
        | none => fail (started s op 4) op stBounds 8) := by
  simp only [execJobAbort, runOp_ready h, ht] <;> rfl

end

/-- Settles O26: submission by its checks, issue by the shape table, dispatch and resumption by what they seat, an abort by its target. -/
theorem jobsOutsideDrafts : Obligations.JobsOutsideDrafts := by
  unfold Obligations.JobsOutsideDrafts
  refine ⟨?submit, ?checked, ?issue, ?place, ?issueEnds, ?issueWaits, ?starves, ?dispatch, ?tooLong, ?abort, ?abortNone, ?abortUnissued,
    ?abortLater, fun _ _ _ => abortJob_idle, fun _ _ _ => abortJob_running, ?resume⟩
  case submit =>
    rintro op o s _ _ h rfl hj ha hlo hhi hp hn hr hh rfl hb hr2 hh1 hh2
    have hj' : lookup (started s op 2).jobs op = none := by rw [started_jobs]; exact hj
    simp only [exec, execJobSubmit, runOp_ready h, hj']
    rw [if_neg (by decide), checks_clear, withPartner_reach hr, if_neg (by rw [hh]; decide), hb]
    · dsimp only
      rw [withPartner_reach hr2, if_neg (by rw [hh1]; decide), if_neg (by rw [hh2]; simp)]
    · simp only [clear_cons]
      simp [ha, Nat.ne_of_gt hlo, hhi, hp, hn]
  case checked =>
    intro op o t b pb hd hr hb hc
    simp only [submitChecked, hd, List.range_zero, List.filter_nil, List.map_nil, List.find?_nil, hb, hc, Nat.not_lt.2 hr, if_false]
  case issue =>
    intro op s t u j vals hj hp hd hv hl hm ha hs ht hr
    refine (execJobIssue_decides hj hp hd hv hl hm ha hs ht).trans ?_
    rw [hr]
  case place => exact fun op s => by simp only [takePlace]
  case issueEnds =>
    intro op s t u j st d r hj hp hd hv hl hm ha hs ht hr
    refine (execJobIssue_decides hj hp hd hv hl hm ha hs ht).trans ?_
    rw [hr]
  case issueWaits =>
    intro op s t u j hj hp hd hv hl hm ha hs ht hr
    refine (execJobIssue_decides hj hp hd hv hl hm ha hs ht).trans ?_
    rw [hr]
  case starves =>
    intro op s j hj hp hd hv
    simp only [exec, execJobIssue, hj, hp, hd, hv]
    rfl
  case dispatch =>
    intro job s j sps hj hp hd hh ht hw hv ha hq hm hs hl hc
    simp only [exec, execJobDispatch, hj, waitsDispatch, hp, hd, hh, ht, hw, hv, ha, hq, hm, hs, hl, withContexts_readable hc]
    rfl
  case tooLong =>
    intro job since s j hj hp hd hs hf hr
    simp only [exec, execJobStepTimeLimit, hj, hp, hd, hs, hf, hr]
    rfl
  case abort =>
    rintro op jid o s _ h hp ht rfl
    simp only [exec, execJobAbort, runOp_ready h, ht, hp, if_true]
  case abortNone =>
    intro op o s h hp ht hu
    refine (execJobAbort_noTarget h ht).trans ?_
    rw [if_neg (not_not_intro hp), hu]
  case abortUnissued =>
    intro op id o s h hp ht hu
    refine (execJobAbort_noTarget h ht).trans ?_
    rw [if_neg (not_not_intro hp), hu]
  case abortLater =>
    intro op o s h hp ht
    refine (execJobAbort_noTarget h ht).trans ?_
    rw [if_pos hp]
  case resume =>
    intro job since l rank s j c w hj hc hp hr hw hn hh hab hf ha hb hu
    simp only [exec, execRankResume, hj, hc, hp, hr, hw, hh, hab, hf, ha, hb]
    rw [withContexts_readable (by rw [hu, Bool.or_true])]
    simp [hn]

end Sys2Proof.Machine
end

section
/-! Plies and scheduled slots (10 R184, R185, R191, R197-R199; 11 R211). -/

namespace Sys2Proof.Machine

/-! ### PLY_REFORM -/

/-- What the exchange among the members comes to, the table having been read: a ply and `ok`, or SPLIT with its cause (R197 steps 3 and 4). -/
def exchanged (s : State) (id : Nat) (o : Op) (t : List Byte) (ok : Ply → State → State) : PlyExchange → State
  | .digestDiffers => fail s id stSplit 1
  | .unreachable => fail s id stSplit 2
  | .tooFar => fail s id stSplit 3
  | .formed d hops beat =>
    if d > 48 || hops > 24 then fail s id stSplit 3
    else
      let p := newPly s o t d hops
      let s := adoptNumbering s (memberAnchor t p.self) hops beat
      let s := { s with plies := insertKey s.plies (o.f 21 1) p }
      if s.trd.load.isSome then markFormed s id else ok p s

section
variable {s t : State} {op d hops : Nat} {o : Op} {b : List Byte} {p : Ply}

/-- A PLY_REFORM whose table reads comes to its exchange. -/
theorem formPly_reads (hl : o.left = none) (hc : Clear (reformChecks t o)) (hr : Reaches t o [(o.f 8 8, 4 * o.f 16 2, false)])
    (hh : homeFails t o.port (o.f 8 8) (4 * o.f 16 2) = false) (hb : b = readPartner t o.port (o.f 8 8) (4 * o.f 16 2))
    (hm : membershipBad t b (o.f 16 2) (o.f 18 2) = false) (found : PlyExchange) (ok : Ply → State → State) :
    formPly t op o found ok = exchanged t op o b ok found := by
  subst hb
  unfold formPly
  rw [hl]
  dsimp only
  rw [checks_clear hc, withPartner_reach hr, if_neg (by simp [hh, hm])]
  cases found <;> rfl

/-- A ply that was formed goes on once the beat counter is loaded. -/
theorem formPly_formed {l : List Nat} (hl : o.left = some l) (hp : lookup t.plies (o.f 21 1) = some p) (hn : t.trd.load = none)
    (found : PlyExchange) (ok : Ply → State → State) : formPly t op o found ok = ok p t := by
  unfold formPly
  rw [hl, hp]
  dsimp only
  rw [if_neg (by simp [hn])]

/-- Within the 48 and 24 of R197 the ply is formed. -/
theorem exchanged_formed {u : State} {beat : Nat} (ok : Ply → State → State) (hd : d ≤ 48) (hh : hops ≤ 24) (hp : p = newPly t o b d hops)
    (hu : u = { adoptNumbering t (memberAnchor b p.self) hops beat with
                plies := insertKey (adoptNumbering t (memberAnchor b p.self) hops beat).plies (o.f 21 1) p }) :
    exchanged t op o b ok (.formed d hops beat) = if u.trd.load.isSome then markFormed u op else ok p u := by
  subst hp hu
  exact if_neg (by simp [hd, hh])

theorem execPlyReformForm_ready (h : Ready s op 0x7C 2 o) (ho : o.f 20 1 = 0) (found : PlyExchange) :
    exec (.plyReformForm op found) s =
      .next (formPly (started s op 2) op o found (fun p s => finishOk s op (reformResult p.v p.d p.hops))) := by
  simp only [exec, execPlyReformForm]
  rw [runRow_ready h _ _ (by simp [ho])]

theorem execPlyReformResume_ready (h : Ready s op 0x7C 2 o) (ho : o.f 20 1 = 1) (found : PlyExchange) :
    exec (.plyReformResume op found) s = .next (formPly (started s op 2) op o found (fun p s => resumeDraftIn s op o p)) := by
  simp only [exec, execPlyReformResume]
  rw [runRow_ready h _ _ (by simp [ho])]

/-- With the checks of R198 passed the frozen draft is bound to DRAFT. -/
theorem resumeDraftIn_binds {v : State} {jid total : Nat} {j : Job} {r : DraftRun} (hf : frozenDraft v (o.f 21 1) = some (jid, j, r))
    (ht : total = ((lookup v.drafts (o.f 24 4)).map (resumedTotal v r)).getD 0) (hb : resumeBad v (o.f 21 1) p r (o.f 24 4) = false)
    (hs : o.f 32 8 < total) (ho : v.trd.beat + p.v + 8 ≤ o.f 40 8) :
    resumeDraftIn v op o p = finishOk (writeStartBlock (bindDraft v jid o (o.f 24 4) total) jid) op (reformResult p.v p.d p.hops) := by
  subst ht
  simp only [resumeDraftIn, hf]
  rw [checks_clear]
  simp only [clear_cons, hb]
  simp [hs, ho]

end

/-- Settles O27: each outcome is one of the exchange, after which the command goes on at once or once the numbering is loaded. -/
theorem plies : Obligations.Plies := by
  unfold Obligations.Plies
  refine ⟨?formed, ?awaits, ?loaded, ?differs, ?unreachable, ?tooFar, ?resumed, ?resumedLater, ?dissolved⟩
  case formed =>
    rintro op d hops beat o s _ u b p h ho rfl hl hc hr hh hb hm hd hn hp hu hload
    rw [execPlyReformForm_ready h ho, formPly_reads hl hc hr hh hb hm, exchanged_formed _ hd hn hp hu, hload]
    rfl
  case awaits =>
    rintro op d hops beat o s _ u b p h ho rfl hl hc hr hh hb hm hd hn hp hu hload
    rw [execPlyReformForm_ready h ho, formPly_reads hl hc hr hh hb hm, exchanged_formed _ hd hn hp hu,
      if_pos (Option.ne_none_iff_isSome.1 hload)]
  case loaded =>
    rintro op found o s _ l p h ho rfl hl hp hn
    rw [execPlyReformForm_ready h ho, formPly_formed hl (by rw [started_plies]; exact hp) (by rw [started_trd]; exact hn)]
  case differs =>
    rintro op o s _ b h ho rfl hl hc hr hh hb hm
    rw [execPlyReformForm_ready h ho, formPly_reads hl hc hr hh hb hm]
    rfl
  case unreachable =>
    rintro op o s _ b h ho rfl hl hc hr hh hb hm
    rw [execPlyReformForm_ready h ho, formPly_reads hl hc hr hh hb hm]
    rfl
  case tooFar =>
    rintro op d hops beat o s _ b h ho rfl hl hc hr hh hb hm hd
    rw [execPlyReformForm_ready h ho, formPly_reads hl hc hr hh hb hm, exchanged, if_pos (by simpa using hd)]
  case resumed =>
    rintro op d hops beat jid total o s _ _ v b p j r h ho rfl hl hc hr hh hb hm hd hn hp rfl hv hload hf ht hbad hs hstart
    rw [execPlyReformResume_ready h ho, formPly_reads hl hc hr hh hb hm, exchanged_formed _ hd hn hp hv, hload]
    exact congrArg _ (resumeDraftIn_binds hf ht hbad hs hstart)
  case resumedLater =>
    rintro op jid total found o s _ l p j r h ho rfl hl hp hn hf ht hbad hs hstart
    rw [execPlyReformResume_ready h ho, formPly_formed hl (by rw [started_plies]; exact hp) (by rw [started_trd]; exact hn),
      resumeDraftIn_binds hf ht hbad hs hstart]
  case dissolved =>
    intro op o s p h ho hq hp hid hj
    simp only [exec, execPlyReformDissolve]
    rw [runRow_ready h _ _ (by simp [ho]), checks_clear]
    simp only [clear_cons, started_plies, hp, hj]
    simp [hq, hid]

/-! ### Slots (R184, R191) -/

section
variable {s u : State} {job : Nat} {j : Job} {d : DraftRun} {r : StepRec}

/-- An access that answers goes on, noted for the job's step. -/
theorem slotTouch_ready {q tier addr n : Nat} {wr : Bool} (h : touch s q tier addr n wr = .ready u) (i : Nat) (k : State → State) :
    slotTouch s job q i tier addr n wr k = k (noteTouched u job 48 tier addr n) := by
  simp only [slotTouch, h]

/-- An entry of the running step that waits, its BEAT having come, opens by its KIND. -/
theorem openSlot_due {idx : Nat} {e : SlotEnt} (hj : lookup s.jobs job = some j) (hr : runningStep s j = some (d, r)) (hh : s.ras.halted = false)
    (hf : j.failing = none) (he : r.slots[idx]? = some e) (hw : d.slots[idx]? = some .waiting) (hb : d.start + e.beat ≤ s.trd.beat) :
    openSlot s job idx =
      if e.kind = 1 then openTransmit s job j r e idx else if e.kind = 4 then openReduction s job j d r e idx else s := by
  simp only [openSlot, hj, hr, hh, hf, he, hw, Nat.not_lt.2 hb]
  rfl

/-- A transfer of this step that its entry waits for and whose bytes agree is taken. -/
theorem scheduledTransfer_taken {i : Nat} {link : Fin 96} {hdr : SlotHeader} {data : List Byte} {e : SlotEnt} (hj : lookup s.jobs job = some j)
    (hr : runningStep s j = some (d, r)) (hh : s.ras.halted = false) (hf : j.failing = none) (hs : hdr.step = j.step)
    (he : (r.slots.zipIdx).find? (fun f => takesOn s j.slice r link.val f.1 f.2 && ordOf r (takesOn s j.slice r link.val) f.1 f.2 = hdr.ord) = some (e, i))
    (hw : d.slots[i]? = some .waiting) (hb : hdr.bytes = expectedBytes r e hdr) (hn : data.length = hdr.bytes) :
    exec (.scheduledTransfer job link hdr data) s =
      .next (transferTaken (takeTransfer s job j r link.val e i data) job j.slice link.val i e data.length) := by
  simp only [exec, execScheduledTransfer, hj, hr, hh, hf, he, hs, decide_true]
  rw [if_neg (by decide), if_neg (not_not_intro hw), if_neg (by simp [← hb, hn])]

end

/-- Settles O28: an open slot by its KIND, a matched transfer by what its entry takes, the others by the fault they are. -/
theorem scheduledSlots : Obligations.ScheduledSlots := by
  unfold Obligations.ScheduledSlots
  refine ⟨?transmit, ?gate, ?result, ?early, ?written, ?forwarded, ?joined, ?resultIn, ?metered, ?stillWaits, ?otherStep, ?otherBytes⟩
  case transmit =>
    rintro job idx s u _ j d r e hj hr hh hf he hw hb hk hg ht rfl
    refine congrArg _ ((openSlot_due hj hr hh hf he hw hb).trans ?_)
    rw [if_pos hk, openTransmit, if_neg (by simpa [← or_iff_not_imp_left] using hg), slotTouch_ready ht]
  case gate =>
    intro job idx s j d r e hj hr hh hf he hw hb hk hs hg
    refine congrArg _ ((openSlot_due hj hr hh hf he hw hb).trans ?_)
    rw [if_pos hk, openTransmit, if_pos (by simp [hs, hg])]
  case result =>
    intro job idx k s j d r e red x acc hj hr hh hf he hw hb hk hred hrole hx hwr hacc
    refine congrArg _ ((openSlot_due hj hr hh hf he hw hb).trans ?_)
    simp only [hk, openReduction, hred, hrole, hx, hwr, hacc]
    rfl
  case early =>
    intro job idx s j d r e hj hr hh he hb
    simp only [exec, execSlotOpen, openSlot, hj, hr, he, hb, decide_true, Bool.or_true, if_true, ite_self]
  case written =>
    intro job i link hdr data s j d r e u hj hr hh hf hs he hw hk hb hn ht
    rw [scheduledTransfer_taken hj hr hh hf hs he hw (by simp [expectedBytes, hk, hb]) (hn.trans hb.symm), takeTransfer, if_pos hk, slotTouch_ready ht]
  case forwarded =>
    intro job i link hdr data s j d r e hj hr hh hf hs he hw hk hn
    rw [scheduledTransfer_taken hj hr hh hf hs he hw (by simp [expectedBytes, hk]) hn, takeTransfer, if_neg (by simp [hk]), if_pos hk]
  case joined =>
    intro job i link hdr data s j d r e k red hj hr hh hf hs he hw hk hred hrole hb hn
    rw [scheduledTransfer_taken hj hr hh hf hs he hw (by simp [expectedBytes, hk, hred, hb]) hn, takeTransfer, if_neg (by simp [hk]),
      if_neg (by simp [hk]), hred, hrole]
  case resultIn =>
    intro job i link hdr data s j d r e k red u hj hr hh hf hs he hw hk hred hrole hb hn ht
    rw [scheduledTransfer_taken hj hr hh hf hs he hw (by simp [expectedBytes, hk, hred, hb]) hn, takeTransfer, if_neg (by simp [hk]),
      if_neg (by simp [hk]), hred, hrole]
    dsimp only
    rw [slotTouch_ready ht]
  case metered =>
    intro s job q link i n e d hd hw
    simp only [transferTaken, hd, Option.bind_some]
    cases hx : d.slots[i]? with
    | none => rfl
    | some w =>
      cases w with
      | waiting => exact absurd hx hw
      | received => rfl
      | sent => rfl
  case stillWaits =>
    intro s job q link i n e d hd hw
    simp only [transferTaken, hd, Option.bind_some, hw]
    rfl
  case otherStep =>
    intro job link hdr data s j d r hj hr hh hf hs
    refine ⟨(draw s).1, ?_⟩
    simp only [exec, execScheduledTransfer, hj, hr, hh, hf, hs, decide_false]
    rw [if_neg (by decide)]
    generalize List.find? _ _ = found
    cases found <;> rfl
  case otherBytes =>
    intro job i link hdr data s j d r e hj hr hh hf hs he hw hb
    simp only [exec, execScheduledTransfer, hj, hr, hh, hf, he, hs, decide_true]
    rw [if_neg (by decide), if_neg (not_not_intro hw), if_pos (by simpa using hb)]

end Sys2Proof.Machine
end

section
/-! Strand lanes and the flits they bring (11 R202-R209, R212, R213). -/

namespace Sys2Proof.Machine

/-! ### Training (R202, R209) -/

section
variable {s : State} {n : Fin 104} {far : FarEnd}

/-- Ends that agree bring the lane up with what the training found. -/
theorem endTraining_agree (hf : far.fecLL = (getLane s n.val).ctrlFec) (hb : far.bond = (getLane s n.val).ctrlBond) :
    endTraining s n.val far = reportUp (laneComesUp
      (modLane (modLane s n.val (fun x => noteTraining x far)) n.val (adoptCtrl (decide (s.pwr.state = 4)))) n.val) n.val (getLane s n.val).downSaid :=
  if_neg (by simp [hf, hb])

/-- Ends that differ leave the lane down with CFG_ERR. -/
theorem endTraining_differ (h : far.fecLL ≠ (getLane s n.val).ctrlFec ∨ far.bond ≠ (getLane s n.val).ctrlBond) :
    endTraining s n.val far = modLane (modLane s n.val (fun x => noteTraining x far)) n.val (fun x => { x with cfgErr := true, retraining := false }) :=
  if_pos (by simpa using h)

theorem execLaneTrainingComplete_trains (he : (getLane s n.val).en = true) (hu : (getLane s n.val).up = false) (hf : (getLane s n.val).trainFails < 3) :
    exec (.laneTrainingComplete n far) s = .next (endTraining s n.val far) :=
  if_neg (by simp [he, hu, hf])

theorem execRetrainComplete_retraining (h : (getLane s n.val).retraining = true) :
    exec (.retrainComplete { lane := n, far := far }) s = .next (endTraining s n.val far) :=
  if_pos h

end

/-- Settles O29: each row of a lane is one branch of `endTraining`, of the count of failed retrains or of EN. -/
theorem lanes : Obligations.Lanes := by
  unfold Obligations.Lanes
  refine ⟨?trained, ?differ, ?failed, ?retrained, ?retrainDiffer, ?again, ?down, ?off, ?on, ?stays, ?acks, ?timeout, ?begins⟩
  case trained =>
    intro n far s he hu ht hf hb
    rw [execLaneTrainingComplete_trains he hu ht, endTraining_agree hf hb]
  case differ =>
    intro n far s he hu ht hd
    rw [execLaneTrainingComplete_trains he hu ht, endTraining_differ hd]
  case failed =>
    intro n far s ht
    exact if_pos (by simp [ht])
  case retrained =>
    intro n far s hr hf hb
    rw [execRetrainComplete_retraining hr, endTraining_agree hf hb]
  case retrainDiffer =>
    intro n far s hr hd
    rw [execRetrainComplete_retraining hr, endTraining_differ hd]
  case again =>
    intro n s hr ht
    exact (if_neg (by simp [hr])).trans (if_pos (Nat.succ_lt_succ ht))
  case down =>
    rintro n s _ hr ht rfl
    exact (if_neg (by simp [hr])).trans (if_neg (by omega))
  case off =>
    rintro who n v s _ hw hv rfl
    simp only [exec, execLaneDisable, ctlWrite_pass hw, hv]
    rfl
  case on =>
    intro who n v s hw hv he
    simp only [exec, execLaneEnable, ctlWrite_pass hw, hv, enableLane, he]
    rfl
  case stays =>
    intro who n v s hw hv he
    simp only [exec, execLaneEnable, ctlWrite_pass hw, hv, enableLane, he, if_true]
  case acks =>
    intro n s hl hu
    exact if_pos (by simp [hl, hu])
  case timeout =>
    intro n s h hh hu hr hc
    simp only [exec, execAckseqTimeout, hh, hu]
    rw [if_pos (by simp [hr, hc])]
  case begins =>
    intro s n
    rfl

/-! ### Flits (R206, R208) -/

section
variable {s t u v : State} {n : Fin 104} {ty h : Nat} {f : Flit}

/-- A flit of the expected TYPE with a good CRC, on a lane that is up: it is counted, its STALL is taken, and its SEQ decides. -/
theorem receiveFlit_good (ht : f.hdr.toNat % 16 = ty) (hup : (getLane s n.val).up = true) (hc : crcGood f = true)
    (hcnt : t = modLane s n.val (fun x => { x with ctr := { x.ctr with rx := x.ctr.rx + 1 } })) (hh : headOf t (linkOf s n.val) = some h)
    (hu : u = modLink t h (fun k => takeStall k f)) :
    receiveFlit s n.val ty f =
      if isSequenced ty && bits f.hdr.toNat 8 12 ≠ (getLane t h).link.expect then
        if withinSkew u (linkOf s n.val) (getLane t h).link f then modLink u h (fun k => { k with ahead := k.ahead ++ [f] })
        else if (getLane t h).link.waiting then pump u (linkOf s n.val)
        else pump (sendNak u (linkOf s n.val)) (linkOf s n.val)
      else pump (takeAhead (linkOf s n.val) h (getLane (acceptFlit u (linkOf s n.val) h f) h).link.ahead.length (acceptFlit u (linkOf s n.val) h f))
        (linkOf s n.val) := by
  subst hcnt hu
  unfold receiveFlit
  rw [if_neg (by simp [hup])]
  dsimp only
  rw [if_neg (by simp [hc]), if_neg (not_not_intro ht), hh]

/-- Not sequenced, or with the SEQ expected, it is accepted, with what came ahead of it. -/
theorem flitRow_accepted (ht : f.hdr.toNat % 16 = ty) (hup : (getLane s n.val).up = true) (hc : crcGood f = true)
    (hcnt : t = modLane s n.val (fun x => { x with ctr := { x.ctr with rx := x.ctr.rx + 1 } })) (hh : headOf t (linkOf s n.val) = some h)
    (hu : u = modLink t h (fun k => takeStall k f)) (hq : isSequenced ty = true → bits f.hdr.toNat 8 12 = (getLane t h).link.expect)
    (hv : v = acceptFlit u (linkOf s n.val) h f) :
    flitRow n ty f s = sendAllFlows (pump (takeAhead (linkOf s n.val) h (getLane v h).link.ahead.length v) (linkOf s n.val)) := by
  subst hv
  rw [flitRow, receiveFlit_good ht hup hc hcnt hh hu, if_neg (by simpa using hq)]

/-- A bad CRC is counted and answered with a NAK, whatever the TYPE of the row. -/
theorem flitRow_bad (ty : Nat) (hup : (getLane s n.val).up = true) (hc : crcGood f = false) :
    flitRow n ty f s = sendAllFlows (sendNak (modLane (draw s).2 n.val (fun x =>
      { x with ctr := { x.ctr with crcErr := sat32 (x.ctr.crcErr + 1), fecUncorr := sat32 (x.ctr.fecUncorr + (draw s).1 % 2) } })) (linkOf s n.val)) := by
  refine congrArg sendAllFlows ?_
  unfold receiveFlit
  rw [if_neg (by simp [hup])]
  exact if_pos (by simp [hc])

end

/-- Settles O30: one lemma for an accepted flit of any TYPE, one for a bad CRC, and the two ways of a SEQ that is not the next. -/
theorem flits : Obligations.Flits := by
  unfold Obligations.Flits
  refine ⟨?data, ?vote, ?nak, ?marker, ?ack, ?idle, ?takesData, ?takesVote, ?takesNak, ?takesOther, ?ahead, ?outOfOrder, ?bad, ?train⟩
  case data =>
    intro n f s t u v h ht hup hc hcnt hh hu hq hv
    exact congrArg _ (flitRow_accepted ht hup hc hcnt hh hu (fun _ => hq) hv)
  case vote =>
    intro n f s t u v h ht hup hc hcnt hh hu hq hv
    exact congrArg _ (flitRow_accepted ht hup hc hcnt hh hu (fun _ => hq) hv)
  case nak =>
    intro n f s t u v h ht hup hc hcnt hh hu hq hv
    exact congrArg _ (flitRow_accepted ht hup hc hcnt hh hu (fun _ => hq) hv)
  case marker =>
    intro n f s t u v h ht hup hc hcnt hh hu hv
    exact congrArg _ (flitRow_accepted ht hup hc hcnt hh hu (fun hs => absurd hs (by decide)) hv)
  case ack =>
    intro n f s t u v h ht hup hc hcnt hh hu hv
    exact congrArg _ (flitRow_accepted ht hup hc hcnt hh hu (fun hs => absurd hs (by decide)) hv)
  case idle =>
    intro n f s t u v h ht hup hc hcnt hh hu hv
    exact congrArg _ (flitRow_accepted ht hup hc hcnt hh hu (fun hs => absurd hs (by decide)) hv)
  case takesData =>
    intro u l h f ht
    simp [acceptFlit, ht, isSequenced]
  case takesVote =>
    intro u l h f ht
    simp [acceptFlit, ht, isSequenced]
  case takesNak =>
    intro u l h f ht
    simp [acceptFlit, ht, isSequenced]
  case takesOther =>
    rintro u l h f (ht | ht | ht) <;> simp [acceptFlit, ht, isSequenced]
  case ahead =>
    intro n f s t u h ht hup hc hcnt hh hu hq hk
    refine congrArg (fun x => Host.Outcome.next (sendAllFlows x)) ?_
    rw [receiveFlit_good ht hup hc hcnt hh hu, if_pos (by simpa using ⟨by decide, hq⟩), if_pos hk]
  case outOfOrder =>
    intro n f s t u h ht hup hc hcnt hh hu hq hk
    refine congrArg (fun x => Host.Outcome.next (sendAllFlows x)) ?_
    rw [receiveFlit_good ht hup hc hcnt hh hu, if_pos (by simpa using ⟨by decide, hq⟩), if_neg (by simp [hk])]
  case bad =>
    rintro n f s _ hup hc rfl
    have hbad (ty : Nat) := flitRow_bad (n := n) ty hup hc
    exact ⟨congrArg _ (hbad 1), congrArg _ (hbad 2), congrArg _ (hbad 3), congrArg _ (hbad 4), congrArg _ (hbad 5), congrArg _ (hbad 0)⟩
  case train =>
    intro n f s he
    exact if_neg (by simp [he])

end Sys2Proof.Machine
end

section
/-! The fabric: nodes and routes, endpoints, requests and their answers, the transactions of the strand descriptors (11 R214-R225; 15 R311). -/

namespace Sys2Proof.Machine

/-! ### FABRIC_SET (R214) -/

@[simp] theorem anyPly_started (s : State) (id need : Nat) : anyPly (started s id need) = anyPly s := by
  simp only [anyPly, started_plies]

/-- The node may be set: it stays, or no ply binds it. -/
theorem nodeFree {s : State} {node : Nat} (h : node = s.strand.node ∨ anyPly s = false) : (decide (node ≠ s.strand.node) && anyPly s) = false := by
  rcases h with h | h <;> simp [h]

/-! ### Endpoints (R218) -/

section
variable {s t u : State} {op : Nat} {o : Op} {k : Packet} {e : Endpoint}

/-- A STR_CLOSE of an endpoint of the operation's slice ends at once, or once what was admitted has finished. -/
theorem execStrClose_ready (h : Ready s op 0x89 3 o) (he : lookup s.strand.eps (o.f 8 2) = some e) (hs : e.slice = o.slice) (t : State)
    (ht : t = started s op 3) :
    exec (.strClose op) s = .next (if admittedTo t (o.f 8 2) then
        { t with strand := { t.strand with eps := insertKey t.strand.eps (o.f 8 2) { e with closing := true } } }
      else finishOk { t with strand := { t.strand with eps := removeKey t.strand.eps (o.f 8 2) } } op 0) := by
  subst ht
  simp only [exec, execStrClose]
  rw [runOp_ready h]
  simp only [started_strand, he]
  rw [if_neg (not_not_intro hs)]

/-! ### Requests (R219, R220) -/

variable {n opc perm len : Nat} {serve : State → Endpoint → Served}

/-- A request that arrives and was admitted is served on its endpoint and acknowledged. -/
theorem serveRequest_served (ho : k.op = opc) (ha : Arrives s n k t) (he : lookup t.strand.eps k.ep = some e) (hadm : admission s k perm len = stOk)
    (hs : serve t e = .done stOk u) : serveRequest s n opc perm len k serve = acknowledge (unqueue u k) k stOk := by
  rw [serveRequest, servePacket_arrives ha ho, hadm]
  exact applyPacket_done (by rw [he]; exact hs)

/-- A request that arrives and was not admitted is acknowledged with its status. -/
theorem serveRequest_refused (ho : k.op = opc) (ha : Arrives s n k t) (hadm : admission s k perm len ≠ stOk) :
    serveRequest s n opc perm len k serve = acknowledge (unqueue t k) k (admission s k perm len) := by
  rw [serveRequest, servePacket_arrives ha ho, applyPacket_refused hadm]

/-- A window that answers takes the request's bytes. -/
theorem storeAt_ready (hb : BufferReady t e.port e.slice e.tier (e.base + k.offset) k.data.length true u) (f : State → State) :
    storeAt t e k f = .done stOk (f (putBytes u e.port e.slice e.tier (e.base + k.offset) k.data)) := by
  rw [storeAt, reach_ready hb]

end

/-- Settles O31: FABRIC_SET and routing by their modes, a request by its admission, a flow by its order. -/
theorem fabricAndEndpoints : Obligations.FabricAndEndpoints := by
  unfold Obligations.FabricAndEndpoints
  refine ⟨?torus, ?table, ?inPly, ?goes, ?drops, ?here, ?opens, ?closes, ?closing, ?write, ?message, ?reduce, ?read, ?refused, ?outOfOrder,
    ?management, ?behind, ?again, ?waits⟩
  case torus =>
    rintro op o s _ sides h hm hn rfl rfl
    simp only [exec, execFabricSet]
    rw [runOp_ready h, checks_clear, if_pos hm]
    simp only [clear_cons, started_strand, anyPly_started, nodeFree hn, hm]
    exact ⟨rfl, rfl, trivial, rfl⟩
  case table =>
    rintro op o s _ routes h rfl hm ha hn hr hh hroutes
    simp only [exec, execFabricSet]
    have hm0 : o.f 12 1 ≠ 0 := by omega
    rw [runOp_ready h, checks_clear, if_neg hm0, withPartner_reach hr, if_neg (ne_true_of_eq_false hh), ← hroutes]
    simp only [clear_cons, started_strand, anyPly_started, nodeFree hn, hm, ha]
    exact ⟨rfl, rfl, trivial, rfl⟩
  case inPly =>
    intro op o s h hm hn hp
    simp only [exec, execFabricSet]
    rw [runOp_ready h, checks_fail (b := true) (st := stBounds) (d := 8)]
    simp only [started_strand, anyPly_started, hm, hp, decide_eq_true hn]
    rfl
  case goes =>
    intro n vc1 dim k s l vc hr
    simp only [exec, execPacketRoute, hr]
  case drops =>
    intro n vc1 dim k s hr
    simp only [exec, execPacketRoute, hr]
  case here =>
    intro n vc1 dim k s hr
    simp only [exec, execPacketRoute, hr]
  case opens =>
    rintro op o s _ h rfl hc hd
    simp only [exec, execStrOpen]
    rw [runOp_ready h, checks_clear hc, if_neg]
    simpa using hd
  case closes =>
    intro op o s e h he hs ha
    rw [execStrClose_ready h he hs _ rfl, if_neg (by simp [ha])]
  case closing =>
    intro op o s e h he hs ha
    rw [execStrClose_ready h he hs _ rfl, if_pos ha]
  case write =>
    intro n k s t u e ho ha he hadm hb
    exact congrArg _ (serveRequest_served ho ha he hadm (storeAt_ready hb _))
  case message =>
    intro n k s t u e ho ha he hadm hb
    exact congrArg _ (serveRequest_served ho ha he hadm (storeAt_ready hb _))
  case reduce =>
    intro n k s t u e ho ha he hadm h1 h3 hb
    refine (if_neg (by simp; omega)).trans (congrArg _ (serveRequest_served ho ha he hadm ?_))
    rw [reach_ready hb]
  case read =>
    intro n k s t u e ho ha he hadm hb
    refine congrArg _ (serveRequest_served ho ha he hadm ?_)
    rw [reach_ready hb]
  case refused =>
    intro n k s t ha
    refine ⟨fun ho hadm => congrArg _ (serveRequest_refused ho ha hadm), fun ho hadm => congrArg _ (serveRequest_refused ho ha hadm),
      fun ho hadm => congrArg _ (serveRequest_refused ho ha hadm), fun ho h1 h3 hadm => ?_⟩
    exact (if_neg (by simp; omega)).trans (congrArg _ (serveRequest_refused ho ha hadm))
  case outOfOrder =>
    intro n k s ho hr hw ha
    simp only [exec, execWritePacket, serveRequest, servePacket, ho, hr, hw, ha]
    simp
  case management =>
    intro n k s t ho ha
    simp only [exec, execManagementPacket]
    rw [servePacket_arrives ha ho]
    exact congrArg _ (applyPacket_done rfl)
  case behind =>
    rintro n op admitted k s _ serve ho hr hw ha rfl hb
    simp [servePacket, ho, hr, hw, ha, hb]
  case again =>
    intro n op k s w serve ho hr hw hb
    simp [servePacket, ho, hr, hw, hb]
  case waits =>
    intro s u k serve hs hw
    simp only [applyPacket, if_true, hs]
    exact if_neg (by simp [hw])

/-! ### Transactions (R222-R224) -/

section
variable {s t u : State} {op opcode : Nat} {o : Op}

/-- A buffer that is not another slice's and answers is used. -/
theorem withLocal_ready {tier addr n : Nat} {wr : Bool} (hd : tier = 0 → partnerDenied t o.port o.slice addr n = false)
    (hb : BufferReady t o.port o.slice tier addr n wr u) (ok : State → State) : withLocal t op o tier addr n wr ok = ok u := by
  unfold withLocal
  rw [if_neg (by simpa using hd), reach_ready hb]
  exact if_pos rfl

/-- A descriptor that sends its buffer issues the transaction of its bytes. -/
theorem sendBuffer_issues (hx : hasTxns t op = false) (hc : Clear (strChecks t o))
    (hd : o.f 15 1 = 0 → partnerDenied t o.port o.slice (o.f 16 8) (o.f 32 4) = false)
    (hb : BufferReady t o.port o.slice (o.f 15 1) (o.f 16 8) (o.f 32 4) false u) :
    sendBuffer t op o = issueTxn u (strTxn op o (bufBytes u o.port o.slice (o.f 15 1) (o.f 16 8) (o.f 32 4))) := by
  rw [sendBuffer, if_neg (by simp [hx]), checks_clear hc, withLocal_ready hd hb]

end

/-- Of two, the arbiter keeps the one whose slice is due first, and of two due together that of the lower slice (15 R311). -/
def dueFirst (s : State) (b c : Nat × Nat × Txn × TxPkt) : Nat × Nat × Txn × TxPkt :=
  if startTag s c.2.2.1.slice < startTag s b.2.2.1.slice ||
    (startTag s c.2.2.1.slice = startTag s b.2.2.1.slice && c.2.2.1.slice < b.2.2.1.slice) then c else b

theorem dueFirst_eq_or (s : State) (b c : Nat × Nat × Txn × TxPkt) : dueFirst s b c = b ∨ dueFirst s b c = c := by
  unfold dueFirst
  split
  · exact .inr rfl
  · exact .inl rfl

theorem startTag_dueFirst_le (s : State) (b c : Nat × Nat × Txn × TxPkt) :
    startTag s (dueFirst s b c).2.2.1.slice ≤ startTag s b.2.2.1.slice ∧ startTag s (dueFirst s b c).2.2.1.slice ≤ startTag s c.2.2.1.slice := by
  unfold dueFirst
  split
  case isTrue h =>
    simp only [Bool.or_eq_true, Bool.and_eq_true, decide_eq_true_eq] at h
    omega
  case isFalse h =>
    simp only [Bool.or_eq_true, Bool.and_eq_true, decide_eq_true_eq, not_or] at h
    omega

/-- With one in hand the arbiter goes through the others. -/
theorem arbitrate_cons (s : State) (b : Nat × Nat × Txn × TxPkt) (l : List (Nat × Nat × Txn × TxPkt)) :
    arbitrate s (b :: l) = some (l.foldl (dueFirst s) b) := by
  suffices h : ∀ (l : List (Nat × Nat × Txn × TxPkt)) (b : Nat × Nat × Txn × TxPkt), l.foldl (fun best c =>
      match best with
      | none => some c
      | some b =>
        let (x, y) := (startTag s c.2.2.1.slice, startTag s b.2.2.1.slice)
        if x < y || (x = y && c.2.2.1.slice < b.2.2.1.slice) then some c else best) (some b) = some (l.foldl (dueFirst s) b) from h l b
  intro l
  induction l with
  | nil => intro b; rfl
  | cons c l ih =>
    intro b
    rw [List.foldl_cons, List.foldl_cons, ← ih]
    congr 1
    unfold dueFirst
    dsimp only
    split <;> rfl

/-- What is kept is one of them, and none is due before it. -/
theorem foldl_dueFirst (s : State) (l : List (Nat × Nat × Txn × TxPkt)) (b : Nat × Nat × Txn × TxPkt) :
    l.foldl (dueFirst s) b ∈ b :: l ∧ ∀ d ∈ b :: l, startTag s (l.foldl (dueFirst s) b).2.2.1.slice ≤ startTag s d.2.2.1.slice := by
  induction l generalizing b with
  | nil => simp
  | cons c l ih =>
    obtain ⟨hmem, hle⟩ := ih (dueFirst s b c)
    obtain ⟨hb, hc⟩ := startTag_dueFirst_le s b c
    have hfirst := hle _ (List.mem_cons_self ..)
    rw [List.foldl_cons]
    constructor
    · rcases List.mem_cons.1 hmem with h | h
      · rw [h]
        rcases dueFirst_eq_or s b c with h' | h' <;> rw [h']
        · exact List.mem_cons_self ..
        · exact List.mem_cons_of_mem _ (List.mem_cons_self ..)
      · exact List.mem_cons_of_mem _ (List.mem_cons_of_mem _ h)
    · intro d hd
      rcases List.mem_cons.1 hd with rfl | hd
      · exact hfirst.trans hb
      · rcases List.mem_cons.1 hd with rfl | hd
        · exact hfirst.trans hc
        · exact hle d (List.mem_cons_of_mem _ hd)

/-- Settles O32: the descriptors issue their transactions, the answers conclude them, the arbiter takes the slice that is due first. -/
theorem strandTransactions : Obligations.StrandTransactions := by
  unfold Obligations.StrandTransactions
  refine ⟨?write, ?msg, ?reduce, ?read, ?gather, ?response, ?acked, ?late, ?timeout, ?arbiter, ?tag, ?packets⟩
  case write =>
    rintro op o s _ u h rfl hx hc hd hb
    simp only [exec, execStrWrite]
    rw [runOp_ready h, sendBuffer_issues hx hc hd hb]
  case msg =>
    rintro op o s _ u h rfl hx hc hd hb
    simp only [exec, execStrMsg]
    rw [runOp_ready h, sendBuffer_issues hx hc hd hb]
  case reduce =>
    rintro op o s _ u h rfl hx hc hd hb
    simp only [exec, execStrReduce]
    rw [runOp_ready h, sendBuffer_issues hx hc hd hb]
  case read =>
    rintro op o s _ h rfl hx hc hd
    simp only [exec, execStrRead]
    rw [runOp_ready h, if_neg (by simp [hx]), checks_clear hc, if_neg (by simpa using hd)]
  case gather =>
    rintro op o s _ es h rfl hx ha h1 h64 ht hr hh rfl hbad hl hd
    simp only [exec, execStrGather]
    rw [runOp_ready h, if_neg (by simp [hx]), checks_clear, withPartner_reach hr, checks_clear]
    · simp only [clear_cons, hh, hbad, hl, true_and]
      simpa using hd
    · simp only [clear_cons]
      simp [ha, h64, ht]
      omega
  case response =>
    intro n k s r u i j t ho ha hk ht hb
    simp only [exec, execReadResponsePacket]
    rw [servePacket_arrives ha ho, applyPacket_done]
    rw [hk]
    dsimp only
    rw [ht]
    dsimp only
    rw [reach_ready hb]
  case acked =>
    intro n k s i j ho hr hk
    simp only [exec, execAcknowledgementPacket]
    rw [if_neg (by simp [ho, hr]), hk]
  case late =>
    intro n k s ho hr hk
    simp only [exec, execAcknowledgementPacket]
    rw [if_neg (by simp [ho, hr]), hk]
  case timeout =>
    intro op s
    rfl
  case arbiter =>
    intro s l c hc
    cases l with
    | nil => cases hc
    | cons b l =>
      rw [arbitrate_cons] at hc
      obtain rfl := Option.some.inj hc
      exact foldl_dueFirst s l b
  case tag =>
    intro s q bytes
    simp only [startTag, injected, readD_writeD, if_true]
    exact max_eq_right (Nat.le_add_right _ _)
  case packets =>
    intro len data
    refine ⟨by simp [splitPackets], ?_⟩
    intro i p hp
    simp only [splitPackets, List.getElem?_map, Option.map_eq_some_iff, List.getElem?_eq_some_iff, List.getElem_range] at hp
    obtain ⟨_, ⟨_, rfl⟩, rfl⟩ := hp
    exact ⟨rfl, rfl⟩

end Sys2Proof.Machine
end

section
/-! Draft images (10 R176-R180) and skeins (08 R137-R144). -/

namespace Sys2Proof.Machine

/-! ### DRAFT_LOAD -/

section
variable {s t u v : State} {op n : Nat} {o : Op} {st : Store} {image : List Byte} {steps : List StepRec} {progs : Tbl (List IWord)}

/-- A verified member's part comes to the rest of the checks of R180. -/
theorem execDraftLoad_verified (h : Ready s op 0x24 2 o) (hm : o.f 10 2 ≠ 0xFFFF) (ht : t = started s op 2) (hc : Clear (imageChecks t op o))
    (hi : VerifiedImage t o st (draftHeaderBad (o.f 24 8) (o.f 10 2)) (fun h => field h 24 8 + 32 * o.f 10 2) memberTablesBad image u) :
    exec (.draftLoad op) s = .next (loadDraft u op o image) := by
  subst ht
  simp only [exec, execDraftLoad]
  rw [runRow_ready h _ _ (by simpa using hm), checks_clear hc, withImage_verified hi]

/-- An image that passes them is placed. -/
theorem loadDraft_places
    (hb : ((List.range (field image 12 4)).map (fun k => stepRecordAt image (stepOffset image (o.f 10 2) k))).findIdx? (stepBad image (o.f 10 2)) = none)
    (hs : steps = ((List.range (field image 12 4)).map (fun k => stepRecordAt image (stepOffset image (o.f 10 2) k))).map (readStep (field image 32 1)))
    (hg : gapBad (field image 49 1) (field image 36 4) (bit (field image 33 1) 1) steps = none) (hp : progs = progsOf image (o.f 10 2) steps)
    (he : steps.findSome? (stepProgramError u o.slice (field image 32 1) progs) = none)
    (hcanon : bit (field image 33 1) 0 = true → steps.findIdx? (fun r => r.reds.any (fun e => e.op = 2)) = none) :
    loadDraft u op o image = placeDraft u op o image steps progs (ceilDiv (copyBytes image (o.f 10 2) progs) pageBytes) := by
  subst hp hs
  unfold loadDraft
  dsimp only
  rw [hb]
  dsimp only
  rw [hg]
  dsimp only
  rw [he]
  dsimp only
  split
  · next k hk => rw [if_neg (fun hc => absurd (hcanon hc) (by rw [hk]; simp))]
  · rfl

/-- Pages that the slice may hold and that are there become the draft's. -/
theorem placeDraft_got (hh : mayHold u o.slice n = true) (ho : obtainPages u o.slice n = .got v) :
    placeDraft u op o image steps progs n = finishOk
      { v with drafts := insertKey v.drafts v.nextHandle (newDraft o image steps progs n), nextHandle := v.nextHandle + 1 } op (v.nextHandle % 2 ^ 32) := by
  rw [placeDraft, if_neg (by simp [hh]), ho]

/-- A release that may begin waits for the draft that runs under the handle. -/
theorem execDraftRelease_own (h : Ready s op 0x24 2 o) (hm : o.f 10 2 = 0xFFFF)
    (hown : o.phase = .fetched → (lookup s.drafts (o.f 12 4)).any (fun d => d.slice = o.slice && !d.releasing) = true)
    (t : State) (ht : t = started s op 2) :
    exec (.draftRelease op) s = .next (if draftInUse s (o.f 12 4) then
        { t with drafts := adjust t.drafts (o.f 12 4) (fun d => { d with releasing := true }) }
      else finishOk { t with drafts := removeKey t.drafts (o.f 12 4) } op 0) := by
  subst ht
  simp only [exec, execDraftRelease]
  rw [runRow_ready h _ _ (by simpa using hm), if_neg, draftInUse, draftInUse, started_jobs]
  rw [started_drafts]
  simp only [Bool.and_eq_true, decide_eq_true_eq, Bool.not_eq_true']
  exact fun hf => Bool.false_ne_true (hf.2.symm.trans (hown hf.1))

end

/-- Settles O33: a verified image goes through the rest of R180 and takes its pages; a release waits while its handle is in use. -/
theorem draftImages : Obligations.DraftImages := by
  unfold Obligations.DraftImages
  refine ⟨?loads, ?badStep, ?releases, ?waits⟩
  case loads =>
    intro op n o s t u v st image steps progs h hm ht hc hi hb hs hg hp he hcanon hn hh ho
    rw [execDraftLoad_verified h hm ht hc hi, loadDraft_places hb hs hg hp he hcanon, ← hn, placeDraft_got hh ho]
  case badStep =>
    intro op k o s t u st image h hm ht hc hi hb
    rw [execDraftLoad_verified h hm ht hc hi, loadDraft]
    dsimp only
    rw [hb]
  case releases =>
    intro op o s h hm hown hu
    rw [execDraftRelease_own h hm hown _ rfl, if_neg (by simp [hu])]
  case waits =>
    intro op o s h hm hown hu
    rw [execDraftRelease_own h hm hown _ rfl, if_pos hu]

/-! ### SKEIN_LOAD and SKEIN_PIN -/

section
variable {s t u : State} {op : Nat} {o : Op} {st : Store} {image : List Byte} {k : Skein}

/-- A verified image comes to its layers and seeds. -/
theorem execSkeinLoad_verified (h : Ready s op 0x22 2 o) (ho : o.f 10 1 = 0) (ht : t = started s op 2) (hc : Clear (imageChecks t op o))
    (hi : VerifiedImage t o st (skeinHeaderBad (o.f 24 8)) (fun _ => 0) (fun _ _ => none) image u) :
    exec (.skeinLoad op) s = .next (loadSkein u op o image) := by
  subst ht
  simp only [exec, execSkeinLoad]
  rw [runRow_ready h _ _ (by simp [ho]), if_neg (by simp [ho]), checks_clear hc, withImage_verified hi]

/-- A release that may begin waits for the jobs that name the handle. -/
theorem execSkeinRelease_own (h : Ready s op 0x22 2 o) (ho : o.f 10 1 = 1) (hown : o.phase = .fetched → ownSkein s o.slice (o.f 12 4) = true)
    (t : State) (ht : t = started s op 2) :
    exec (.skeinRelease op) s = .next (if skeinInUse s (o.f 12 4) then
        { t with skeins := adjust t.skeins (o.f 12 4) (fun k => { k with releasing := true }) }
      else finishOk (dropSkein t (o.f 12 4)) op 0) := by
  subst ht
  simp only [exec, execSkeinRelease]
  rw [runRow_ready h _ _ (by simp [ho]), if_neg (by simp [ho]), if_neg, skeinInUse, skeinInUse, started_jobs]
  rw [ownSkein, started_skeins]
  simp only [Bool.and_eq_true, decide_eq_true_eq, Bool.not_eq_true']
  exact fun hf => Bool.false_ne_true (hf.2.symm.trans (hown hf.1))

/-- A pin that passes its checks finds its skein. -/
theorem execSkeinPin_found (h : Ready s op 0x23 2 o) (ho : o.f 12 1 = 0) (ht : t = started s op 2) (hc : Clear (pinChecks t o))
    (hk : lookup t.skeins (o.f 8 4) = some k) :
    exec (.skeinPin op) s = .next (
      if pinOutside t o k then fail t op stBounds 0
      else if o.f 13 1 = 1 then
        match pinAll o.slice (o.f 8 4) k (pinPages o) t with
        | .bytes s _ => finishOk s op 0
        | .wait s => s
        | .ends s st => fail s op st 0
      else
        match readSkein t o.slice (o.f 8 4) k (o.f 16 8) (o.f 24 8) with
        | .bytes s bs =>
          finishOk (modSlice (writeTier s o.slice 1 (o.f 32 8) bs) o.slice (fun x => { x with pins := x.pins ++
            [{ handle := o.f 8 4, offset := o.f 16 8, length := o.f 24 8, caddr := o.f 32 8 }] })) op 0
        | .wait s => s
        | .ends s st => fail s op st 0) := by
  subst ht
  simp only [exec, execSkeinPin]
  rw [runRow_ready h _ _ (by simp [ho]), checks_clear hc, hk] <;> rfl

/-- An unpin that passes its checks is done at once. -/
theorem execSkeinUnpin_clear (h : Ready s op 0x23 2 o) (ho : o.f 12 1 = 1) (ht : t = started s op 2) (hc : Clear (pinChecks t o)) :
    exec (.skeinUnpin op) s = .next (finishOk
      (if o.f 13 1 = 1 then modSlice t o.slice (fun x => { x with skeinPages := x.skeinPages.map (fun p =>
          if p.handle = o.f 8 4 && (pinPages o).contains p.page then { p with pinned := false } else p) })
        else modSlice t o.slice (fun x => { x with pins := x.pins.flatMap (fun p =>
          if p.handle = o.f 8 4 then cutPin (o.f 16 8) (o.f 24 8) p else [p]) })) op 0) := by
  subst ht
  simp only [exec, execSkeinUnpin]
  rw [runRow_ready h _ _ (by simp [ho]), checks_clear hc]

end

/-- Settles O34: loads and releases as for drafts, pins and unpins by their TIER. -/
theorem skeins : Obligations.Skeins := by
  unfold Obligations.Skeins
  refine ⟨?loads, ?badLayer, ?releases, ?waits, ?pinsPool, ?pinsCommons, ?outside, ?pinsCopy, ?unpinsPool, ?unpinsCommons⟩
  case loads =>
    rintro op o s t u st image layers k h ho ht hc hi rfl hl hs rfl
    rw [execSkeinLoad_verified h ho ht hc hi, loadSkein]
    dsimp only
    rw [hl]
    dsimp only
    rw [hs]
  case badLayer =>
    rintro op i o s t u st image layers h ho ht hc hi rfl hl
    rw [execSkeinLoad_verified h ho ht hc hi, loadSkein]
    dsimp only
    rw [hl]
  case releases =>
    intro op o s h ho hown hu
    rw [execSkeinRelease_own h ho hown _ rfl, if_neg (by simp [hu])]
  case waits =>
    intro op o s h ho hown hu
    rw [execSkeinRelease_own h ho hown _ rfl, if_pos hu]
  case pinsPool =>
    intro op o s t u k bs h ho ht hc hk hp hm hb
    rw [execSkeinPin_found h ho ht hc hk, if_neg (by simp [hp]), if_pos hm, hb]
  case pinsCommons =>
    rintro op o s t u k bs _ h ho ht hc hk hp hm hb rfl
    rw [execSkeinPin_found h ho ht hc hk, if_neg (by simp [hp]), if_neg (by simp [hm]), hb]
  case outside =>
    intro op o s t k h ho ht hc hk hp
    rw [execSkeinPin_found h ho ht hc hk, if_pos hp]
  case pinsCopy =>
    intro s q h page k x p hx hp
    simp only [pinPage, hx, Option.bind_some, hp]
  case unpinsPool =>
    intro op o s t h ho ht hc hm
    rw [execSkeinUnpin_clear h ho ht hc, if_pos hm]
  case unpinsCommons =>
    intro op o s t h ho ht hc hm
    rw [execSkeinUnpin_clear h ho ht hc, if_neg (by simp [hm])]

end Sys2Proof.Machine
end

section
/-! Pool pages, hanks and demand restores (08 R135, R136, R145-R149, R154), prefetch directives and the late limit (08 R155-R159). -/

namespace Sys2Proof.Machine

/-! ### POOL_MAP -/

section
variable {s t : State} {op : Nat} {o : Op} {x : Slice} {todo : List Nat}

/-- A POOL_MAP whose operands are in range maps, unmaps or names the offending page. -/
theorem execPoolMap_inRange (h : Ready s op 0x28 2 o) (ht : t = started s op 2) (h1 : o.f 8 4 < slicePages) (h2 : 1 ≤ o.f 12 4)
    (h3 : o.f 8 4 + o.f 12 4 ≤ slicePages) (hk : o.f 16 1 ≤ 2) (hx : lookup t.slices o.slice = some x) :
    exec (.poolMap op) s = .next (
      match mapOffence t o.slice x (o.f 16 1) (o.f 8 4) (o.f 12 4) with
      | some p => fail t op stBounds p
      | none =>
        if o.f 16 1 = 0 then
          if (firstPage (o.f 8 4) (o.f 12 4) (pageProtected t o.slice)).isSome then t else finishOk (unmapPages t o.slice (o.f 8 4) (o.f 12 4)) op 0
        else if o.f 16 1 = 1 then
          match mapPages t o.slice (o.f 8 4) .work (o.f 12 4) with
          | .got s => finishOk (clearPages s o.slice (o.f 8 4) (o.f 12 4)) op 0
          | _ => t
        else finishOk (mapHanks t o.slice (o.f 8 4) (o.f 12 4)) op 0) := by
  have hc : Clear [(decide (o.f 8 4 ≥ slicePages), stBadDescriptor, 8),
      (decide (o.f 12 4 = 0) || decide (o.f 12 4 > slicePages) || decide (o.f 8 4 + o.f 12 4 > slicePages), stBadDescriptor, 12),
      (decide (o.f 16 1 > 2), stBadDescriptor, 16)] := by
    simp only [clear_cons]
    simp
    omega
  subst ht
  simp only [exec, execPoolMap]
  rw [runOp_ready h, checks_clear hc, hx] <;> rfl

/-! ### Hanks -/

/-- HANK_PARK with hanks still to handle goes on with those. -/
theorem execHankPark_goesOn (h : Ready s op 0x26 2 o) (hl : o.left = some todo) :
    exec (.hankPark op) s = .next (parkHanks (started s op 2) op o todo) := by
  simp only [exec, execHankPark]
  rw [runOp_ready h, hl]

end

/-- Settles O35: POOL_MAP by its KIND, parks and restores page by page, a demand restore by what it comes to. -/
theorem poolPagesAndHanks : Obligations.PoolPagesAndHanks := by
  unfold Obligations.PoolPagesAndHanks
  refine ⟨?unmaps, ?mapsWork, ?mapsHanks, ?offends, ?parks, ?parksOn, ?parked, ?allProtected, ?refused, ?copies, ?restores, ?restoresNext, ?brings,
    ?unreadable, ?demandDone, ?demandNoPage, ?demandBad⟩
  case unmaps =>
    intro op o s t x h ht h1 h2 h3 hx hk hm hp
    rw [execPoolMap_inRange h ht h1 h2 h3 (by omega) hx, hk, hm]
    dsimp only
    rw [if_pos rfl, hp, if_neg (by simp)]
  case mapsWork =>
    intro op o s t u x h ht h1 h2 h3 hx hk hm hp
    rw [execPoolMap_inRange h ht h1 h2 h3 (by omega) hx, hk, hm]
    dsimp only
    rw [if_neg (by decide), if_pos rfl, hp]
  case mapsHanks =>
    intro op o s t x h ht h1 h2 h3 hx hk hm
    rw [execPoolMap_inRange h ht h1 h2 h3 (by omega) hx, hk, hm]
    dsimp only
    rw [if_neg (by decide), if_neg (by decide)]
  case offends =>
    intro op p o s t x h ht h1 h2 h3 hx hk hm
    rw [execPoolMap_inRange h ht h1 h2 h3 hk hx, hm]
  case parks =>
    rintro op o s _ h rfl hc hl
    simp only [exec, execHankPark]
    rw [runOp_ready h, hl]
    dsimp only
    rw [checks_clear hc]
  case parksOn =>
    intro op o s todo h hl
    exact execHankPark_goesOn h hl
  case parked =>
    intro op o s t todo hn hp
    have hnone : ∀ p ∈ todo, pageProtected s o.slice p = false := by simpa using hn
    have hnow : todo.filter (fun p => !pageProtected s o.slice p) = todo := List.filter_eq_self.2 (by simpa using hnone)
    have hrest : todo.filter (fun p => pageProtected s o.slice p) = [] := List.filter_eq_nil_iff.2 (by simpa using hnone)
    simp only [parkHanks, hnow, hrest, hp]
    rfl
  case allProtected =>
    intro op o s todo hne hall
    have hprot : ∀ p ∈ todo, pageProtected s o.slice p = true := by simpa using hall
    have hnow : todo.filter (fun p => !pageProtected s o.slice p) = [] := List.filter_eq_nil_iff.2 (by simpa using hprot)
    have hrest : todo.filter (fun p => pageProtected s o.slice p) = todo := List.filter_eq_self.2 hprot
    simp only [parkHanks, hnow, hrest, parkEach]
    rw [if_neg (by simpa using hne)]
    rfl
  case refused =>
    intro op o s t todo hp
    simp only [parkHanks, hp]
  case copies =>
    intro q page s x p hx hp hk
    simp only [parkCopy, hx, hp, hk]
    rfl
  case restores =>
    rintro op o s _ h rfl hc
    simp only [exec, execHankRestore]
    rw [runOp_ready h, checks_clear hc]
  case restoresNext =>
    intro op q page l s t hr
    exact ⟨by simp only [restoreAll, hr], rfl⟩
  case brings =>
    rintro s t _ q page p m hp hr hd ho rfl
    simp only [restoreHank, hp, hr, hd, ho]
    cases hpk : p.parked.isEmpty <;> rfl
  case unreadable =>
    intro s q page p hp hr hd
    simp only [restoreHank, hp, hr, hd]
    rfl
  case demandDone =>
    intro slice page s t p hp hk hr
    simp only [exec, execDemandRestore, hp, hk, hr]
    rfl
  case demandNoPage =>
    intro slice page s p hp hk hr
    simp only [exec, execDemandRestore, hp, hk, hr]
    rfl
  case demandBad =>
    intro slice page s t p hp hk hr
    simp only [exec, execDemandRestore, hp, hk, hr]
    rfl

/-! ### Prefetch directives -/

/-- A directive of a draft that has not been issued joins the job's at B − LEAD. -/
theorem draftDirective_joins {s : State} {job idx : Nat} {j : Job} {d : Directive} {r : DraftRun} {x : Draft} (hx : lookup s.drafts r.handle = some x)
    (hd : (stepDirectives x (idx / 1024))[idx % 1024]? = some d) (hj : j.dirs = []) (hn : nextStep j ≤ idx / 1024) (ht : idx / 1024 < r.total)
    (hf : j.phase ≠ .frozen) (hb : beatOf x j r (idx / 1024) ≤ s.trd.beat + d.lead) :
    draftDirective s job j r idx = issueDirective (modJob s job (fun j => { j with dirs := j.dirs ++ [d], dirStates := j.dirStates ++ [.waiting] })) job 0
      { j with dirs := [d] } d .waiting := by
  simp only [draftDirective, hx, hd, hj, List.findIdx?_nil]
  rw [if_neg]
  · rfl
  · simp [hn, ht, hf, hb]

/-- A page that cannot be had is waited for by a REQUIRED directive and else left out and counted. -/
theorem serve_noPage {s : State} {jid i n q k m : Nat} {j : Job} {d : Directive} (h : prefetchPage s q j d (d.first + k) = .noPage) :
    serve s jid i n q j d k (m + 1) =
      if d.required then setDir s jid i (.issued k n)
      else serve { s with mem := { s.mem with pfSkip := s.mem.pfSkip + 1 } } jid i n q j d (k + 1) m := by
  rw [serve, h]

/-- Settles O36: a directive by where it stands, its pages one by one, a late job by the first thing late. -/
theorem prefetchDirectives : Obligations.PrefetchDirectives := by
  unfold Obligations.PrefetchDirectives
  refine ⟨?due, ?notDue, ?inDraft, ?issued, ?servedOn, ?nextPage, ?skips, ?waits, ?complete, ?late, ?notLate⟩
  case due =>
    intro job idx s j d st hj hh hd hi hs hdue
    simp only [exec, execPrefetchDirectiveIssue, hj, hh, hd, hi, hs, hdue]
    rfl
  case notDue =>
    intro job idx s j d st hj hd hi hs hdue
    simp only [exec, execPrefetchDirectiveIssue, hj, hd, hi, hs, hdue]
    exact ite_self _
  case inDraft =>
    intro job idx s j d r x hj hh hr hx hd hdirs hn ht hf hb
    rw [← draftDirective_joins hx hd hdirs hn ht hf hb]
    simp only [exec, execPrefetchDirectiveIssue, hj, hh, hr]
    rfl
  case issued =>
    rintro job i s _ j d rfl
    rfl
  case servedOn =>
    intro job i k n s j d
    rfl
  case nextPage =>
    rintro jid i n q k m s t j d (h | h) <;> rw [serve, h]
  case skips =>
    intro jid i n q k m s j d h hr
    rw [serve_noPage h, if_neg (by simp [hr])]
  case waits =>
    intro jid i n q k m s j d h hr
    rw [serve_noPage h, if_pos hr]
  case complete =>
    intro jid i n q k s j d
    rfl
  case late =>
    intro job since idx rank s j hj hl hd hp hs
    simp only [exec, execLateLimitExpiry, hj]
    rw [if_neg, hs]
    simp [hl, hd, Option.isSome_iff_ne_none.1 hp]
  case notLate =>
    intro job s j hj hs
    simp only [exec, execLateLimitExpiry, hj, hs]
    exact ite_self _

end Sys2Proof.Machine
end

section
/-! Running drafts: the start, votes, the decision, steps, freezes (10 R182-R187, R195, R196, R200). -/

namespace Sys2Proof.Machine

section
variable {s t : State} {job jid op : Nat} {j k : Job} {d : DraftRun} {x : Draft} {p : Ply} {o : Op} {vals : List Nat}

theorem draftOf_eq_some (hj : lookup s.jobs job = some j) (hd : j.draft = some d) (hx : lookup s.drafts d.handle = some x) :
    draftOf s job = some (j, d, x) := by
  simp only [draftOf, hj, hd, hx, Option.bind_some, Option.map_some]

/-! ### The start (R182) -/

/-- A standalone draft that passes its checks comes to its start block. -/
theorem execDraftStart_clear (h : Ready s op 0x25 2 o) (ht : t = started s op 2) (hjob : lookup t.jobs op = none) (hh : t.ras.halted = false)
    (hl : t.trd.load = none) (ha : o.f 24 8 % 64 = 0) (hx : lookup t.drafts (o.f 8 4) = some x) (hs : x.slice = o.slice) (hr : x.releasing = false)
    (hd : t.jobs.any (fun j => j.2.slice = o.slice && j.2.draft.isSome) = false) (hu : x.ranks ≤ (usable t o.slice).length) (hp : o.f 14 2 = 0)
    (hm : x.members = 1) (hn : t.trd.numbered = true) (hb : t.trd.beat + 8 ≤ o.f 16 8 + ((x.steps.head?).map StepRec.start).getD 0)
    (hreach : Reaches t o [(o.f 24 8, 256, true)]) (hmay : mayPlace t o.slice = true) :
    exec (.draftStart op) s = .next (startDraft t op o x) := by
  simp only [exec, execDraftStart]
  rw [runOp_ready h, ← ht, if_neg (by simp [hjob, hh, hl]), checks_clear, withPartner_reach hreach]
  · simp only [hx, hmay, if_true]
  · simp only [clear_cons, hx, hd, hn, hp, Option.any_some, Option.map_some, Option.bind_some, Option.getD_some, plyBad]
    simp [ha, hs, hr, hm, hu, hb]

/-! ### Votes (R186) -/

/-- From B − V on, once, a member of a device that is awake votes. -/
theorem voteNext_due (hj : lookup s.jobs job = some j) (hd : j.draft = some d) (hx : lookup s.drafts d.handle = some x) (hv : d.voted = false)
    (hg : d.go = false) (hf : j.phase = .frozen → d.stopped = false) (hs : j.phase ≠ .submitted) (hn : nextStep j < d.total)
    (hb : nextBeat x j d ≤ s.trd.beat + leadOf s j d) (ha : awake s 0 = true) :
    voteNext s job =
      match plyOfDraft s j d with
      | none => modDraft s job (fun d => { d with voted := true })
      | some p =>
        sendVote (modPly (modDraft s job (fun d => { d with voted := true })) j.slice (fun q => { q with votes := q.votes ++ [ownVote s job j d x p] }))
          j.slice (ownVote s job j d x p) none := by
  have hdue : ¬(d.voted || d.go || (j.phase = .frozen && d.stopped) || j.phase = .submitted || nextStep j ≥ d.total ||
      s.trd.beat + leadOf s j d < nextBeat x j d) = true := by
    simp only [hv, hg, Bool.false_or, Bool.or_eq_true, Bool.and_eq_true, decide_eq_true_eq, not_or, not_and, Bool.not_eq_true, hs, not_false_eq_true,
      and_true]
    exact ⟨⟨hf, Nat.not_le.2 hn⟩, Nat.not_lt.2 hb⟩
  unfold voteNext
  rw [draftOf_eq_some hj hd hx]
  dsimp only
  rw [if_neg hdue, if_pos ha] <;> rfl

/-- At B, a member that has voted decides. -/
theorem voteDecide_due (hj : lookup s.jobs job = some j) (hd : j.draft = some d) (hx : lookup s.drafts d.handle = some x) (hv : d.voted = true)
    (hg : d.go = false) (hf : j.phase ≠ .frozen) (hh : s.ras.halted = false) (hb : nextBeat x j d ≤ s.trd.beat) :
    exec (.voteDecide job) s = .next (
      match plyOfDraft s j d with
      | none => decideAlone s job j d x
      | some p => decidePly s job j d x p) := by
  simp only [exec, execVoteDecide, voteDecide, draftOf_eq_some hj hd hx]
  rw [if_neg (by simp [hv, hg, hf, hh, hb])] <;> rfl

/-- In holdover or without a lock a standalone draft's steps wait. -/
theorem decideAlone_waits (h : s.trd.holdover = true ∨ s.trd.locked = false) : decideAlone s job j d x = s :=
  if_pos (by simpa using h)

/-- On its beat, a standalone draft's own cause decides. -/
theorem decideAlone_onBeat (hb : nextBeat x j d = s.trd.beat) (ho : s.trd.holdover = false) (hl : s.trd.locked = true) :
    decideAlone s job j d x =
      if causeOf s job j x = 0 then modDraft s job (fun d => { d with go := true }) else holdOrEnd s job j d (causeOf s job j x) 0 := by
  unfold decideAlone
  dsimp only
  rw [if_neg (by simp [ho, hl]), if_neg (by omega)]

/-- Short of the late limit the ply holds one stride. -/
theorem holdOrEnd_holds {c m : Nat} (h : c ≠ 1 ∨ d.late = 0 ∨ d.lateNow + 1 ≤ d.late) :
    holdOrEnd s job j d c m = freezeIfDue (charge (modDraft s job (fun d => countHold d c m)) j.slice (fun m => { m with holds := m.holds + 1 })) j.slice :=
  if_neg (by simp; omega)

/-- A ply whose members all named no cause goes. -/
theorem decidePly_goes (he : p.votes.filter (fun v => v.isEnd && v.status ≠ stOk && v.member ≠ p.self) = [])
    (hs : d.first = true → shapeVerdict d p.self ((List.range p.nodes.length).filterMap (voteOf p (nextBeat x j d))) = none) (hn : p.notice = none)
    (hl : p.silent = false) (hall : ∀ m < p.nodes.length, ∃ v, voteOf p (nextBeat x j d) m = some v ∧ v.cause = 0) :
    decidePly s job j d x p = modDraft
      (modPly s j.slice (fun p => { p with votes := p.votes.filter (fun v => v.isEnd || nextBeat x j d ≤ v.decide) })) job (fun d => { d with go := true }) := by
  have hverdict : (if d.first then shapeVerdict d p.self ((List.range p.nodes.length).filterMap (voteOf p (nextBeat x j d))) else none) = none := by
    split
    · next h => exact hs h
    · rfl
  have hmissing : (List.range p.nodes.length).find? (fun m => (voteOf p (nextBeat x j d) m).isNone && !(endHeard p m)) = none := by
    refine List.find?_eq_none.2 (fun m hm => ?_)
    obtain ⟨v, hv, -⟩ := hall m (List.mem_range.1 hm)
    simp [hv]
  have hready : ((List.range p.nodes.length).filterMap (voteOf p (nextBeat x j d))).find? (fun v => v.cause ≠ 0) = none := by
    refine List.find?_eq_none.2 (fun w hw => ?_)
    obtain ⟨m, hm, hwm⟩ := List.mem_filterMap.1 hw
    obtain ⟨v, hv, hc⟩ := hall m (List.mem_range.1 hm)
    rw [hv] at hwm
    obtain rfl := Option.some.inj hwm
    simp [hc]
  unfold decidePly
  dsimp only
  rw [he, hverdict]
  dsimp only [List.head?_nil]
  rw [if_neg (by simp [hn, hl]), hmissing, hready]

/-- A vote that is missing at B raises a notice. -/
theorem decidePly_missing {m : Nat} (he : p.votes.filter (fun v => v.isEnd && v.status ≠ stOk && v.member ≠ p.self) = []) (hf : d.first = false)
    (hn : p.notice = none) (hl : p.silent = false)
    (hm : (List.range p.nodes.length).find? (fun m => (voteOf p (nextBeat x j d) m).isNone && !(endHeard p m)) = some m) :
    decidePly s job j d x p = takeNotice (modPly s j.slice (fun p => { p with votes := p.votes.filter (fun v => v.isEnd || nextBeat x j d ≤ v.decide) }))
      j.slice { beat := s.trd.beat, member := p.self, cause := 3 } := by
  unfold decidePly
  dsimp only
  rw [he, hf, hm]
  dsimp only [List.head?_nil]
  rw [if_neg (by decide)]
  dsimp only
  rw [if_neg (by simp [hn, hl])]
  rfl

/-! ### The end of a step (R183; 06 R105) -/

/-- At STEP_END what was issued starts first; then the blocks, the ranks and the slots decide. -/
theorem execStepEnd_settled {since : Nat} (hk : lookup s.jobs job = some k) (hr : k.phase = .running since)
    (ht : t = (seatsOf s job).foldl (fun s e => if (lookup s.jobs job).isSome then settle s e else s) s) (hj : lookup t.jobs job = some j)
    (hf : j.failing = none) :
    exec (.stepEnd job) s =
      match leftover t j (seatsOf t job) with
      | some (r, at_) => .next (programError t job stBounds r at_ 3)
      | none =>
        if (seatsOf t job).any (fun e => !rankEnded t j e) || j.draft.any (fun d => !slotsDone t j d) then .next t
        else if j.rankStates.any (fun r => r = .yielded) then
          .next (match j.abortAtEnd with
            | some (st, det) => endJob (modJob (foldRecords t job) job (fun j =>
                { j with rankStates := j.rankStates.map (fun r => if r = .running then .ended else r), touched := [] })) job st det 0
            | none => modJob (foldRecords t job) job (fun j =>
                { j with rankStates := j.rankStates.map (fun r => if r = .running then .ended else r), touched := [] }))
        else .next (completeDraft (stepBoundary (modJob t job (fun j => { j with rankStates := j.rankStates.map (fun _ => .ended) })) job j) job) := by
  subst ht
  simp only [exec, execStepEnd, hk, hr]
  rw [hj]
  dsimp only
  rw [if_neg (by simp [hf])] <;> rfl

/-! ### Votes received -/

/-- A record of the ply that is not held yet is kept and passed on. -/
theorem execVoteRecord_new {n : Fin 104} {slice : Fin 64} {v : Vote} (hp : lookup s.plies slice.val = some p)
    (hl : p.links.contains (groupBase s (linkOf s n.val)) = true) (hself : v.member ≠ p.self) (hm : v.member < p.nodes.length)
    (hc : p.votes.contains v = false)
    (ht : t = sendVote (modPly s slice.val (fun p => { p with votes := p.votes.filter (fun w => !(v.isEnd && w.isEnd && w.member = v.member)) ++ [v] }))
      slice.val v (some (groupBase s (linkOf s n.val)))) (u : State)
    (hu : u = if v.notice then takeNotice t slice.val { beat := v.noticeAt, member := v.member, cause := 1 } else t) :
    exec (.voteRecord n slice v) s = .next (((plyJob u slice.val).map (fun e => completeDraft u e.1)).getD u) := by
  subst ht
  simp only [exec, execVoteRecord, hp]
  rw [if_neg (by simp only [hl, hself, hc]; simp [hm]), ← hu]
  cases plyJob u slice.val <;> rfl

end

/-- Settles O37: each row of a running draft is one branch of its decision, with its conditions met. -/
theorem draftRuns : Obligations.DraftRuns := by
  unfold Obligations.DraftRuns
  refine ⟨?starts, ?votesAlone, ?votes, ?notYet, ?votesEnd, ?endAgain, ?goesAlone, ?holds, ?late, ?passedOver, ?noTime, ?goes, ?missing, ?stepStarts,
    ?otherBeat, ?stepEnds, ?yielded, ?leftover, ?goesOn, ?stops, ?notStopped, ?freezes, ?record, ?noticed, ?known, ?quiet, ?heard, ?notice⟩
  case starts =>
    intro op o s t u x vals h ht hjob hh hl ha hx hs hr hd hu hp hm hn hb hreach hmay hskein hshape htotal
    rw [execDraftStart_clear h ht hjob hh hl ha hx hs hr hd hu hp hm hn hb hreach hmay, startDraft, hskein]
    dsimp only
    rw [hshape]
    dsimp only
    rw [if_neg htotal]
  case votesAlone =>
    intro job s j d x hj hd hx hend hv hg hf hs hn hb ha hp
    simp only [exec, execVoteSend, voteSend, hend]
    rw [voteNext_due hj hd hx hv hg hf hs hn hb ha, hp]
  case votes =>
    rintro job s _ j d x p hj hd hx hend hv hg hf hs hn hb ha hp rfl
    simp only [exec, execVoteSend, voteSend, hend]
    rw [voteNext_due hj hd hx hv hg hf hs hn hb ha, hp]
  case notYet =>
    intro job s j d x hj hd hx hend hb
    simp only [exec, execVoteSend, voteSend, hend, voteNext, draftOf_eq_some hj hd hx]
    rw [if_pos (by simp [hb])]
  case votesEnd =>
    intro job s e hend
    simp only [exec, execVoteSend, voteSend, hend]
  case endAgain =>
    rintro q jid s p v _ hp he hb hh rfl
    simp only [voteEnd, hp, he]
    rw [if_neg (by simp only [hh]; simpa using hb)]
  case goesAlone =>
    intro job s j d x hj hd hx hv hg hf hh hb hp ho hl hc
    rw [voteDecide_due hj hd hx hv hg hf hh (Nat.le_of_eq hb), hp]
    dsimp only
    rw [decideAlone_onBeat hb ho hl, if_pos hc]
  case holds =>
    intro job s j d x hj hd hx hv hg hf hh hb hp ho hl hc hlate
    rw [voteDecide_due hj hd hx hv hg hf hh (Nat.le_of_eq hb), hp]
    dsimp only
    rw [decideAlone_onBeat hb ho hl, if_neg hc, holdOrEnd_holds hlate]
  case late =>
    intro job s j d x hj hd hx hv hg hf hh hb hp ho hl hc hlate hnow
    rw [voteDecide_due hj hd hx hv hg hf hh (Nat.le_of_eq hb), hp]
    dsimp only
    rw [decideAlone_onBeat hb ho hl, hc, if_neg (by decide), holdOrEnd, if_pos (by simp [hlate, hnow])]
  case passedOver =>
    intro job s j d x hj hd hx hv hg hf hh hb hp ho hl
    rw [voteDecide_due hj hd hx hv hg hf hh (Nat.le_of_lt hb), hp]
    dsimp only [decideAlone]
    rw [if_neg (by simp [ho, hl]), if_pos hb]
  case noTime =>
    intro job s j d x hj hd hx hp ht
    simp only [exec, execVoteDecide, voteDecide, draftOf_eq_some hj hd hx, hp, decideAlone_waits ht, ite_self]
  case goes =>
    intro job s j d x p hj hd hx hv hg hf hh hb hp he hs hn hl hall
    rw [voteDecide_due hj hd hx hv hg hf hh hb, hp]
    exact congrArg _ (decidePly_goes he hs hn hl hall)
  case missing =>
    rintro job m s _ j d x p hj hd hx hv hg hf hh hb hp he hfirst hn hl hm rfl
    rw [voteDecide_due hj hd hx hv hg hf hh hb, hp]
    exact congrArg _ (decidePly_missing he hfirst hn hl hm)
  case stepStarts =>
    rintro job s _ _ j d x r hj hd hx hr hg hf hh ho hl ht ha hb rfl rfl
    simp only [exec, execStepStart, stepStart, draftOf_eq_some hj hd hx, hr]
    rw [if_neg (by simp [hg, hf, hh, ho, hl, ht, ha, hb])]
  case otherBeat =>
    intro job s j d x hj hd hx hb
    simp only [exec, execStepStart, stepStart, draftOf_eq_some hj hd hx]
    split
    · rfl
    · rw [if_pos (by simp [hb])]
  case stepEnds =>
    intro job since s t k j hk hr ht hj hf hl hranks hslots hy
    rw [execStepEnd_settled hk hr ht hj hf, hl]
    dsimp only
    rw [if_neg (by simp only [hranks, hslots]; decide), if_neg (by simp only [hy]; decide)]
  case yielded =>
    intro job since s t k j hk hr ht hj hf hl hranks hslots hy ha
    rw [execStepEnd_settled hk hr ht hj hf, hl]
    dsimp only
    rw [if_neg (by simp only [hranks, hslots]; decide), if_pos hy, ha]
  case leftover =>
    intro job since rank idx s t k j hk hr ht hj hf hl
    rw [execStepEnd_settled hk hr ht hj hf, hl]
  case goesOn =>
    intro job since s t k j hk hr ht hj hf hl hranks
    rw [execStepEnd_settled hk hr ht hj hf, hl]
    dsimp only
    rw [if_pos (by simp only [hranks, Bool.true_or])]
  case stops =>
    intro job since s j d x p r hj hd hx hph hp hr hn hb
    simp only [exec, execFreezeStopTimeout, stopStep, draftOf_eq_some hj hd hx, hph, hp, hr]
    rw [if_neg]
    simp [Option.isSome_iff_ne_none.1 hn, hb]
  case notStopped =>
    intro job since s j d x p r hj hd hx hph hp hr hb
    simp only [exec, execFreezeStopTimeout, stopStep, draftOf_eq_some hj hd hx, hph, hp, hr]
    rw [if_pos (by simp [hb])]
  case freezes =>
    intro job det s j p n hj hf hp hn hdr
    simp only [freezeStopped, hj, hf, hp, hn, Option.bind_some, hdr]
    rfl
  case record =>
    intro n slice v s t p hp hl hself hm hc hnot ht
    exact execVoteRecord_new hp hl hself hm hc ht t (by rw [hnot]; rfl)
  case noticed =>
    intro n slice v s t u p hp hl hself hm hc hnot ht hu
    exact execVoteRecord_new hp hl hself hm hc ht u (by rw [hnot]; exact hu)
  case known =>
    intro n slice v s p hp hc
    simp only [exec, execVoteRecord, hp, hc, Bool.or_true, if_true]
  case quiet =>
    intro n slice s p hp hl hq
    simp only [exec, execMarkerTimeout, hp]
    rw [if_pos (by simp only [hl]; simpa using hq)]
  case heard =>
    intro n slice s p hp hq
    simp only [exec, execMarkerTimeout, hp]
    rw [if_neg (by simp [hq])]
  case notice =>
    intro s q n p hp
    simp only [takeNotice, hp]
    rfl

end Sys2Proof.Machine
end

section
/-! Beats, beat markers and references (09 R162-R175; 10 R195). -/

namespace Sys2Proof.Machine

/-! ### What a beat leaves alone

All that a beat does after the drafts' own work, except to pass, leaves the beat's view of the device. -/

/-- The clock, the treadle, the power limit, the plies, and what a beat by itself does not touch. -/
def beatView (s : State) :=
  (s.clock, s.trd, s.pwr.limit, s.pwr.pendLimit, s.plies, s.jobs, s.ops, s.ports, s.stores, s.bobbins, s.spindles, s.sec, s.dst, s.ras)

/-- What every step of a fold leaves as it is, the fold does. -/
theorem foldl_view {α β : Type} (view : State → β) {f : State → α → State} (h : ∀ s a, view (f s a) = view s) (l : List α) (s : State) :
    view (l.foldl f s) = view s := by
  induction l generalizing s with
  | nil => rfl
  | cons a l ih => exact (ih _).trans (h s a)

theorem beatView_modLane (s : State) (n : Nat) (f : Lane → Lane) : beatView (modLane s n f) = beatView s := rfl

theorem beatView_charge (s : State) (q : Nat) (f : Meter → Meter) : beatView (charge s q f) = beatView s := rfl

theorem beatView_sendFlit (s : State) (l h : Nat) (f : Flit) : beatView (sendFlit s l h f) = beatView s := by
  unfold sendFlit
  dsimp only
  split <;> rfl

theorem beatView_freeSource (s : State) (f : QFlit) : beatView (freeSource s f) = beatView s := by
  unfold freeSource
  split
  · unfold freeBuffers
    split <;> rfl
  · rfl

theorem beatView_noteLeft (s : State) (pkt : Option (Nat × Nat)) : beatView (noteLeft s pkt) = beatView s := by
  unfold noteLeft
  split <;> rfl

theorem beatView_pumpLink (s : State) (l h fuel : Nat) : beatView (pumpLink s l h fuel) = beatView s := by
  induction fuel generalizing s with
  | zero => rfl
  | succ n ih =>
    unfold pumpLink
    dsimp only
    split
    · split
      · exact (ih _).trans ((beatView_noteLeft _ _).trans ((beatView_freeSource _ _).trans (beatView_sendFlit _ _ _ _)))
      · rfl
    · rfl

theorem beatView_enqueue (s : State) (l q : Nat) (fs : List QFlit) : beatView (enqueue s l q fs) = beatView s := by
  unfold enqueue
  split
  · unfold pump
    split
    · exact beatView_pumpLink _ _ _ _
    · rfl
  · rfl

theorem beatView_sendMarker (s : State) (l a h : Nat) : beatView (sendMarker s l a h) = beatView s := by
  unfold sendMarker
  split
  · rfl
  · exact beatView_enqueue _ _ _ _

theorem beatView_sendMarkers (s : State) : beatView (sendMarkers s) = beatView s := by
  unfold sendMarkers
  refine foldl_view beatView (fun t l => ?_) _ s
  split
  · exact beatView_sendMarker _ _ _ _
  · rfl

theorem beatView_sendIdle (s : State) (n : Nat) : beatView (sendIdle s n) = beatView s := by
  unfold sendIdle
  dsimp only
  split
  · rfl
  · refine (beatView_modLane _ _ _).trans ?_
    split
    · rfl
    · split <;> rfl

theorem beatView_chargeBeat (s : State) : beatView (chargeBeat s) = beatView s := by
  refine (foldl_view beatView (fun t q => beatView_charge _ _ _) _ _).trans (foldl_view beatView (fun t p => ?_) _ s)
  split <;> rfl

theorem beatView_countStalls (s : State) : beatView (countStalls s) = beatView s := rfl

theorem beatView_trackIdle (s : State) : beatView (trackIdle s) = beatView s := rfl

theorem beatView_countHalt (s : State) : beatView (countHalt s) = beatView s := by
  unfold countHalt
  split <;> rfl

theorem beatView_wakeForDraft (s : State) (jid : Nat) : beatView (wakeForDraft s jid) = beatView s := by
  unfold wakeForDraft
  split
  · split <;> rfl
  · rfl

/-- Before the beat passes: what is sent, charged and counted. -/
def beforePass (s : State) : State := countHalt (countStalls (chargeBeat (sendIdles (finishBeat s))))

theorem beatView_beforePass (s : State) : beatView (beforePass s) = beatView (finishBeat s) :=
  calc beatView (beforePass s) = beatView (countStalls (chargeBeat (sendIdles (finishBeat s)))) := beatView_countHalt _
    _ = beatView (chargeBeat (sendIdles (finishBeat s))) := beatView_countStalls _
    _ = beatView (sendIdles (finishBeat s)) := beatView_chargeBeat _
    _ = beatView (finishBeat s) := foldl_view beatView beatView_sendIdle _ _

/-- After it has passed: markers, the age of the links, idle times, and the exit for a draft. -/
def afterPass (s : State) : State :=
  (keys (if sendsMarkers s then sendMarkers s else s).jobs).foldl wakeForDraft (trackIdle (ageLinks (if sendsMarkers s then sendMarkers s else s)))

theorem exec_beat (s : State) : exec .beat s = .next (afterPass (applyLoad (passBeat (beforePass s)))) := by
  simp only [exec, execBeat, afterPass, beforePass]
  rfl

theorem beatView_afterPass (s : State) : beatView (afterPass s) = beatView (ageLinks s) := by
  refine (foldl_view beatView beatView_wakeForDraft _ _).trans ((beatView_trackIdle _).trans ?_)
  split
  · have h := beatView_sendMarkers s
    simp only [beatView, Prod.mk.injEq] at h
    obtain ⟨hclock, htrd, hlimit, hpend, hplies, hrest⟩ := h
    simp only [beatView, ageLinks, Prod.mk.injEq]
    exact ⟨hclock, htrd, hlimit, hpend, by rw [hplies], hrest⟩
  · rfl

/-- A beat of which no load waits passes: the clock, the beat number once there is one, and the power writes that wait; nothing else of the view. -/
theorem afterPass_passBeat {r u t : State} (h : beatView r = beatView u) (hload : u.trd.load = none) (ht : t = afterPass (applyLoad (passBeat r))) :
    t.clock = u.clock + 1 ∧ t.trd.subbeat = 0 ∧ t.trd.beat = (if u.trd.numbered then u.trd.beat + 1 else u.trd.beat) ∧
      t.pwr.limit = u.pwr.pendLimit.getD u.pwr.limit ∧ t.pwr.pendLimit = none ∧ t.jobs = u.jobs ∧ t.ops = u.ops ∧ t.ports = u.ports ∧
      t.stores = u.stores ∧ t.bobbins = u.bobbins ∧ t.spindles = u.spindles ∧ t.sec = u.sec ∧ t.dst = u.dst ∧ t.ras = u.ras := by
  have hl : (passBeat r).trd.load = none := (congrArg (fun v => v.2.1.load) h).trans hload
  have ha := beatView_afterPass (passBeat r)
  rw [applyLoad, hl] at ht
  subst ht
  simp only [beatView, Prod.mk.injEq] at h ha
  obtain ⟨bclock, btrd, blimit, bpend, -, bjobs, bops, bports, bstores, bbobbins, bspindles, bsec, bdst, bras⟩ := h
  obtain ⟨aclock, atrd, alimit, apend, -, ajobs, aops, aports, astores, abobbins, aspindles, asec, adst, aras⟩ := ha
  refine ⟨aclock.trans (congrArg (· + 1) bclock), by rw [atrd]; rfl, ?beat, ?limit, ?pend, ajobs.trans bjobs, aops.trans bops, aports.trans bports,
    astores.trans bstores, abobbins.trans bbobbins, aspindles.trans bspindles, asec.trans bsec, adst.trans bdst, aras.trans bras⟩
  case beat =>
    rw [atrd, ← btrd]
    rfl
  case limit =>
    rw [alimit, ← blimit, ← bpend]
    show (applyPwr r.pwr).limit = r.pwr.pendLimit.getD r.pwr.limit
    unfold applyPwr
    cases r.pwr.pendLimit <;> rfl
  case pend =>
    rw [apend]
    show (applyPwr r.pwr).pendLimit = none
    unfold applyPwr
    cases hp : r.pwr.pendLimit with
    | none => exact hp
    | some n => rfl

/-- A load that waits sets the beat number. -/
theorem afterPass_load {r u t : State} {b n : Nat} (h : beatView r = beatView u) (hload : u.trd.load = some (b, n))
    (ht : t = afterPass (applyLoad (passBeat r))) :
    t.trd.beat = b ∧ t.trd.subbeat = 0 ∧ t.trd.numbered = true ∧ t.trd.plied = true ∧ t.trd.load = none := by
  have hl : (passBeat r).trd.load = some (b, n) := (congrArg (fun v => v.2.1.load) h).trans hload
  have ha := beatView_afterPass (applyLoad (passBeat r))
  simp only [beatView, Prod.mk.injEq] at ha
  obtain ⟨-, htrd, -⟩ := ha
  subst ht
  rw [htrd]
  show (applyLoad (passBeat r)).trd.beat = b ∧ _
  rw [applyLoad, hl]
  exact ⟨rfl, rfl, rfl, rfl, rfl⟩

/-! ### The load of the beat counter -/

theorem plies_cutForLoad (s : State) (b : Nat) : (cutForLoad s b).plies = s.plies := by
  unfold cutForLoad
  generalize keys s.slices = l
  induction l generalizing s with
  | nil => rfl
  | cons q l ih =>
    refine (ih _).trans ?_
    show (cutMeterAt s q s.trd.beat b true false).plies = s.plies
    unfold cutMeterAt
    split
    · rfl
    · unfold trimQueue
      dsimp only
      split
      · rfl
      · rw [portsOnly_postSliceEvent]
        rfl

theorem plies_applyLoad (s : State) : (applyLoad s).plies = s.plies := by
  unfold applyLoad
  split
  · exact plies_cutForLoad _ _
  · rfl

/-! ### Links without a marker -/

/-- One more beat without a marker on every link of a list that names each once. -/
theorem readD_ageQuiet {links : List Nat} (hn : links.Nodup) (t : Tbl Nat) (l : Nat) :
    readD 0 (links.foldl (fun t l => writeD 0 t l (readD 0 t l + 1)) t) l = if l ∈ links then readD 0 t l + 1 else readD 0 t l := by
  induction links generalizing t with
  | nil => rfl
  | cons m ls ih =>
    obtain ⟨hm, hls⟩ := List.nodup_cons.1 hn
    rw [List.foldl_cons, ih hls, readD_writeD]
    by_cases h : l = m
    · subst h
      simp [hm]
    · simp [h]

/-- A ply whose links have all been one more beat without a marker. -/
def ageQuiet (p : Ply) : Ply := { p with quiet := p.links.foldl (fun t l => writeD 0 t l (readD 0 t l + 1)) p.quiet }

theorem lookup_mapSnd {α β : Type} (t : Tbl α) (f : α → β) (n : Nat) : lookup (t.map (fun e => (e.1, f e.2))) n = (lookup t n).map f := by
  induction t with
  | nil => rfl
  | cons e t ih =>
    simp only [lookup, List.map_cons]
    split
    · rfl
    · exact ih

theorem afterPass_plies (s : State) : (afterPass s).plies = s.plies.map (fun e => (e.1, ageQuiet e.2)) :=
  congrArg (fun v => v.2.2.2.2.1) (beatView_afterPass s)

theorem passBeat_plies (s : State) : (passBeat s).plies = s.plies := rfl

theorem plies_of_beatView {s t : State} (h : beatView s = beatView t) : s.plies = t.plies := congrArg (fun v => v.2.2.2.2.1) h

theorem beforePass_plies (s : State) : (beforePass s).plies = (finishBeat s).plies := plies_of_beatView (beatView_beforePass s)

/-- A marker that no ply listens for changes no ply. -/
theorem map_unheard {t : Tbl Ply} {l : Nat} (h : ∀ e ∈ t, e.2.links.contains l = false) (f : Nat × Ply → Nat × Ply) :
    t.map (fun e => if e.2.links.contains l then f e else e) = t := by
  refine (List.map_congr_left (g := id) (fun e he => ?_)).trans (List.map_id _)
  rw [if_neg (by rw [h e he]; decide)]
  rfl

/-- Settles O38: what the beat does beside passing leaves its view alone, so passing, the load and the age of the links say what changes. -/
theorem beatsAndMarkers : Obligations.BeatsAndMarkers := by
  unfold Obligations.BeatsAndMarkers
  refine ⟨?passes, ?loads, ?noDraft, ?order, ?ages, ?marker, ?unheard, ?skewLost, ?notYet⟩
  case passes =>
    rintro s _ rfl hload
    exact ⟨_, exec_beat s, afterPass_passBeat (beatView_beforePass s) hload rfl⟩
  case loads =>
    intro s b h hload
    exact ⟨_, exec_beat s, afterPass_load (beatView_beforePass s) hload rfl⟩
  case noDraft =>
    intro s hj hp
    simp [finishBeat, hj, hp, keys]
  case order =>
    intro s jid
    rfl
  case ages =>
    intro s t q l p ht hp hn hl
    rw [exec_beat] at ht
    obtain rfl := Host.Outcome.next.inj ht
    rw [afterPass_plies, plies_applyLoad, passBeat_plies, beforePass_plies, lookup_mapSnd, hp]
    simp only [Option.map_some, ageQuiet]
    rw [readD_ageQuiet hn, if_pos hl]
  case marker =>
    intro n m offset s q p hp hlinks hself ha ht htrd
    simp [exec, execBeatMarker, hp, hlinks, ht, ha, htrd, hself]
  case unheard =>
    intro n m offset s h
    simp only [exec, execBeatMarker]
    rw [map_unheard h, if_neg]
    simp only [Bool.and_eq_true, List.any_eq_true, not_and]
    rintro ⟨e, he, hl, -⟩
    rw [h e he] at hl
    cases hl
  case skewLost =>
    intro s hp hb hs ho
    exact if_pos (by simp [hp, hb, hs, ho])
  case notYet =>
    intro s hb
    exact if_neg (by simp; omega)

/-! ### References and epochs -/

theorem postEvent_plies (s : State) (code d : Nat) : (postEvent s code d).plies = s.plies := by rw [portsOnly_postEvent]

theorem switchRef_plies (s : State) (dest software : Bool) : (switchRef s dest software).plies = s.plies := postEvent_plies _ _ _

/-- Settles O39: each row takes the branch that its conditions name. -/
theorem referencesAndEpochs : Obligations.ReferencesAndEpochs := by
  unfold Obligations.ReferencesAndEpochs
  refine ⟨?qualifiedA, ?qualifiedB, ?qualifiedHeld, ?lostOther, ?lostSwitches, ?lostHoldover, ?lostUnlocked, ?locks, ?noReference, ?endsHoldover,
    ?selects, ?ignored, ?firstEpoch, ?otherInput, ?inWindow, ?slips, ?missing, ?missingFirst, ?inTime⟩
  case qualifiedA =>
    intro s h
    simp only [exec, execReferenceQualified, modTrd, h]
    rfl
  case qualifiedB =>
    intro s h
    simp only [exec, execReferenceQualified, modTrd, h]
    rfl
  case qualifiedHeld =>
    intro s h hl
    simp only [exec, execReferenceQualified, modTrd, h, hl]
    rfl
  case lostOther =>
    intro s hsel hl
    simp [exec, execReferenceLost, inputBit, modTrd, hsel, hl]
  case lostSwitches =>
    intro s hsel hl hh hb
    simp [exec, execReferenceLost, inputBit, modTrd, refOk, hsel, hl, hh, hb]
  case lostHoldover =>
    intro s hsel hl hh hk hb
    simp [exec, execReferenceLost, inputBit, modTrd, refOk, hsel, hl, hh, hk, hb]
  case lostUnlocked =>
    intro s hsel hl hh hk hb
    simp [exec, execReferenceLost, inputBit, modTrd, refOk, hsel, hl, hh, hk, hb]
  case locks =>
    intro s hh hk hsel ha
    simp [exec, execPllLock, refOk, hh, hk, hsel, ha]
  case noReference =>
    intro s hh hr
    simp [exec, execPllLock, hh, hr]
  case endsHoldover =>
    intro s t b n hh hl hat hp ht
    have hplies : t.plies = s.plies := by
      rw [ht]
      split
      · exact switchRef_plies s b false
      · rfl
    simp only [exec, execPllLock, hh, if_true, hl]
    rw [← ht, hat, if_pos]
    · rfl
    · rw [anyPly, postEvent_plies]
      show (!t.plies.isEmpty) = true
      rw [hplies]
      exact hp
  case selects =>
    intro who v s hw hne hq
    simp only [exec, execRefSelWrite, ctlWrite_pass hw, writeRefSel]
    rw [hq, if_neg (by simpa using hne)]
  case ignored =>
    intro who v s hw h
    simp only [exec, execRefSelWrite, ctlWrite_pass hw, writeRefSel]
    rw [if_pos (by simpa using h)]
  case firstEpoch =>
    rintro offset s _ hn hl hs rfl
    simp [exec, execEpochPulse, inputBit, hn, hl, hs]
  case otherInput =>
    intro offset s hn hs
    simp [exec, execEpochPulse, inputBit, hn, hs]
  case inWindow =>
    intro i offset s hn ho
    simp only [exec, execEpochPulse, hn]
    exact if_pos ho
  case slips =>
    rintro i offset s _ hn ho rfl
    simp only [exec, execEpochPulse, hn]
    exact if_neg (Nat.not_le.2 ho)
  case missing =>
    rintro n s _ hn he hc rfl
    simp only [exec, execEpochMissing, inputBit, if_true, he, hn]
    rw [if_neg (by simp [hc])]
    rfl
  case missingFirst =>
    rintro n s _ hn hs he hc rfl
    simp only [exec, execEpochMissing, inputBit, if_true, he, hn]
    rw [if_neg (by simp [hc, hs])]
    rfl
  case inTime =>
    intro n s he hc
    simp only [exec, execEpochMissing, inputBit, Bool.false_eq_true, if_false, he]
    exact if_pos (by simp [hc])

end Sys2Proof.Machine
end

section
/-! Storage commands (14 R285-R302), stores, self-tests and HOLDUP_OK (14 R286, R287, R298-R305). -/

namespace Sys2Proof.Machine

/-! ### What a unit reads as (13 R262) -/

section
variable {s : State} {st : Store} {u : Nat} {p : FPage}

/-- A mapped unit's page decides what it reads as: its own data where it decodes, else what its parity group rebuilds. -/
theorem unitData_mapped (hm : unitEntry st u ≠ unmapped) (hl : unitEntry st u ≠ lostEntry)
    (hp : lookup (getBob s (entryBob (unitEntry st u))).pages (pageKey (entryBlock (unitEntry st u)) (entryPage (unitEntry st u))) = some p) :
    unitData s st u =
      if p.uncorr || !(getDie (getBob s (entryBob (unitEntry st u))) (dieOf (entryBlock (unitEntry st u)))).answering then
        (rebuilt (getBob s (entryBob (unitEntry st u))) (entryBlock (unitEntry st u)) (entryPage (unitEntry st u))).map (decrypted st.key p)
      else some (decrypted st.key p p.data) := by
  have hdec : pageDecodes (getBob s (entryBob (unitEntry st u))) (entryBlock (unitEntry st u)) (entryPage (unitEntry st u)) =
      (!p.uncorr && (getDie (getBob s (entryBob (unitEntry st u))) (dieOf (entryBlock (unitEntry st u)))).answering) := by
    rw [pageDecodes, hp]
  unfold unitData cellData
  rw [if_neg hm, if_neg hl]
  dsimp only
  rw [hp]
  dsimp only
  rw [hdec]
  cases p.uncorr <;> cases (getDie (getBob s (entryBob (unitEntry st u))) (dieOf (entryBlock (unitEntry st u)))).answering <;> rfl

end

/-! ### READ, WRITE and TRIM -/

section
variable {s t u v w : State} {op : Nat} {o : Op} {st : Store} {ps : List Nat} {cs : List MapChange} {trim : Bool} {src : Nat → Byte}

/-- What a WRITE or TRIM does to the device before it completes: its map changes are journalled and the slice is charged (R291, R295). -/
def writtenUnits (t u : State) (o : Op) (st : Store) (ps : List Nat) (cs : List MapChange) : State :=
  charge ((recordsOf (atomicUnit t o) cs).foldl journalRecord u) st.slice
    (fun m => { m with flashWrite := m.flashWrite + cs.length * unitBytes, flashRead := m.flashRead + ps.length * unitBytes })

/-- With the partial units read and the units placed, a WRITE or TRIM ends, one with FUA once it is durable. -/
theorem writeEffect_placed (hps : ps = (unitsOf (o.f 16 8 * 4096) (o.f 12 4 * 4096)).filter (fun u => !coversUnit (o.f 16 8) (o.f 12 4) u))
    (hf : ps.find? (unitFails t st) = none) (hw : w = countReads t (o.f 8 2) ps)
    (hp : writeUnits w (o.f 8 2) ((lookup w.stores (o.f 8 2)).getD st) (atomicUnit t o) trim (o.f 16 8) (o.f 12 4) src
      (unitsOf (o.f 16 8 * 4096) (o.f 12 4 * 4096)) [] = some (cs, u)) :
    writeEffect t op o st trim src =
      if bit o.flags 1 then
        if waitsDurable (awaitRecords (writtenUnits t u o st ps cs) (o.f 8 2) (unitsOf (o.f 16 8 * 4096) (o.f 12 4 * 4096)) op) op then
          awaitRecords (writtenUnits t u o st ps cs) (o.f 8 2) (unitsOf (o.f 16 8 * 4096) (o.f 12 4 * 4096)) op
        else finishOk (awaitRecords (writtenUnits t u o st ps cs) (o.f 8 2) (unitsOf (o.f 16 8 * 4096) (o.f 12 4 * 4096)) op) op (atomicUnit t o)
      else finishOk (writtenUnits t u o st ps cs) op (atomicUnit t o) := by
  subst hw hps
  unfold writeEffect
  dsimp only
  rw [hf]
  dsimp only
  rw [hp]
  cases bit o.flags 1 <;> rfl

/-- With a unit that cannot be placed it fails (13 R256, R276). -/
theorem writeEffect_unplaced (hps : ps = (unitsOf (o.f 16 8 * 4096) (o.f 12 4 * 4096)).filter (fun u => !coversUnit (o.f 16 8) (o.f 12 4) u))
    (hf : ps.find? (unitFails t st) = none) (hw : w = countReads t (o.f 8 2) ps)
    (hp : writeUnits w (o.f 8 2) ((lookup w.stores (o.f 8 2)).getD st) (atomicUnit t o) trim (o.f 16 8) (o.f 12 4) src
      (unitsOf (o.f 16 8 * 4096) (o.f 12 4 * 4096)) [] = none) :
    writeEffect t op o st trim src = fail (clearRefused w) op (placeStatus w) 0 := by
  subst hw hps
  unfold writeEffect
  dsimp only
  rw [hf]
  dsimp only
  rw [hp]

theorem execWrite_runs {bufs : List (Nat × Nat)} (h : StorageRuns s op 0x01 o st bufs t) :
    exec (.write op) s = .next (writeEffect t op o st false (fromBuffers t o.port bufs)) :=
  congrArg _ (runStorage_runs h _ (fun hk => absurd hk (by decide)))

theorem execTrim_runs (h : StorageRuns s op 0x04 o st [] t) : exec (.trim op) s = .next (writeEffect t op o st true (fun _ => 0)) :=
  congrArg _ (runStorage_runs h _ (fun _ => rfl))

theorem execRead_runs {bufs : List (Nat × Nat)} (h : StorageRuns s op 0x02 o st bufs t) : exec (.read op) s = .next (readEffect t op o st bufs) :=
  congrArg _ (runStorage_runs h _ (fun hk => absurd hk (by decide)))

/-- A storage FENCE that names its own ring waits for what came before it. -/
theorem execStorageFence_ready {f : StorageFence} (h : Ready s op 0x08 2 o) (ht : t = started s op 2) (h0 : o.f 8 1 = 0)
    (hf : t.fences.find? (fun f => f.op = op) = some f) :
    exec (.storageFence op) s = .next (if fenceDone t f then finishOk (dropFence t op) op 0 else t) := by
  simp only [exec, execStorageFence]
  rw [runOp_ready h, ← ht, if_neg (by simp [h0]), if_neg (by simp [h0]), hf]

end

/-- Settles O40: a READ by its failing units, a WRITE or TRIM by its partial units and their placement, FLUSH and FENCE by their checks. -/
theorem storageCommands : Obligations.StorageCommands := by
  unfold Obligations.StorageCommands
  refine ⟨?reads, ?media, ?writes, ?writesFua, ?unplaced, ?status, ?partial_, ?trims, ?trimsFua, ?trimWhole, ?placesUnit, ?flushes, ?flushAll,
    ?flushDenied, ?fenceEnds, ?fenceWaits, ?unitReads, ?unitRebuilt⟩
  case reads =>
    rintro op o st bufs s t _ h hbad rfl
    have hgood : (unitsOf (o.f 16 8 * 4096) (o.f 12 4 * 4096)).filter (unitFails t st) = [] := by
      simpa [List.filter_eq_nil_iff] using hbad
    rw [execRead_runs h, readEffect, hgood]
    simp only [List.contains_nil, Bool.not_false, List.filter_true]
  case media =>
    rintro op b o st bufs bad s t _ h hbad rfl
    rw [execRead_runs h, readEffect, hbad]
    rfl
  case writes =>
    rintro op o st bufs s t u _ w ps cs h hps hf hw hp rfl hfua
    rw [execWrite_runs h, writeEffect_placed hps hf hw hp, if_neg (by simp [hfua])]
    rfl
  case writesFua =>
    rintro op o st bufs s t u _ w ps cs h hps hf hw hp rfl hfua
    rw [execWrite_runs h, writeEffect_placed hps hf hw hp, if_pos hfua]
    rfl
  case unplaced =>
    intro op o st bufs s t w ps h hps hf hw hp
    rw [execWrite_runs h, writeEffect_unplaced hps hf hw hp]
  case status =>
    intro s
    rfl
  case partial_ =>
    intro op b o st bufs s t h hf
    rw [execWrite_runs h, writeEffect]
    dsimp only
    rw [hf]
  case trims =>
    rintro op o st s t u _ w ps cs h hps hf hw hp rfl hfua
    rw [execTrim_runs h, writeEffect_placed hps hf hw hp, if_neg (by simp [hfua])]
    rfl
  case trimsFua =>
    rintro op o st s t u _ w ps cs h hps hf hw hp rfl hfua
    rw [execTrim_runs h, writeEffect_placed hps hf hw hp, if_pos hfua]
    rfl
  case trimWhole =>
    intro s n a u sector count st src us acc hc hu
    rw [writeUnits, if_pos (by simp [hc]), if_neg hu]
  case placesUnit =>
    intro s t n a u e sector count st src us acc hp
    rw [writeUnits, if_neg (by simp), if_neg (by simp), hp]
  case flushes =>
    intro op o s t h ht hn hd hst
    simp only [exec, execFlush]
    rw [runOp_ready h, ← ht, checks_clear]
    simp only [clear_cons, hd, hst]
    simp
    omega
  case flushAll =>
    intro op o s t h ht hn
    simp only [exec, execFlush]
    rw [runOp_ready h, ← ht, checks_clear]
    simp [hn]
  case flushDenied =>
    intro op o s t h ht hn hst
    simp only [exec, execFlush]
    rw [runOp_ready h, ← ht, checks_fail (b := true) (st := stDenied) (d := 0)]
    simp only [hst]
    rw [List.find?_cons_of_neg (by simp; omega), List.find?_cons_of_pos (by simp; omega)]
    simp
    omega
  case fenceEnds =>
    intro op o s t f h ht h0 hf hd
    rw [execStorageFence_ready h ht h0 hf, if_pos hd]
  case fenceWaits =>
    intro op o s t f h ht h0 hf hd
    rw [execStorageFence_ready h ht h0 hf, if_neg (by simp [hd])]
  case unitReads =>
    intro s st u p hm hl hp hu hd hk
    rw [unitData_mapped hm hl hp, if_neg (by simp [hu, hd]), decrypted, if_pos hk]
  case unitRebuilt =>
    intro s st u p hm hl hp hu
    rw [unitData_mapped hm hl hp, if_pos (by simp [hu])]

/-! ### STORE_CREATE and STORE_DELETE -/

section
variable {s t : State} {op : Nat} {o : Op}

/-- A STORE_CREATE whose fields, key and capacity pass makes its store. -/
theorem execStoreCreate_clear {c : SliceConf} (h : Ready s op 0x61 2 o) (ht : t = started s op 2) (hn : o.f 8 2 ≤ 1023)
    (hc : (lookup t.slices (o.f 10 1)).map Slice.conf = some c) (hm : o.f 11 1 ≤ 1) (h4 : 4 ≤ o.f 16 8) (hmax : o.f 16 8 ≤ 2 ^ 33) (hu : o.f 16 8 % 4 = 0)
    (hnew : lookup t.stores (o.f 8 2) = none)
    (hk : o.f 12 4 = 0 ∨ t.sec.keys.any (fun k => k.handle = o.f 12 4 && k.kind = 2 && k.slice = o.f 10 1) = true)
    (hcap : capacityUsed t (o.f 10 1) (o.f 11 1 = 1) + capacityOf (o.f 11 1 = 1) (o.f 16 8) ≤ (if o.f 11 1 = 1 then c.bulk else c.fast)) :
    exec (.storeCreate op) s = .next (finishOk { (bindKey t (o.f 8 2) (o.f 10 1) (o.f 12 4)).2 with
        stores := insertKey (bindKey t (o.f 8 2) (o.f 10 1) (o.f 12 4)).2.stores (o.f 8 2)
          (newStore (o.f 10 1) (o.f 11 1 = 1) (o.f 16 8) (bindKey t (o.f 8 2) (o.f 10 1) (o.f 12 4)).1) } op
      (capacityOf (o.f 11 1 = 1) (o.f 16 8))) := by
  have hkey : (decide (o.f 12 4 ≠ 0) && !(t.sec.keys.any (fun k => k.handle = o.f 12 4 && k.kind = 2 && k.slice = o.f 10 1))) = false := by
    rcases hk with hk | hk
    · simp [hk]
    · rw [hk, Bool.not_true, Bool.and_false]
  simp only [exec, execStoreCreate]
  rw [runOp_ready h, ← ht, checks_clear]
  simp only [clear_cons, hc, hnew, hkey, Option.any_some]
  simp [hm, hu, hcap]
  omega

/-- A STORE_DELETE that passes its checks waits for the commands on the store. -/
theorem execStoreDelete_clear {st : Store} (h : Ready s op 0x65 2 o) (ht : t = started s op 2) (hn : o.f 8 2 ≤ 1023) (hs : lookup t.stores (o.f 8 2) = some st)
    (hd : deletedAhead t (o.f 8 2) op = false) (hi : st.index = none) (hl : storeLocked t (o.f 8 2) = false) :
    exec (.storeDelete op) s = .next (if busyAhead t (o.f 8 2) op then t else finishOk (removeStore t (o.f 8 2)) op 0) := by
  simp only [exec, execStoreDelete]
  rw [runOp_ready h, ← ht, checks_clear]
  simp only [clear_cons, hs, hd, hl, hi, Option.any_some]
  simp [hn]

/-! ### Self-tests -/

/-- A self-test that no other keeps off starts. -/
theorem startTest_starts {ext : Bool} (hp : o.phase = .fetched) (ha : o.f 16 8 % 64 = 0) (hs : t.selfTest = none)
    (hb : (bobbinsOf t (o.f 10 2)).any (fun b => b ≥ nBobbins t) = false) (hr : Reaches t o [(o.f 16 8, 64, true)]) :
    startTest t op o ext = { t with selfTest := some { op := op, extended := ext, bobbins := bobbinsOf t (o.f 10 2), raddr := o.f 16 8, port := o.port,
                                                       begin_ := t.trd.beat, active := t.clock } } := by
  unfold startTest
  rw [if_neg (not_not_intro hp), checks_clear, withPartner_reach hr]
  simp only [clear_cons, hs, hb]
  simp [ha]

end

/-- Settles O41: STORE_CREATE with a new or an imported key, STORE_DELETE, the self-tests and the two edges of HOLDUP_OK. -/
theorem storesAndSelfTests : Obligations.StoresAndSelfTests := by
  unfold Obligations.StoresAndSelfTests
  refine ⟨?newKey, ?imported, ?deletes, ?deleteWaits, ?short, ?extended, ?busy, ?aborts, ?abort, ?done, ?falls, ?rises, ?same⟩
  case newKey =>
    intro op o s t c h ht hn hc hm h4 hmax hu hnew hk hcap
    rw [execStoreCreate_clear h ht hn hc hm h4 hmax hu hnew (.inl hk) hcap, hk]
    rfl
  case imported =>
    intro op o s t c h ht hn hc hm h4 hmax hu hnew hk hkey hcap
    rw [execStoreCreate_clear h ht hn hc hm h4 hmax hu hnew (.inr hkey) hcap]
    dsimp only
    rw [show (bindKey t (o.f 8 2) (o.f 10 1) (o.f 12 4)).1 = o.f 12 4 by rw [bindKey, if_neg hk]]
  case deletes =>
    intro op o s t st h ht hn hs hd hi hl hb
    rw [execStoreDelete_clear h ht hn hs hd hi hl, if_neg (by simp [hb])]
  case deleteWaits =>
    intro op o s t st h ht hn hs hd hi hl hb
    rw [execStoreDelete_clear h ht hn hs hd hi hl, if_pos hb]
  case short =>
    intro op o s t h h0 hp ht ha hs hb hr
    simp only [exec, execSelfTestShort]
    rw [runRow_ready h _ _ (by simp [h0]), ← ht, if_neg (by simp [h0]), startTest_starts hp ha hs hb hr]
  case extended =>
    intro op o s t h h1 hp ht ha hs hb hr
    simp only [exec, execSelfTestExtended]
    rw [runRow_ready h _ _ (by simp [h1]), ← ht, if_neg (by simp [h1]), startTest_starts hp ha hs hb hr]
  case busy =>
    intro op o s t h h0 hp ht ha hs
    simp only [exec, execSelfTestShort]
    rw [runRow_ready h _ _ (by simp [h0]), ← ht, if_neg (by simp [h0]), startTest, if_neg (not_not_intro hp),
      checks_fail (b := true) (st := stBounds) (d := 8)]
    simp only [ha, hs]
    rfl
  case aborts =>
    intro op o s h h2
    simp only [exec, execSelfTestAbort]
    rw [runRow_ready h _ _ (by simp [h2]), if_neg (by simp [h2])]
  case abort =>
    intro s x hx
    rw [abortTest, hx]
  case done =>
    intro found s x hx
    simp only [exec, execSelfTestDone, hx]
  case falls =>
    rintro s _ hh rfl
    exact if_neg (by simp [hh])
  case rises =>
    rintro s _ hh rfl
    exact if_neg (by simp [hh])
  case same =>
    exact fun s => ⟨fun hh => if_pos (by simp [hh]), fun hh => if_pos hh⟩

end Sys2Proof.Machine
end

section
/-! Slices and grants (15 R309, R312, R313), the rotation and slice switches (15 R314-R318), meter records (15 R326, R327). -/

namespace Sys2Proof.Machine

/-! ### Slices and grants -/

theorem mem_of_lookup {α : Type} {t : Tbl α} {n : Nat} {x : α} (h : lookup t n = some x) : (n, x) ∈ t := by
  induction t with
  | nil => cases h
  | cons e t ih =>
    rw [show e = (e.1, e.2) from rfl, lookup_cons] at h
    split at h
    · next hn =>
      obtain rfl := Option.some.inj h
      rw [hn]
      exact List.mem_cons_self ..
    · exact List.mem_cons_of_mem _ (ih h)

section
variable {s t u v : State} {op : Nat} {o : Op}

/-- Past its checks, and with the floor of a sealed slice reserved, a slice is made. -/
theorem execSliceCreate_clear (h : Ready s op 0x60 4 o) (ht : t = started s op 4) (hc : Clear (createChecks t o (sliceConf o))) (ok : Bool)
    (hv : (if isSealed (sliceConf o) then makeFree (sliceConf o).floor (sliceConf o).floor t else (t, true)) = (v, ok))
    (hu : u = { v with slices := insertKey v.slices (o.f 8 1) (newSlice v (sliceConf o)), sec := { v.sec with poolKeys := v.sec.poolKeys ++ [o.f 8 1] } }) :
    exec (.sliceCreate op) s = .next (if ok then finishOk (makeKey (makeKey u 3 (o.f 8 1)) 4 (o.f 8 1)) op 0 else v) := by
  subst hu
  simp only [exec, execSliceCreate]
  rw [runOp_ready h, ← ht, checks_clear hc, hv]
  cases ok <;> rfl

/-- A grant in place is revoked once the slice's commands on the store have ended. -/
theorem execStoreShareRevoke_clear {st : Store} (h : Ready s op 0x67 4 o) (h1 : o.f 11 1 = 1) (ht : t = started s op 4) (hc : Clear (shareChecks t op o false))
    (hs : lookup t.stores (o.f 8 2) = some st) :
    exec (.storeShareRevoke op) s = .next (
      if !(st.slice ≠ o.f 10 1 && st.grants.contains (o.f 10 1)) then finishOk t op 0
      else if sliceBusy t (o.f 8 2) (o.f 10 1) op then t
      else finishOk (modStore t (o.f 8 2) (fun st => { st with grants := st.grants.filter (fun g => g ≠ o.f 10 1) })) op 0) := by
  simp only [exec, execStoreShareRevoke]
  rw [runRow_ready h _ _ (by simp [h1]), ← ht, checks_clear hc, hs]
  rfl

end

/-- Settles O42: SLICE_CREATE by its checks and its reserve, SLICE_DELETE by what the slice holds, STORE_SHARE by its OP. -/
theorem slicesAndGrants : Obligations.SlicesAndGrants := by
  unfold Obligations.SlicesAndGrants
  refine ⟨?creates, ?createsSealed, ?reserveWaits, ?refuses, ?meets, ?deletes, ?holds, ?grants, ?revokes, ?revokeWaits, ?noGrant⟩
  case creates =>
    intro op o s t u h ht hc hs hu
    exact execSliceCreate_clear h ht hc true (by rw [hs]; rfl) hu
  case createsSealed =>
    intro op o s t u v h ht hc hs hv hu
    exact execSliceCreate_clear h ht hc true (by rw [hs]; exact hv) hu
  case reserveWaits =>
    intro op o s t v h ht hc hs hv
    exact execSliceCreate_clear h ht hc false (by rw [hs]; exact hv) rfl
  case refuses =>
    intro op o s t b st d h ht hc
    simp only [exec, execSliceCreate]
    rw [runOp_ready h, ← ht, checks_fail _ _ _ _ _ _ _ hc]
  case meets =>
    intro s o q x hx hm hsh hc
    have hentry := List.find?_eq_none.1 hc
      (s.slices.any (fun e => (!(sliceConf o).shared || !e.2.conf.shared) && setsMeet (sliceConf o).spindles e.2.conf.spindles), stBounds, 16)
      (List.mem_append_right _ (by simp))
    refine hentry (List.any_eq_true.2 ⟨(q, x), mem_of_lookup hx, ?_⟩)
    rw [hm, Bool.and_true]
    rcases hsh with h | h <;> simp [h]
  case deletes =>
    intro op o s t x h ht hx hh
    simp only [exec, execSliceDelete]
    rw [runOp_ready h, ← ht, checks_clear]
    simp [hx, hh]
  case holds =>
    intro op o s t h ht hx
    simp only [exec, execSliceDelete]
    rw [runOp_ready h, ← ht, checks_fail (b := true) (st := stBounds) (d := 8)]
    rcases hx with hx | hx <;> simp [hx]
  case grants =>
    intro op o s t h h0 ht hc
    simp only [exec, execStoreShareGrant]
    rw [runRow_ready h _ _ (by simp [h0]), ← ht, checks_clear hc]
  case revokes =>
    intro op o s t st h h1 ht hc hs hne hg hb
    rw [execStoreShareRevoke_clear h h1 ht hc hs, hg, hb, decide_eq_true hne]
    rfl
  case revokeWaits =>
    intro op o s t st h h1 ht hc hs hne hg hb
    rw [execStoreShareRevoke_clear h h1 ht hc hs, hg, hb, decide_eq_true hne]
    rfl
  case noGrant =>
    intro op o s t st h h1 ht hc hs hg
    rw [execStoreShareRevoke_clear h h1 ht hc hs, hg, Bool.and_false]
    rfl

/-! ### The rotation -/

section
variable {s t u z : State} {sp : Fin 48} {q b : Nat} {c : SpindleSched} {want : Option Nat} {x : Slice}

/-- With no entry of the table at fault, its beat in time and no two entries meeting, the table is the next rotation. -/
theorem schedChecked_good {op : Nat} {o : Op} {table : List Byte} {es : List RotEntry}
    (hbad : ∀ i < o.f 16 2, field (cut table (16 * i) 16) 9 7 = 0 ∧ 1000 ≤ field (cut table (16 * i) 16) 4 4 ∧
      field (cut table (16 * i) 16) 0 4 + field (cut table (16 * i) 16) 4 4 ≤ o.f 20 4)
    (he : o.f 24 8 % o.f 20 4 = 0) (hb : t.trd.beat + 1000 ≤ o.f 24 8) (hes : es = (List.range (o.f 16 2)).map (fun i => readRotEntry (cut table (16 * i) 16)))
    (hr : rotationBad t es = none) :
    schedChecked t op o table = finishOk { t with nextRotation := some { entries := es, period := o.f 20 4, effect := o.f 24 8 } } op 0 := by
  subst hes
  have hnone : (List.range (o.f 16 2)).find? (fun i => field (cut table (16 * i) 16) 9 7 ≠ 0 || field (cut table (16 * i) 16) 4 4 < 1000 ||
      field (cut table (16 * i) 16) 0 4 + field (cut table (16 * i) 16) 4 4 > o.f 20 4) = none := by
    refine List.find?_eq_none.2 (fun i hi => ?_)
    obtain ⟨hz, hlen, hend⟩ := hbad i (List.mem_range.1 hi)
    simp [hz, hlen, hend]
  unfold schedChecked
  dsimp only
  rw [hnone]
  dsimp only
  rw [if_neg (by simp [he, hb]), hr]

/-- Where the slice running is not the one that is to run, the switch saves, scrubs and restores. -/
theorem execSliceSwitch_switches {p : Nat} (hc : schedOf s sp.val = c) (hb : c.boundary = some (b, want)) (hh : s.ras.halted = false)
    (hs : stepOn s sp.val = false) (hne : c.running ≠ want) (hz : saveOutgoing s sp.val = some z) (hu : u = chargeSwitch z c.running)
    (hp : physOf u sp.val = some p) (w : State)
    (hw : w = match want with
      | some q => if (switchedOut (scrubSpn u p) q sp.val).isSome then chargeSwitch (restoreIncoming (scrubSpn u p) q sp.val) (some q) else scrubSpn u p
      | none => scrubSpn u p) :
    exec (.sliceSwitch sp) s = .next { w with sched := insertKey w.sched sp.val { running := want, boundary := none } } := by
  subst hc hu hw
  simp only [exec, execSliceSwitch, hb]
  rw [if_neg (by simp [hh, hs]), if_neg hne, hz]
  dsimp only
  rw [hp]
  cases want with
  | none => rfl
  | some q => rfl

end

/-- Settles O43: SCHED_SET by its checks, a boundary slice by slice and spindle by spindle, a switch by what it finds. -/
theorem rotationAndSwitches : Obligations.RotationAndSwitches := by
  unfold Obligations.RotationAndSwitches
  refine ⟨?sets, ?boundary, ?turns, ?begins, ?goesOn, ?notes, ?toNone, ?toSlice, ?waits, ?steps⟩
  case sets =>
    intro op o s t table es h ht ha hn hp hmin hmax hr hh htable hbad he hb hes hrot
    simp only [exec, execSchedSet]
    rw [runOp_ready h, ← ht, checks_clear, withPartner_reach hr, if_neg, ← htable, schedChecked_good hbad he hb hes hrot]
    · simpa using hh
    · simp only [clear_cons]
      simp [ha, hn, hp, hmin, hmax]
  case boundary =>
    rintro s _ rfl
    rfl
  case turns =>
    intro s r hr hn he
    simp only [turnRotation, hr, hn, he, decide_true, Bool.and_self, if_true]
  case begins =>
    rintro s _ q b x e rfl hx hnone he
    simp only [turnSlice, hx, hnone, he]
    rfl
  case goesOn =>
    rintro s _ q a b x rfl hx hsome hb
    simp [turnSlice, hx, hsome, Nat.not_le.2 hb]
  case notes =>
    intro s l c hc hb hne hsh
    have hsched : schedOf s l = c := by rw [schedOf, hc]; rfl
    simp only [turnSpindle, hsched, hb]
    rw [if_neg, if_neg hne]
    rcases hsh with h | h
    · simp [h]
    · simp [Option.isSome_iff_ne_none.1 h]
  case toNone =>
    intro sp s u z b p c hc hb hh hs hne hz hu hp
    exact execSliceSwitch_switches hc hb hh hs hne hz hu hp _ rfl
  case toSlice =>
    rintro sp s u _ w z b p q c hc hb hh hs hne hz hu hp rfl hw
    exact execSliceSwitch_switches hc hb hh hs hne hz hu hp w hw
  case waits =>
    intro sp s c b want hc hb hne hz
    simp only [exec, execSliceSwitch, hc, hb, hz, if_neg hne, ite_self]
  case steps =>
    intro sp s hs
    simp only [exec, execSliceSwitch]
    split
    · rfl
    · exact if_pos (by simp [hs])

/-! ### Meter records -/

/-- Settles O44: the cut at a treadle minute, the queue's limit, METER_SET by its checks, and the write of the oldest record. -/
theorem meterRecords : Obligations.MeterRecords := by
  unfold Obligations.MeterRecords
  refine ⟨?cuts, ?noMinute, ?record, ?drops, ?sets, ?writes, ?full⟩
  case cuts =>
    intro s hn hb
    exact if_pos (by simp [hn, hb])
  case noMinute =>
    intro s h
    exact if_neg (by rcases h with h | h <;> simp [h])
  case record =>
    intro s q x short final hx
    simp only [cutMeter, cutMeterAt, hx]
    rfl
  case drops =>
    intro s q hlen hg
    rw [trimQueue, if_neg (Nat.not_le.2 hlen), hg]
    rfl
  case sets =>
    intro op o s t h ht ha h4 h12 hr hl hw hv hb
    simp only [exec, execMeterSet]
    rw [runOp_ready h, ← ht, checks_clear]
    simp only [clear_cons, hr, hl, hw, hb]
    simp [ha]
    omega
  case writes =>
    rintro s _ m q body l ring send hm hq hrun hlost hroom hsig rfl
    simp only [exec, execMeterRecordWrite, hm, hq, hsig]
    exact if_neg (by simp [hrun, hlost, hroom])
  case full =>
    intro s m hm hroom
    simp only [exec, execMeterRecordWrite, hm]
    cases s.meterQueue with
    | nil => rfl
    | cons e l => exact if_pos (by simp [hroom])

end Sys2Proof.Machine
end

section
/-! Card commands (12 R230-R241), the passes, re-ranking and shards of queries (12 R228, R229, R241-R247). -/

namespace Sys2Proof.Machine

/-! ### Indexes and their changes -/

section
variable {s t u : State} {op n : Nat} {o : Op} {x : Index} {items : List Item} {ids : List Nat}

/-- A CARD_CREATE that passes its checks, with no command left on the store, makes its index. -/
theorem execCardCreate_clear {cs : List (List Byte)} (h : Ready s op 0x44 2 o) (ht : t = started s op 2) (hf : Clear (cardCreateFields o))
    (hc : Clear (cardCreateChecks t op o)) (hr : Reaches t o [(o.f 32 8, o.f 16 4 * sketchBytes (o.f 10 1), false)]) (hb : busyAhead t (o.f 8 2) op = false)
    (hcs : cs = (List.range (o.f 16 4)).map (fun i => readPartner t o.port (o.f 32 8 + i * sketchBytes (o.f 10 1)) (sketchBytes (o.f 10 1))))
    (hu : u = modStore (trimStore t (o.f 8 2)) (o.f 8 2) (fun st => { st with index := some t.card.nextHandle })) (v : State)
    (hv : v = { u with card := { u.card with indexes := insertKey u.card.indexes t.card.nextHandle (newIndex o cs), nextHandle := t.card.nextHandle + 1 } }) :
    exec (.cardCreate op) s = .next (finishOk
      (if o.f 20 2 = 0xFFFF then v
       else { v with strand := { v.strand with eps := insertKey v.strand.eps (o.f 20 2) (cardEndpoint o t.card.nextHandle) } })
      op (t.card.nextHandle % 2 ^ 32)) := by
  subst hv hu hcs
  simp only [exec, execCardCreate]
  rw [runOp_ready h, ← ht, checks_clear hf, checks_clear hc, withPartner_reach hr, if_neg (by simp [hb])]

/-- A CARD_DROP of the slice's index waits for what uses it. -/
theorem execCardDrop_own (h : Ready s op 0x45 2 o) (ht : t = started s op 2) (hx : lookup t.card.indexes (o.f 8 4) = some x) (hs : x.slice = o.slice)
    (hd : x.dropping.any (fun d => d ≠ op) = false) :
    exec (.cardDrop op) s = .next (
      if indexBusy t (o.f 8 4) op then { t with card := { t.card with indexes := insertKey t.card.indexes (o.f 8 4) { x with dropping := some op } } }
      else finishOk (removeIndex t (o.f 8 4) x) op 0) := by
  simp only [exec, execCardDrop]
  rw [runOp_ready h, ← ht, hx]
  dsimp only
  rw [if_neg]
  simp only [hs, hd]
  simp

/-- A CARD_INSERT on the slice's index, its items read, goes by the first item at fault. -/
theorem execCardInsert_own (h : Ready s op 0x41 2 o) (ht : t = started s op 2) (hx : ownIndex t o.slice (o.f 8 4) op = some x) (h1 : 1 ≤ o.f 12 4)
    (hmax : o.f 12 4 ≤ 65536) (hr : Reaches t o [(o.f 16 8, o.f 12 4 * itemStride x, false)])
    (hi : items = (List.range (o.f 12 4)).map (itemAt x (readPartner t o.port (o.f 16 8) (o.f 12 4 * itemStride x)))) :
    exec (.cardInsert op) s = .next (
      match items.findIdx? (fun i => i.id = 0xFFFFFFFFFFFFFFFF || i.cluster ≥ x.ncluster) with
      | some i => fail t op stBounds i
      | none =>
        if noRoom t (o.f 8 4) x (o.f 12 4) then fail t op stBounds 0xFFFFFFFF
        else if items.any (fun i => (getBob t (bobbinOfItem t i.id)).readOnly) then fail t op stWriteFault 0
        else finishOk (charge (modIndex t (o.f 8 4) (fun x => { x with pending := items.foldl putItem x.pending })) o.slice
          (fun m => { m with flashWrite := m.flashWrite + itemSpace x (o.f 12 4) })) op (changeResult x (o.f 12 4))) := by
  subst hi
  simp only [exec, execCardInsert]
  rw [runOp_ready h, ← ht, if_neg (by simp; omega), hx]
  dsimp only
  rw [withPartner_reach hr] <;> rfl

theorem findIdx_goodItems (hok : ∀ i ∈ items, i.id ≠ 0xFFFFFFFFFFFFFFFF ∧ i.cluster < x.ncluster) :
    items.findIdx? (fun i => i.id = 0xFFFFFFFFFFFFFFFF || i.cluster ≥ x.ncluster) = none := by
  refine List.findIdx?_eq_none_iff.2 (fun i hi => ?_)
  obtain ⟨hid, hc⟩ := hok i hi
  simp [hid, hc]

/-- An unsharded query with its block and output in reach, its clusters in range, joins the queries. -/
theorem beginQuery_local {len : Nat} {b block : List Byte} {ts : List Term}
    (hlen : len = o.f 12 1 * queryStride x (o.f 13 1) (o.f 18 2) (bit (o.f 20 1) 0)) (hsh : bit (o.f 20 1) 1 = false)
    (hr : Reaches t o [(o.f 24 8, len, false), (o.f 48 8, 0, false), (o.f 32 8, outputBytes (o.f 12 1) (o.f 14 2) 0, true)])
    (hblock : block = readPartner t o.port (o.f 24 8) len)
    (hcl : bit (o.f 20 1) 0 = true → ∀ q < o.f 12 1, ∀ c ∈ listedClusters x (o.f 13 1) (o.f 18 2) block q, c < x.ncluster) :
    beginQuery t op o x b ts = startQuery t (newQuery t op x (o.f 8 4) (o.f 13 1) (o.f 14 2) (o.f 16 2) (o.fetchedAt + deadlineBeats (o.f 22 2))
      ((List.range (o.f 12 1)).map (querySpec x (o.f 13 1) (o.f 18 2) (bit (o.f 20 1) 0) block)) ts none [] (o.f 32 8)) := by
  subst hlen hblock
  unfold beginQuery
  simp only [hsh, Bool.false_eq_true, if_false, Nat.zero_sub, Nat.mul_zero]
  rw [withPartner_reach hr, if_neg]
  · rfl
  · simpa using hcl

end

/-- Settles O45: each command past its checks, the items of a change by the first at fault. -/
theorem cardCommands : Obligations.CardCommands := by
  unfold Obligations.CardCommands
  refine ⟨?scan, ?creates, ?createsOpen, ?drops, ?dropWaits, ?inserts, ?readOnly, ?badItem, ?deletes, ?publishes, ?queries, ?begins⟩
  case scan =>
    intro op o s t b ts h ht hq hf hs hterms hr
    simp only [exec, execFilterScan]
    rw [runOp_ready h, ← ht, if_neg (by simp [hq]), checks_clear hf, checks_clear hs, withTerms_read hterms, withPartner_reach hr]
  case creates =>
    intro op o s t u cs h ht hf hc hr hb hcs hu he
    rw [execCardCreate_clear h ht hf hc hr hb hcs hu _ rfl, if_pos he]
  case createsOpen =>
    intro op o s t u cs h ht hf hc hr hb hcs hu he
    rw [execCardCreate_clear h ht hf hc hr hb hcs hu _ rfl, if_neg he]
  case drops =>
    intro op o s t x h ht hx hs hd hb
    rw [execCardDrop_own h ht hx hs hd, if_neg (by simp [hb])]
  case dropWaits =>
    intro op o s t x h ht hx hs hd hb
    rw [execCardDrop_own h ht hx hs hd, if_pos hb]
  case inserts =>
    intro op o s t x items h ht hx h1 hmax hr hi hok hroom hro
    rw [execCardInsert_own h ht hx h1 hmax hr hi, findIdx_goodItems hok]
    dsimp only
    rw [if_neg (by simp [hroom]), if_neg (by rw [hro]; decide), changeResult]
  case readOnly =>
    intro op o s t x items h ht hx h1 hmax hr hi hok hroom hro
    rw [execCardInsert_own h ht hx h1 hmax hr hi, findIdx_goodItems hok]
    dsimp only
    rw [if_neg (by simp [hroom]), if_pos hro]
  case badItem =>
    intro op i o s t x items h ht hx h1 hmax hr hi hbad
    rw [execCardInsert_own h ht hx h1 hmax hr hi, hbad]
  case deletes =>
    intro op o s t x ids h ht hx h1 hmax hr hids hok
    have hnone : ids.findIdx? (fun i => i = 0xFFFFFFFFFFFFFFFF) = none :=
      List.findIdx?_eq_none_iff.2 (fun i hi => decide_eq_false (hok i hi))
    simp only [exec, execCardDelete]
    rw [runOp_ready h, ← ht, if_neg (by simp; omega), hx]
    dsimp only
    rw [withPartner_reach hr, ← hids, hnone]
    rfl
  case publishes =>
    intro op o s t x h ht hx
    simp only [exec, execCardPublish]
    rw [runOp_ready h, ← ht, hx]
  case queries =>
    intro op o s t x b ts h ht hx hq hf hmetric hsharded hterms
    simp only [exec, execCardQuery]
    rw [runOp_ready h, ← ht, if_neg (by simp [hq]), checks_clear hf, hx]
    dsimp only
    rw [checks_clear, if_neg, withTerms_read hterms]
    · simp only [Bool.and_eq_true, decide_eq_true_eq, not_and, Bool.not_eq_true]
      exact fun hm => (hmetric hm).2.2
    · simp only [clear_cons, Bool.and_eq_false_imp, decide_eq_true_eq, decide_eq_false_iff_not, Bool.not_eq_false']
      exact ⟨fun hm => (hmetric hm).1, hsharded, fun hm => by simpa using (hmetric hm).2.1, rfl⟩
  case begins =>
    intro op len o t x b ts block hlen hsh hr hblock hcl
    exact beginQuery_local hlen hsh hr hblock hcl

/-! ### Passes, re-ranking and shards -/

section
variable {s t u : State} {n : Fin 104} {k : Packet} {e : Endpoint} {h : Nat}

/-- The unit's next pass, with none to come before it and the device awake, runs for its query. -/
theorem execCardPass_runs {b : Fin 16} {p : CardPass} {ps : List CardPass} {q : Query} (hp : (getBob s b.val).passes = p :: ps)
    (ha : passAhead s p.op = false) (hw : awake s 2 = true) (hu : u = modBob s b.val (fun x => { x with passes := ps })) (hq : getQuery u p.op = some q) :
    exec (.cardPass b) s = .next (passDone (match q.scan with | some c => scanPass u b.val q c | none => sketchPass u b.val q) b.val p.op) := by
  subst hu
  simp only [exec, execCardPass, hp, ha, hw]
  rw [if_neg (by decide), if_neg (by decide), hq] <;> rfl

/-- A message packet for a card endpoint that key and node let in: a part is kept, and the last is taken whole (12 R246). -/
theorem serveCard_arrives (ha : Arrives s n.val k t) (ho : k.op = 4) (he : lookup t.strand.eps k.ep = some e) (hc : e.card = some h) (hk : e.key = k.key)
    (hp : (bit e.peer 31 || e.peer % 2 ^ 18 = k.src) = true) (h0 : k.offset = 0) (whole : State → Endpoint → List Byte → Served) :
    serveCard s n.val k whole = applyPacket t k stOk (fun t =>
      if !k.last then .done stOk { t with card := { t.card with arriving := writeD [] t.card.arriving (k.src * 4096 + k.ep) k.data } }
      else
        match whole t e k.data with
        | .wait s => .wait s
        | .done st s => .done st { s with card := { s.card with arriving := removeKey s.card.arriving (k.src * 4096 + k.ep) } }) := by
  rw [serveCard, servePacket_arrives ha ho]
  simp only [applyPacket, if_true, he]
  rw [if_neg (by rw [hp]; simp [hc, hk])]
  simp only [h0, if_true, List.nil_append] <;> rfl

/-- What is taken whole is answered. -/
theorem serveCard_done {whole : State → Endpoint → List Byte → Served} {st : Nat} (ha : Arrives s n.val k t) (ho : k.op = 4)
    (he : lookup t.strand.eps k.ep = some e) (hc : e.card = some h) (hk : e.key = k.key) (hp : (bit e.peer 31 || e.peer % 2 ^ 18 = k.src) = true)
    (hl : k.last = true) (h0 : k.offset = 0) (hw : whole t e k.data = .done st u) :
    serveCard s n.val k whole =
      acknowledge (unqueue { u with card := { u.card with arriving := removeKey u.card.arriving (k.src * 4096 + k.ep) } } k) k st := by
  rw [serveCard_arrives ha ho he hc hk hp h0]
  refine applyPacket_done ?_
  rw [hl, hw]
  rfl

end

/-- Settles O46: passes in the order of their queue, what follows the last one, and the shard messages by what they carry. -/
theorem cardPassesAndShards : Obligations.CardPassesAndShards := by
  unfold Obligations.CardPassesAndShards
  refine ⟨?query, ?scan, ?asleep, ?behind, ?none_, ?order, ?sketchOnly, ?toRerank, ?reranks, ?unit, ?halted, ?answers, ?answersScan, ?request,
    ?requestWaits, ?part, ?reply, ?deadline, ?early⟩
  case query =>
    intro b s u p ps q hp ha hw hu hq hs
    rw [execCardPass_runs hp ha hw hu hq, hs]
  case scan =>
    intro b s u p ps q c hp ha hw hu hq hs
    rw [execCardPass_runs hp ha hw hu hq, hs]
  case asleep =>
    intro b s p ps hp ha hw
    simp only [exec, execCardPass, hp, ha, hw]
    rfl
  case behind =>
    intro b s p ps hp ha
    simp only [exec, execCardPass, hp, ha]
    rfl
  case none_ =>
    intro b s hp
    simp only [exec, execCardPass, hp]
  case order =>
    intro op p ps
    rfl
  case sketchOnly =>
    intro s op q hq hs hm
    simp only [afterScan, hq, hs]
    exact if_pos hm
  case toRerank =>
    rintro s _ op q todo hq hs hm rfl htodo hlate rfl
    simp only [afterScan, hq, hs]
    rw [if_neg (by decide), if_neg hm, if_neg (by simpa using htodo), if_neg]
    simpa [rerankLate, modQuery] using hlate
  case reranks =>
    intro op s q hq hs htodo hl hh hu hlate ha
    simp only [exec, execRerankUnit, hq, hs, hl, hh, hu, hlate, ha]
    rw [if_neg (by simpa using htodo)]
    rfl
  case unit =>
    intro s t q lost hl
    rw [rerank, hl]
    cases lost <;> rfl
  case halted =>
    intro op s hh
    simp only [exec, execRerankUnit, hh]
    split
    · rfl
    · exact if_pos (by simp)
  case answers =>
    intro s op q hq hl hr hs hin
    simp only [concludeQuery, hq, hl, hr, hs, hin]
    rw [if_neg (by decide), if_neg (by simp)]
  case answersScan =>
    intro s op q c hq hl hr hs
    simp only [concludeQuery, hq, hl, hr, hs]
  case request =>
    intro n k s t u e h st ha ho he hc hk hp hl h0 hkind hadm
    refine congrArg _ (serveCard_done ha ho he hc hk hp hl h0 ?_)
    rw [if_neg (not_not_intro hkind), hc]
    exact hadm
  case requestWaits =>
    intro n k s t u e h ha ho he hc hk hp hl h0 hkind hadm
    simp only [exec, execShardRequest]
    rw [serveCard_arrives ha ho he hc hk hp h0]
    simp only [applyPacket, if_true, hl, hkind, hc, Option.getD_some, hadm]
    rfl
  case part =>
    intro n k s t e h ha ho he hc hk hp hl h0
    simp only [exec, execShardRequest]
    rw [serveCard_arrives ha ho he hc hk hp h0]
    refine congrArg _ (applyPacket_done ?_)
    rw [hl]
    rfl
  case reply =>
    rintro n k s t _ e h ha ho he hc hk hp hl h0 hkind rfl
    refine congrArg (fun v => Host.Outcome.next (concludeAll v)) (serveCard_done ha ho he hc hk hp hl h0 ?_)
    rw [if_neg (not_not_intro hkind)]
  case deadline =>
    rintro op s _ q hq hs hd rfl
    simp only [exec, execQueryDeadline, hq]
    rw [if_neg (by simp [hs, hd])]
    split <;> rfl
  case early =>
    intro op s q hq hd
    simp only [exec, execQueryDeadline, hq]
    exact if_pos (by simp [hd])

end Sys2Proof.Machine
end

section
/-! The life of blocks and dies (13 R256-R282), journal pages, checkpoints, projections and FLASH_REPORT (13 R264, R279, R281; 14 R295). -/

namespace Sys2Proof.Machine

/-! ### Blocks and dies -/

section
variable {b : Fin 16} {block : Nat} {s : State}

/-- A program fails in an open fast-mode block. -/
theorem execNandProgramFailure_fast (hst : (getBlock (getBob s b.val) block).st = .opened) (hm : (getBlock (getBob s b.val) block).mode = 1) :
    exec (.nandProgramFailure b block false) s = .next (failFast s b.val block) := by
  simp only [exec, execNandProgramFailure, hst, hm]
  exact congrArg _ (if_pos (by decide))

/-- A program or the close verify fails in a bulk-mode block that no unit was committed to. -/
theorem execNandProgramFailure_bulk {atClose : Bool} (hst : (getBlock (getBob s b.val) block).st = if atClose then .closed else .opened)
    (hm : (getBlock (getBob s b.val) block).mode = 2) (hv : validUnits s b.val block = []) :
    exec (.nandProgramFailure b block atClose) s = .next (failBulk s b.val block (if atClose then 2 else 0)) := by
  simp only [exec, execNandProgramFailure, hst, hm, hv]
  cases atClose
  · exact congrArg _ ((if_neg (by decide)).trans (if_pos (by decide)))
  · exact congrArg _ ((if_neg (by decide)).trans (if_pos (by decide)))

/-- GC_MOVE of a closed block of a die in use that refresh or garbage collection wants moves it. -/
theorem execGcMove_wanted (hp : s.pwr.state < 3) (hst : (getBlock (getBob s b.val) block).st = .closed) (ha : onActive (getBob s b.val) block = true)
    (hw : (getBob s b.val).refreshQ.contains block = true ∨
      (freeBlocks (getBob s b.val) < 4096 ∧ victimOf (closedWith s b.val (fun _ _ => true)) = some block)) :
    exec (.gcMove b block) s = .next (moveBlock s b.val block (fun _ => (getBlock (getBob s b.val) block).mode = 2)) := by
  simp only [exec, execGcMove]
  rw [if_neg (by omega)]
  split
  · rfl
  · rw [if_neg (by rw [hst, ha]; decide), if_pos (by simpa using hw)]

/-- GC_MOVE of a block on the die that migration empties moves it. -/
theorem execGcMove_migrating {n : Nat} (hp : s.pwr.state < 3) (hm : (getBob s b.val).migrating = some (dieOf block, n)) :
    exec (.gcMove b block) s = .next (moveBlock s b.val block (fun _ => (getBlock (getBob s b.val) block).mode = 2)) := by
  simp only [exec, execGcMove]
  rw [if_neg (by omega), if_pos (by rw [hm]; simp)]

end

/-- Settles O47: each failure by the state of its block, each movement by what asked for it. -/
theorem flashLife : Obligations.FlashLife := by
  unfold Obligations.FlashLife
  refine ⟨?refused, ?failsFast, ?failsBulk, ?verifyFails, ?again, ?eraseFails, ?wanted, ?migrates, ?idle, ?folds, ?copies, ?commits, ?erases, ?kept,
    ?starts, ?ends, ?calm, ?suspends, ?fourth, ?notBusy, ?mapsOut, ?unitsLeft, ?stops, ?stopped⟩
  case refused =>
    intro b block page s h
    exact congrArg _ (if_pos h)
  case failsFast =>
    rintro b block s _ hst hm rfl
    exact execNandProgramFailure_fast hst hm
  case failsBulk =>
    intro b block s hst hm hv
    exact execNandProgramFailure_bulk hst hm hv
  case verifyFails =>
    intro b block s hst hm hv
    exact execNandProgramFailure_bulk hst hm hv
  case again =>
    rintro s _ _ _ b block cause _ rfl rfl rfl rfl
    rfl
  case eraseFails =>
    intro b block s h
    exact congrArg _ (if_pos (by simpa [and_assoc] using h))
  case wanted => exact fun b block s => execGcMove_wanted
  case migrates => exact fun b block n s => execGcMove_migrating
  case idle =>
    intro b block s hp
    exact if_pos hp
  case folds =>
    intro b block s hp hv
    exact congrArg _ (if_pos (by simp [hp, hv]))
  case copies =>
    intro s b block f h
    simp only [moveBlock, h]
    rfl
  case commits =>
    intro s b block f m ms h
    simp only [moveBlock, h]
    rfl
  case erases =>
    intro s b block hst ha hv hm
    exact if_pos (by simp [hst, ha, hv, hm])
  case kept =>
    intro s b block hv
    exact if_neg (by simp [hv])
  case starts =>
    intro b s hf hn
    exact if_pos (by simp [hf, hn])
  case ends =>
    intro b s hf hn
    exact (if_neg (by simp [hf])).trans (if_pos (by simp [hf, hn]))
  case calm =>
    intro b s hf hn
    exact (if_neg (by simp; omega)).trans (if_neg (by simp [hf]))
  case suspends =>
    intro b die s hb hn
    exact congrArg _ (if_pos (by simp [hb, hn]))
  case fourth =>
    intro b die s hn
    exact congrArg _ (if_neg (by simp; omega))
  case notBusy =>
    intro b die s hb
    exact congrArg _ (if_neg (by simp [hb]))
  case mapsOut =>
    rintro b d n s _ hm hu rfl
    simp only [exec, execMigrateDone, hm]
    exact if_pos hu
  case unitsLeft =>
    intro b d n s hm hu
    simp only [exec, execMigrateDone, hm]
    exact if_neg hu
  case stops =>
    intro b die s hb ha
    exact if_pos (by simp [hb, ha])
  case stopped =>
    intro b die s ha
    exact if_neg (by simp [ha])

/-! ### The journal and reports -/

theorem nBobbins_le (s : State) : nBobbins s ≤ 16 := by
  unfold nBobbins
  split <;> omega

/-- An operation that no uncommitted record is left of completes when its record is programmed. -/
theorem wakeDurable_single {t : State} {id : Nat} {o : Op} (hr : t.journal.records = []) (ho : lookup t.ops id = some o) :
    wakeDurable t [id] = finishOk t id (durableResult t o) := by
  simp only [wakeDurable, List.foldl_cons, List.foldl_nil, ho, waitsDurable, hr]
  rfl

section
variable {op : Nat} {o : Op} {s t : State}

/-- FLASH_REPORT of a bobbin there is, of a kind there is, to an aligned address, goes by its length. -/
theorem execFlashReport_clear (h : Ready s op 0x6A 4 o) (ht : t = started s op 4) (hb : o.f 8 1 < nBobbins t ∨ o.f 8 1 = 0xFF) (hk : o.f 9 1 ≤ 1)
    (ha : o.f 16 8 % 64 = 0) :
    exec (.flashReport op) s = .next (checks t op [(o.f 24 4 < reportBytes t (o.f 8 1) (o.f 9 1), stBounds, 24)]
      (withPartner t op o [(o.f 16 8, reportBytes t (o.f 8 1) (o.f 9 1), true)]
        (finishOk (writePartner t o.port (o.f 16 8) (flashReport t (o.f 8 1) (o.f 9 1))) op (reportBytes t (o.f 8 1) (o.f 9 1))))) := by
  have h16 := nBobbins_le t
  have c1 : (decide (o.f 8 1 > 15) && decide (o.f 8 1 ≠ 0xFF)) = false := by simp; omega
  have c2 : (decide (o.f 8 1 ≠ 0xFF) && decide (nBobbins t ≤ o.f 8 1)) = false := by simp; omega
  simp only [exec, execFlashReport]
  rw [runOp_ready h, ← ht]
  simp only [checks, List.find?_cons, ge_iff_le, c1, c2, ha, decide_eq_false (Nat.not_lt.2 hk), ne_eq, not_true_eq_false, decide_false]

end

/-- Settles O48: the journal by its fill and its first record's age, the projection bobbin by bobbin, the report by its length. -/
theorem journalAndReports : Obligations.JournalAndReports := by
  unfold Obligations.JournalAndReports
  refine ⟨?full, ?notFull, ?aged, ?young, ?checkpoint, ?tooSoon, ?fill, ?completes, ?projection, ?reports, ?short⟩
  case full =>
    intro s h
    exact congrArg _ (if_pos h)
  case notFull =>
    intro s h
    exact congrArg _ (if_neg (by rw [h]; exact Nat.lt_irrefl _))
  case aged =>
    intro s r rs hr hn
    exact congrArg _ (if_pos (by rw [hr]; simpa using hn))
  case young =>
    intro s r rs hr hn
    exact congrArg _ (if_neg (by rw [hr]; simpa using hn))
  case checkpoint =>
    intro s h
    exact congrArg _ (if_neg (by simp; omega))
  case tooSoon =>
    intro s h0 h1
    exact congrArg _ (if_pos (by simp [h0, h1]))
  case fill =>
    intro r rs room
    rfl
  case completes =>
    intro s t id o r hr hops ho ht
    have hlookup : lookup t.ops id = some o := by rw [ht]; exact ho
    have hwake := wakeDurable_single (by rw [ht]) hlookup
    rw [← hwake, ht]
    simp only [programRecords, hr, List.take_succ_cons, List.take_zero, List.drop_succ_cons, List.drop_zero, List.flatMap_cons, List.flatMap_nil, hops]
    rfl
  case projection =>
    intro s h
    simp only [exec, execLifeProjection, nBobbins, h]
    rfl
  case reports =>
    intro op o s t h ht hb hk ha hn hr
    rw [execFlashReport_clear h ht hb hk ha, checks_clear (by simpa using hn), withPartner_reach hr]
  case short =>
    intro op o s t h ht hb hk ha hn
    rw [execFlashReport_clear h ht hb hk ha]
    exact congrArg _ (checks_fail _ _ _ _ true _ _ (by rw [List.find?_cons, decide_eq_true hn]))

end Sys2Proof.Machine
end

section
/-! The distaff: the command sequence, the core path, pulses and ends (16 R329-R341). -/

namespace Sys2Proof.Machine

/-! ### Code words -/

/-- A word reads as erased once its sector has been erased. -/
theorem getWord_eraseWords (s : State) (w : Nat) : getWord (eraseWords s (sectorOf w)) w = CodeWord.erased := by
  have hl : lookup (s.dst.array.filter (fun e => sectorOf e.1 ≠ sectorOf w)) w = none := by
    rw [lookup_filter_key s.dst.array (fun k => sectorOf k ≠ sectorOf w) w]
    simp
  have hc : (if s.dst.changed.contains (sectorOf w) then s.dst.changed else s.dst.changed ++ [sectorOf w]).contains (sectorOf w) = true := by
    split
    case isTrue h => exact h
    case isFalse => simp
  change (lookup (s.dst.array.filter (fun e => sectorOf e.1 ≠ sectorOf w)) w).getD (plainWord (eraseWords s (sectorOf w)) w) = _
  rw [hl]
  exact if_pos hc

/-- A word that no erase interrupted is programmed with its data and the written flag. -/
theorem programmed_good {s : State} {w : Nat} (h : (getWord s w).st ≠ .indeterminate) (data : BitVec 256) :
    programmed s w data = { data := data, written := true, st := .good } := by
  unfold programmed
  rw [if_neg h]

/-- The address of a word of the distaff is below 2^26. -/
theorem bankSelf_inRange {a : Nat} (h : a < 0x4000000) : a % 0x4000000 / 32 = a / 32 := by
  rw [Nat.mod_eq_of_lt h]

section
variable {s u : State} {v : Word} {e : DistaffOp}

/-- A control-space write that its requester may make has its effect. -/
theorem next_ctlWrite_pass {who : Requester} {off : Nat} {k : State → State} (hw : mayWrite s who) (hk : k s = u) :
    (.next (ctlWrite s who off k) : Host.Outcome State Fault Refusal) = .next u := by
  rw [ctlWrite_pass hw, hk]

/-! ### Keys -/

theorem unlockDst_first (hl : s.dst.keyLocked = false) (hs : s.dst.seq = .idle) :
    unlockDst s 0x4C9E2A17 = { s with dst := { s.dst with seq := .halfKey } } := by
  unfold unlockDst
  rw [if_neg (by simp [hl]), hs]
  exact if_pos rfl

theorem unlockDst_second (hl : s.dst.keyLocked = false) (hs : s.dst.seq = .halfKey) :
    unlockDst s 0xB361D5E8 = { s with dst := { s.dst with seq := .unlocked, keyFails := 0 } } := by
  unfold unlockDst
  rw [if_neg (by simp [hl]), hs]
  exact if_pos rfl

theorem unlockDst_wrong (hl : s.dst.keyLocked = false) (hv : (s.dst.seq = .idle ∧ v ≠ 0x4C9E2A17) ∨ (s.dst.seq = .halfKey ∧ v ≠ 0xB361D5E8)) :
    unlockDst s v = { s with dst := { s.dst with
      seq := .idle, keyFails := s.dst.keyFails + 1, keyLocked := decide (s.dst.keyFails + 1 ≥ 8), stat := { s.dst.stat with err := 0x70 } } } := by
  rcases hv with ⟨hs, hv⟩ | ⟨hs, hv⟩
  · unfold unlockDst
    rw [if_neg (by simp [hl]), hs]
    exact if_neg hv
  · unfold unlockDst
    rw [if_neg (by simp [hl]), hs]
    exact if_neg hv

/-! ### Reads -/

theorem writeAddr_read (hs : s.dst.seq = .cmd 0x03) (hu : u = { s with dst := { s.dst with addr := addrField v } }) : writeAddr s v = dstRead u := by
  rw [hu]
  exact if_pos hs

theorem dstRead_denied (h : dstMay u u.dst.addr false = false) :
    dstRead u = { u with dst := { u.dst with seq := .idle, stat := { u.dst.stat with err := 0x72 } } } :=
  if_pos (by simp [h])

theorem readWord_good {w : Nat} (h : (getWord s w).st = .good) : readWord s w = (some (getWord s w).data, s) := by
  simp only [readWord, h]

/-- A word read without error, in a bank without a running operation and outside a suspended sector, goes to the data register. -/
theorem dstRead_good (hm : dstMay u u.dst.addr false = true) (hb : bankBusy u (bankOf (u.dst.addr / 32)) = false)
    (hi : inSuspended u (u.dst.addr / 32) = false) (hw : (getWord u (u.dst.addr / 32)).st = .good) :
    dstRead u = { u with dst := { u.dst with
      seq := .idle, data := (getWord u (u.dst.addr / 32)).data, stat := { u.dst.stat with done := true, op := 3 } } } := by
  have hr : readWord (endSeq u) (u.dst.addr / 32) = (some (getWord u (u.dst.addr / 32)).data, endSeq u) := readWord_good (s := endSeq u) hw
  have hi' : inSuspended (endSeq u) (u.dst.addr / 32) = false := hi
  simp only [dstRead, hm, hb, hi', hr]
  rfl

/-! ### PROGRAM and ERASE -/

theorem programWord_started {byDst : Bool} {w : Nat} {data : BitVec 256} (hc : s.dst.current = none) (hw : (getWord s w).written = false) :
    programWord s byDst w data = startDistaff s byDst false w data := by
  simp [programWord, hc, hw]

theorem programWord_written {byDst : Bool} {w : Nat} {data : BitVec 256} (hc : s.dst.current = none) (hw : (getWord s w).written = true) :
    programWord s byDst w data = refusePath s byDst 0x61 := by
  simp [programWord, hc, hw, errReprogram]

theorem eraseSector_started {byDst : Bool} {w : Nat} (hc : s.dst.current = none) : eraseSector s byDst w = startDistaff s byDst true w 0 := by
  simp [eraseSector, hc]

/-- A core's PROGRAM of an aligned word of the distaff, outside the bank it fetches from. -/
theorem execDistaffProgram_core {c : Fin 6} {a : Nat} {data : List Byte} {xb : Option (Fin 2)} (ha : a % 32 = 0) (hr : a < 0x4000000) (hd : data.length = 32)
    (hb : bankSelf xb a = false) :
    exec (.distaffProgram (.core c a data xb)) s = .next (programWord s false (a / 32) (BitVec.ofNat 256 (leNat data))) := by
  simp only [exec, execDistaffProgram]
  rw [if_neg (by simp [ha, hd]), if_neg (by simp [hb]), bankSelf_inRange hr]

/-- The eighth data word brings the program, where the region admits it. -/
theorem writeData_last (hs : s.dst.seq = .data 7) (hu : u = endSeq { s with dst := putData s.dst 7 v }) (hm : dstMay u s.dst.addr true = true) :
    writeData s 7 v = programWord u true (s.dst.addr / 32) u.dst.data := by
  have ha : u.dst.addr = s.dst.addr := by rw [hu]; simp only [endSeq, modDst, putData]
  have hp : writeData s 7 v = dstProgram s v := if_pos (by simp [hs])
  have hd : dstProgram s v = if !dstMay u u.dst.addr true then refusePath u true errAccess else programWord u true (u.dst.addr / 32) u.dst.data := by
    rw [hu]
    rfl
  rw [hp, hd, ha, hm]
  exact if_neg (by decide)

/-- The address after an ERASE command brings the erase, where the region admits it. -/
theorem writeAddr_erase (hs : s.dst.seq = .cmd 0x30) (hu : u = endSeq { s with dst := { s.dst with addr := addrField v } })
    (hm : dstMay u (addrField v) true = true) : writeAddr s v = eraseSector u true (addrField v / 32) := by
  have ha : u.dst.addr = addrField v := by rw [hu]; simp only [endSeq, modDst]
  have hp : writeAddr s v = dstErase s v := (if_neg (by simp [hs])).trans (if_pos hs)
  have hd : dstErase s v = if !dstMay u u.dst.addr true then refusePath u true errAccess else eraseSector u true (u.dst.addr / 32) := by
    rw [hu]
    rfl
  rw [hp, hd, ha, hm]
  exact if_neg (by decide)

/-! ### SUSPEND and RESUME -/

theorem dstBare_unlocked {k : State → State} (hl : s.dst.keyLocked = false) (hs : s.dst.seq = .unlocked) : dstBare s k = k (endSeq s) := by
  simp [dstBare, hl, hs]

theorem suspendErase_runs {byDst : Bool} {bank : Option Nat} (hc : s.dst.current = some e) (he : e.erase = true)
    (hb : bank.any (fun b => b ≠ bankOf e.target) = false) (hs : e.suspended = false) (hv : e.verified = false) (hw : s.dst.wdogPending = none) :
    suspendErase s byDst bank = { s with dst := { s.dst with
      current := some { e with suspended := true }, suspends := min (s.dst.suspends + 1) 0xFFFF } } := by
  unfold suspendErase
  rw [hc]
  dsimp only
  rw [if_neg (by rw [he, hb]; decide), if_neg (by rw [hs, hv, hw]; decide)]
  rfl

theorem resumeErase_runs {byDst : Bool} {bank : Option Nat} (hc : s.dst.current = some e) (he : e.erase = true)
    (hb : bank.any (fun b => b ≠ bankOf e.target) = false) :
    resumeErase s byDst bank = { s with dst := { s.dst with current := some { e with suspended := false } } } := by
  simp only [resumeErase, hc, he, hb]
  rfl

/-! ### Pulses and ends -/

/-- A pulse of a running erase counts; the one that verifies erases the sector. -/
theorem execErasePulse_runs {t : State} (hc : s.dst.current = some e) (he : e.erase = true) (hs : e.suspended = false) (hv : e.verified = false)
    (ht : t = { s with dst := { s.dst with pulses := min (s.dst.pulses + 1) 0xFFFF } }) (verified : Bool) :
    exec (.erasePulse verified) s = .next (if verified then
      modDst (eraseWords t (sectorOf e.target)) (fun d => { d with current := some { e with verified := true } }) else t) := by
  simp only [exec, execErasePulse]
  rw [hc]
  dsimp only
  rw [if_neg (by rw [he, hs, hv]; decide), ht]
  cases verified <;> rfl

theorem endDistaff_program (hc : s.dst.current = some e) (he : e.erase = false) :
    endDistaff s = modPath (modDst (putWord s e.target (programmed s e.target e.data)) (fun d => { d with current := none })) e.byDst
      (fun p => { p with done := true }) := by
  unfold endDistaff
  rw [hc]
  dsimp only
  rw [if_neg (by simp [he]), if_neg (by simp [he])]

theorem endDistaff_erase (hc : s.dst.current = some e) (he : e.erase = true) (hv : e.verified = true) :
    endDistaff s = modPath (modDst s (fun d => { d with current := none })) e.byDst (fun p => { p with done := true }) := by
  unfold endDistaff
  rw [hc]
  dsimp only
  rw [if_neg (by rw [he, hv]; decide), if_pos he]

theorem modPath_wdogPending (s : State) (byDst : Bool) (f : PathStat → PathStat) : (modPath s byDst f).dst.wdogPending = s.dst.wdogPending := by
  cases byDst <;> rfl

/-- The end of an operation leaves a waiting watchdog reset waiting. -/
theorem endDistaff_wdogPending (s : State) : (endDistaff s).dst.wdogPending = s.dst.wdogPending := by
  unfold endDistaff
  split
  case h_1 o _ =>
    split
    · rfl
    · dsimp only
      rw [modPath_wdogPending]
      split <;> rfl
  case h_2 => rfl

/-- With no watchdog reset waiting the end of an operation is only that. -/
theorem execDistaffOpEnd_quiet (hw : s.dst.wdogPending = none) : exec .distaffOpEnd s = .next (endDistaff s) := by
  have h : (endDistaff s).dst.wdogPending = none := (endDistaff_wdogPending s).trans hw
  simp only [exec, execDistaffOpEnd, h]

end

/-- Settles O49: the DST path by its sequence, the core path by its guards, pulses and ends by the operation under way. -/
theorem distaffPath : Obligations.DistaffPath := by
  unfold Obligations.DistaffPath
  refine ⟨?firstKey, ?secondKey, ?wrongKey, ?reads, ?denied, ?programs, ?coreProgram, ?reprogram, ?erases, ?coreErase, ?ownBank, ?suspends, ?coreSuspend,
    ?resumes, ?coreResume, ?pulse, ?verifies, ?erased, ?programEnds, ?programmedWord, ?eraseEnds, ?clears⟩
  case firstKey =>
    intro who s hw hl hs
    exact next_ctlWrite_pass hw (unlockDst_first hl hs)
  case secondKey =>
    intro who s hw hl hs
    exact next_ctlWrite_pass hw (unlockDst_second hl hs)
  case wrongKey =>
    intro who v s hw hl hv
    exact next_ctlWrite_pass hw (unlockDst_wrong hl hv)
  case reads =>
    intro who v s u hw hs hu hm hb hi hg
    have ha : u.dst.addr = addrField v := by rw [hu]
    rw [← ha] at hm hb hi hg ⊢
    exact next_ctlWrite_pass hw ((writeAddr_read hs hu).trans (dstRead_good hm hb hi hg))
  case denied =>
    intro who v s u hw hs hu hm
    have ha : u.dst.addr = addrField v := by rw [hu]
    rw [← ha] at hm
    exact next_ctlWrite_pass hw ((writeAddr_read hs hu).trans (dstRead_denied hm))
  case programs =>
    intro who v s u hw hs hu hm hc hg
    have hcu : u.dst.current = none := by simpa only [hu, endSeq, modDst, putData] using hc
    exact next_ctlWrite_pass hw ((writeData_last hs hu hm).trans (programWord_started hcu hg))
  case coreProgram =>
    intro c a data xb s ha hr hd hb hc hg
    rw [execDistaffProgram_core ha hr hd hb, programWord_started hc hg]
    rfl
  case reprogram =>
    intro c a data xb s ha hr hd hb hc hg
    rw [execDistaffProgram_core ha hr hd hb, programWord_written hc hg]
    rfl
  case erases =>
    intro who v s u hw hs hu hm hc
    have hcu : u.dst.current = none := by simpa only [hu, endSeq, modDst] using hc
    exact next_ctlWrite_pass hw ((writeAddr_erase hs hu hm).trans (eraseSector_started hcu))
  case coreErase =>
    intro c a data xb s hr hb hc
    simp only [exec, execDistaffErase]
    rw [if_neg (by simp [hb]), bankSelf_inRange hr, eraseSector_started hc]
    rfl
  case ownBank =>
    intro c a data xb s hb
    exact if_pos hb
  case suspends =>
    intro who v s e hw hv hl hs hc he hsus hver hwd
    exact next_ctlWrite_pass hw ((if_pos hv).trans ((dstBare_unlocked hl hs).trans
      (suspendErase_runs (s := endSeq s) hc he rfl hsus hver hwd)))
  case coreSuspend =>
    intro c a data xb s e hc he hb hsus hver hwd
    exact congrArg _ (suspendErase_runs hc he (by simp [hb]) hsus hver hwd)
  case resumes =>
    intro who v s e hw hv hl hs hc he
    exact next_ctlWrite_pass hw ((if_neg (by omega)).trans ((if_pos hv).trans ((dstBare_unlocked hl hs).trans
      (resumeErase_runs (s := endSeq s) hc he rfl))))
  case coreResume =>
    intro c a data xb s e hc he hb
    exact congrArg _ (resumeErase_runs hc he (by simp [hb]))
  case pulse =>
    intro s e hc he hsus hver
    exact execErasePulse_runs hc he hsus hver rfl false
  case verifies =>
    rintro s t _ e hc he hsus hver ht rfl
    exact execErasePulse_runs hc he hsus hver ht true
  case erased => exact getWord_eraseWords
  case programEnds =>
    rintro s _ e hc he hwd hby rfl
    rw [execDistaffOpEnd_quiet hwd, endDistaff_program hc he, hby]
    rfl
  case programmedWord => exact fun s w data h => programmed_good h data
  case eraseEnds =>
    intro s e hc he hver hwd hby
    rw [execDistaffOpEnd_quiet hwd, endDistaff_erase hc he hver, hby]
    rfl
  case clears =>
    intro who v s hw
    exact next_ctlWrite_pass hw rfl

end Sys2Proof.Machine
end

section
/-! What completions, records and the end of jobs leave alone (02 R34, R38; 15 R319, R322; 17 R357). -/

namespace Sys2Proof.Machine

/-! ### A completion touches ports and operations only -/

/-- `t` differs from `s` at most in its ports and its operations. -/
def PostsOnly (s t : State) : Prop := t = { s with ports := t.ports, ops := t.ops }

theorem PostsOnly.refl (s : State) : PostsOnly s s := rfl

theorem PostsOnly.trans {s t u : State} (h : PostsOnly s t) (k : PostsOnly t u) : PostsOnly s u :=
  Eq.trans k (congrArg (fun v => { v with ports := u.ports, ops := u.ops }) h)

theorem PortsOnly.posts {s t : State} (h : PortsOnly s t) : PostsOnly s t :=
  Eq.trans h (by rw [h])

theorem postsOnly_postComp (s : State) (id : Nat) (o : Op) (status detail result : Nat) : PostsOnly s (postComp s id o status detail result) := by
  unfold postComp
  split
  · rfl
  · rfl

theorem postsOnly_postOne {s t : State} {p : Nat} {l : List Held} (h : postOne s p l = some t) : PostsOnly s t := by
  induction l with
  | nil => simp [postOne] at h
  | cons e l ih =>
    cases e with
    | event e =>
      rw [postOne] at h
      split at h
      · rw [← Option.some.inj h]
        rfl
      · exact ih h
    | comp id =>
      rw [postOne] at h
      split at h
      · split at h
        · split at h
          · rw [← Option.some.inj h]
            exact postsOnly_postComp _ _ _ _ _ _
          · exact ih h
        · exact ih h
      · exact ih h

theorem postsOnly_postHeld (s : State) (p n : Nat) : PostsOnly s (postHeld s p n) := by
  induction n generalizing s with
  | zero => exact PostsOnly.refl s
  | succ n ih =>
    rw [postHeld]
    split
    case h_1 t ht => exact (postsOnly_postOne ht).trans (ih t)
    case h_2 => exact PostsOnly.refl s

theorem postsOnly_flushPort (s : State) (p : Nat) : PostsOnly s (flushPort s p) :=
  (portsOnly_reportDropped s p).posts.trans (postsOnly_postHeld _ _ _)

theorem postsOnly_finish (s : State) (id status detail result : Nat) : PostsOnly s (finish s id status detail result) := by
  unfold finish
  split
  · exact PostsOnly.refl s
  · split
    · rfl
    · refine PostsOnly.trans ?_ (postsOnly_flushPort _ _)
      rfl

/-! ### A record touches the distaff and SEC only -/

/-- `t` differs from `s` at most in the distaff and SEC. -/
def RecordsOnly (s t : State) : Prop := t = { s with dst := t.dst, sec := t.sec }

theorem RecordsOnly.refl (s : State) : RecordsOnly s s := rfl

theorem RecordsOnly.trans {s t u : State} (h : RecordsOnly s t) (k : RecordsOnly t u) : RecordsOnly s u :=
  Eq.trans k (congrArg (fun v => { v with dst := u.dst, sec := u.sec }) h)

theorem recordsOnly_foldl {α : Type} {f : State → α → State} (h : ∀ s a, RecordsOnly s (f s a)) (l : List α) (s : State) :
    RecordsOnly s (l.foldl f s) := by
  induction l generalizing s with
  | nil => exact RecordsOnly.refl s
  | cons a l ih => exact (h s a).trans (ih _)

theorem recordsOnly_modDst (s : State) (f : Distaff → Distaff) : RecordsOnly s (modDst s f) := rfl

theorem recordsOnly_modSec (s : State) (x : Sec) : RecordsOnly s { s with sec := x } := rfl

theorem recordsOnly_programBytes (s : State) (w : Nat) (b : List Byte) : RecordsOnly s (programBytes s w b) := by
  unfold programBytes putWord
  exact recordsOnly_modDst s _

theorem recordsOnly_eraseWords (s : State) (sector : Nat) : RecordsOnly s (eraseWords s sector) :=
  (recordsOnly_modDst s _).trans ((recordsOnly_modSec _ _).trans (recordsOnly_modSec _ _))

theorem recordsOnly_putCommit (s : State) (kind arg svn : Nat) (data : List Byte) : RecordsOnly s (putCommit s kind arg svn data) := by
  unfold putCommit
  dsimp only
  refine RecordsOnly.trans ?_ (recordsOnly_modSec _ _)
  exact (((recordsOnly_programBytes _ _ _).trans (recordsOnly_programBytes _ _ _)).trans (recordsOnly_programBytes _ _ _)).trans
    (recordsOnly_programBytes _ _ _)

theorem recordsOnly_addRecord (s : State) (kind arg svn : Nat) (data : List Byte) : RecordsOnly s (addRecord s kind arg svn data) := by
  refine RecordsOnly.trans ?_ (recordsOnly_putCommit _ _ _ _ _)
  unfold compactCommits
  split
  · exact RecordsOnly.refl s
  · exact (recordsOnly_foldl (fun s c => recordsOnly_putCommit s _ _ _ _) _ s).trans ((recordsOnly_eraseWords _ _).trans (recordsOnly_eraseWords _ _))

/-! ### What a job gives up leaves SEC, the distaff, stores, the self-test, PWR and the table of jobs alone -/

/-- What the end of a job never touches, but that the job itself goes. -/
def lasting (s : State) : Sec × Distaff × Tbl Store × Option SelfTest × Pwr × Tbl Job := (s.sec, s.dst, s.stores, s.selfTest, s.pwr, s.jobs)

theorem PostsOnly.lasting {s t : State} (h : PostsOnly s t) : lasting t = lasting s := by
  rw [h]
  rfl

@[simp] theorem lasting_finish (s : State) (id status detail result : Nat) : lasting (finish s id status detail result) = lasting s :=
  (postsOnly_finish _ _ _ _ _).lasting

@[simp] theorem lasting_modLink (s : State) (h : Nat) (f : LinkState → LinkState) : lasting (modLink s h f) = lasting s := rfl

@[simp] theorem lasting_sendFlit (s : State) (l h : Nat) (f : Flit) : lasting (sendFlit s l h f) = lasting s := by
  unfold sendFlit
  dsimp only
  split <;> rfl

@[simp] theorem lasting_freeSource (s : State) (f : QFlit) : lasting (freeSource s f) = lasting s := by
  unfold freeSource freeBuffers
  split
  · split <;> rfl
  · rfl

@[simp] theorem lasting_noteLeft (s : State) (pkt : Option (Nat × Nat)) : lasting (noteLeft s pkt) = lasting s := by
  unfold noteLeft
  split <;> rfl

@[simp] theorem lasting_pumpLink (s : State) (l h n : Nat) : lasting (pumpLink s l h n) = lasting s := by
  induction n generalizing s with
  | zero => rfl
  | succ n ih =>
    rw [pumpLink]
    split
    · split
      · simp [ih]
      · rfl
    · rfl

@[simp] theorem lasting_enqueue (s : State) (l q : Nat) (fs : List QFlit) : lasting (enqueue s l q fs) = lasting s := by
  unfold enqueue pump
  split
  · split <;> simp
  · rfl

@[simp] theorem lasting_sendVote (s : State) (slice : Nat) (v : Vote) (skip : Option Nat) : lasting (sendVote s slice v skip) = lasting s := by
  unfold sendVote
  exact foldl_view lasting (fun s l => lasting_enqueue s l _ _) _ s

@[simp] theorem lasting_endVote (s : State) (jid : Nat) (j : Job) (status : Nat) : lasting (endVote s jid j status) = lasting s := by
  unfold endVote sayEnded
  split
  · split
    · rfl
    · split
      · exact lasting_sendVote _ _ _ _
      · rfl
  · rfl

@[simp] theorem lasting_writeTier (s : State) (q tier addr : Nat) (bs : List Byte) : lasting (writeTier s q tier addr bs) = lasting s := by
  unfold writeTier
  split <;> rfl

theorem lasting_placeUnit {s t : State} {owner u jseq e : Nat} {data : Mem} (h : placeUnit s owner u jseq data = some (e, t)) : lasting t = lasting s := by
  obtain ⟨r, -, hr⟩ := Option.map_eq_some_iff.1 h
  rw [← (Prod.mk.inj hr).2]
  rfl

/-- The map of a park area is part of its slice. -/
theorem lasting_setEntry_park (s : State) (q u e : Nat) : lasting (setEntry s (parkOwner q) u e) = lasting s := by
  unfold setEntry
  rw [if_neg (by simp [parkOwner])]
  rfl

@[simp] theorem lasting_writeParked (s : State) (q page at_ : Nat) (bs : List Byte) : lasting (writeParked s q page at_ bs) = lasting s := by
  unfold writeParked
  dsimp only
  split
  · rfl
  · split
    case h_1 => rfl
    case h_2 e t ht => exact (lasting_setEntry_park t q _ e).trans (lasting_placeUnit ht)

@[simp] theorem lasting_clearOwner (s : State) (q : Nat) (r : Nat × Nat) : lasting (clearOwner s q r) = lasting s := by
  unfold clearOwner
  split
  · exact lasting_writeTier _ _ _ _ _
  · split
    · split
      · exact lasting_writeParked _ _ _ _ _
      · exact lasting_writeParked _ _ _ _ _
      · exact lasting_writeTier _ _ _ _ _
      · rfl
      · exact lasting_writeTier _ _ _ _ _
    · rfl

@[simp] theorem lasting_freeSpindles (s : State) (jid : Nat) (j : Job) : lasting (freeSpindles s jid j) = lasting s := by
  unfold freeSpindles
  refine foldl_view lasting (fun s l => ?_) _ s
  split <;> rfl

@[simp] theorem lasting_clearOwners (s : State) (j : Job) : lasting (clearOwners s j) = lasting s :=
  foldl_view lasting (fun s r => lasting_clearOwner s _ r) _ s

@[simp] theorem lasting_chargeOverrun (s : State) (j : Job) : lasting (chargeOverrun s j) = lasting s := by
  unfold chargeOverrun
  split <;> rfl

/-- What a job gives up when it ends. -/
theorem lasting_leave (s : State) (jid : Nat) (j : Job) (status : Nat) :
    lasting (endVote (clearOwners (freeSpindles s jid j) j) jid j status) = lasting s := by
  simp

theorem sec_of_lasting {s t : State} (h : lasting t = lasting s) : t.sec = s.sec := congrArg Prod.fst h

theorem sec_endJob (s : State) (jid status detail result : Nat) : (endJob s jid status detail result).sec = s.sec := by
  unfold endJob
  split
  · rfl
  · dsimp only
    rw [sec_of_lasting (lasting_finish _ _ _ _ _)]
    exact (sec_of_lasting (lasting_leave _ _ _ _)).trans (sec_of_lasting (lasting_chargeOverrun _ _))

theorem sec_abortJob (s : State) (jid : Nat) : (abortJob s jid).sec = s.sec := by
  unfold abortJob
  split
  · rfl
  · split
    · exact sec_endJob _ _ _ _ _
    · split
      · exact sec_endJob _ _ _ _ _
      · rfl

theorem sec_abortJobs (s : State) (l : List Nat) : (abortJobs s l).sec = s.sec := by
  unfold abortJobs
  induction l generalizing s with
  | nil => rfl
  | cons jid l ih => exact (ih _).trans (sec_abortJob s jid)

theorem removeKey_of_lookup_none {α : Type} {t : Tbl α} {n : Nat} (h : lookup t n = none) : removeKey t n = t := by
  induction t with
  | nil => rfl
  | cons e t ih =>
    obtain ⟨k, v⟩ := e
    rw [lookup] at h
    rw [removeKey]
    by_cases hk : n = k
    · rw [if_pos hk] at h
      exact absurd h (by simp)
    · rw [if_neg hk] at h ⊢
      rw [ih h]

/-- A job that is dropped leaves the table, and nothing else of what lasts changes. -/
theorem lasting_dropJob (s : State) (jid : Nat) : lasting (dropJob s jid) = lasting { s with jobs := removeKey s.jobs jid } := by
  unfold dropJob
  split
  case h_1 h => rw [removeKey_of_lookup_none h]
  case h_2 j _ =>
    obtain ⟨h1, h2, h3, h4, h5, h6⟩ : _ ∧ _ ∧ _ ∧ _ ∧ _ ∧ _ := by simpa only [lasting, Prod.mk.injEq] using lasting_leave s jid j stAborted
    simp only [lasting, h1, h2, h3, h4, h5, h6]

end Sys2Proof.Machine
end

section
/-! Levels and the full erase (17 R343-R350); firmware, log copies and key import (17 R353, R357-R361; 18 R379). -/

namespace Sys2Proof.Machine

/-! ### Levels -/

theorem clear_append {cs ds : List (Bool × Nat × Nat)} (hc : Clear cs) (hd : Clear ds) : Clear (cs ++ ds) := by
  rw [Clear, List.find?_append, hc, hd]
  rfl

section
variable {op : Nat} {o : Op} {s t : State}

/-- LEVEL_SET of the device outside an erase, its operands good and its level not below 2 from 2, goes by the level. -/
theorem execLevelSetDevice_clear (h : Ready s op 0x76 4 o) (ht : t = started s op 4) (hd : o.f 8 1 ≠ 1) (he : s.sec.erase = none) (hc : Clear (levelFields o))
    (hl : level t = 2 → 2 ≤ o.f 9 1) :
    exec (.levelSetDevice op) s = .next (
      if o.f 9 1 = level t then finishOk t op 0
      else if o.f 9 1 > level t then (if t.dst.current.isSome then t else finishOk (raiseLevel t (o.f 9 1)) op 0)
      else prepareErase t op true) := by
  have het : t.sec.erase = none := by rw [ht, started_sec]; exact he
  have hl' : Clear [(decide (level t = 2) && decide (o.f 9 1 < 2), stLocked, 0)] := by
    simp only [clear_cons, Bool.and_eq_false_imp, decide_eq_true_eq, decide_eq_false_iff_not]
    exact ⟨fun h2 => by have := hl h2; omega, rfl⟩
  simp only [exec, execLevelSetDevice]
  rw [runRow_ready h _ _ (by simpa using hd), ← ht]
  rw [if_neg (by simp [het]), checks_clear (clear_append hc hl'), het]
  rfl

/-- LEVEL_SET of a store that is there, with operands and levels good, and for a lowering neither index nor lock on it. -/
theorem execLevelSetStore_clear {st : Store} (h : Ready s op 0x76 2 o) (ht : t = started s op 2) (hd : o.f 8 1 = 1) (hc : Clear (levelFields o))
    (hst : lookup t.stores (o.f 10 2) = some st) (hdel : deletedAhead t (o.f 10 2) op = false) (h2 : st.level = 2 → 2 ≤ o.f 9 1)
    (hlow : o.f 9 1 < st.level → st.index = none ∧ storeLocked t (o.f 10 2) = false) :
    exec (.levelSetStore op) s = .next (
      if o.f 9 1 ≥ st.level then finishOk (modStore t (o.f 10 2) (fun x => { x with level := o.f 9 1 })) op 0
      else if busyAhead t (o.f 10 2) op then t
      else finishOk (lowerStore t (o.f 10 2)) op 0) := by
  simp only [exec, execLevelSetStore]
  rw [runRow_ready h _ _ (by simpa using hd), ← ht, hst]
  refine congrArg _ (checks_clear (clear_append hc ?_) _ _ _)
  simp only [clear_cons, hdel, Option.map_some, Option.getD_some, Option.isNone_some, Option.any_some, Bool.and_eq_false_imp, decide_eq_true_eq,
    decide_eq_false_iff_not, Bool.or_eq_false_iff, Option.isSome_eq_false_iff, Option.isNone_iff_eq_none]
  exact ⟨fun hh => by have := h2 hh; omega, trivial, trivial, hlow, rfl⟩

/-- SANITISE with its key word, no erase under way, prepares one. -/
theorem execSanitise_prepares (h : Ready s op 0x78 4 o) (ht : t = started s op 4) (hk : o.f 8 4 = 0x53414E00) (he : s.sec.erase = none) :
    exec (.sanitise op) s = .next (prepareErase t op false) := by
  have het : t.sec.erase = none := by rw [ht, started_sec]; exact he
  simp only [exec, execSanitise]
  rw [runOp_ready h, ← ht, if_neg (not_not_intro hk), het]
  rfl

theorem prepareErase_erase (s : State) (id : Nat) (lowering : Bool) :
    (prepareErase s id lowering).sec.erase = some { op := some id, lowering := lowering, step := 0, dies := 0, resumed := false } := by
  unfold prepareErase
  rw [sec_abortJobs]

end

/-! ### The steps of the full erase -/

section
variable {s : State} {e : Erase}

/-- While no operation runs in the distaff the erase goes by its step. -/
theorem execSanitiseErase_step (he : s.sec.erase = some e) (hd : s.dst.current = none) :
    exec .sanitiseErase s = .next (
      if e.step = 0 then (if quietFor s e then eraseMarker s e else s)
      else if e.step = 1 then eraseRoot s
      else if e.step = 2 then eraseDistaff s
      else if e.step = 3 then eraseDies s e
      else eraseFinish s e) := by
  simp only [exec, execSanitiseErase, he]
  rw [if_neg (by simp [hd])]
  simp only [apply_ite Host.Outcome.next]

/-- What no slice is left to own stays gone through the last records, and no erase is left. -/
def Emptied (s : State) : Prop := s.slices = [] ∧ s.stores = [] ∧ s.skeins = [] ∧ s.drafts = []

theorem RecordsOnly.emptied {s t : State} (h : RecordsOnly s t) (hs : Emptied s) : Emptied t := by
  rw [h]
  exact hs

theorem PostsOnly.emptied {s t : State} (h : PostsOnly s t) (hs : Emptied s) : Emptied t := by
  rw [h]
  exact hs

theorem emptied_endHold (hs : Emptied s) : Emptied (endHold s) := by
  unfold endHold
  split
  · exact hs
  · exact hs

theorem endHold_erase (s : State) : (endHold s).sec.erase = s.sec.erase := by
  unfold endHold
  split <;> rfl

/-- The end of an erase leaves none, and nothing that a slice owned. -/
theorem eraseFinish_emptied (s : State) (e : Erase) : (eraseFinish s e).sec.erase = none ∧ Emptied (eraseFinish s e) := by
  have h0 : Emptied (renewRoot (emptyDevice s) e.lowering) := ⟨rfl, rfl, rfl, rfl⟩
  have h1 : Emptied (addRecord (if e.lowering then addRecord (renewRoot (emptyDevice s) e.lowering) 3 0 0 []
      else renewRoot (emptyDevice s) e.lowering) 6 0 0 []) := by
    refine (recordsOnly_addRecord _ _ _ _ _).emptied ?_
    split
    · exact (recordsOnly_addRecord _ _ _ _ _).emptied h0
    · exact h0
  have h2 : ∀ u, Emptied u → Emptied (endHold (closeErase u e)) := fun u hu => emptied_endHold hu
  have h3 : ∀ u, (endHold (closeErase u e)).sec.erase = none := fun u => endHold_erase _
  unfold eraseFinish
  dsimp only
  split
  · exact ⟨(congrArg Sec.erase (sec_of_lasting (lasting_finish _ _ _ _ _))).trans (h3 _), (postsOnly_finish _ _ _ _ _).emptied (h2 _ h1)⟩
  · exact ⟨h3 _, h2 _ h1⟩

end

/-- Settles O50: the level commands by their operands and levels, the erase by its step. -/
theorem levelsAndErase : Obligations.LevelsAndErase := by
  unfold Obligations.LevelsAndErase
  refine ⟨?same, ?lowers, ?locked, ?raises, ?busy, ?storeLowers, ?sanitises, ?second, ?raised, ?prepared, ?badWord, ?ends, ?marks, ?waits, ?root, ?user, ?dies,
    ?finishes, ?empties⟩
  case same =>
    intro op o s t h ht hd he hc hl
    rw [execLevelSetDevice_clear h ht hd he hc (by omega), if_pos hl]
  case lowers =>
    intro op o s t h ht hd he hc hl h0
    rw [execLevelSetDevice_clear h ht hd he hc (by omega), if_neg (by omega), if_neg (by omega)]
    rfl
  case locked =>
    intro op o s t h ht hd he hc hl hlow
    have het : t.sec.erase = none := by rw [ht, started_sec]; exact he
    simp only [exec, execLevelSetDevice]
    rw [runRow_ready h _ _ (by simpa using hd), ← ht]
    rw [if_neg (by simp [het]), checks_fail _ _ _ _ true stLocked 0 (by rw [List.find?_append, hc]; simp [hl, hlow])]
  case raises =>
    intro op o s t st h ht hd hc hst hdel hl
    rw [execLevelSetStore_clear h ht hd hc hst hdel (by omega) (by omega), if_pos hl]
  case busy =>
    intro op o s t st h ht hd hc hst hdel h1 h0 hi hlock hb
    rw [execLevelSetStore_clear h ht hd hc hst hdel (by omega) (fun _ => ⟨hi, hlock⟩), if_neg (by omega), if_pos hb]
  case storeLowers =>
    rintro op o s t _ st h ht hd hc hst hdel h1 h0 hi hlock hb rfl
    rw [execLevelSetStore_clear h ht hd hc hst hdel (by omega) (fun _ => ⟨hi, hlock⟩), if_neg (by omega), if_neg (by simp [hb])]
    simp only [lowerStore, hst]
  case sanitises =>
    intro op o s t h ht hk he
    exact execSanitise_prepares h ht hk he
  case second =>
    intro op o s t e h ht hk he hop
    have het : t.sec.erase = some e := by rw [ht, started_sec]; exact he
    simp only [exec, execSanitise]
    rw [runOp_ready h, ← ht, if_neg (not_not_intro hk), het, if_neg (by simpa using hop)]
    rfl
  case raised =>
    intro op o s t st h ht hd hc hst hdel hl
    refine ⟨_, (execLevelSetStore_clear h ht hd hc hst hdel (by omega) (by omega)).trans (congrArg _ (if_pos hl)), ?_⟩
    rw [finishOk, postsOnly_finish]
    simp only [modStore, lookup_adjust, if_true, hst, Option.map_some]
  case prepared =>
    intro op o s t h ht hk he
    exact ⟨_, execSanitise_prepares h ht hk he, prepareErase_erase _ _ _⟩
  case badWord =>
    intro op o s t h ht hk
    simp only [exec, execSanitise]
    rw [runOp_ready h, ← ht, if_pos hk]
  case ends =>
    intro s e he hd h4
    exact ⟨_, by rw [execSanitiseErase_step he hd]; simp only [h4]; rfl, eraseFinish_emptied s e⟩
  case marks =>
    intro s u e he hd h0 hq hu
    rw [execSanitiseErase_step he hd, if_pos h0, if_pos hq, eraseMarker, ← hu]
    rfl
  case waits =>
    intro s e he hd h0 hq
    rw [execSanitiseErase_step he hd, if_pos h0, if_neg (by simp [hq])]
  case root =>
    intro s u e he hd h1 hu
    rw [execSanitiseErase_step he hd, if_neg (by omega), if_pos h1, eraseRoot, show 0x3810000 / 65536 = 0x381 from rfl, ← hu]
    rfl
  case user =>
    intro s u e he hd h2 hu
    rw [execSanitiseErase_step he hd, if_neg (by omega), if_neg (by omega), if_pos h2, eraseDistaff, show 0x3A00000 / 65536 = 0x3A0 from rfl,
      show 0x3820000 / 65536 = 0x382 from rfl, ← hu]
    rfl
  case dies =>
    rintro s _ e _ he hd h3 rfl rfl
    rw [execSanitiseErase_step he hd, if_neg (by omega), if_neg (by omega), if_neg (by omega), if_pos h3]
    rfl
  case finishes =>
    rintro s _ e op he hd h4 hop rfl
    rw [execSanitiseErase_step he hd, if_neg (by omega), if_neg (by omega), if_neg (by omega), if_neg (by omega)]
    simp only [eraseFinish, hop]
  case empties =>
    exact fun s => ⟨rfl, rfl, rfl, rfl, rfl, rfl, rfl⟩

/-! ### Firmware, log copies and key import -/

section
variable {op : Nat} {o : Op} {s t : State}

/-- A part of an image of good length, at offset 0 or where the last one ended, within the slot, is programmed. -/
theorem execFwStage_runs (h : Ready s op 0x74 4 o) (ht : t = started s op 4) (hm : o.f 20 4 % 32 = 0) (hn : o.f 20 4 ≤ 1048576)
    (ho : o.f 16 4 = 0 ∨ o.f 16 4 = (t.sec.staging.map Staging.bytes).getD 0) (hb : o.f 16 4 + o.f 20 4 ≤ 0x1800000)
    (hr : Reaches t o [(o.f 8 8, o.f 20 4, false)]) (hd : t.dst.current = none) :
    exec (.fwStage op) s = .next (
      let u := stageBytes (if o.f 16 4 = 0 then addRecord t 2 (otherSlot t) 0 [] else t) (o.f 16 4)
        (readPartner (if o.f 16 4 = 0 then addRecord t 2 (otherSlot t) 0 [] else t) o.port (o.f 8 8) (o.f 20 4))
      finishOk { u with sec := { u.sec with staging := some { bytes := o.f 16 4 + o.f 20 4 } } } op 0) := by
  have hc : Clear [(decide (o.f 20 4 % 32 ≠ 0) || decide (o.f 20 4 > 1048576), stBadDescriptor, 20),
      (decide (o.f 16 4 ≠ 0) && decide (o.f 16 4 ≠ (t.sec.staging.map Staging.bytes).getD 0), stBounds, 16),
      (decide (o.f 16 4 + o.f 20 4 > slotBytes24), stBounds, 16)] := by
    simp only [clear_cons, hm, Bool.or_eq_false_iff, Bool.and_eq_false_imp, decide_eq_true_eq, decide_eq_false_iff_not, not_lt, slotBytes24]
    exact ⟨⟨by decide, hn⟩, fun h0 => not_not_intro (ho.resolve_left h0), decide_eq_false (Nat.not_lt.2 hb), rfl⟩
  simp only [exec, execFwStage]
  rw [runOp_ready h, ← ht, checks_clear hc, withPartner_reach hr, if_neg (by simp [hd])]

/-- FW_COMMIT of a whole image with a good header, of no lower SVN, goes by its genuineness. -/
theorem execFwCommit_whole {g : Staging} {h : List Byte} (hop : Ready s op 0x75 4 o) (ht : t = started s op 4) (hg : t.sec.staging = some g)
    (hh : h = imageHeader t (otherSlot t)) (hn : 4096 + imageSize h ≤ g.bytes) (hf : headerFault h = none) (hv : t.sec.counter ≤ field h 12 1)
    (hd : t.dst.current = none) :
    exec (.fwCommit op) s = .next (if imageGenuine t (otherSlot t) h = true then commitImage t op (otherSlot t) h else fail t op stDenied 0) := by
  simp only [exec, execFwCommit]
  rw [runOp_ready hop, ← ht, ← hh, hg, if_neg (by simp; omega), hf]
  dsimp only
  by_cases hgen : imageGenuine t (otherSlot t) h = true
  · rw [if_neg (by simp [hgen]), if_neg (Nat.not_lt.2 hv), if_neg (by simp [hd]), if_pos hgen]
  · rw [if_pos (by simpa using hgen), if_neg hgen]

/-- KEY_IMPORT with good operands and its blob in reach goes by its slice. -/
theorem execKeyImport_reach (h : Ready s op 0x79 4 o) (ht : t = started s op 4) (h0 : o.f 9 1 = 0) (ha : o.f 16 8 % 64 = 0)
    (hr : Reaches t o [(o.f 16 8, 1664, false)]) {x : Slice} (hx : lookup t.slices (o.f 8 1) = some x)
    (hk : (t.sec.keys.filter (fun k => k.kind = 2)).length < 1024) :
    exec (.keyImport op) s = .next ((importedKey t (o.f 8 1) x (readPartner t o.port (o.f 16 8) 1664)).elim (fail t op stDenied 1568)
      (fun key => if key.take 32 = key.drop 32 then fail t op stBounds 1568 else finishOk (addImported t (o.f 8 1) key) op (t.sec.nextHandle % 2 ^ 32))) := by
  have hc : Clear [(decide (o.f 9 1 ≠ 0), stBadDescriptor, 9), (decide (o.f 16 8 % 64 ≠ 0), stBadDescriptor, 16),
      ((lookup t.slices (o.f 8 1)).isNone, stBounds, 8)] := by
    simp [h0, ha, hx]
  simp only [exec, execKeyImport]
  rw [runOp_ready h, ← ht, checks_clear hc, withPartner_reach hr, hx]
  dsimp only
  cases importedKey t (o.f 8 1) x (readPartner t o.port (o.f 16 8) 1664) with
  | none => rfl
  | some key =>
    refine congrArg _ (if_congr Iff.rfl rfl ?_)
    exact if_neg (by simpa using hk)

end

/-- Settles O51: each part of an image by its offset, the commit by what is staged, log entries by what is not copied, the import by its slice. -/
theorem firmwareAndKeys : Obligations.FirmwareAndKeys := by
  unfold Obligations.FirmwareAndKeys
  refine ⟨?stages, ?goesOn, ?wrongOffset, ?commits, ?nothing, ?logs, ?allCopied, ?imports, ?noSlice⟩
  case stages =>
    intro op o s t u h ht hm hn h0 hr hd hu
    have hdt : t.dst.current = none := by rw [ht, started_dst]; exact hd
    rw [execFwStage_runs h ht hm hn (Or.inl h0) (by omega) hr hdt]
    simp only [h0, if_true, Nat.zero_add, ← hu]
  case goesOn =>
    intro op o s t u g h ht hm hn h0 hg ho hb hr hd hu
    have hdt : t.dst.current = none := by rw [ht, started_dst]; exact hd
    have hgt : t.sec.staging = some g := by rw [ht, started_sec]; exact hg
    rw [execFwStage_runs h ht hm hn (Or.inr (by simpa [hgt] using ho)) (by omega) hr hdt]
    rw [← ho]
    simp only [if_neg h0, ← hu]
  case wrongOffset =>
    intro op o s t g h ht hm hn h0 hg ho
    have hgt : t.sec.staging = some g := by rw [ht, started_sec]; exact hg
    simp only [exec, execFwStage]
    rw [runOp_ready h, ← ht, checks_fail _ _ _ _ true stBounds 16]
    simp only [List.find?_cons, hgt, Option.map_some, Option.getD_some, hm, h0, ho, decide_eq_false (Nat.not_lt.2 hn), ne_eq, not_true_eq_false,
      not_false_eq_true, decide_false, decide_true, Bool.or_false, Bool.and_true]
  case commits =>
    intro op o s t u g h hop ht hg hh hn hf hv hd hu
    have hdt : t.dst.current = none := by rw [ht, started_dst]; exact hd
    have hgt : t.sec.staging = some g := by rw [ht, started_sec]; exact hg
    have hvt : t.sec.counter ≤ field h 12 1 := by rw [ht, started_sec]; exact hv
    rw [execFwCommit_whole hop ht hgt hh hn hf hvt hdt, commitImage, ← hu]
  case nothing =>
    intro op o s t h ht hg
    have hgt : t.sec.staging = none := by rw [ht, started_sec]; exact hg
    simp only [exec, execFwCommit]
    rw [runOp_ready h, ← ht, if_pos (by simp [hgt])]
  case logs =>
    intro s u e he hd hc hu
    simp only [exec, execLogCopy]
    rw [he]
    dsimp only
    rw [if_neg (by simp [hd, hc]), ← hu]
  case allCopied =>
    intro s h
    have hnone : s.ras.log.filter (fun e => !e.copied) = [] := List.filter_eq_nil_iff.2 (fun e he => by simp [h e he])
    simp only [exec, execLogCopy, hnone, List.getLast?_nil]
  case imports =>
    intro op o s t x h ht h0 ha hr hx hk
    exact execKeyImport_reach h ht h0 ha hr hx hk
  case noSlice =>
    intro op o s t h ht h0 ha hr hx
    simp only [exec, execKeyImport]
    rw [runOp_ready h, ← ht, checks_fail _ _ _ _ true stBounds 8 (by simp [h0, ha, hx])]

end Sys2Proof.Machine
end

section
/-! Warm resets and those that the watchdog and core faults bring (16 R340; 18 R373; 19 R389). -/

namespace Sys2Proof.Machine

/-! ### What a warm reset leaves -/

/-- The fields by which a warm reset is described (R389). -/
def resetView (s : State) : Tbl Job × Option SelfTest × Tbl Store × Nat × Option DistaffOp :=
  (s.jobs, s.selfTest, s.stores, s.dst.addr, s.dst.current)

/-- Taking out every key leaves an empty table. -/
theorem foldl_removeKey_keys {α : Type} (t : Tbl α) : (keys t).foldl removeKey t = [] := by
  have h : ∀ (l : List Nat) (t : Tbl α), (∀ e ∈ t, e.1 ∈ l) → l.foldl removeKey t = [] := by
    intro l
    induction l with
    | nil => exact fun t ht => List.eq_nil_iff_forall_not_mem.2 (fun e he => absurd (ht e he) List.not_mem_nil)
    | cons k l ih =>
      intro t ht
      refine ih _ (fun e he => ?_)
      have hmem : e ∈ t ∧ e.1 ≠ k := by
        clear ht ih
        induction t with
        | nil => exact absurd he List.not_mem_nil
        | cons d t ih =>
          obtain ⟨j, v⟩ := d
          rw [removeKey] at he
          by_cases hj : k = j
          · rw [if_pos hj] at he
            exact ⟨List.mem_cons_of_mem _ (ih he).1, (ih he).2⟩
          · rw [if_neg hj] at he
            rcases List.mem_cons.1 he with rfl | he
            · exact ⟨List.mem_cons_self, Ne.symm hj⟩
            · exact ⟨List.mem_cons_of_mem _ (ih he).1, (ih he).2⟩
      exact (List.mem_cons.1 (ht e hmem.1)).resolve_left hmem.2
  exact h _ _ (fun e he => List.mem_map_of_mem he)

theorem lasting_dropAll (s : State) (l : List Nat) : lasting (l.foldl dropJob s) = lasting { s with jobs := l.foldl removeKey s.jobs } := by
  induction l generalizing s with
  | nil => rfl
  | cons jid l ih =>
    obtain ⟨h1, h2, h3, h4, h5, h6⟩ : _ ∧ _ ∧ _ ∧ _ ∧ _ ∧ _ := by simpa only [lasting, Prod.mk.injEq] using lasting_dropJob s jid
    refine (ih _).trans ?_
    simp only [lasting, h1, h2, h3, h4, h5, h6, List.foldl_cons]

/-- With every job dropped none is left. -/
theorem resetView_dropJobs (s : State) : resetView (dropJobs s) = ([], s.selfTest, s.stores, s.dst.addr, s.dst.current) := by
  obtain ⟨h1, h2, h3, h4, h5, h6⟩ : _ ∧ _ ∧ _ ∧ _ ∧ _ ∧ _ := by simpa only [lasting, Prod.mk.injEq] using lasting_dropAll s (keys s.jobs)
  change resetView ((keys s.jobs).foldl dropJob s) = _
  simp only [resetView, h2, h3, h4, h6, foldl_removeKey_keys]

theorem resetView_dropTest (s : State) : resetView (dropTest s) = (s.jobs, none, s.stores, s.dst.addr, s.dst.current) := by
  unfold dropTest
  split
  case h_1 => rfl
  case h_2 h => simp only [resetView, h]

theorem resetView_resetErase (s : State) : resetView (resetErase s) = resetView s := by
  unfold resetErase
  split
  · rfl
  · dsimp only
    split <;> split <;> rfl

theorem resetView_putWord (s : State) (n : Nat) (w : CodeWord) : resetView (putWord s n w) = resetView s := rfl

/-- With the operation under way abandoned the distaff is idle. -/
theorem resetView_abandonOp (s : State) : resetView (abandonOp s) = (s.jobs, s.selfTest, s.stores, s.dst.addr, none) := by
  unfold abandonOp
  split
  case h_1 h => simp only [resetView, h]
  case h_2 o _ =>
    have h : ∀ u : State, resetView u = resetView s →
        resetView (modDst (voidAt u o.erase o.target) (fun d => { d with current := none })) = (s.jobs, s.selfTest, s.stores, s.dst.addr, none) := by
      intro u hu
      obtain ⟨h1, h2, h3, h4, -⟩ : _ ∧ _ ∧ _ ∧ _ ∧ _ := by simpa only [resetView, Prod.mk.injEq] using hu
      simp only [resetView, modDst, voidAt, voidCommits, h1, h2, h3, h4]
    exact h _ (foldl_view resetView (fun u w => resetView_putWord u w _) _ _)

theorem resetView_dropDst (s : State) : resetView (dropDst s) = resetView s := by
  unfold dropDst
  split <;> rfl

/-- A port reset ends the port's jobs, of which there are none, and changes nothing else that is shown here. -/
theorem resetView_portReset {s : State} (h : s.jobs = []) (p : Nat) : resetView (portReset s p) = resetView s := by
  have hj : ∀ u : State, u.jobs = [] → resetJobs u p = u := by
    intro u hu
    simp only [resetJobs, jobsOfPort, hu, List.filter_nil, List.map_nil, List.foldl_nil]
  unfold portReset
  dsimp only
  rw [hj _ (by exact h)]
  rfl

theorem resetView_portResets {s : State} (h : s.jobs = []) (l : List Nat) : resetView (l.foldl portReset s) = resetView s := by
  induction l generalizing s with
  | nil => rfl
  | cons p l ih =>
    have hp := resetView_portReset h p
    exact (ih ((congrArg Prod.fst hp).trans h)).trans hp

theorem resetView_scrubAll (s : State) : resetView (scrubAll s) = resetView s := foldl_view resetView (fun _ _ => by rfl) _ s

theorem resetView_loadFirmware (s : State) : resetView (loadFirmware s) = resetView s := by
  unfold loadFirmware
  split <;> rfl

theorem staging_loadFirmware (s : State) : (loadFirmware s).sec.staging = none := by
  unfold loadFirmware
  split <;> rfl

/-- How far a boot comes changes GLB and the counter only. -/
theorem reachReady_only (s : State) :
    reachReady s = { s with glb := (reachReady s).glb, sec := { s.sec with counter := (reachReady s).sec.counter } } := by
  unfold reachReady raiseCounter
  dsimp only
  split
  · rfl
  · split
    · rfl
    · split <;> rfl

/-- What a warm reset has made of the state before firmware starts again. -/
def afterReset (s : State) : State :=
  loadFirmware (scrubAll ([0, 1, 2, 3].foldl portReset (dropDst (abandonOp (resetErase (dropTest (dropJobs s)))))))

theorem resetView_afterReset (s : State) : resetView (afterReset s) = ([], none, s.stores, s.dst.addr, none) := by
  have h0 := resetView_dropJobs s
  unfold afterReset
  generalize dropJobs s = a at h0 ⊢
  have h1 : resetView (dropTest a) = ([], none, s.stores, s.dst.addr, s.dst.current) := by
    obtain ⟨e1, -, e3, e4, e5⟩ : _ ∧ _ ∧ _ ∧ _ ∧ _ := by simpa only [resetView, Prod.mk.injEq] using h0
    rw [resetView_dropTest, e1, e3, e4, e5]
  have h2 := (resetView_resetErase (dropTest a)).trans h1
  have h3 : resetView (dropDst (abandonOp (resetErase (dropTest a)))) = ([], none, s.stores, s.dst.addr, none) := by
    obtain ⟨e1, e2, e3, e4, -⟩ : _ ∧ _ ∧ _ ∧ _ ∧ _ := by simpa only [resetView, Prod.mk.injEq] using h2
    rw [resetView_dropDst, resetView_abandonOp, e1, e2, e3, e4]
  have h4 := (resetView_portResets (congrArg Prod.fst h3) [0, 1, 2, 3]).trans h3
  rw [resetView_loadFirmware, resetView_scrubAll, h4]

theorem warmReset_eq (s : State) (why : Nat) : warmReset s why = noteAlert (reachReady { afterReset s with
    pwr := { (afterReset s).pwr with lastReset := why }, dst := { (afterReset s).dst with wdogPending := none } }) := by
  unfold warmReset afterReset
  rfl

theorem staging_afterReset (s : State) : (afterReset s).sec.staging = none := by
  unfold afterReset
  exact staging_loadFirmware _

/-- The start of firmware changes nothing that is shown here. -/
theorem warmReset_leaves (s : State) (why : Nat) : resetView (warmReset s why) = resetView (afterReset s) ∧ (warmReset s why).pwr.lastReset = why ∧
    (warmReset s why).dst.wdogPending = none ∧ (warmReset s why).sec.staging = (afterReset s).sec.staging := by
  rw [warmReset_eq]
  generalize afterReset s = a
  rw [noteAlert, reachReady_only]
  exact ⟨rfl, rfl, rfl, rfl⟩

/-! ### The watchdog -/

section
variable {s u : State}

/-- The watchdog reset without a distaff operation comes at once. -/
theorem watchdogReset_idle (h : s.dst.current = none) : watchdogReset s = warmReset s (faultReset s) := by
  simp only [watchdogReset, h]

/-- It waits for one that runs. -/
theorem watchdogReset_running {e : DistaffOp} (h : s.dst.current = some e) (hs : e.suspended = false) :
    watchdogReset s = noteWdog s (if e.erase then 2 else 1) e (some s.clock) := by
  simp only [watchdogReset, h, hs]
  cases e.erase <;> rfl

/-- It abandons a suspended erase. -/
theorem watchdogReset_suspended {e : DistaffOp} (h : s.dst.current = some e) (he : e.erase = true) (hs : e.suspended = true) :
    watchdogReset s = warmReset (noteWdog s 3 e none) (faultReset (noteWdog s 3 e none)) := by
  simp only [watchdogReset, h]
  rw [if_neg (by simp [he]), if_pos hs]

/-- An expiry, with no reset deferred and a core running, is logged and brings the watchdog reset. -/
theorem execWatchdogExpiry_fires (hp : s.dst.wdogPending = none) (hc : coresRun s ≠ 0) (hu : u = logRas s 1 5 0 0 0) :
    exec .watchdogExpiry s = .next (watchdogReset { u with ras := { u.ras with coreFault := some (7, 3) } }) := by
  rw [hu]
  exact if_neg (by simp [hp, hc])

/-- The end of an operation that a watchdog reset waited for brings that reset. -/
theorem execDistaffOpEnd_deferred {at_ : Nat} (hu : u = endDistaff s) (hw : u.dst.wdogPending = some at_) (hc : u.dst.current = none) :
    exec .distaffOpEnd s = .next (warmReset (modDst u (fun d => { d with wdogDefer := min (u.clock - at_) 0xFFFFF })) (faultReset u)) := by
  simp only [exec, execDistaffOpEnd, ← hu, hw, hc]
  rfl

end

/-- Settles O54: the resets by the commands and faults that bring them, what a reset leaves by what each of its parts does to it. -/
theorem resetsOfFirmware : Obligations.ResetsOfFirmware := by
  unfold Obligations.ResetsOfFirmware
  refine ⟨?command, ?badWord, ?leaves, ?expires, ?deferred, ?abandons, ?opEnds, ?coreFaults⟩
  case command =>
    intro op o s t h ht hk
    simp only [exec, execWarmReset]
    rw [runOp_ready h, ← ht, if_neg (not_not_intro hk)]
  case badWord =>
    intro op o s t h ht hk
    simp only [exec, execWarmReset]
    rw [runOp_ready h, ← ht, if_pos hk]
  case leaves =>
    intro s why
    obtain ⟨hview, hwhy, hwdog, hstaging⟩ := warmReset_leaves s why
    obtain ⟨hjobs, htest, hstores, haddr, hcurrent⟩ : _ ∧ _ ∧ _ ∧ _ ∧ _ := by
      simpa only [resetView, Prod.mk.injEq] using hview.trans (resetView_afterReset s)
    exact ⟨hwhy, hcurrent, hwdog, htest, hjobs, hstaging.trans (staging_afterReset s), haddr, hstores, (keeps_warmReset s why).1⟩
  case expires =>
    intro s u hp hc hd hu
    have hdu : u.dst.current = none := by rw [hu, logRas_dst]; exact hd
    exact (execWatchdogExpiry_fires hp hc hu).trans (congrArg _ (watchdogReset_idle hdu))
  case deferred =>
    intro s u e hp hc hd hs hu
    have hdu : u.dst.current = some e := by rw [hu, logRas_dst]; exact hd
    exact (execWatchdogExpiry_fires hp hc hu).trans (congrArg _ (watchdogReset_running hdu hs))
  case abandons =>
    intro s u e hp hc hd he hs hu
    have hdu : u.dst.current = some e := by rw [hu, logRas_dst]; exact hd
    exact (execWatchdogExpiry_fires hp hc hu).trans (congrArg _ (watchdogReset_suspended hdu he hs))
  case opEnds =>
    intro s t at_ ht hw hc
    exact execDistaffOpEnd_deferred ht hw hc
  case coreFaults =>
    intro core kind s u hp hst hf hm hd hu
    have hdu : u.dst.current = none := by rw [hu, logRas_dst]; exact hd
    have hk : kind.val ≠ 3 := by omega
    simp only [exec, execControlCoreFault]
    rw [if_neg (by rw [hp, hf, hm]; simp; omega), ← hu, watchdogReset_idle]
    · simp only [faultReset, Option.any_some, ne_eq, hk, not_false_eq_true, decide_true, if_true]
    · exact hdu

end Sys2Proof.Machine
end

section
/-! The halt of the compute plane, corrected errors and regulator phases (18 R368, R370-R372, R380). -/

namespace Sys2Proof.Machine

section
variable {op : Nat} {fs : List (Fin 52)} {o : Op} {s t u : State}

/-- RESUME_COMPUTE while halted goes by what is not chosen, then by the test it asks for. -/
theorem execResumeCompute_halted (h : Ready s op 0x6D 4 o) (ht : t = started s op 4) (hh : t.ras.halted = true) (hr : t.ras.resuming = false) :
    exec (.resumeCompute op fs) s = .next ((unchosen t).elim
      ((if bit (o.f 8 1) 0 then testFailure t fs else none).elim (computeReset t op)
        (fun e => fail (modRas t (fun r => { r with choices := removeKey r.choices e.1 })) op stBounds (0x200 + e.2)))
      (fun p => fail t op stBounds (0x100 + p))) := by
  simp only [exec, execResumeCompute]
  rw [runOp_ready h, ← ht, if_neg (by simp [hh, hr])]
  cases unchosen t with
  | some p => rfl
  | none =>
    dsimp only [Option.elim_none]
    cases (if bit (o.f 8 1) 0 then testFailure t fs else none) <;> rfl

/-- A corrected error in the minute that runs is counted, and posted once it is above the threshold. -/
theorem execCorrectedError_sameMinute {src : Fin 11} {idx n : Nat} {bank : Bool} {addr : Nat} (he : isElement s src.val idx = true) (hs : s.glb.stage ≠ 0)
    (hu : u = countCorrected (logRas s src.val 0 idx (if src.val = 5 then 0xFFFF else 0) addr) src.val idx bank) (hm : u.ras.minute = minuteNow u)
    (hn : n = readD 0 u.ras.ceMinute (src.val * 1024 + idx) + 1) :
    exec (.correctedError src idx bank addr) s = .next (
      if n > u.ras.ceThresh && !u.ras.cePosted.contains (src.val * 1024 + idx) then
        postEvent { u with ras := { u.ras with
          ceMinute := insertKey u.ras.ceMinute (src.val * 1024 + idx) n, cePosted := u.ras.cePosted ++ [src.val * 1024 + idx] } } 0x04
          (ceDetail src.val idx n)
      else { u with ras := { u.ras with ceMinute := insertKey u.ras.ceMinute (src.val * 1024 + idx) n } }) := by
  simp only [exec, execCorrectedError]
  rw [if_neg (by simp [he, hs]), ← hu, if_pos hm, ← hn]
  rfl

end

/-- Settles O55: the fault outside a halt, the resumption by its choices and its test, corrected errors by the threshold, phases by what failed before. -/
theorem computeHalt : Obligations.ComputeHalt := by
  unfold Obligations.ComputeHalt
  refine ⟨?faults, ?loses, ?halted, ?resumes, ?notHalted, ?unchosen, ?testFails, ?below, ?above, ?phase, ?again, ?isOut⟩
  case faults =>
    intro c s u hh hs hp hu
    simp only [exec, execComputeFault]
    rw [if_neg (by simp only [hh, hp, hs]; decide), ← hu, modRas, haltDetail]
  case loses =>
    rintro s _ rfl
    rfl
  case halted =>
    intro c s hh
    exact if_pos (by simp [hh])
  case resumes =>
    intro op fs o s t u h ht hh hr hc hb hu
    have hl : s.ras.choices = t.ras.choices := by rw [ht, started_ras]
    rw [execResumeCompute_halted h ht (by rw [ht, started_ras]; exact hh) (by rw [ht, started_ras]; exact hr), hc, hb, hl]
    simp only [Option.elim_none, Bool.false_eq_true, if_false, computeReset, ← hu, modRas]
  case notHalted =>
    intro op fs o s t h ht hh
    simp only [exec, execResumeCompute]
    rw [runOp_ready h, ← ht, if_pos (by simp [ht, hh])]
  case unchosen =>
    intro op p fs o s t h ht hh hr hc
    rw [execResumeCompute_halted h ht (by rw [ht, started_ras]; exact hh) (by rw [ht, started_ras]; exact hr), hc]
    rfl
  case testFails =>
    intro op l p fs o s t h ht hh hr hc hb hf
    rw [execResumeCompute_halted h ht (by rw [ht, started_ras]; exact hh) (by rw [ht, started_ras]; exact hr), hc, hb, hf]
    rfl
  case below =>
    intro src idx n bank addr s u he hs hu hm hn hle
    rw [execCorrectedError_sameMinute he hs hu hm hn, if_neg (by simp; omega)]
  case above =>
    intro src idx n bank addr s u he hs hu hm hn hlt hp
    rw [execCorrectedError_sameMinute he hs hu hm hn, if_pos (by simp only [hp]; simpa using hlt), ceDetail]
  case phase =>
    intro rail ph s u hk hf ho hu
    simp only [exec, execRegPhaseFailure]
    rw [if_neg (by rw [ho]; simpa using hk), if_neg (by rw [hf]; decide), ← hu]
  case again =>
    intro rail ph s hk hf ho
    simp only [exec, execRegPhaseFailure]
    rw [if_neg (by rw [ho]; simpa using hk), if_pos hf]
  case isOut =>
    intro rail ph s ho
    exact if_pos (by rw [ho]; simp)

end Sys2Proof.Machine
end

section
/-! REPAIR of every KIND, and the end of a copy (18 R374, R375, R380; 02 R18; 11 R227; 13 R282). -/

namespace Sys2Proof.Machine

theorem repairResult_now (n : Nat) : repairResult n false = n := by
  simp [repairResult, b2n]

theorem repairResult_pending (n : Nat) : repairResult n true = n + 2 ^ 32 := by
  simp [repairResult, b2n]

section
variable {op l d : Nat} {o : Op} {s t : State}

/-- REPAIR_SPINDLE_SPARE that has not waited yet, of a logical spindle there is that no repair is on, goes by the spare. -/
theorem execRepairSpindleSpare_first (h : Ready s op 0x6C 4 o) (ht : t = started s op 4) (hk : o.f 8 1 = 0) (he : s.sec.erase = none) (ho : o.f 9 1 = 0)
    (hl : o.f 12 4 = l) (hd : o.f 16 4 = d) (hp : lookup t.ras.pendingRepairs op = none) (h48 : l < 48) (hb : spindleBusy t l = false) :
    exec (.repairSpindleSpare op) s = .next (
      if spareFor t l d = false then fail t op stBounds 16
      else if t.ras.halted then
        finishOk (modRas t (fun r => { r with choices := insertKey r.choices l (some d) })) op
          (repairResult (spnWord (modRas t (fun r => { r with choices := insertKey r.choices l (some d) })) l) true)
      else if stepsOn t l then modRas t (fun r => { r with pendingRepairs := insertKey r.pendingRepairs op (l, d) })
      else completeSpindleRepair t op l d) := by
  simp only [exec, execRepairSpindleSpare]
  rw [repairRow_ready h hk (by decide) _ (by simp [ho]) (by omega) he, ← ht, hl, hd, hp, if_neg (by decide)]
  refine congrArg _ ?_
  cases hs : spareFor t l d with
  | false => exact checks_fail _ _ _ _ true stBounds 16 (by simp [hb, h48])
  | true => exact (checks_clear (by simp [hb, h48]) _ _ _).trans (if_neg (by decide)).symm

/-- One that has waited takes effect once no step runs on the spindle. -/
theorem execRepairSpindleSpare_waited (h : Ready s op 0x6C 4 o) (ht : t = started s op 4) (hk : o.f 8 1 = 0) (he : s.sec.erase = none) (ho : o.f 9 1 = 0)
    (hl : o.f 12 4 = l) (hd : o.f 16 4 = d) (hp : (lookup t.ras.pendingRepairs op).isSome = true) :
    exec (.repairSpindleSpare op) s = .next (if stepsOn t l then t else completeSpindleRepair t op l d) := by
  simp only [exec, execRepairSpindleSpare]
  rw [repairRow_ready h hk (by decide) _ (by simp [ho]) (by omega) he, ← ht, hl, hd, if_pos hp]

/-- The spare takes over what the old spindle holds, which is left empty. -/
theorem getSpn_swapSpindle {p : Nat} (hp : (mapEntryAt s.ras.mapSpn l).phys = p) (hne : p ≠ d) :
    (getSpn (swapSpindle s l d) d).ctx = (getSpn s p).ctx ∧ (getSpn (swapSpindle s l d) d).rank = (getSpn s p).rank ∧
      (getSpn (swapSpindle s l d) p).rank = none := by
  have hmap : ∀ (u : State) (e : MapEntry) (q : Nat), getSpn (setSpnMap u l e) q = getSpn u q := by
    intro u e q
    unfold setSpnMap
    rw [logRas_only]
    rfl
  simp only [swapSpindle, hp, if_neg hne, hmap, getSpn_modSpn_same, getSpn_modSpn_other _ _ _ _ (Ne.symm hne), and_self]

/-- REPAIR_STRAND_LANE, not yet begun, of a link there is, goes by the repairs open on it and the lane. -/
theorem execRepairStrandLane_first (h : Ready s op 0x6C 4 o) (ht : t = started s op 4) (hk : o.f 8 1 = 2) (he : s.sec.erase = none) (hl : o.f 12 4 = l)
    (hd : o.f 16 4 = d) (hph : o.phase = .fetched) (hp : lookup t.ras.pendingRepairs op = none) (h96 : l < 96) :
    exec (.repairStrandLane op) s = .next (
      if repairOpen t op o then fail t op stBounds 12
      else if laneServes t l d = false then fail t op stBounds 16
      else if draftStepOn t l then modRas t (fun r => { r with pendingRepairs := insertKey r.pendingRepairs op (1000 + l, d) })
      else mapLane t op l d) := by
  simp only [exec, execRepairStrandLane]
  rw [repairRow_ready h hk (by decide) _ rfl (by omega) he, ← ht, hl, hd, hp, if_neg (by decide), if_neg (by rw [hph]; decide)]
  refine congrArg _ ?_
  cases hr : repairOpen t op o with
  | true => exact checks_fail _ _ _ _ true stBounds 12 (by simp [h96])
  | false =>
    cases hs : laneServes t l d with
    | false => exact checks_fail _ _ _ _ true stBounds 16 (by simp [h96])
    | true => exact (checks_clear (by simp [h96]) _ _ _).trans ((if_neg (by decide)).trans (if_neg (by decide))).symm

/-- One that waited for a draft's step takes effect once none runs on the link. -/
theorem execRepairStrandLane_waited (h : Ready s op 0x6C 4 o) (ht : t = started s op 4) (hk : o.f 8 1 = 2) (he : s.sec.erase = none) (hl : o.f 12 4 = l)
    (hd : o.f 16 4 = d) (hp : (lookup t.ras.pendingRepairs op).isSome = true) :
    exec (.repairStrandLane op) s = .next (if draftStepOn t l then t else mapLane t op l d) := by
  simp only [exec, execRepairStrandLane]
  rw [repairRow_ready h hk (by decide) _ rfl (by omega) he, ← ht, hl, hd, if_pos hp]

/-- One that has begun completes once the spare lane is up. -/
theorem execRepairStrandLane_begun (h : Ready s op 0x6C 4 o) (ht : t = started s op 4) (hk : o.f 8 1 = 2) (he : s.sec.erase = none) (hl : o.f 12 4 = l)
    (hd : o.f 16 4 = d) (hph : o.phase = .started) (hp : lookup t.ras.pendingRepairs op = none) :
    exec (.repairStrandLane op) s = .next (
      if (getLane t d).up then finishOk t op (repairResult (mapWord (mapEntryAt t.ras.mapStr l)) false) else t) := by
  simp only [exec, execRepairStrandLane]
  rw [repairRow_ready h hk (by decide) _ rfl (by omega) he, ← ht, hl, hd, hp, if_neg (by decide), if_pos hph]

/-! ### Copies of DRAM -/

variable {i : Fin 4} {pos : Nat} {row : Option Nat}

/-- With no copy on the stack, this one starts. -/
theorem startCopy_starts {i pos : Nat} {row : Option Nat} (hc : (getStack t i).copying = none) :
    startCopy t op i pos row = { t with memStacks := t.memStacks.set i { getStack t i with copying := some (op, pos, row) } } := by
  unfold startCopy
  rw [if_neg (by simp [hc])]
  rfl

/-- At the end of a copy the spare is used, and the words that could not be copied are listed where the list has room. -/
theorem execRepairCopyDone_copying {bad new : List Nat} (hc : (getStack s i.val).copying = some (op, pos, row))
    (ht : t = modStack s i.val (fun k => { k with copying := none }))
    (hnew : new = (bad.filter (fun u => !(getStack s i.val).uncorr.contains u)).eraseDups) :
    exec (.repairCopyDone i bad) s = .next (
      if (getStack s i.val).uncorr.length + new.length > 1024 then fail t op stBounds 12
      else
        let u := modStack (zeroWords t new) i.val
          (fun k => { useSpare k pos (((lookup t.ops op).map (fun o => o.f 16 4)).getD 32) row with uncorr := k.uncorr ++ new })
        finishOk (logRas u 4 4 (i.val * 64 + pos) 0 (row.getD 0)) op (memWord (getStack u i.val))) := by
  subst ht hnew
  simp only [exec, execRepairCopyDone, hc, repairResult_now, apply_ite Host.Outcome.next]

theorem useSpare_uncorr (k : Stack) (pos dest : Nat) (row : Option Nat) :
    ({ useSpare k pos dest row with uncorr := k.uncorr ++ [] } : Stack) = useSpare k pos dest row := by
  rw [List.append_nil]
  cases row with
  | some r => rfl
  | none =>
    unfold useSpare
    dsimp only
    split <;> rfl

end

/-- Settles O56: each KIND past its checks by the state of what it repairs, the end of a copy by the room of the list. -/
theorem repairs : Obligations.Repairs := by
  unfold Obligations.Repairs
  refine ⟨?spareNow, ?swaps, ?takesOver, ?spareWaits, ?spareBoundary, ?spareChoice, ?noSpare, ?reinstates, ?withdraws, ?core, ?laneNow, ?laneWaits, ?laneUp,
    ?laneBoundary, ?laneOpen, ?ahl, ?ahlUp, ?channel, ?dramRow, ?copied, ?copiedBut, ?abandons, ?noCopy, ?die, ?phase⟩
  case spareNow =>
    intro op l d o s t h ht hk he ho hl hd hp h48 hb hs hh hr
    rw [execRepairSpindleSpare_first h ht hk he ho hl hd hp h48 hb, if_neg (by simp [hs]), if_neg (by simp [hh]), if_neg (by simp [hr])]
  case swaps =>
    rintro op l d s _ rfl
    rfl
  case takesOver => exact fun l d p s hp hne => getSpn_swapSpindle hp hne
  case spareWaits =>
    intro op l d o s t h ht hk he ho hl hd hp h48 hb hs hh hr
    rw [execRepairSpindleSpare_first h ht hk he ho hl hd hp h48 hb, if_neg (by simp [hs]), if_neg (by simp [hh]), if_pos hr, modRas]
  case spareBoundary =>
    intro op l d o s t h ht hk he ho hl hd hp hr
    rw [execRepairSpindleSpare_waited h ht hk he ho hl hd hp, if_neg (by simp [hr])]
  case spareChoice =>
    intro op l d o s t u h ht hk he ho hl hd hp h48 hb hs hh hu
    rw [execRepairSpindleSpare_first h ht hk he ho hl hd hp h48 hb, if_neg (by simp [hs]), if_pos hh, modRas, ← hu, repairResult_pending]
  case noSpare =>
    intro op l d o s t h ht hk he ho hl hd hp h48 hb hs
    rw [execRepairSpindleSpare_first h ht hk he ho hl hd hp h48 hb, if_pos hs]
  case reinstates =>
    intro op l p o s t u h ht hk he ho hl h48 hb hh hp hf hu
    simp only [exec, execRepairSpindleReinstate]
    rw [repairRow_ready h hk (by decide) _ (by simp [ho]) (by omega) he, ← ht, hl, checks_clear (by simp [hb, h48, hh, hp, hf]), modRas, ← hu,
      repairResult_pending]
  case withdraws =>
    intro op l o s t u h ht hk he ho hl h48 hb hh hu
    have hc : Clear [(decide (l ≥ 48), stBounds, 12), (spindleBusy t l || (!t.ras.halted && usesSpindle t l), stBounds, 12)] := by
      simpa [hb, h48] using hh
    simp only [exec, execRepairSpindleWithdraw]
    rw [repairRow_ready h hk (by decide) _ (by simp [ho]) (by omega) he, ← ht, hl, checks_clear hc, modRas, ← hu, repairResult_now]
  case core =>
    intro op c d o s t u h ht hk he hc hd h4 h6 hm hf hu
    have hcl : Clear [(decide (c ≥ 4), stBounds, 12),
        (decide (d ≥ 6) || t.ras.mapCore.any (fun e => e.phys = d) || t.ras.faultyCores.contains d, stBounds, 16)] := by
      simp only [hm, hf]
      simp [h4, h6]
    simp only [exec, execRepairCore]
    rw [repairRow_ready h hk (by decide) _ rfl (by omega) he, ← ht, hc, hd, checks_clear hcl, modRas, ← hu, repairResult_now]
  case laneNow =>
    intro op l d o s t h ht hk he hl hd hph hp h96 hr hs hn
    rw [execRepairStrandLane_first h ht hk he hl hd hph hp h96, if_neg (by simp [hr]), if_neg (by simp [hs]), if_neg (by simp [hn])]
  case laneWaits =>
    intro op l d o s t h ht hk he hl hd hph hp h96 hr hs hn
    rw [execRepairStrandLane_first h ht hk he hl hd hph hp h96, if_neg (by simp [hr]), if_neg (by simp [hs]), if_pos hn, modRas]
  case laneUp =>
    intro op l d o s t h ht hk he hl hd hph hp hup
    rw [execRepairStrandLane_begun h ht hk he hl hd hph hp, if_pos hup, repairResult_now]
  case laneBoundary =>
    intro op l d o s t h ht hk he hl hd hp hn
    rw [execRepairStrandLane_waited h ht hk he hl hd hp, if_neg (by simp [hn])]
  case laneOpen =>
    intro op l o s t h ht hk he hl hph hp h96 hr
    rw [execRepairStrandLane_first h ht hk he hl rfl hph hp h96, if_pos hr]
  case ahl =>
    intro op p n o s t h ht hk he hp hn hph h4 h8 hr hs hf
    simp only [exec, execRepairAhlLane]
    rw [repairRow_ready h hk (by decide) _ rfl (by omega) he, ← ht, hp, hn, if_neg (by rw [hph]; decide)]
    exact congrArg _ (checks_clear (by simp only [hr, hs, hf]; simp [h4, h8]) _ _ _)
  case ahlUp =>
    intro op p o s t h ht hk he hp hph hup
    simp only [exec, execRepairAhlLane]
    rw [repairRow_ready h hk (by decide) _ rfl (by omega) he, ← ht, hp, if_pos hph, if_pos hup, repairResult_now]
  case channel =>
    intro op i pos o s t h ht hk he hi hpos h4 h32 hr hc hs
    simp only [exec, execRepairPseudoChannel]
    rw [repairRow_ready h hk (by decide) _ rfl (by omega) he, ← ht, hi, hpos, if_neg (by simp [hc]), checks_clear, startCopy_starts hc]
    simp only [clear_cons, hr]
    rcases hs with ⟨hdest, hfree⟩ | ⟨hdest, hfree⟩
    · simp [h4, h32, hdest, hfree]
    · simp [h4, h32, hdest, hfree]
  case dramRow =>
    intro op i pos o s t h ht hk he hi hpos h4 h32 hr hc hleft
    simp only [exec, execRepairDramRow]
    rw [repairRow_ready h hk (by decide) _ rfl (by omega) he, ← ht, hi, hpos, if_neg (by simp [hc]), checks_clear, startCopy_starts hc]
    simp only [clear_cons, hr]
    simpa [h4, h32] using Nat.ne_of_gt hleft
  case copied =>
    intro i op pos row o s t u hc ho ht hu hn
    have hot : lookup t.ops op = some o := by rw [ht]; exact ho
    rw [execRepairCopyDone_copying hc ht rfl, if_neg (by simpa using hn)]
    simp only [hot, Option.map_some, Option.getD_some, List.filter_nil, hu]
    simp only [useSpare_uncorr, List.eraseDups_nil, zeroWords, List.foldl_nil]
  case copiedBut =>
    intro i op pos row o bad new s t u hc ho ht hnew hn hu
    have hot : lookup t.ops op = some o := by rw [ht]; exact ho
    rw [execRepairCopyDone_copying hc ht hnew, if_neg (by omega)]
    simp only [hot, Option.map_some, Option.getD_some, ← hu]
  case abandons =>
    intro i op pos row bad s t hc ht hn
    rw [execRepairCopyDone_copying hc ht rfl, if_pos hn]
  case noCopy =>
    intro i bad s hc
    simp only [exec, execRepairCopyDone, hc]
  case die =>
    intro op b d sp o s t u h ht hk he hb hd h16 h9 hrole hm hsp hu
    simp only [exec, execRepairNandDie]
    rw [repairRow_ready h hk (by decide) _ rfl (by omega) he, ← ht, hb, hd, checks_clear, ← hu, repairResult_now]
    simp [h16, h9, hrole, hm, hsp]
  case phase =>
    intro op r k o s t u h ht hk he hr hkk h16 hle hu
    simp only [exec, execRepairRegPhase]
    rw [repairRow_ready h hk (by decide) _ rfl (by omega) he, ← ht, hr, hkk, checks_clear, ← hu, repairResult_now]
    simpa [h16] using hle

end Sys2Proof.Machine
end

section
/-! Power states (19 R381-R385, R393), the flush, cold resets and the boot (19 R386-R392), and heat (21 R410). -/

namespace Sys2Proof.Machine

/-! ### Power states -/

section
variable {op : Nat} {o : Op} {s t u : State}

theorem clear_powerChecks (h4 : o.f 8 1 ≤ 4) (h9 : o.f 9 1 ≤ 1) (hp : anyPly t = true → o.f 8 1 = 0) : Clear (powerChecks t o) := by
  simp only [powerChecks, clear_cons, Bool.and_eq_false_imp, decide_eq_false_iff_not, not_not, not_lt]
  exact ⟨h4, h9, hp, rfl⟩

/-- The state in which SET_POWER of state n decides: the hold at PS0 is as n asks, and a self-test has ended before PS3 and PS4 (R385). -/
def heldFor (t : State) (n : Nat) : State :=
  if n ≥ 3 then abortTest (modPwr t (fun p => { p with heldPs0 := decide (n = 0) })) else modPwr t (fun p => { p with heldPs0 := decide (n = 0) })

theorem heldFor_shallow {n : Nat} (h : n < 3) (t : State) : heldFor t n = { t with pwr := { t.pwr with heldPs0 := decide (n = 0) } } :=
  if_neg (by omega)

theorem heldFor_deep {n : Nat} (h : 3 ≤ n) (t : State) : heldFor t n = abortTest { t with pwr := { t.pwr with heldPs0 := false } } := by
  unfold heldFor
  rw [if_pos h, decide_eq_false (by omega), modPwr]

/-- SET_POWER with MODE 0 past its checks waits for the steps that run, completes where the state is reached, or begins the entry. -/
theorem execSetPowerEnter_clear (h : Ready s op 0x70 4 o) (ht : t = started s op 4) (h9 : o.f 9 1 = 0) (h4 : o.f 8 1 ≤ 4)
    (hp : anyPly t = true → o.f 8 1 = 0) (hu : u = heldFor t (o.f 8 1)) :
    exec (.setPowerEnter op) s = .next (
      if o.f 8 1 ≠ 0 && stepsRun u then u
      else if u.pwr.state = o.f 8 1 && u.pwr.target = o.f 8 1 then finishOk u op 0
      else modPwr u (fun p => { p with target := o.f 8 1, entering := some op })) := by
  simp only [exec, execSetPowerEnter]
  rw [runRow_ready h _ _ (by simp [h9]), ← ht, checks_clear (clear_powerChecks h4 (by omega) hp), hu]
  rfl

end

/-- The links change their rate last, and nothing else with it. -/
theorem reachState_portsOnly (s : State) (n : Nat) : ∃ u, PortsOnly u (reachState s n) ∧ u.pwr = { s.pwr with state := n, target := n } ∧
    u.memStacks = s.memStacks.map (fun k => { k with sref := decide (n ≥ 3) }) := by
  refine ⟨_, portsOnly_foldl (fun v p => ?_) _ _, rfl, rfl⟩
  split
  · exact PortsOnly.modPort v p _
  · exact PortsOnly.refl v

theorem reachState_pwr (s : State) (n : Nat) : (reachState s n).pwr = { s.pwr with state := n, target := n } := by
  obtain ⟨u, hu, hp, -⟩ := reachState_portsOnly s n
  rw [hu]
  exact hp

theorem reachState_memStacks (s : State) (n : Nat) : (reachState s n).memStacks = s.memStacks.map (fun k => { k with sref := decide (n ≥ 3) }) := by
  obtain ⟨u, hu, -, hm⟩ := reachState_portsOnly s n
  rw [hu]
  exact hm

theorem reachState_entering (s : State) (n : Nat) : (reachState s n).pwr.entering = s.pwr.entering := by rw [reachState_pwr]

theorem completeEntering_none {s : State} (h : s.pwr.entering = none) : completeEntering s = s := by
  unfold completeEntering
  rw [h]

theorem postEvent_pwr (s : State) (code detail : Nat) : (postEvent s code detail).pwr = s.pwr := by
  rw [portsOnly_postEvent]

theorem logRas_pwr (s : State) (a b c d e : Nat) : (logRas s a b c d e).pwr = s.pwr := by
  rw [logRas_only]

/-- Settles O57: SET_POWER by what it asks for and what runs, the limit by its value, entries and exits by what waits for them. -/
theorem powerStates : Obligations.PowerStates := by
  unfold Obligations.PowerStates
  refine ⟨?shallow, ?deep, ?waits, ?inPs0, ?plied, ?limit, ?limitWrite, ?ignored, ?idle, ?held, ?entered, ?completes, ?exits, ?late, ?reached⟩
  case shallow =>
    rintro op o s t u h ht h9 h2 hp hu hs hn
    have hnu : ¬(u.pwr.state = o.f 8 1 ∧ u.pwr.target = o.f 8 1) := by rw [hu]; exact hn
    rw [execSetPowerEnter_clear h ht h9 (by omega) hp (hu.trans (heldFor_shallow (by omega) t).symm), if_neg (by simpa using hs), if_neg (by simpa using hnu), modPwr]
  case deep =>
    intro op o s t u h ht h9 h8 hp hu hs hn
    rw [execSetPowerEnter_clear h ht h9 (by omega) (by simp [hp]) (hu.trans (heldFor_deep (by omega) t).symm), if_neg (by simp [hs]), if_neg (by simpa using hn), modPwr]
  case waits =>
    intro op o s t u h ht h9 h8 hp hu hs
    have hlow : u = heldFor t (o.f 8 1) := by rw [heldFor_shallow (by omega), decide_eq_false (by omega), hu]
    rw [execSetPowerEnter_clear h ht h9 (by omega) (by simp [hp]) hlow, if_pos (by rw [hs]; simp; omega)]
  case inPs0 =>
    intro op o s t h ht h9 h0 hst htg
    have hlow : { t with pwr := { t.pwr with heldPs0 := true } } = heldFor t (o.f 8 1) := by
      rw [heldFor_shallow (by omega), decide_eq_true h0]
    rw [execSetPowerEnter_clear h ht h9 (by omega) (fun _ => h0) hlow, if_neg (by simp [h0]), if_pos (by simp [h0, hst, htg])]
  case plied =>
    intro op o s t h ht h9 h4 h0 hp
    simp only [exec, execSetPowerEnter]
    rw [runRow_ready h _ _ (by simp [h9]), ← ht]
    exact congrArg _ (checks_fail _ _ _ _ true stBounds 0 (by simp [powerChecks, h4, h9, h0, hp]))
  case limit =>
    intro op o s t h ht h9 h4 hp
    simp only [exec, execSetPowerLimit]
    rw [runRow_ready h _ _ (by simp [h9]), ← ht, checks_clear (clear_powerChecks h4 (by omega) hp), modPwr]
  case limitWrite =>
    intro who v s hw hn
    exact next_ctlWrite_pass hw (if_neg (Nat.not_lt.2 hn))
  case ignored =>
    intro who v s hw hn
    exact next_ctlWrite_pass hw (if_pos hn)
  case idle =>
    intro n s h0 hst hh ht hd hlt
    exact congrArg _ (if_pos (by simp [h0, hst, hh, ht, hd]; omega))
  case held =>
    intro n s hh
    exact congrArg _ (if_neg (by simp [hh]))
  case entered =>
    intro s hlt he
    exact (if_pos hlt).trans (congrArg _ (completeEntering_none ((reachState_entering _ _).trans he)))
  case completes =>
    intro op s u hlt he hu
    have heu : u.pwr.entering = some op := by rw [hu]; exact (reachState_entering _ _).trans he
    simp only [exec, execPowerStateEntered]
    rw [if_pos hlt, ← hu, completeEntering, heu]
    rfl
  case exits =>
    intro k s hlt hk he
    simp only [exec, execPsExitDone]
    rw [if_neg (by omega), if_neg (by simpa using hk), completeEntering_none ((reachState_entering _ _).trans he)]
  case late =>
    intro k s u hlt hk he hu
    have heu : u.pwr.entering = none := by rw [hu]; exact (reachState_entering _ _).trans he
    simp only [exec, execPsExitDone]
    rw [if_neg (by omega), if_pos (by simpa using hk), ← hu, completeEntering_none, modPwr, exitLateDetail]
    rw [postEvent_pwr, logRas_pwr]
    exact heu
  case reached =>
    intro s n
    refine ⟨reachState_pwr s n, fun k hk => ?_⟩
    rw [reachState_memStacks] at hk
    obtain ⟨k', -, rfl⟩ := List.mem_map.1 hk
    rfl

/-! ### The flush, the boot and the heat -/

/-- What a cold reset keeps of SEC is what the flush finds there. -/
theorem kept_flushed (s : State) (e m : Bool) : kept (flushFigures (flushJournal (losePairs (loseOps (abandonOp s))) e) e m) = kept s := by simp

/-- The figures of a flush are within the limits of R387. -/
theorem flushFigures_limits (s : State) (e m : Bool) : (flushFigures s e m).pwr.flushOk = e ∧ (flushFigures s e m).pwr.flushUs.toNat ≤ 25000 ∧
    (flushFigures s e m).pwr.flushMj.toNat ≤ 10000 := by
  refine ⟨rfl, ?_, ?_⟩
  · change (BitVec.ofNat 32 (Config.freeNat s.free % 25001)).toNat ≤ 25000
    rw [BitVec.toNat_ofNat]
    omega
  · change (if m then (0 : BitVec 32) else BitVec.ofNat 32 (Config.freeNat (s.free + 1) % 10001)).toNat ≤ 10000
    cases m
    · rw [if_neg (by decide), BitVec.toNat_ofNat]
      omega
    · exact Nat.zero_le _

/-- Settles O58: the flush by its figures and what a cold state keeps, the boot by its image and cores, the heat by its two thresholds. -/
theorem coldResetsAndHeat : Obligations.ColdResetsAndHeat := by
  unfold Obligations.ColdResetsAndHeat
  refine ⟨?powerLoss, ?coldReset, ?inReset, ?leaves, ?boots, ?noImage, ?booted, ?ready, ?noCore, ?hot, ?cool, ?between, ?alert, ?released, ?still⟩
  case powerLoss =>
    intro s u hs hu
    simp only [exec, execPowerLoss]
    rw [if_neg hs, ← hu]
  case coldReset =>
    intro s u hs hu
    simp only [exec, execColdResetAssert]
    rw [if_neg hs, ← hu]
  case inReset => exact fun s hs => ⟨if_pos hs, if_pos hs⟩
  case leaves =>
    intro s why e m
    have hk := kept_flushed s e m
    have hf := flushFigures_limits (flushJournal (losePairs (loseOps (abandonOp s))) e) e m
    unfold flushAndReset
    dsimp only
    generalize flushFigures (flushJournal (losePairs (loseOps (abandonOp s))) e) e m = k at hk hf
    obtain ⟨hok, hus, hmj⟩ := hf
    obtain ⟨-, hlevel, hfuse, hcounter, -⟩ : _ ∧ _ ∧ _ ∧ _ ∧ _ := by simpa only [kept, Prod.mk.injEq] using hk
    exact ⟨rfl, hok, hus, hmj, rfl, rfl, rfl, rfl, rfl, hlevel, hfuse, hcounter⟩
  case boots =>
    intro env s t u hs ht hc hu
    simp only [exec, execColdBoot, slotAddress]
    rw [if_neg (not_not_intro hs)]
    simp only [← ht, hc, Bool.false_eq_true, if_false, ← hu]
  case noImage =>
    intro env s t hs ht hc
    simp only [exec, execColdBoot, slotAddress]
    rw [if_neg (not_not_intro hs)]
    simp only [← ht, hc, if_true, reachReady]
  case booted => exact fun env s hs => if_pos hs
  case ready =>
    intro s hc hcores he
    unfold reachReady
    dsimp only
    rw [if_neg (by simp [hc]), if_neg hcores, if_neg (by simp [he])]
    exact ⟨rfl, rfl⟩
  case noCore =>
    intro s hc hcores
    unfold reachReady
    dsimp only
    rw [if_neg (by simp [hc]), if_pos hcores]
  case hot =>
    intro t s hs hth ht
    exact (if_neg hs).trans (if_pos (by simp [hth, ht]))
  case cool =>
    intro t s hs hth ht
    exact (if_neg hs).trans ((if_neg (by simp [hth])).trans (if_pos (by simp [hth, ht])))
  case between =>
    intro t s h
    have h1 : ¬(!s.pins.throttle && decide (t ≥ 100)) = true := by
      rcases h with ⟨hth, ht⟩ | ⟨hth, -⟩
      · simpa [hth] using ht
      · simp [hth]
    have h2 : ¬(s.pins.throttle && decide (t < 95)) = true := by
      rcases h with ⟨hth, -⟩ | ⟨hth, ht⟩
      · simp [hth]
      · simpa [hth] using ht
    simp only [exec, execThermalThrottle]
    rw [if_neg h1, if_neg h2, ite_self]
  case alert =>
    intro t s hth ht
    exact if_pos (by simp [hth, ht])
  case released =>
    intro t s hth ht
    exact (if_neg (by simp [hth])).trans (if_pos (by simp [hth, ht]))
  case still =>
    intro t s h
    have h1 : ¬(s.pins.thermN && decide (t ≥ 110)) = true := by
      rcases h with ⟨hth, ht⟩ | ⟨hth, -⟩
      · simpa [hth] using ht
      · simp [hth]
    have h2 : ¬(!s.pins.thermN && decide (t < 105)) = true := by
      rcases h with ⟨hth, -⟩ | ⟨hth, ht⟩
      · simp [hth]
      · simpa [hth] using ht
    simp only [exec, execThermNAlert]
    rw [if_neg h1, if_neg h2]

end Sys2Proof.Machine
end

section
/-! The control space (20 R394-R398; 01 R15), the sideband target and the JTAG port (21 R407-R409; 17 R342). -/

namespace Sys2Proof.Machine

/-! ### Shapes and halves -/

theorem readD_writeD_same {α : Type} [DecidableEq α] (d : α) (t : Tbl α) (n : Nat) (x : α) : readD d (writeD d t n x) n = x := by
  rw [readD_writeD, if_pos rfl]

theorem badShape_scratch (k : Fin 4) : badShape (0x80 + 4 * k.val) 4 = false := by
  revert k
  decide

/-- No quantity of more than 32 bits stands among the first 256 bytes of GLB. -/
theorem wide_of_lt {off : Nat} (h : off < 0x100) (s : State) : wide s off = none := by
  unfold wide trdBase strBase spnBase bobBase memBase rasBase
  rw [if_neg (by simp; omega), if_neg (by simp; omega), if_neg (by simp; omega), if_neg (by simp; omega), if_neg (by simp; omega), if_neg (by simp; omega),
    if_neg (by omega)]

/-- LOG_SEQ is the quantity of the RAS block. -/
theorem wide_ras {off : Nat} (h : rasBase ≤ off) (s : State) : wide s off = if off = rasBase + 8 then some s.ras.logSeq else none := by
  unfold wide secBase strBase spnBase bobBase memBase
  unfold rasBase at h ⊢
  rw [if_neg (by simp; omega), if_neg (by simp; omega), if_neg (by simp; omega), if_neg (by simp; omega), if_neg (by simp; omega), if_neg (by simp; omega)]

theorem senseAt_other {off : Nat} (h : off < 0x400040 ∨ 0x400050 ≤ off) (s : State) : senseAt s off = s := by
  unfold senseAt memBase
  rw [if_neg (by simp; omega)]

/-- A scratch register reads as it stands, and latches nothing. -/
theorem readReg_scratch (s : State) (who : Requester) (k : Fin 4) :
    readReg s who (0x80 + 4 * k.val) = ((readD 0#32 s.glb.scratch k.val).toNat, s) := by
  have hlatched : latched s (0x80 + 4 * k.val) = false := by
    rw [latched, wide_of_lt (by omega), decide_eq_false (by rw [trdBase]; omega)]
    simp
  have hnarrow : narrowReg s (0x80 + 4 * k.val) = (readD 0#32 s.glb.scratch k.val).toNat := by
    unfold narrowReg glbNarrow
    rw [if_pos (by rw [pwrBase]; omega), if_neg (by simp; omega), if_pos (by simp; omega), show (0x80 + 4 * k.val - 0x80) / 4 = k.val by omega]
  unfold readReg
  rw [hlatched, wide_of_lt (by omega), hnarrow, Nat.mod_eq_of_lt (BitVec.isLt _)]
  rfl

/-- A scratch register takes what is written. -/
theorem writeReg_scratch (s : State) (k : Fin 4) (v : Word) :
    writeReg s (0x80 + 4 * k.val) v = { s with glb := { s.glb with scratch := writeD 0#32 s.glb.scratch k.val v } } := by
  unfold writeReg writeGlb
  rw [if_pos (by rw [pwrBase]; omega), if_neg (by omega), if_pos (by simp; omega), show (0x80 + 4 * k.val - 0x80) / 4 = k.val by omega]
  rfl

/-- The read of LOG_SEQ_LO gives the low half and latches the high one. -/
theorem readReg_logSeqLo (s : State) (who : Requester) :
    readReg s who (rasBase + 8) = (s.ras.logSeq % 2 ^ 32, setLatch s who (rasBase + 12) (s.ras.logSeq / 2 ^ 32)) := by
  have hlatched : latched s (rasBase + 8) = false := by
    rw [latched, show rasBase + 8 - 4 = rasBase + 4 from rfl, wide_ras (by omega), if_neg (by omega)]
    decide
  unfold readReg
  rw [hlatched, wide_ras (by omega), if_pos rfl]
  exact if_neg (by decide)

/-- The read of LOG_SEQ_HI gives what is latched. -/
theorem readReg_logSeqHi (s : State) (who : Requester) :
    readReg s who (rasBase + 12) = ((readD 0#32 s.latch (latchKey who (rasBase + 12))).toNat, s) := by
  have hlatched : latched s (rasBase + 12) = true := by
    rw [latched, show rasBase + 12 - 4 = rasBase + 8 from rfl, wide_ras (by omega), if_pos rfl]
    simp [rasBase]
  exact if_pos hlatched

/-! ### Reads and writes as commands -/

theorem readControl_scratch (s : State) (who : Requester) (k : Fin 4) :
    readControl s who (0x80 + 4 * k.val) 4 = answerRead s who (readD 0#32 s.glb.scratch k.val).toNat := by
  rw [readControl_of_goodShape (badShape_scratch k), senseAt_other (Or.inl (by omega)), readReg_scratch]

theorem writeControl_allowed {s : State} {who : Requester} {off : Nat} (h : badShape off 4 = false) (hw : mayWrite s who) (v : Word) :
    writeControl s who off 4 v = writeReg s off v := by
  unfold writeControl
  rw [if_neg (by simp [h]), ctlWrite_pass hw]

/-- The answer of a read, as its requester sees it. -/
theorem readData_answerRead (s : State) (who : Requester) (v : Nat) :
    readD 0#32 (answerRead s who v).readData (requesterNumber who) = BitVec.ofNat 32 v := readD_writeD_same _ _ _ _

/-- Settles O9: bad accesses by their shape, the scratch registers and LOG_SEQ by what the map says of their offsets. -/
theorem controlSpaceAccess : Obligations.ControlSpaceAccess := by
  unfold Obligations.ControlSpaceAccess
  refine ⟨?badWrite, ?badRead, ?denied, ?scratchWrite, ?scratchRead, ?logSeq, ?lock⟩
  case badWrite => exact fun who off width v s h => congrArg Host.Outcome.next (if_pos h)
  case badRead => exact fun who off width s h => congrArg Host.Outcome.next (readControl_of_badShape h s who)
  case denied => exact fun off width v s _ h => congrArg Host.Outcome.next (writeControl_sideband_denied h off width v)
  case scratchWrite =>
    intro who k v s hw
    exact congrArg Host.Outcome.next ((writeControl_allowed (badShape_scratch k) hw v).trans (writeReg_scratch s k v))
  case scratchRead =>
    intro who k s
    refine congrArg Host.Outcome.next ((readControl_scratch s who k).trans ?_)
    rw [answerRead, BitVec.ofNat_toNat, BitVec.setWidth_eq]
  case logSeq =>
    intro who s _
    have hlo : readControl s who (rasBase + 8) 4 =
        answerRead (setLatch s who (rasBase + 12) (s.ras.logSeq / 2 ^ 32)) who (s.ras.logSeq % 2 ^ 32) := by
      rw [readControl_of_goodShape (by decide), senseAt_other (Or.inr (by decide)), readReg_logSeqLo]
    have hhi : ∀ t : State, readControl t who (rasBase + 12) 4 = answerRead t who (readD 0#32 t.latch (latchKey who (rasBase + 12))).toNat := by
      intro t
      rw [readControl_of_goodShape (by decide), senseAt_other (Or.inr (by decide)), readReg_logSeqHi]
    refine ⟨_, _, congrArg Host.Outcome.next hlo, congrArg Host.Outcome.next (hhi _), ?low, ?high⟩
    case low =>
      rw [readData_answerRead]
      exact BitVec.eq_of_toNat_eq (by simp)
    case high =>
      rw [readData_answerRead]
      change BitVec.ofNat 32 (readD 0#32 (writeD 0#32 s.latch (latchKey who (rasBase + 12)) _) (latchKey who (rasBase + 12))).toNat = _
      rw [readD_writeD_same, BitVec.ofNat_toNat, BitVec.setWidth_eq]
  case lock =>
    intro who v s hw
    exact next_ctlWrite_pass hw rfl

/-! ### The sideband -/

section
variable {s : State}

/-- From stage 2 of a boot on the sideband is served. -/
theorem served_awake (h : s.glb.stage ≠ 0) (k : State → State) : served s k = k s := if_neg h

theorem served_stage0 (h : s.glb.stage = 0) (k : State → State) : served s k = s := if_pos h

theorem answerCcc_addressed {a : BitVec 7} (h : s.sideband.dynAddr = some a) (b : List Byte) :
    answerCcc s b = { s with sideband := { s.sideband with answer := b } } := if_pos (by rw [h]; rfl)

/-- A read that was asked for gives what the register answers. -/
theorem execSidebandReadData_asked {off v : Nat} {u : State} (hs : s.glb.stage ≠ 0) (ho : s.sideband.readOff = some off)
    (hr : readControl s .sideband off 4 = answerRead u .sideband v) :
    exec .sidebandReadData s = .next { answerRead u .sideband v with sideband := { u.sideband with readOff := none, answer := leBytes 4 (v % 2 ^ 32) } } := by
  have hv : (readD 0#32 (answerRead u .sideband v).readData (requesterNumber .sideband)).toNat = v % 2 ^ 32 := by
    rw [readData_answerRead, BitVec.toNat_ofNat]
  simp only [exec, execSidebandReadData]
  rw [served_awake hs, ho]
  dsimp only
  rw [hr, hv]
  rfl

/-- A write of the right length and OP is a control-space write. -/
theorem execSidebandWrite_shaped {b : List Byte} (hs : s.glb.stage ≠ 0) (hl : b.length = 8) (ho : field b 0 1 = 2) :
    exec (.sidebandWrite b) s = .next (writeControl s .sideband (field b 1 3) 4 (BitVec.ofNat 32 (field b 4 4))) := by
  simp only [exec, execSidebandWrite]
  rw [served_awake hs, if_pos (by rw [hl, ho]; decide)]

/-! ### JTAG -/

/-- Sampling the lands uses up free values and nothing else. -/
theorem sampleLands_only (s : State) (n : Nat) : (sampleLands s n).1.length = n ∧ (sampleLands s n).2 = { s with free := (sampleLands s n).2.free } := by
  induction n generalizing s with
  | zero => exact ⟨rfl, rfl⟩
  | succ n ih =>
    obtain ⟨hl, ht⟩ := ih (draw s).2
    refine ⟨congrArg Nat.succ hl, ?_⟩
    change (sampleLands (draw s).2 n).2 = { s with free := (sampleLands (draw s).2 n).2.free }
    rw [ht]
    rfl

theorem idcodeValue_eq : idcodeValue = 0x1C2E4ACB := by decide

/-- Every byte of the key store lies in its region. -/
theorem regionOf_keyStore {a : Nat} (h1 : 0x3800000 ≤ a) (h2 : a < 0x3900000) : regionOf (a % 0x4000000) = .keyStore := by
  unfold regionOf
  dsimp only
  rw [if_neg (by omega), if_pos (by omega), if_neg (by omega)]

end

/-- Settles O60: each request of the sideband by what the target holds, each JTAG instruction by what it selects. -/
theorem sidebandAndJtag : Obligations.SidebandAndJtag := by
  unfold Obligations.SidebandAndJtag
  refine ⟨?takes, ?has, ?setStatic, ?otherStatic, ?drops, ?identity, ?status, ?interrupts, ?request, ?otherRequest, ?answers, ?badRead, ?scratchRead, ?noRequest,
    ?write, ?writeTakes, ?writeDenied, ?scratchWrite, ?otherWrite, ?notServed, ?selects, ?idcode, ?sample, ?tests, ?lands, ?debugOff, ?debug, ?keyStore⟩
  case takes =>
    intro a s hs hd
    simp only [exec, execEntdaa]
    rw [served_awake hs, if_neg (by simp [hd])]
    rfl
  case has =>
    intro a b s hd
    simp only [exec, execEntdaa, served, hd, Option.isSome_some, if_true, ite_self]
  case setStatic =>
    intro a s hs hd
    simp only [exec, execSetdasa]
    rw [served_awake hs, if_pos (by simp [hd])]
    rfl
  case otherStatic =>
    intro st a s h
    simp only [exec, execSetdasa, served, h, decide_false, Bool.false_and, Bool.false_eq_true, if_false, ite_self]
  case drops => exact fun s hs => congrArg _ (served_awake hs _)
  case identity =>
    intro a s hs hd
    exact ⟨congrArg _ ((served_awake hs _).trans (answerCcc_addressed hd _)), congrArg _ ((served_awake hs _).trans (answerCcc_addressed hd _)),
      congrArg _ ((served_awake hs _).trans (answerCcc_addressed hd _))⟩
  case status =>
    intro a s t n hs hd ht
    have hdt : t.sideband.dynAddr = some a := by rw [← (Prod.mk.inj ht).2]; exact hd
    simp only [exec, execGetstatus]
    rw [served_awake hs, ht]
    exact congrArg _ (answerCcc_addressed hdt _)
  case interrupts => exact fun s hs => ⟨congrArg _ (served_awake hs _), congrArg _ (served_awake hs _)⟩
  case request =>
    intro o0 o1 o2 s hs
    exact congrArg _ ((served_awake hs _).trans (if_pos (by simp [field, cut, leNat])))
  case otherRequest =>
    intro b s h
    have hn : ¬(b.length = 4 && field b 0 1 = 1) = true := by
      simp only [Bool.and_eq_true, decide_eq_true_eq, not_and_or]
      exact h
    simp only [exec, execSidebandReadRequest, served]
    rw [if_neg hn, ite_self]
  case answers =>
    rintro off s _ hs ho hg rfl
    rw [execSidebandReadData_asked hs ho (readControl_of_goodShape hg s .sideband)]
    rfl
  case badRead =>
    rintro off s _ hs ho hb rfl
    rw [execSidebandReadData_asked hs ho (readControl_of_badShape hb s .sideband)]
    rfl
  case scratchRead =>
    intro k s hs ho
    refine ⟨_, execSidebandReadData_asked hs ho (readControl_scratch s .sideband k), rfl, ?_⟩
    exact congrArg (leBytes 4) (Nat.mod_eq_of_lt (BitVec.isLt _))
  case noRequest =>
    intro s hs ho
    refine congrArg _ ((served_awake hs _).trans ?_)
    dsimp only
    split
    case h_1 off h => exact absurd (ho.symm.trans h) (by simp)
    case h_2 => rfl
  case write =>
    intro b s hs hl ho
    exact execSidebandWrite_shaped hs hl ho
  case writeTakes =>
    intro b s hs hl ho hw he hg
    rw [execSidebandWrite_shaped hs hl ho, writeControl_allowed hg ⟨by simp [hw], he⟩]
  case writeDenied =>
    intro b s hs hl ho hw
    rw [execSidebandWrite_shaped hs hl ho, writeControl_sideband_denied hw]
  case scratchWrite =>
    intro k b s hs hl ho hoff hw he
    rw [execSidebandWrite_shaped hs hl ho, hoff, writeControl_allowed (badShape_scratch k) ⟨by simp [hw], he⟩, writeReg_scratch]
  case otherWrite =>
    intro b s h
    have hn : ¬(b.length = 8 && field b 0 1 = 2) = true := by
      simp only [Bool.and_eq_true, decide_eq_true_eq, not_and_or]
      exact h
    simp only [exec, execSidebandWrite, served]
    rw [if_neg hn, ite_self]
  case notServed =>
    intro s hs
    exact ⟨congrArg _ (served_stage0 hs _), congrArg _ (served_stage0 hs _), congrArg _ (served_stage0 hs _), congrArg _ (served_stage0 hs _)⟩
  case selects => exact fun s => ⟨rfl, rfl, rfl⟩
  case idcode =>
    intro s
    simp only [exec, execIdcode, idcodeValue_eq]
    rfl
  case sample =>
    intro cells l s t h
    simp only [exec, execSamplePreload, h]
    rfl
  case tests =>
    intro cells l s t h
    simp only [exec, execExtest, execExtestPulse, execExtestTrain, driveTest, h]
    exact ⟨rfl, rfl, rfl⟩
  case lands =>
    intro n l s t h
    have hn := sampleLands_only s n
    rw [h] at hn
    exact hn
  case debugOff => exact fun d s h => congrArg _ (if_pos h)
  case debug =>
    rintro d s _ h rfl
    exact congrArg _ (if_neg (not_not_intro h))
  case keyStore => exact fun a s h1 h2 => if_pos (regionOf_keyStore h1 h2)

end Sys2Proof.Machine
end
